-- ==== Sys2Proof/Word.lean ====
section
/-! DEFINITION. The word types of the DXV6408 block model, the sparse map type, and the types of a register-table row. -/

namespace Sys2Proof

/-- A byte. -/
abbrev Byte := BitVec 8
/-- A 32-bit register value (R91: every register is 32 bits wide). -/
abbrev Word := BitVec 32
/-- A 64-bit Axsel general register or instruction word (R43, R58). -/
abbrev DWord := BitVec 64

/-- A sparse map: the entries that differ from the default, keys strictly rising. -/
abbrev Sparse (β : Type) := List (Nat × β)

/-- The access codes of R93 (RSV has no row). -/
inductive Acc where
  | ro | rw | rwm | rc | w1c | w1p
  deriving DecidableEq, Repr

/-- The Applies-at boundaries of R101. -/
inductive Boundary where
  | none | write | frame | cell | calendar | gateCycle | hyperframe | fetch | disable
  deriving DecidableEq, Repr

/-- One field of a register table: block number, offset of the first register, array dimensions (stride, count) from
the widest stride down, bit range, access code, reset value, boundary, whether the row is a 64-bit pair (R92), and the
least and greatest value its Meaning column allows. -/
structure Row where
  blk : Nat
  off : Nat
  dims : List (Nat × Nat)
  hi : Nat
  lo : Nat
  acc : Acc
  reset : Nat
  app : Boundary
  pair : Bool
  min : Nat
  max : Nat
  deriving DecidableEq, Repr

end Sys2Proof
end

