-- ==== Sys2Proof/Syntax.lean ====
section
/-! DEFINITION. The commands of the block: one constructor per row of spec/opcode_table.json, in the table's order.
The table gives its rows no operands; the operands here are what the requirement of each row leaves to whoever causes
the step: the master and the data of an access, the sequencer thread, the port, lane, frame or domain concerned, and the
outcomes that something outside the block decides (a signature check, an acknowledgement, bytes received). -/

namespace Sys2Proof

/-- The master of an access (R103): its identity, and for identity 19 the sequencer thread whose bank it uses (R98). -/
structure Master where
  id : Nat
  thread : Nat := 0
  deriving DecidableEq, Repr

/-- How an access of an instruction's own fetch or data ends: normally, with an uncorrectable store error (R47), with a
PCIe error on the fetch, or with a PCIe error on a data access (R48). -/
inductive AxFault where
  | ok | fetchEcc | fetchBus | dataBus
  deriving DecidableEq, Repr

/-- An Axsel instruction row: thread `thread` executes the instruction its `pc` names. `delay` is the actual duration, in
control cycles, of the accesses outside the sequencer (R64); `fault` is how those accesses end. -/
structure AxOp where
  thread : Nat
  delay : Nat := 0
  fault : AxFault := .ok
  deriving DecidableEq, Repr

/-- A write as it reaches the device: the BAR (0, 2 or 4), the byte address, the data doublewords, and whether every byte
enable is set (R91). -/
structure BusWrite where
  bar : Nat
  addr : Nat
  dws : List Word
  full : Bool := true
  deriving DecidableEq, Repr

/-- Bytes that software stored into its own memory before it rang a doorbell: function number and address, data. -/
structure HostStore where
  func : Nat
  addr : Nat
  bytes : List Byte
  deriving DecidableEq, Repr

/-- What the SPI NOR device answers during SPI_LOAD (R463): its JEDEC identification, its 32-byte header, its image, and
the verdict of the signature check (R401: the key is outside the block). -/
structure SpiFlash where
  jedec : Nat
  header : List Byte
  image : List Byte
  good : Bool
  version : Word
  deriving DecidableEq, Repr

/-- What a receive MAC finds besides the bytes: whether the frame has ended, whether the PCS marked it as in error, a symbol
error, the kind (0 a frame, 1 a verify and 2 a respond mPacket, 3 a bad SMD, 4 a fragment out of sequence), the fragments
received, and the time since its timestamp point in 2^-16 ns (R340). -/
structure RxInfo where
  ended : Bool := true
  marked : Bool := false
  symErr : Bool := false
  kind : Nat := 0
  frags : Nat := 0
  lead : Nat := 0
  deriving DecidableEq, Repr

/-- Bytes that a CPRI lane receives after those it received before: the decoded line bytes, the positions among them of start
patterns, and those of invalid code groups or of blocks with a bad sync header. -/
structure LineRx where
  bytes : List Byte
  starts : List Nat := []
  viols : List Nat := []
  deriving DecidableEq, Repr

/-- A request to the cartouche (R444): a frame on the METER port (header, payload, CRC-16), or the message that waits on mailbox
channel 63. -/
inductive CartReq where
  | meter (frame : List Byte)
  | mailbox
  deriving DecidableEq, Repr

/-- What a scrub read finds (R523): the place `target` (0 to 17 as R517 numbers them; 18 basket cells, 19 Legend line, 20 Legend
rule slot, 21 parse bank word, 22 program store, 23 Plait context, 24 LP4X), its instance and index, the outcome (0 clean, 1
corrected, 2 uncorrectable in every copy, 3 uncorrectable in one copy of several), and whether it ends the pass of the on-chip stores. -/
structure ScrubFind where
  target : Nat
  inst : Nat
  index : Nat
  found : Nat
  passEnd : Bool := false
  deriving DecidableEq, Repr

/-- The commands, one constructor per row of the table. -/
inductive Instr where
  /-- TAIL_WRITE (R32): Software writes a command-ring TAIL on its doorbell page, which makes descriptors pending and starts fetching. -/
  | tailWrite (m : Master) (ring : Nat) (value : Word) (stores : List HostStore)
  /-- CQ_HEAD_WRITE (R33): Software advances CQ_HEAD, which frees completion entries so that further programs may start. -/
  | cqHeadWrite (m : Master) (ring : Nat) (value : Word)
  /-- PROGRAM_START (R44): The sequencer selects an eligible ring by priority and round robin, fetches its head descriptor and starts the program on the lowest eligible idle thread. -/
  | programStart (fault : AxFault)
  /-- CQ_STALL (R33): A ring whose completion ring has stayed full for 1 ms raises event 1006 and keeps waiting. -/
  | cqStall (ring : Nat)
  /-- THREAD_HALT (R45): Setting a THREAD_HALT bit makes the thread finish or abandon its current instruction and end its program with ABORTED. -/
  | threadHalt (thread : Nat)
  /-- RING_ERR_CLEAR (R38): Writing 1 to a ring's ERR clears the error and leaves EN at 0. -/
  | ringErrClear (m : Master) (ring : Nat)
  /-- BUDGET_EXPIRY (R53): The program's control-cycle budget expires, and the program ends with status BUDGET. -/
  | budgetExpiry (thread : Nat)
  /-- WAIT_TIMEOUT (R61): The timeout of a waiting instruction expires, and the instruction ends with TIMEOUT, which may be soft. -/
  | waitTimeout (thread : Nat)
  /-- UNDEFINED_OPCODE (R65): A fetched word with an undefined opcode ends the program with ILLEGAL. -/
  | undefinedOpcode (o : AxOp)
  /-- LDI (R66): Loads an immediate or an extension word into a register. -/
  | ldi (o : AxOp)
  /-- MOV (R67): Copies a register, or LSTAT and the flags, into a register. -/
  | mov (o : AxOp)
  /-- ADD (R66): Adds a register or an immediate to a register and sets the flags. -/
  | add (o : AxOp)
  /-- SUB (R66): Subtracts a register or an immediate from a register and sets the flags. -/
  | sub (o : AxOp)
  /-- AND (R66): Forms the bitwise AND of two operands. -/
  | and (o : AxOp)
  /-- OR (R66): Forms the bitwise OR of two operands. -/
  | or (o : AxOp)
  /-- XOR (R66): Forms the bitwise XOR of two operands. -/
  | xor (o : AxOp)
  /-- SHL (R66): Shifts a register left. -/
  | shl (o : AxOp)
  /-- SHR (R66): Shifts a register right, logically or arithmetically. -/
  | shr (o : AxOp)
  /-- CMP (R66): Sets the flags from B minus the operand. -/
  | cmp (o : AxOp)
  /-- BR (R68): Branches unconditionally by OFFSET. -/
  | br (o : AxOp)
  /-- BCC (R69): Branches if the condition holds, optionally clearing E, T and LSTAT. -/
  | bcc (o : AxOp)
  /-- CALL (R68): Pushes the return address and branches. -/
  | call (o : AxOp)
  /-- RET (R43): Pops the return address, or ends the program with STACK when the stack is empty. -/
  | ret (o : AxOp)
  /-- HALT (R50): Performs an implicit fence and ends the program with status OK. -/
  | halt (o : AxOp)
  /-- TRAP (R67): Ends the program with status TRAP and the code in TRAP_CODE. -/
  | trap (o : AxOp)
  /-- RRD (R70): Reads a 32-bit register of an allowed block into a register. -/
  | rrd (o : AxOp)
  /-- RWM (R71): Writes or merges a value into a block's write buffer, or holds the write inside a batch. -/
  | rwm (o : AxOp)
  /-- RPOLL (R72): Reads a register until the masked value matches or differs from the expected value. -/
  | rpoll (o : AxOp)
  /-- RPOLL_READ (R72): Every 64 control cycles a polling thread reads its register again and completes when the condition holds. -/
  | rpollRead (thread : Nat)
  /-- LD (R73): Loads a 64-bit word from host memory or the store window. -/
  | ld (o : AxOp)
  /-- ST (R73): Stores a 64-bit word to host memory or the store window. -/
  | st (o : AxOp)
  /-- COPY (R73): Copies C bytes between host memory and the store window. -/
  | copy (o : AxOp)
  /-- TWR (R75): Checks a table image and writes it through the arbiter, placing keyed entries. -/
  | twr (o : AxOp)
  /-- TDEL (R76): Deletes a table entry by index or by key. -/
  | tdel (o : AxOp)
  /-- TFIND (R76): Finds an entry by key, or copies an entry by index, into memory. -/
  | tfind (o : AxOp)
  /-- TAGE (R76): Ages a range of ADDR or FLOW entries and returns the number deleted. -/
  | tage (o : AxOp)
  /-- VOPEN (R77): Opens a draft for a rule set. -/
  | vopen (o : AxOp)
  /-- VPUT (R193): Checks and writes node, rule and release images into the draft. -/
  | vput (o : AxOp)
  /-- VCOMMIT (R78): Commits the draft root to a free version slot, waiting for a slot if none is free. -/
  | vcommit (o : AxOp)
  /-- VCOMMIT_SLOT_FREE (R202): A waiting VCOMMIT finds a free slot and makes the new root active in one core cycle. -/
  | vcommitSlotFree (thread : Nat)
  /-- VWAIT (R78): Waits for a version slot, or any slot, to retire. -/
  | vwait (o : AxOp)
  /-- VABORT (R204): Discards the draft and frees its draft-only lines. -/
  | vabort (o : AxOp)
  /-- VERSION_RETIRE (R203): A live non-active slot whose in-flight count reaches 0 retires, and lines no longer held are freed. -/
  | versionRetire (rset slot : Nat)
  /-- QNEW (R266): Allocates the lowest free general queue, or a named one. -/
  | qnew (o : AxOp)
  /-- QMAP (R266): Maps a queue to a port and class with its spill, weight, band and parent, moving its context when the basket changes. -/
  | qmap (o : AxOp)
  /-- QPIN (R266): Pins a queue, paging it in first when needed. -/
  | qpin (o : AxOp)
  /-- QUNPIN (R266): Unpins a queue. -/
  | qunpin (o : AxOp)
  /-- QFLUSH (R266): Discards a queue's staged, on-chip, ready-slot and LP4X frames. -/
  | qflush (o : AxOp)
  /-- QFREE (R266): Returns a queue to the free pool. -/
  | qfree (o : AxOp)
  /-- SHSET (R291): Sets the shaper rates, bursts and placement of a queue, node or port. -/
  | shset (o : AxOp)
  /-- GCL (R293): Writes entries into a port's pending gate-control bank and disarms any armed switch. -/
  | gcl (o : AxOp)
  /-- GSWAP (R81): Arms the pending gate list of a port with a base time and cycle, optionally waiting for the switch. -/
  | gswap (o : AxOp)
  /-- TMSET (R336): Requests that the full Meridian time be set, subject to JUMP_GUARD. -/
  | tmset (o : AxOp)
  /-- TMADJ (R337): Requests a step of time or a new ADDEND. -/
  | tmadj (o : AxOp)
  /-- TMWAIT (R53): Waits until a given short time. -/
  | tmwait (o : AxOp)
  /-- TMWAIT_DONE (R357): The awaited instant is reached, and a TMWAIT completes in the next control cycle. -/
  | tmwaitDone (thread : Nat)
  /-- TMARM (R354): Arms or disarms a trigger output at a start time and period. -/
  | tmarm (o : AxOp)
  /-- PDREQ (R84): Queues a power target for a domain and optionally waits for the outcome. -/
  | pdreq (o : AxOp)
  /-- WAITEV (R85): Waits for event status bits, or mailbox flags, to be set. -/
  | waitev (o : AxOp)
  /-- WAITEV_WAKE (R85): A matching status bit becomes set, and a waiting WAITEV completes, clearing the bits with CLR. -/
  | waitevWake (thread : Nat)
  /-- SIGNAL (R50): Sets event source 998 + k. -/
  | signal (o : AxOp)
  /-- FENCE (R50): Waits until all writes of the thread are accepted, or with E effective. -/
  | fence (o : AxOp)
  /-- FENCE_DONE (R50): The last outstanding write of the thread is accepted or becomes effective, and a waiting FENCE completes. -/
  | fenceDone (thread : Nat)
  /-- BATCH (R51): Opens a batch in which RWM writes are held. -/
  | batch (o : AxOp)
  /-- ENDBATCH (R51): Closes the batch and releases its held writes at once or at a time. -/
  | endbatch (o : AxOp)
  /-- ENDBATCH_RELEASE (R51): The release instant of a timed ENDBATCH is reached, and its held writes are released in one control cycle. -/
  | endbatchRelease (thread : Nat)
  /-- ENDBATCH_DONE (R51): Every released write has been accepted or refused, and the ENDBATCH completes with OK or PERM. -/
  | endbatchDone (thread : Nat)
  /-- CSNAP (R86): Copies and clears a counter group atomically, or requests a Tally snapshot. -/
  | csnap (o : AxOp)
  /-- PLCTX (R311): Writes or disables a Plait combining context. -/
  | plctx (o : AxOp)
  /-- LOADP (R88): Loads a parse program into the shadow bank of named pipes. -/
  | loadp (o : AxOp)
  /-- PROG_SWITCH (R182): A pipe switches to its loaded parse program at a frame boundary, and a waiting LOADP may complete. -/
  | progSwitch (pipe : Nat)
  /-- REGISTER_WRITE (R99): A master's write to a register without a row of its own is accepted into the write buffer or refused. -/
  | registerWrite (m : Master) (w : BusWrite)
  /-- BOUNDARY_APPLY (R101): At a field's Applies-at boundary, buffered values move into use in one core cycle. -/
  | boundaryApply (b : Boundary) (blk inst unit : Nat)
  /-- RC_READ (R93): Reading an RC register returns its value and clears it atomically. -/
  | rcRead (m : Master) (bar addr : Nat)
  /-- PAIR_LOW_READ (R92): Reading the low half of a 64-bit pair latches the high half into the reader's bank. -/
  | pairLowRead (m : Master) (bar addr : Nat)
  /-- BIND_LOCK (R108): Writing 1 to BIND_LOCK locks every binding register until PORST_N. -/
  | bindLock (m : Master)
  /-- BOOT_RETRY (R460): In CLOCKLESS, writing BOOT_RETRY restarts the lock sequence. -/
  | bootRetry (m : Master)
  /-- PORT_DISABLE_DONE (R128): After ENABLE goes to 0, the MAC finishes the frame in transmission and the port enters DISABLED. -/
  | portDisableDone (p : Nat)
  /-- AN_COMPLETE (R114): Clause 73 auto-negotiation completes, or restarts on FEC_MISMATCH. -/
  | anComplete (p result : Nat)
  /-- LT_DONE (R115): Link training of every lane completes or fails. -/
  | ltDone (p : Nat) (pass : Bool)
  /-- LINK_UP (R116): The lanes stay locked without fault for LINK_UP_DB, and the port enters UP. -/
  | linkUp (p frag : Nat)
  /-- LOCK_TIMEOUT (R116): The port is not locked 500 ms after entering LOCK, and it returns to AN or restarts the timer. -/
  | lockTimeout (p : Nat)
  /-- LOCAL_FAULT (R117): The onset of local fault takes the port out of UP or RFAULT. -/
  | localFault (p : Nat)
  /-- REMOTE_FAULT (R117): Remote-fault ordered sets are received, and an UP port enters RFAULT. -/
  | remoteFault (p : Nat)
  /-- RFAULT_CLEAR (R116): No remote fault for LINK_UP_DB returns the port from RFAULT to UP. -/
  | rfaultClear (p frag : Nat)
  /-- FEC_CODEWORD (R119): A codeword is decoded, corrected or marked uncorrectable, and counted. -/
  | fecCodeword (p corrSyms : Nat) (uncorr : Bool) (blockErrs : Nat)
  /-- FRAME_RECEIVE (R120): The receive MAC takes a frame, checks it, truncates oversize frames and hands it to the pipe. -/
  | frameReceive (p : Nat) (d : List Byte) (info : RxInfo)
  /-- FRAME_END (R121): A frame's end arrives: the FCS is checked, cut-through copies are stomped on failure, and reservations and policer charges are made exact. -/
  | frameEnd (p : Nat) (rest : List Byte) (info : RxInfo)
  /-- SURVEY_PARSE (R172): Survey runs the parse program over the frame, waiting for bytes where needed, and completes the survey record. -/
  | surveyParse (f : Nat)
  /-- LEARN_WRITE (R218): A pending learn, move or ageing write is applied conditionally in a cycle with no master write, or abandoned as a race. -/
  | learnWrite
  /-- ADDR_EXT_READ_DONE (R216): The LP4X read of an address-table extension bucket completes, and the held frame resumes forwarding. -/
  | addrExtReadDone (f : Nat) (ecc : Option Nat)
  /-- MIRROR_ENTRY_WRITE (R229): After byte 127 or the frame end has arrived, the capture entry is written with its last bytes last. -/
  | mirrorEntryWrite
  /-- SLATH_CELL_TIME (R241): Every cell time, the Slath matches inputs to outputs in two iterations and moves cells into baskets and Plait buffers. -/
  | slathCellTime (fails : List (Nat × Nat))
  /-- CREEL_CACHE_MAINT (R252): Each cell time Creel refills or flushes its spill-pointer cache in bursts of 64. -/
  | creelCacheMaint (b : Nat) (ecc : Option Nat)
  /-- SPILL_INIT_DONE (R251): Creel finishes writing every spill block into the free-store ring, and the basket's spill state becomes READY. -/
  | spillInitDone (b : Nat)
  /-- SPILL_COPY_DONE (R256): The spill engine finishes copying a frame to LP4X, appends it to the queue's list and returns its on-chip cells. -/
  | spillCopyDone (b q : Nat)
  /-- READ_BACK_DONE (R257): An LP4X frame finishes reading into read-back cells, and its blocks return to the cache. -/
  | readBackDone (b q : Nat) (ecc : Option Nat)
  /-- LOAN_RETURN (R378): A write of LOAN_RETURN asks Creel to free a loan, which it does only for the owner. -/
  | loanReturn (m : Master) (value : Word)
  /-- LOAN_RECLAIM (R254): Writing GO returns every loan of the selected basket owned by the named identity. -/
  | loanReclaim (m : Master) (value : Word)
  /-- FRAME_TRANSMIT (R124): At a frame start, the MAC selects the express FIFO or the highest ready class that may start and begins transmission, preempting where permitted. -/
  | frameTransmit (p lag : Nat)
  /-- FRAME_TX_END (R249): A copy finishes transmission, the frame's reference count decrements, and the storage is freed at zero. -/
  | frameTxEnd (p : Nat)
  /-- VERIFY_TIMER (R125): The MAC-merge verify timer expires, and a verify frame is sent or verification fails after 3 attempts. -/
  | verifyTimer (p : Nat)
  /-- PAUSE_RECEIVE (R126): A PAUSE or PFC frame with a good FCS sets, replaces or ends a pause timer, or is counted and ignored. -/
  | pauseReceive (p : Nat) (d : List Byte)
  /-- PAUSE_EXPIRY (R126): A pause timer runs out, and the class or port resumes. -/
  | pauseExpiry (p u : Nat)
  /-- PAUSE_REFRESH (R128): While a pause request holds, the MAC repeats its pause frame every REFRESH quanta. -/
  | pauseRefresh (p : Nat)
  /-- PAUSE_WDOG (R129): A pause unit has been paused for WDOG_TIME, and the watchdog breaks the pause and starts a hold-off. -/
  | pauseWdog (p u : Nat)
  /-- HOLDOFF_END (R129): A watchdog hold-off runs out, and pause frames are acted on again. -/
  | holdoffEnd (p u : Nat)
  /-- SNAP (R134): Writing STATS_SNAP copies and clears all 87 port counters in one cycle. -/
  | snap (m : Master) (value : Word)
  /-- START_PATTERN (R141): A start pattern at an unexpected offset opens a hunting candidate, or is counted as ignored. -/
  | startPattern (lane : Nat) (rx : LineRx)
  /-- CANDIDATE_CHECK (R141): A candidate reaches its expected offset and is confirmed, dropped, or reaches N and takes SYNC. -/
  | candidateCheck (lane : Nat) (rx : LineRx)
  /-- HYPERFRAME_CHECK (R142): In SYNC, each expected hyperframe start is a hit or a miss, and M misses return to HUNT. -/
  | hyperframeCheck (lane : Nat) (rx : LineRx)
  /-- DEFECT_TICK (R144): Every T_HF a lane evaluates its raw defects and the persistence states, and CLOSS is tested. -/
  | defectTick (lane : Nat) (rx : LineRx) (signal : Bool) (locked : Bool) (offset : Int)
  /-- SD_WINDOW_END (R146): An SD window ends and is judged good or bad, declaring or clearing SD. -/
  | sdWindowEnd (lane : Nat) (rx : LineRx)
  /-- MAPPER_EMIT (R151): At each emission instant, the mapper builds a container with justification, or a slip, and sends it. -/
  | mapperEmit (lane : Nat) (rx : LineRx)
  /-- CONTAINER_DEQUEUE (R152): When the play-out buffer has room, the bridge port dequeues a container, which is checked and written under the sequence rules. -/
  | containerDequeue (lane sent : Nat)
  /-- PO_UNDERRUN (R154): The play-out buffer is empty when a byte is due, and the de-mapper enters STARVED. -/
  | poUnderrun (lane sent : Nat)
  /-- CM_EXTRACT (R159): A fast or slow C&M frame is extracted from the line and sent to the slow path. -/
  | cmExtract (lane : Nat) (fast : Bool) (d : List Byte)
  /-- AGE_VISIT (R219): Hardware ageing visits an address entry, deleting it or clearing its HIT. -/
  | ageVisit (ix : Nat)
  /-- RECIRC_REENTRY (R223): A recirculated frame is dequeued, edited and re-enters its pipe as port 168 + n. -/
  | recircReentry (n : Nat)
  /-- PAGE_IN_START (R269): A basket's pager starts a page-in for a pinned or staged queue, evicting if needed. -/
  | pageInStart (b : Nat)
  /-- EVICTION (R270): The pager evicts the least recently used evictable queue, writing its context home. -/
  | eviction (b : Nat)
  /-- PAGE_IN_DONE (R269): A page-in completes, and the queue becomes resident with its staged frames enqueued. -/
  | pageInDone (q : Nat) (ecc : Bool)
  /-- QPAGE_FAULT (R272): A page-in has waited 10 µs for a slot, and QPAGE_FAULT is raised. -/
  | qpageFault (b : Nat)
  /-- HOLD_EXPIRY (R276): A port's HOLD timer expires, the port goes DOWN and its queues are flushed. -/
  | holdExpiry (p : Nat)
  /-- SCHED_SELECT (R285): A pipe's scheduler selects a frame through the hierarchy into a ready slot and charges the path. -/
  | schedSelect (n : Nat)
  /-- GRATICULE_VISIT (R289): A Graticule slot comes, and its objects are refreshed and made selectable, or moved to the fine ring. -/
  | graticuleVisit (k : Nat)
  /-- GATE_ENTRY (R294): A gate-control entry begins, changing the open gates and holds. -/
  | gateEntry (p : Nat)
  /-- GCL_SWITCH (R294): At the armed instant, the pending gate list becomes operational. -/
  | gclSwitch (p : Nat)
  /-- DEADLINE_SLOT (R301): A frame still in its ready slot at T + W is discarded. -/
  | deadlineSlot (p c : Nat)
  /-- PLAIT_TAKE (R313): An engine takes a whole frame from its input buffer, checks it and accumulates its sections. -/
  | plaitTake (k : Nat)
  /-- WINDOW_OPEN (R311): A window boundary of a context opens a symbol window, applying any new image. -/
  | windowOpen (x : Nat)
  /-- WINDOW_CLOSE (R320): At a live window's close, the engine counts contributors and emits or suppresses, then clears the buffer. -/
  | windowClose (x : Nat)
  /-- TIME_CHANGE_APPLY (R335): A pending TMSET or TMADJ change is applied in its own core cycle, or refused under JUMP_GUARD. -/
  | timeChangeApply
  /-- NOW_FRAC_READ (R334): Reading NOW_FRAC latches the full and short time into the reader's bank. -/
  | nowFracRead (m : Master)
  /-- TS_POP (R349): Reading TS_POP removes the oldest timestamp entry and latches its words into the reader's bank. -/
  | tsPop (m : Master)
  /-- PPS_OUT_PULSE (R351): PPS_OUT is driven active at each second boundary plus the offset, for its width. -/
  | ppsOutPulse
  /-- PPS_IN (R352): A PPS_IN edge is captured with its time and the ToD pointer. -/
  | ppsIn (rising : Bool)
  /-- PPS_LOSS (R352): No PPS_IN edge within 1.1 s raises PPS_LOSS once. -/
  | ppsLoss
  /-- CAP (R353): A TS_CAP edge is captured, or replaces an unread capture. -/
  | cap (k : Nat) (rising : Bool)
  /-- TRIG (R354): A trigger output instant arrives, and the output is driven for its width. -/
  | trig (k : Nat)
  /-- TOD_RX (R355): A ToD byte is received into the ring. -/
  | todRx (b : Byte) (afterGap : Bool)
  /-- TX_ARM (R355): Writing TX_ARM schedules the ToD transmit buffer after the next PPS_OUT pulse. -/
  | txArm (m : Master) (value : Word)
  /-- TOD_TX_START (R355): TOD_TX_DELAY after the PPS pulse begins, the ToD UART starts sending. -/
  | todTxStart
  /-- TOD_TX_DONE (R355): The last stop bit of the ToD transmission is sent. -/
  | todTxDone
  /-- FUNCTION_LEVEL_RESET (R385): A function-level reset, VF Enable clear or driver reload resets a function identity, aborting its rings and incrementing epochs. -/
  | functionLevelReset (func kind : Nat)
  /-- BUS_MASTER_ENABLE (R363): A function's Bus Master Enable changes, blocking or releasing its requests and pending MSI-X messages. -/
  | busMasterEnable (func : Nat) (bme vfe : Bool)
  /-- MSIX_MESSAGE (R364): A vector's MSI-X message is sent, merged within 1 µs and respecting the mask. -/
  | msixMessage (v : Nat)
  /-- SLOWPATH_RX_DELIVER (R365): The DMA engine serves a slow-path queue, writing its head frame to a host ring or loaning it to the complex. -/
  | slowpathRxDeliver (n spq : Nat) (busOk : Bool)
  /-- BUF_TAIL_WRITE (R368): Software posts receive buffers by advancing BUF_TAIL, or stops the ring with OVERFLOW. -/
  | bufTailWrite (m : Master) (ring : Nat) (value : Word) (stores : List HostStore)
  /-- TX_TAIL_WRITE (R371): Software advances a transmit ring's TAIL, making descriptors available. -/
  | txTailWrite (m : Master) (ring : Nat) (value : Word) (stores : List HostStore)
  /-- SLOWPATH_TX (R372): The engine reads a transmit descriptor and its frame into the pipe's inject buffer. -/
  | slowpathTx (ring : Nat) (busOk : Bool)
  /-- HOST_INJECT (R372): An injected frame enters the pipe as port 152 in a free slot, classified or direct. -/
  | hostInject (n : Nat)
  /-- HEAD_WRITEBACK (R373): The transmit ring's HEAD is written back to WB_ADDR at least every 1 µs. -/
  | headWriteback (ring : Nat) (busOk : Bool)
  /-- CRX_POP (R376): The higher-claim complex reads CRX_POP to remove and latch its oldest receive record. -/
  | crxPop (m : Master)
  /-- LOAN_DATA_ACCESS (R377): An access to LOAN_DATA reads or writes a loaned cell if the accessor owns the loan. -/
  | loanDataAccess (m : Master) (w : Nat) (wr : Option Word)
  /-- GO (R380): A mailbox post copies the staging buffer into the outbound slot and stamps it, or is refused. -/
  | go (m : Master) (c : Nat) (value : Word)
  /-- CANCEL (R383): Writing CANCEL empties the writer's side's outbound slot if still full. -/
  | cancel (m : Master) (c : Nat)
  /-- ATT_NEW (R387): ATT_CTL NEW loans an 8-cell chain from a basket to the writer. -/
  | attNew (m : Master) (c basket : Nat)
  /-- ATT_RETURN (R387): ATT_CTL RETURN requests return of a mailbox loan. -/
  | attReturn (m : Master) (c basket idx : Nat)
  /-- LOCK_READ (R381): Reading a mailbox LOCK takes it when free, or returns the owner. -/
  | lockRead (m : Master) (c : Nat)
  /-- LOCK_RELEASE (R381): The owner writes its own identity to LOCK to release it. -/
  | lockRelease (m : Master) (c : Nat) (value : Word)
  /-- RX_WORD_0_READ (R382): Reading RX_WORD_0 latches the inbound message and empties the sender's slot. -/
  | rxWord0Read (m : Master) (c : Nat)
  /-- MBX_TIMEOUT (R383): A posted message's timer expires unread, and the sender's TIMEOUT is set. -/
  | mbxTimeout (c : Nat) (sideA : Bool)
  /-- DOORBELL_WRITE (R388): A doorbell write ORs bits toward the other side. -/
  | doorbellWrite (m : Master) (d : Nat) (value : Word)
  /-- DB_IN_READ (R388): Reading DB_IN returns and clears the doorbell bits toward the reader. -/
  | dbInRead (m : Master) (d : Nat)
  /-- SELFTEST_DONE (R402): A complex's self-test completes, passing to STANDBY or failing to FAULTED. -/
  | selftestDone (x : Nat) (pass : Bool) (item : Nat)
  /-- SELFTEST_PERIODIC (R402): Every 60 s a STANDBY complex starts its self-test again. -/
  | selftestPeriodic (x : Nat)
  /-- COMPLEX_START (R396): A STANDBY complex meeting the start condition enters BOOTING, copying the image and restoring a checkpoint. -/
  | complexStart (x : Nat)
  /-- IMAGE_COPY_CHECK (R401): The image copied into the booting complex finishes its signature check, failing with cause IMAGE if bad. -/
  | imageCopyCheck (x : Nat) (good : Bool)
  /-- CHECKPOINT_RESTORE (R404): The newest valid checkpoint is made available to the booting complex. -/
  | checkpointRestore (x : Nat) (ecc : Bool)
  /-- PROMOTE (R395): A BOOTING complex writes PROMOTE and becomes ACTIVE. -/
  | promote (m : Master) (x : Nat)
  /-- BOOT_TIMEOUT (R395): A complex is 199 ms in BOOTING without PROMOTE and becomes FAULTED. -/
  | bootTimeout (x : Nat)
  /-- LOCKSTEP (R398): The outputs of a complex's two cores differ, and a fault is declared. -/
  | lockstep (x : Nat)
  /-- COMPLEX_ECC (R398): An uncorrectable error in a complex's private memory declares a fault. -/
  | complexEcc (x : Nat) (correctable : Bool)
  /-- WATCHDOG (R400): The ACTIVE complex has not kicked for WDOG_MS, and a fault is declared. -/
  | watchdog (x : Nat)
  /-- KICK (R400): Writing KICK restarts the watchdog period. -/
  | kick (m : Master) (x : Nat)
  /-- SELF_FAULT (R398): A complex writes its own SELF_FAULT, declaring a fault. -/
  | selfFault (m : Master) (x : Nat)
  /-- FORCE_FAULT (R398): PF0 or debug writes FORCE_FAULT, declaring a fault. -/
  | forceFault (m : Master) (x : Nat)
  /-- RESTART (R395): Writing RESTART returns a FAULTED complex to SELFTEST. -/
  | restart (m : Master) (x : Nat)
  /-- AUTO_RESTART (R395): One second after a fault, with AUTO_RESTART in use, the complex returns to SELFTEST. -/
  | autoRestart (x : Nat)
  /-- START (R396): Writing START records a start request for a STANDBY complex. -/
  | start (m : Master) (x : Nat)
  /-- CKPT_GO (R403): The ACTIVE complex commits a checkpoint, which gets a CRC and a sequence. -/
  | ckptGo (m : Master) (len : Nat) (data : List Byte)
  /-- CKPT_RETAINED (R403): The checkpoint is copied into the retained copy and becomes current. -/
  | ckptRetained
  /-- CKPT_LP4X_DONE (R403): The checkpoint is written to its LP4X slot, or skipped, and BUSY clears. -/
  | ckptLp4xDone
  /-- CKPT_STALE (R403): An ACTIVE complex commits nothing for 30 ms, and CKPT_STALE is raised. -/
  | ckptStale
  /-- IMG_GO (R401): PF0 starts a firmware image load from host memory into the image store. -/
  | imgGo (m : Master) (pages : Nat)
  /-- IMAGE_LOAD_DONE (R401): The image load and its signature check finish, leaving the store VERIFIED or FAILED. -/
  | imageLoadDone (busOk good : Bool) (version : Word)
  /-- STATUS_CLEAR (R415): Writing 1 to event status bits clears them and re-signals vectors that still have active sources. -/
  | statusClear (m : Master) (w : Nat) (value : Word)
  /-- COALESCE_END (R415): A vector's quiet period ends, and the merged signal is sent. -/
  | coalesceEnd (v : Nat)
  /-- TALLY_PERIOD (R423): At each PERIOD_US instant, Tally captures a snapshot of the enabled counter kinds. -/
  | tallyPeriod
  /-- TALLY_ENTRY_WRITTEN (R424): A snapshot entry is written to the Tally ring and PROD advances, or it is dropped. -/
  | tallyEntryWritten
  /-- COALESCER_SEND (R434): A coalescer entry 100 µs old is sent across the tap link and freed. -/
  | coalescerSend (n : Nat) (lineHigh : Bool)
  /-- TAP_UP (R435): The cartouche raises its ready line, completing the tap handshake. -/
  | tapUp
  /-- TAP_DOWN (R435): The tap link goes down, and coalescers discard their entries. -/
  | tapDown
  /-- CART_SEND_PROCESS (R436): The cartouche assigns a coalesced send to a tenant and adds it to the meters. -/
  | cartSendProcess
  /-- INTERVAL_END (R442): A record interval ends, meters are snapshotted and signed records are written. -/
  | intervalEnd (op : Nat)
  /-- IDENT (R445): Returns the meter identity, ROM_ID, generation, audit, KCV and record range. -/
  | ident (r : CartReq) (op : Nat) (prog : Bool)
  /-- READ_RECORD (R444): Returns a chunk of a stored record. -/
  | readRecord (r : CartReq)
  /-- READ_METERS (R444): Returns live meters of a tenant or the device. -/
  | readMeters (r : CartReq)
  /-- TIME_TAG (R443): Records a host tag for the next records. -/
  | timeTag (r : CartReq)
  /-- READ_PARAMS (R445): Returns a generation's parameters and map entries. -/
  | readParams (r : CartReq)
  /-- PROG_OPEN (R440): Opens a programming session while CART_PROG is high and increments the audit counter. -/
  | progOpen (r : CartReq) (prog : Bool)
  /-- PROG_MAP (R445): Writes tenant-map entries into the staging image. -/
  | progMap (r : CartReq)
  /-- PROG_PARAM (R445): Stages METER_IF, INTERVAL_MIN and TENANT_EN. -/
  | progParam (r : CartReq)
  /-- PROG_KEY (R445): Stages the HMAC key after checking its KCV. -/
  | progKey (r : CartReq)
  /-- PROG_COMMIT (R440): Writes the staging image as a new generation, closes the interval and increments the audit counter. -/
  | progCommit (r : CartReq) (op : Nat)
  /-- PROG_CLOSE (R440): Ends the session and discards the staging image. -/
  | progClose (r : CartReq)
  /-- CART_PROG_LOW (R440): CART_PROG going low ends any open session. -/
  | cartProgLow
  /-- VDD_CART_LOSS (R448): Loss of VDD_CART loses the accumulation since the last record and any session. -/
  | vddCartLoss
  /-- VDD_CART_RISE (R448): When VDD_CART returns, meters and operating time are restored from the newest record and side B's epoch increments. -/
  | vddCartRise
  /-- REF_LOST (R451): A reference shows no edge for 100 ns and is declared lost, possibly switching reference or entering holdover. -/
  | refLost (ref : Nat)
  /-- REF_FREQ_WINDOW (R451): Each 1 ms window checks a reference's frequency, declaring it lost or OK. -/
  | refFreqWindow (ref : Nat) (ppm : Nat)
  /-- PLL_UNLOCK (R454): The root PLL loses lock outside the lock sequence, asserting FAULT_N. -/
  | pllUnlock
  /-- PORST_N (R456): PORST_N resets everything outside the cartouche, and its deassertion starts the lock sequence. -/
  | porstN (asserted : Bool) (strapSpi strapRef : Bool)
  /-- PERST_N (R456): PERST_N resets the link and every function's configuration. -/
  | perstN (asserted : Bool)
  /-- WARM_RST_N (R456): WARM_RST_N resets every function and clears counters. -/
  | warmRstN (asserted : Bool)
  /-- PLL_LOCK_ATTEMPT (R460): A lock attempt on a reference succeeds within 2 ms or fails, moving to lock exit, the other reference or CLOCKLESS. -/
  | pllLockAttempt (locked : Bool)
  /-- SPI_LOAD_DONE (R464): The SPI boot loader finishes or fails reading the image, and STATE becomes INERT. -/
  | spiLoadDone (f : SpiFlash)
  /-- READY_SET (R465): A function becomes usable or stops being usable, and its READY_MAP bit changes. -/
  | readySet (bit : Nat)
  /-- TRAINING_DONE (R468): LP4X controller training ends TRAINED or FAILED. -/
  | trainingDone (n : Nat) (passed : Bool) (failStep : Nat)
  /-- RETRAIN (R468): Writing RETRAIN in FAILED starts a new set of training attempts. -/
  | retrain (m : Master)
  /-- PERIODIC_CAL (R468): Every 100 ms a trained controller repeats ZQ calibration and DQS tracking. -/
  | periodicCal (n : Nat)
  /-- TEMP_SAMPLE (R471): The sensors update TEMP, raising THERM_WARN or THERM_CRIT. -/
  | tempSample (t : Int)
  /-- PD_REQ_GO (R481): Writing GO to PD_REQ queues a power target for the selected domain. -/
  | pdReqGo (m : Master) (target : Nat)
  /-- WAKE (R488): A wake pin holds its level for 1 µs, or a pattern wake fires, and on is queued for the named domains. -/
  | wake (w : Nat)
  /-- POWER_CONTROLLER_CYCLE (R483): Each management cycle the power controller checks queued targets in start order and starts or refuses transitions. -/
  | powerControllerCycle
  /-- AVS_ACK (R484): The regulator reports the commanded voltage reached, and a rise proceeds to close its switch. -/
  | avsAck (rail : Nat) (good : Bool)
  /-- SWITCH_READY (R484): A domain's switch reports ready, completing its rise or fall. -/
  | switchReady (d : Nat)
  /-- FALL_DRAIN_DONE (R485): A falling domain's work in flight completes, and the device opens its switch. -/
  | fallDrainDone (d : Nat)
  /-- TRANSITION_ABORT (R486): AVS_TIMEOUT or SWITCH_TIMEOUT expires, and the transition aborts to the previous state. -/
  | transitionAbort (d : Nat)
  /-- AVS_LOWER_ACK (R487): The acknowledgement of a lowered rail voltage arrives, or its absence raises AVS_FAULT. -/
  | avsLowerAck (rail : Nat) (good : Bool)
  /-- SCRUB_READ (R523): The scrubber reads a location, correcting it or handling an uncorrectable word. -/
  | scrubRead (x : ScrubFind)
  /-- CREEL_AUDIT (R521): Creel's reference audit returns cells and descriptors that nothing reaches. -/
  | creelAudit (b : Nat)
  /-- MAP_BUFFER_OVERFLOW (R151): A received CPRI line byte finds the lane's map buffer full, is discarded and marks the buffer overflowed until the next slip. -/
  | mapBufferOverflow (lane : Nat) (rx : LineRx)
  /-- TALLY_SNAPSHOT_AT_TIME (R86): The short time B named by a CSNAP with TALLY is reached, and Tally captures the snapshot that the waiting instruction expects. -/
  | tallySnapshotAtTime
  deriving DecidableEq, Repr

end Sys2Proof
end

