-- ==== Sys2Proof/Config.lean ====
section
/-! DEFINITION. What the spec leaves open: free values as opaque constants, so that no proof can see one of them. -/

namespace Sys2Proof.Config

open Sys2Proof

/-- A fresh value the spec does not state, by use number (State.fresh). -/
opaque freeWord : Nat → DWord

/-- The fused voltage requirement of a domain on a rail, in mV, in its on state (R487: the fuses are per device). -/
opaque fusedOn : Nat → Nat → Nat

/-- The fused retention requirement of a domain on rail 1, in mV (R487). -/
opaque fusedRetention : Nat → Nat

/-- METER_ID, written at manufacture (R439). -/
opaque meterId : Nat

/-- ROM_ID, the first 4 bytes of the digest of the mask ROM (R432). -/
opaque romId : Nat

end Sys2Proof.Config
end

