-- ==== Sys2Proof/Machine/RegTable.lean ====
section
/-! DEFINITION. The register tables of the spec, one row per field: block, offset, array strides and counts,
bit range, access code, reset value, Applies-at boundary, whether the field is one half of a 64-bit pair (R92), and
the range the Meaning column states. Reserved fields have no row. A reset value the table gives as a rule (R282,
R488) or a dash is 0 here and is put right where the live value is kept (R282: Queues; R488: `resetOf`). -/

namespace Sys2Proof.Machine.Reg

open Sys2Proof


/-! ### R37: block 18 -/

def DB_TAIL : Row := ⟨18, 0x0, [], 15, 0, .rw, 0, .write, false, 0, 65535⟩
def DB_CQ_HEAD : Row := ⟨18, 0x4, [], 15, 0, .rw, 0, .write, false, 0, 65535⟩
def DB_HEAD : Row := ⟨18, 0x8, [], 15, 0, .ro, 0, .none, false, 0, 65535⟩
def DB_CQ_TAIL : Row := ⟨18, 0xC, [], 15, 0, .ro, 0, .none, false, 0, 65535⟩
def DB_RING_STATUS : Row := ⟨18, 0x10, [], 31, 0, .ro, 0, .none, false, 0, 4294967295⟩

/-! ### R38: block 4 -/

def SEQ_SEQ_EN : Row := ⟨4, 0x0, [], 8, 8, .rw, 0, .write, false, 0, 1⟩
def SEQ_THREAD_HALT : Row := ⟨4, 0x0, [], 7, 0, .rw, 0, .write, false, 0, 255⟩
def SEQ_ERR_RING : Row := ⟨4, 0x4, [], 5, 0, .ro, 0, .none, false, 0, 63⟩
def SEQ_DB_REFUSED : Row := ⟨4, 0x8, [], 31, 0, .rc, 0, .none, false, 0, 4294967295⟩
def SEQ_PRIV_REFUSED : Row := ⟨4, 0xC, [], 31, 0, .rc, 0, .none, false, 0, 4294967295⟩
def SEQ_TAG : Row := ⟨4, 0x100, [(0x10, 8)], 31, 16, .ro, 0, .none, false, 0, 65535⟩
def SEQ_RING : Row := ⟨4, 0x100, [(0x10, 8)], 8, 3, .ro, 0, .none, false, 0, 63⟩
def SEQ_STATE_100 : Row := ⟨4, 0x100, [(0x10, 8)], 2, 0, .ro, 0, .none, false, 0, 7⟩
def SEQ_PC : Row := ⟨4, 0x104, [(0x10, 8)], 31, 0, .ro, 0, .none, false, 0, 4294967295⟩
def SEQ_CR_BASE_LO : Row := ⟨4, 0x1000, [(0x40, 64)], 31, 12, .rw, 0, .disable, false, 0, 1048575⟩
def SEQ_CR_BASE_HI : Row := ⟨4, 0x1004, [(0x40, 64)], 31, 0, .rw, 0, .disable, false, 0, 4294967295⟩
def SEQ_CQ_BASE_LO : Row := ⟨4, 0x1008, [(0x40, 64)], 31, 12, .rw, 0, .disable, false, 0, 1048575⟩
def SEQ_CQ_BASE_HI : Row := ⟨4, 0x100C, [(0x40, 64)], 31, 0, .rw, 0, .disable, false, 0, 4294967295⟩
def SEQ_RING_LOC : Row := ⟨4, 0x1010, [(0x40, 64)], 27, 27, .rw, 0, .disable, false, 0, 1⟩
def SEQ_VEC : Row := ⟨4, 0x1010, [(0x40, 64)], 26, 21, .rw, 0, .fetch, false, 0, 63⟩
def SEQ_IRQ_EN : Row := ⟨4, 0x1010, [(0x40, 64)], 20, 20, .rw, 0, .fetch, false, 0, 1⟩
def SEQ_MAXTHR : Row := ⟨4, 0x1010, [(0x40, 64)], 19, 17, .rw, 0, .fetch, false, 0, 7⟩
def SEQ_PAR : Row := ⟨4, 0x1010, [(0x40, 64)], 16, 16, .rw, 0, .fetch, false, 0, 1⟩
def SEQ_THREAD_MASK : Row := ⟨4, 0x1010, [(0x40, 64)], 15, 8, .rw, 0xff, .fetch, false, 0, 255⟩
def SEQ_SIZE_LOG2 : Row := ⟨4, 0x1010, [(0x40, 64)], 7, 4, .rw, 4, .disable, false, 4, 12⟩
def SEQ_PRIO : Row := ⟨4, 0x1010, [(0x40, 64)], 3, 2, .rw, 0, .fetch, false, 0, 3⟩
def SEQ_EN : Row := ⟨4, 0x1010, [(0x40, 64)], 0, 0, .rw, 0, .write, false, 0, 1⟩
def SEQ_CR_BUDGET : Row := ⟨4, 0x1014, [(0x40, 64)], 15, 0, .rw, 0, .fetch, false, 0, 65535⟩
def SEQ_ERR : Row := ⟨4, 0x1018, [(0x40, 64)], 31, 31, .w1c, 0, .write, false, 0, 1⟩
def SEQ_RUNNING : Row := ⟨4, 0x1018, [(0x40, 64)], 23, 16, .ro, 0, .none, false, 0, 255⟩
def SEQ_ERR_CODE : Row := ⟨4, 0x1018, [(0x40, 64)], 7, 4, .ro, 0, .none, false, 0, 15⟩
def SEQ_STATE_1018 : Row := ⟨4, 0x1018, [(0x40, 64)], 1, 0, .ro, 0, .none, false, 0, 3⟩
def SEQ_STARTED : Row := ⟨4, 0x101C, [(0x40, 64)], 31, 0, .ro, 0, .none, false, 0, 4294967295⟩

/-! ### R106: block 14 -/

def BIND_CLASS : Row := ⟨14, 0x1000, [(0x10, 64)], 31, 16, .rw, 0, .write, false, 0, 65535⟩
def BIND_TARGET : Row := ⟨14, 0x1000, [(0x10, 64)], 5, 0, .rw, 0, .write, false, 0, 63⟩
def BIND_WR_BLOCKS : Row := ⟨14, 0x1004, [(0x10, 64)], 31, 16, .rw, 0, .write, false, 0, 65535⟩
def BIND_RD_BLOCKS : Row := ⟨14, 0x1004, [(0x10, 64)], 15, 0, .rw, 0, .write, false, 0, 65535⟩
def BIND_STORE_PAGES : Row := ⟨14, 0x1008, [(0x10, 64)], 12, 6, .rw, 0, .write, false, 0, 64⟩
def BIND_STORE_BASE : Row := ⟨14, 0x1008, [(0x10, 64)], 5, 0, .rw, 0, .write, false, 0, 63⟩
def BIND_SIDE_B : Row := ⟨14, 0x2000, [(0x4, 64)], 13, 8, .rw, 0, .write, false, 0, 63⟩
def BIND_SIDE_A : Row := ⟨14, 0x2000, [(0x4, 64)], 5, 0, .rw, 0, .write, false, 0, 63⟩
def BIND_FUNC : Row := ⟨14, 0x2100, [(0x4, 64)], 4, 0, .rw, 0, .write, false, 0, 31⟩
def BIND_GRP : Row := ⟨14, 0x2200, [(0x4, 8)], 31, 0, .rw, 0, .write, false, 0, 4294967295⟩
def BIND_BIND_LOCK : Row := ⟨14, 0x2300, [], 0, 0, .w1p, 0, .write, false, 0, 1⟩

/-! ### R109: block 0 -/

def GLOBAL_PART : Row := ⟨0, 0x0, [], 31, 16, .ro, 0x6408, .none, false, 0, 65535⟩
def GLOBAL_FAMILY : Row := ⟨0, 0x0, [], 15, 12, .ro, 1, .none, false, 0, 15⟩
def GLOBAL_REV : Row := ⟨0, 0x0, [], 7, 0, .ro, 0x10, .none, false, 0, 255⟩
def GLOBAL_WHOAMI : Row := ⟨0, 0x4, [], 4, 0, .ro, 0, .none, false, 0, 31⟩
def GLOBAL_LAST_RESET : Row := ⟨0, 0x8, [], 31, 28, .ro, 0, .none, false, 0, 15⟩
def GLOBAL_CAUSE_8 : Row := ⟨0, 0x8, [], 23, 20, .ro, 0, .none, false, 0, 15⟩
def GLOBAL_REF_IN_USE : Row := ⟨0, 0x8, [], 19, 18, .ro, 0, .none, false, 0, 3⟩
def GLOBAL_FW_SRC : Row := ⟨0, 0x8, [], 17, 16, .ro, 0, .none, false, 0, 3⟩
def GLOBAL_STATE : Row := ⟨0, 0x8, [], 3, 0, .ro, 0, .none, false, 0, 15⟩
def GLOBAL_BOOT_RETRY : Row := ⟨0, 0xC, [], 0, 0, .w1p, 0, .write, false, 0, 1⟩
def GLOBAL_WR_REFUSED : Row := ⟨0, 0x20, [], 31, 0, .rc, 0, .none, false, 0, 4294967295⟩
def GLOBAL_REFUSED_ADDR : Row := ⟨0, 0x24, [], 25, 2, .ro, 0, .none, false, 0, 16777215⟩
def GLOBAL_VALID : Row := ⟨0, 0x28, [], 31, 31, .w1c, 0, .write, false, 0, 1⟩
def GLOBAL_ID : Row := ⟨0, 0x28, [], 12, 8, .ro, 0, .none, false, 0, 31⟩
def GLOBAL_CAUSE_28 : Row := ⟨0, 0x28, [], 3, 0, .ro, 0, .none, false, 0, 15⟩
def GLOBAL_READY_MAP : Row := ⟨0, 0x40, [], 31, 0, .ro, 0, .none, false, 0, 4294967295⟩
def GLOBAL_READY_MAP_HI : Row := ⟨0, 0x44, [], 31, 0, .ro, 0, .none, false, 0, 4294967295⟩

/-! ### R136: block 6 -/

def PORT_PORT_SEL : Row := ⟨6, 0x10, [], 6, 0, .rw, 0, .write, false, 0, 127⟩
def PORT_LOOP : Row := ⟨6, 0x100, [], 14, 13, .rw, 0, .disable, false, 0, 2⟩
def PORT_LT : Row := ⟨6, 0x100, [], 12, 12, .rw, 0, .disable, false, 0, 1⟩
def PORT_AN : Row := ⟨6, 0x100, [], 11, 11, .rw, 0, .disable, false, 0, 1⟩
def PORT_FEC : Row := ⟨6, 0x100, [], 9, 8, .rw, 0, .disable, false, 0, 3⟩
def PORT_MODE : Row := ⟨6, 0x100, [], 7, 4, .rw, 0, .disable, false, 0, 15⟩
def PORT_ENABLE : Row := ⟨6, 0x100, [], 0, 0, .rw, 0, .write, false, 0, 1⟩
def PORT_MAX_LEN : Row := ⟨6, 0x104, [], 13, 0, .rwm, 0x600, .frame, false, 0, 16383⟩
def PORT_EXP_CLASS : Row := ⟨6, 0x108, [], 18, 16, .rw, 7, .frame, false, 0, 7⟩
def PORT_PFC_CLASS_EN : Row := ⟨6, 0x108, [], 15, 8, .rw, 0xff, .frame, false, 0, 255⟩
def PORT_PFC : Row := ⟨6, 0x108, [], 2, 2, .rw, 0, .frame, false, 0, 1⟩
def PORT_TX_EN : Row := ⟨6, 0x108, [], 1, 1, .rw, 0, .frame, false, 0, 1⟩
def PORT_RX_EN : Row := ⟨6, 0x108, [], 0, 0, .rw, 0, .frame, false, 0, 1⟩
def PORT_WDOG_HOLD : Row := ⟨6, 0x10C, [], 29, 16, .rw, 0x64, .write, false, 1, 10000⟩
def PORT_WDOG_TIME : Row := ⟨6, 0x10C, [], 13, 0, .rw, 0, .write, false, 0, 10000⟩
def PORT_REFRESH : Row := ⟨6, 0x110, [], 31, 16, .rw, 0x7fff, .write, false, 0, 65535⟩
def PORT_QUANTA : Row := ⟨6, 0x110, [], 15, 0, .rw, 0xffff, .write, false, 0, 65535⟩
def PORT_ADD_FRAG : Row := ⟨6, 0x114, [], 25, 24, .rw, 0, .disable, false, 0, 3⟩
def PORT_PREEMPTABLE : Row := ⟨6, 0x114, [], 23, 16, .rw, 0, .frame, false, 0, 255⟩
def PORT_VERIFY_TIME : Row := ⟨6, 0x114, [], 8, 2, .rw, 0xa, .write, false, 1, 127⟩
def PORT_VERIFY_DIS : Row := ⟨6, 0x114, [], 1, 1, .rw, 0, .disable, false, 0, 1⟩
def PORT_PREEMPT_EN : Row := ⟨6, 0x114, [], 0, 0, .rw, 0, .disable, false, 0, 1⟩
def PORT_LINK_DOWN_HOLD : Row := ⟨6, 0x118, [], 29, 16, .rw, 0, .write, false, 0, 16383⟩
def PORT_LINK_UP_DB : Row := ⟨6, 0x118, [], 9, 0, .rw, 0xa, .write, false, 0, 1000⟩
def PORT_WIN : Row := ⟨6, 0x11C, [], 31, 16, .rw, 0x3e8, .write, false, 1, 65535⟩
def PORT_TH : Row := ⟨6, 0x11C, [], 15, 0, .rw, 0x10, .write, false, 0, 65535⟩
def PORT_SNAP : Row := ⟨6, 0x120, [], 0, 0, .w1p, 0, .write, false, 0, 1⟩
def PORT_MAC_ADDR : Row := ⟨6, 0x128, [], 31, 0, .rw, 0, .frame, false, 0, 4294967295⟩
def PORT_MAC_ADDR_HI : Row := ⟨6, 0x12C, [], 15, 0, .rw, 0, .frame, false, 0, 65535⟩
def PORT_HOLDOFF : Row := ⟨6, 0x1000, [], 31, 24, .ro, 0, .none, false, 0, 255⟩
def PORT_PAUSED : Row := ⟨6, 0x1000, [], 23, 16, .ro, 0, .none, false, 0, 255⟩
def PORT_CFG_ERR : Row := ⟨6, 0x1000, [], 15, 12, .ro, 0, .none, false, 0, 15⟩
def PORT_VERIFY : Row := ⟨6, 0x1000, [], 11, 10, .ro, 0, .none, false, 0, 3⟩
def PORT_REMOTE_FAULT : Row := ⟨6, 0x1000, [], 9, 9, .ro, 0, .none, false, 0, 1⟩
def PORT_LOCAL_FAULT : Row := ⟨6, 0x1000, [], 8, 8, .ro, 0, .none, false, 0, 1⟩
def PORT_LINK_STATE : Row := ⟨6, 0x1000, [], 2, 0, .ro, 0, .none, false, 0, 7⟩
def PORT_RESULT : Row := ⟨6, 0x1004, [], 2, 0, .ro, 0, .none, false, 0, 7⟩
def PORT_RX_CNT : Row := ⟨6, 0x2000, [(0x8, 40)], 31, 0, .rc, 0, .none, true, 0, 4294967295⟩
def PORT_TX_CNT : Row := ⟨6, 0x2200, [(0x8, 40)], 31, 0, .rc, 0, .none, true, 0, 4294967295⟩
def PORT_RX_SNAP : Row := ⟨6, 0x2400, [(0x8, 40)], 31, 0, .ro, 0, .none, true, 0, 4294967295⟩
def PORT_TX_SNAP : Row := ⟨6, 0x2600, [(0x8, 40)], 31, 0, .ro, 0, .none, true, 0, 4294967295⟩
def PORT_FEC_CNT : Row := ⟨6, 0x4000, [(0x8, 7)], 31, 0, .rc, 0, .none, true, 0, 4294967295⟩
def PORT_FEC_SNAP : Row := ⟨6, 0x4400, [(0x8, 7)], 31, 0, .ro, 0, .none, true, 0, 4294967295⟩
def PORT_MASK : Row := ⟨6, 0x3000, [(0x20, 16), (0x4, 4)], 31, 0, .rw, 0, .write, false, 0, 4294967295⟩
def PORT_EN : Row := ⟨6, 0x3010, [(0x20, 16)], 16, 16, .rw, 0, .write, false, 0, 1⟩
def PORT_CRC : Row := ⟨6, 0x3010, [(0x20, 16)], 15, 0, .rw, 0, .write, false, 0, 65535⟩
def PORT_LISTEN : Row := ⟨6, 0x3200, [], 15, 0, .rw, 0, .write, false, 0, 65535⟩
def PORT_VALID : Row := ⟨6, 0x3204, [], 31, 31, .w1c, 0, .write, false, 0, 1⟩
def PORT_PATTERN : Row := ⟨6, 0x3204, [], 11, 8, .ro, 0, .none, false, 0, 15⟩
def PORT_LANE : Row := ⟨6, 0x3204, [], 3, 0, .ro, 0, .none, false, 0, 15⟩

/-! ### R162: block 7 -/

def BRIDGE_BRIDGE_SEL : Row := ⟨7, 0x10, [], 4, 0, .rw, 0, .write, false, 0, 23⟩
def BRIDGE_CM_TAP : Row := ⟨7, 0x100, [], 13, 13, .rw, 0, .write, false, 0, 1⟩
def BRIDGE_SD_AIS : Row := ⟨7, 0x100, [], 12, 12, .rw, 0, .write, false, 0, 1⟩
def BRIDGE_PRIVILEGED : Row := ⟨7, 0x100, [], 11, 11, .rw, 0, .write, false, 0, 1⟩
def BRIDGE_SIZE : Row := ⟨7, 0x100, [], 9, 9, .rw, 0, .disable, false, 0, 1⟩
def BRIDGE_ROLE : Row := ⟨7, 0x100, [], 8, 8, .rw, 0, .disable, false, 0, 1⟩
def BRIDGE_OPTION : Row := ⟨7, 0x100, [], 7, 4, .rw, 0, .disable, false, 0, 15⟩
def BRIDGE_EN : Row := ⟨7, 0x100, [], 0, 0, .rw, 0, .write, false, 0, 1⟩
def BRIDGE_M : Row := ⟨7, 0x104, [], 11, 8, .rw, 4, .hyperframe, false, 2, 15⟩
def BRIDGE_N : Row := ⟨7, 0x104, [], 3, 0, .rw, 5, .hyperframe, false, 3, 15⟩
def BRIDGE_SD_EXIT : Row := ⟨7, 0x108, [], 15, 12, .rw, 3, .write, false, 1, 15⟩
def BRIDGE_SD_ENTRY : Row := ⟨7, 0x108, [], 11, 8, .rw, 1, .write, false, 1, 15⟩
def BRIDGE_SD_EXP : Row := ⟨7, 0x108, [], 3, 0, .rw, 6, .write, false, 5, 9⟩
def BRIDGE_LOF_EXIT : Row := ⟨7, 0x10C, [], 31, 24, .rw, 8, .write, false, 0, 255⟩
def BRIDGE_LOF_ENTRY : Row := ⟨7, 0x10C, [], 23, 16, .rw, 0, .write, false, 0, 255⟩
def BRIDGE_LOS_EXIT : Row := ⟨7, 0x10C, [], 15, 8, .rw, 8, .write, false, 0, 255⟩
def BRIDGE_LOS_ENTRY : Row := ⟨7, 0x10C, [], 7, 0, .rw, 0, .write, false, 0, 255⟩
def BRIDGE_SDI_EXIT : Row := ⟨7, 0x110, [], 31, 24, .rw, 5, .write, false, 0, 255⟩
def BRIDGE_SDI_ENTRY : Row := ⟨7, 0x110, [], 23, 16, .rw, 5, .write, false, 0, 255⟩
def BRIDGE_RAI_EXIT : Row := ⟨7, 0x110, [], 15, 8, .rw, 5, .write, false, 0, 255⟩
def BRIDGE_RAI_ENTRY : Row := ⟨7, 0x110, [], 7, 0, .rw, 5, .write, false, 0, 255⟩
def BRIDGE_CONT_ETYPE : Row := ⟨7, 0x114, [], 15, 0, .rw, 0x88b5, .frame, false, 0, 65535⟩
def BRIDGE_VLAN_EN : Row := ⟨7, 0x118, [], 16, 16, .rw, 0, .frame, false, 0, 1⟩
def BRIDGE_PCP : Row := ⟨7, 0x118, [], 15, 13, .rw, 0, .frame, false, 0, 7⟩
def BRIDGE_VID : Row := ⟨7, 0x118, [], 11, 0, .rw, 0, .frame, false, 0, 4095⟩
def BRIDGE_CONT_DA : Row := ⟨7, 0x120, [], 31, 0, .rw, 0, .frame, false, 0, 4294967295⟩
def BRIDGE_CONT_DA_HI : Row := ⟨7, 0x124, [], 15, 0, .rw, 0, .frame, false, 0, 65535⟩
def BRIDGE_CONT_SA : Row := ⟨7, 0x128, [], 31, 0, .rw, 0, .frame, false, 0, 4294967295⟩
def BRIDGE_CONT_SA_HI : Row := ⟨7, 0x12C, [], 15, 0, .rw, 0, .frame, false, 0, 65535⟩
def BRIDGE_MAP_TARGET : Row := ⟨7, 0x130, [], 12, 0, .rw, 0x440, .disable, false, 0, 6144⟩
def BRIDGE_PO_TARGET : Row := ⟨7, 0x134, [], 14, 0, .rw, 0x1000, .disable, false, 0, 28672⟩
def BRIDGE_LIMIT : Row := ⟨7, 0x138, [], 15, 8, .rw, 0x64, .hyperframe, false, 1, 200⟩
def BRIDGE_BW : Row := ⟨7, 0x138, [], 2, 0, .rw, 2, .hyperframe, false, 0, 6⟩
def BRIDGE_CLOSS_13C : Row := ⟨7, 0x13C, [], 15, 8, .rw, 3, .write, false, 1, 255⟩
def BRIDGE_GAP_MAX : Row := ⟨7, 0x13C, [], 7, 0, .rw, 0x40, .write, false, 1, 255⟩
def BRIDGE_RAI_TX : Row := ⟨7, 0x1000, [], 26, 26, .ro, 0, .none, false, 0, 1⟩
def BRIDGE_RDI_TX : Row := ⟨7, 0x1000, [], 25, 25, .ro, 0, .none, false, 0, 1⟩
def BRIDGE_AIS_TX : Row := ⟨7, 0x1000, [], 24, 24, .ro, 0, .none, false, 0, 1⟩
def BRIDGE_CFG_ERR : Row := ⟨7, 0x1000, [], 23, 20, .ro, 0, .none, false, 0, 15⟩
def BRIDGE_CAND : Row := ⟨7, 0x1000, [], 19, 17, .ro, 0, .none, false, 0, 7⟩
def BRIDGE_ULOF_RX : Row := ⟨7, 0x1000, [], 16, 16, .ro, 0, .none, false, 0, 1⟩
def BRIDGE_RDI_RX : Row := ⟨7, 0x1000, [], 15, 15, .ro, 0, .none, false, 0, 1⟩
def BRIDGE_AIS_RX : Row := ⟨7, 0x1000, [], 14, 14, .ro, 0, .none, false, 0, 1⟩
def BRIDGE_CLOSS_1000 : Row := ⟨7, 0x1000, [], 13, 13, .ro, 0, .none, false, 1, 255⟩
def BRIDGE_DEFECTS : Row := ⟨7, 0x1000, [], 12, 8, .ro, 0, .none, false, 0, 31⟩
def BRIDGE_DEMAP_STATE : Row := ⟨7, 0x1000, [], 5, 4, .ro, 0, .none, false, 0, 3⟩
def BRIDGE_ALIGN_STATE : Row := ⟨7, 0x1000, [], 1, 0, .ro, 0, .none, false, 0, 3⟩
def BRIDGE_PO_FILL : Row := ⟨7, 0x1004, [], 31, 16, .ro, 0, .none, false, 0, 65535⟩
def BRIDGE_MAP_FILL : Row := ⟨7, 0x1004, [], 13, 0, .ro, 0, .none, false, 0, 16383⟩
def BRIDGE_NCO_OFFSET : Row := ⟨7, 0x1008, [], 31, 0, .ro, 0, .none, false, 0, 4294967295⟩
def BRIDGE_DELAY_MIN : Row := ⟨7, 0x100C, [], 31, 0, .rc, 0xffffffff, .none, false, 0, 4294967295⟩
def BRIDGE_DELAY_MAX : Row := ⟨7, 0x1010, [], 31, 0, .rc, 0, .none, false, 0, 4294967295⟩
def BRIDGE_BFN : Row := ⟨7, 0x1014, [], 19, 8, .ro, 0, .none, false, 0, 4095⟩
def BRIDGE_HFN : Row := ⟨7, 0x1014, [], 7, 0, .ro, 0, .none, false, 0, 255⟩
def BRIDGE_CNT : Row := ⟨7, 0x2000, [(0x8, 21)], 31, 0, .rc, 0, .none, true, 0, 4294967295⟩

/-! ### R184: block 8 -/

def SURVEY_DEPTH_HEADERS : Row := ⟨8, 0x200, [], 24, 20, .rw, 0x18, .calendar, false, 1, 24⟩
def SURVEY_LEN_LATE : Row := ⟨8, 0x200, [], 16, 16, .rw, 0, .calendar, false, 0, 1⟩
def SURVEY_DEPTH_BYTES : Row := ⟨8, 0x200, [], 8, 0, .rw, 0x80, .calendar, false, 64, 256⟩
def SURVEY_PROG_ID : Row := ⟨8, 0x204, [], 31, 16, .ro, 1, .none, false, 0, 65535⟩
def SURVEY_NODES : Row := ⟨8, 0x204, [], 8, 0, .ro, 0x22, .none, false, 0, 511⟩
def SURVEY_SHADOW_ID : Row := ⟨8, 0x208, [], 31, 16, .ro, 0, .none, false, 0, 65535⟩
def SURVEY_LOADING : Row := ⟨8, 0x208, [], 0, 0, .ro, 0, .none, false, 0, 1⟩
def SURVEY_ARM : Row := ⟨8, 0x210, [], 31, 31, .w1p, 0, .write, false, 0, 1⟩
def SURVEY_DONE : Row := ⟨8, 0x210, [], 30, 30, .ro, 0, .none, false, 0, 1⟩
def SURVEY_CAP_PORT : Row := ⟨8, 0x210, [], 7, 0, .rw, 0, .write, false, 0, 255⟩
def SURVEY_CAP_RECORD : Row := ⟨8, 0x400, [(0x4, 64)], 31, 0, .ro, 0, .none, false, 0, 4294967295⟩
def SURVEY_CNT : Row := ⟨8, 0x2000, [(0x8, 14)], 31, 0, .rc, 0, .none, true, 0, 4294967295⟩

/-! ### R208: block 8 -/

def LEGEND_LINES_FREE : Row := ⟨8, 0x600, [], 17, 0, .ro, 0x20000, .none, false, 0, 262143⟩
def LEGEND_BLOCKS_FREE : Row := ⟨8, 0x604, [], 13, 0, .ro, 0x2000, .none, false, 0, 16383⟩
def LEGEND_VALID : Row := ⟨8, 0x608, [], 31, 31, .w1c, 0, .write, false, 0, 1⟩
def LEGEND_KIND : Row := ⟨8, 0x608, [], 30, 30, .ro, 0, .none, false, 0, 1⟩
def LEGEND_ADDR : Row := ⟨8, 0x608, [], 16, 0, .ro, 0, .none, false, 0, 131071⟩
def LEGEND_EN : Row := ⟨8, 0x1000, [(0x4, 176)], 7, 7, .rw, 0, .frame, false, 0, 1⟩
def LEGEND_RSET : Row := ⟨8, 0x1000, [(0x4, 176)], 5, 0, .rw, 0, .frame, false, 0, 63⟩
def LEGEND_DRAFT : Row := ⟨8, 0x3000, [(0x20, 64)], 31, 31, .ro, 0, .none, false, 0, 1⟩
def LEGEND_ACTIVE_V : Row := ⟨8, 0x3000, [(0x20, 64)], 30, 30, .ro, 0, .none, false, 0, 1⟩
def LEGEND_ACTIVE : Row := ⟨8, 0x3000, [(0x20, 64)], 25, 24, .ro, 0, .none, false, 0, 3⟩
def LEGEND_LIVE : Row := ⟨8, 0x3000, [(0x20, 64)], 23, 20, .ro, 0, .none, false, 0, 15⟩
def LEGEND_ROOT : Row := ⟨8, 0x3000, [(0x20, 64)], 16, 0, .ro, 0, .none, false, 0, 131071⟩
def LEGEND_INFLIGHT : Row := ⟨8, 0x3004, [(0x20, 64), (0x4, 4)], 19, 0, .ro, 0, .none, false, 0, 1048575⟩
def LEGEND_COMMITS : Row := ⟨8, 0x3014, [(0x20, 64)], 31, 0, .ro, 0, .none, false, 0, 4294967295⟩
def LEGEND_CNT : Row := ⟨8, 0x2100, [(0x8, 7)], 31, 0, .rc, 0, .none, true, 0, 4294967295⟩
def LEGEND_EXC_FRAMES : Row := ⟨8, 0x2200, [(0x8, 64)], 31, 0, .rc, 0, .none, true, 0, 4294967295⟩
def LEGEND_SP_DROP : Row := ⟨8, 0x2400, [(0x8, 64)], 31, 0, .rc, 0, .none, true, 0, 4294967295⟩
/-- The select register of the pipe block (R98). -/
def PIPE_SEL : Row := ⟨8, 0x10, [], 2, 0, .rw, 0, .write, false, 0, 7⟩

/-! ### R236: block 8 -/

def FWD_EXP_EN : Row := ⟨8, 0x700, [], 16, 16, .rw, 0, .write, false, 0, 1⟩
def FWD_EXP_IN : Row := ⟨8, 0x700, [], 15, 0, .rw, 0, .frame, false, 0, 65535⟩
def FWD_LEARN_BURST : Row := ⟨8, 0x704, [], 31, 16, .rw, 0x40, .write, false, 1, 65535⟩
def FWD_LEARN_RATE : Row := ⟨8, 0x704, [], 15, 0, .rw, 0x3e8, .write, false, 0, 65535⟩
def FWD_EXP_MASK : Row := ⟨8, 0x740, [(0x4, 16)], 31, 0, .rw, 0xffffffff, .disable, false, 0, 4294967295⟩
def FWD_AGE_PERIOD : Row := ⟨8, 0x780, [], 15, 0, .rw, 0x12c, .write, false, 0, 65535⟩
def FWD_AGED : Row := ⟨8, 0x788, [], 31, 0, .rc, 0, .none, true, 0, 4294967295⟩
def FWD_ADDR_USED : Row := ⟨8, 0x790, [], 19, 0, .ro, 0, .none, false, 0, 1048575⟩
def FWD_EXT_USED : Row := ⟨8, 0x794, [], 23, 0, .ro, 0, .none, false, 0, 16777215⟩
def FWD_LEARN_MODE : Row := ⟨8, 0x4000, [(0x4, 152)], 31, 30, .rw, 0, .frame, false, 0, 2⟩
def FWD_MOVE_EXC : Row := ⟨8, 0x4000, [(0x4, 152)], 29, 29, .rw, 0, .frame, false, 0, 1⟩
def FWD_MAX_LEARN : Row := ⟨8, 0x4000, [(0x4, 152)], 23, 0, .rw, 0, .write, false, 0, 16777215⟩
def FWD_LEARNED : Row := ⟨8, 0x4400, [(0x4, 152)], 23, 0, .ro, 0, .none, false, 0, 16777215⟩
def FWD_EXP_RESERVE : Row := ⟨8, 0x5000, [(0x4, 128)], 14, 0, .rw, 0x800, .write, false, 64, 16384⟩
def FWD_FLOOD_EN : Row := ⟨8, 0x5400, [(0x4, 128)], 31, 0, .rw, 0, .frame, false, 0, 4294967295⟩
def FWD_MIRROR_PROD : Row := ⟨8, 0x6000, [(0x4, 16)], 31, 0, .ro, 0, .none, false, 0, 4294967295⟩
def FWD_MIRROR_CONS : Row := ⟨8, 0x6040, [(0x4, 16)], 31, 0, .rw, 0, .write, false, 0, 4294967295⟩
def FWD_MIRROR_CAPT : Row := ⟨8, 0x6100, [(0x8, 16)], 31, 0, .rc, 0, .none, true, 0, 4294967295⟩
def FWD_MIRROR_DROP : Row := ⟨8, 0x6180, [(0x8, 16)], 31, 0, .rc, 0, .none, true, 0, 4294967295⟩
def FWD_CNT : Row := ⟨8, 0x2180, [(0x8, 16)], 31, 0, .rc, 0, .none, true, 0, 4294967295⟩

/-! ### R262: block 9 -/

def SLATH_BASKET_SEL : Row := ⟨9, 0x10, [], 2, 0, .rw, 0, .write, false, 0, 7⟩
def SLATH_MC_PRIO : Row := ⟨9, 0x100, [], 0, 0, .rw, 0, .cell, false, 0, 1⟩
def SLATH_VALID_104 : Row := ⟨9, 0x104, [], 31, 31, .w1c, 0, .write, false, 0, 1⟩
def SLATH_IN : Row := ⟨9, 0x104, [], 7, 4, .ro, 0, .none, false, 0, 15⟩
def SLATH_OUT : Row := ⟨9, 0x104, [], 3, 0, .ro, 0, .none, false, 0, 15⟩
def SLATH_SPILL_EN : Row := ⟨9, 0x200, [], 16, 16, .rw, 0, .write, false, 0, 1⟩
def SLATH_BASKET_LIMIT : Row := ⟨9, 0x200, [], 15, 0, .rw, 0xc000, .cell, false, 0, 49152⟩
def SLATH_RB_CELLS : Row := ⟨9, 0x204, [], 12, 0, .rw, 0x400, .disable, false, 64, 4096⟩
def SLATH_FLUSH_TH : Row := ⟨9, 0x208, [], 28, 16, .rw, 0xc00, .write, false, 0, 4032⟩
def SLATH_REFILL_TH : Row := ⟨9, 0x208, [], 12, 0, .rw, 0x400, .write, false, 64, 8191⟩
def SLATH_SPILL_BASE : Row := ⟨9, 0x210, [], 22, 0, .rw, 0, .disable, false, 0, 8388607⟩
def SLATH_SPILL_BLOCKS : Row := ⟨9, 0x214, [], 22, 0, .rw, 0, .disable, false, 4096, 8388607⟩
def SLATH_GO : Row := ⟨9, 0x300, [], 31, 31, .w1p, 0, .write, false, 0, 1⟩
def SLATH_ID : Row := ⟨9, 0x300, [], 4, 0, .rw, 0, .write, false, 0, 31⟩
def SLATH_CELLS_FREE : Row := ⟨9, 0x1000, [], 15, 0, .ro, 0xc000, .none, false, 0, 65535⟩
def SLATH_DESC_FREE : Row := ⟨9, 0x1004, [], 15, 0, .ro, 0x8000, .none, false, 0, 65535⟩
def SLATH_PTR_FREE : Row := ⟨9, 0x1008, [], 16, 0, .ro, 0x10000, .none, false, 0, 131071⟩
def SLATH_SPILL_STATE : Row := ⟨9, 0x100C, [], 17, 16, .ro, 0, .none, false, 0, 3⟩
def SLATH_CACHE_FILL : Row := ⟨9, 0x100C, [], 12, 0, .ro, 0, .none, false, 0, 8191⟩
def SLATH_SPILL_FREE : Row := ⟨9, 0x1010, [], 22, 0, .ro, 0, .none, false, 0, 8388607⟩
def SLATH_LOANS_USED : Row := ⟨9, 0x1014, [], 12, 0, .ro, 0, .none, false, 0, 8191⟩
def SLATH_VALID_1018 : Row := ⟨9, 0x1018, [], 31, 31, .w1c, 0, .write, false, 0, 1⟩
def SLATH_REQ_ID : Row := ⟨9, 0x1018, [], 28, 24, .ro, 0, .none, false, 0, 31⟩
def SLATH_OWNER : Row := ⟨9, 0x1018, [], 20, 16, .ro, 0, .none, false, 0, 31⟩
def SLATH_INDEX : Row := ⟨9, 0x1018, [], 11, 0, .ro, 0, .none, false, 0, 4095⟩
def SLATH_XBAR_CNT : Row := ⟨9, 0x2000, [(0x8, 7)], 31, 0, .rc, 0, .none, true, 0, 4294967295⟩
def SLATH_BASKET_CNT : Row := ⟨9, 0x2100, [(0x8, 17)], 31, 0, .rc, 0, .none, true, 0, 4294967295⟩
def SLATH_CRC_LOC : Row := ⟨9, 0x3000, [(0x60, 12), (0x8, 12)], 31, 0, .rc, 0, .none, true, 0, 4294967295⟩
def SLATH_ECC_BANK : Row := ⟨9, 0x3600, [(0x8, 16)], 31, 0, .rc, 0, .none, true, 0, 4294967295⟩
def SLATH_PC_SPILL_LIMIT : Row := ⟨9, 0x4000, [(0x20, 34), (0x4, 8)], 31, 16, .rw, 0, .cell, false, 0, 65535⟩
def SLATH_PC_LIMIT : Row := ⟨9, 0x4000, [(0x20, 34), (0x4, 8)], 15, 0, .rw, 0, .cell, false, 0, 49152⟩
def SLATH_PC_BLOCKS : Row := ⟨9, 0x5000, [(0x20, 34), (0x4, 8)], 31, 16, .ro, 0, .none, false, 0, 65535⟩
def SLATH_PC_CELLS : Row := ⟨9, 0x5000, [(0x20, 34), (0x4, 8)], 15, 0, .ro, 0, .none, false, 0, 65535⟩
def SLATH_XOFF : Row := ⟨9, 0x6000, [(0x1000, 2), (0x20, 64), (0x4, 8)], 31, 16, .rw, 0, .cell, false, 0, 65535⟩
def SLATH_XON : Row := ⟨9, 0x6000, [(0x1000, 2), (0x20, 64), (0x4, 8)], 15, 0, .rw, 0, .cell, false, 0, 65535⟩
def SLATH_CHARGE : Row := ⟨9, 0x8000, [(0x1000, 2), (0x20, 64), (0x4, 8)], 18, 0, .ro, 0, .none, false, 0, 524287⟩

/-! ### R278: block 10 -/

def QUEUE_Q_SEL : Row := ⟨10, 0x10, [], 15, 0, .rw, 0, .write, false, 0, 65535⟩
def QUEUE_PAGING_EN : Row := ⟨10, 0x20, [], 0, 0, .rw, 0, .write, false, 0, 1⟩
def QUEUE_QCTX_BASE : Row := ⟨10, 0x24, [], 22, 0, .rw, 0, .disable, false, 0, 8388607⟩
def QUEUE_PAGING_STATE : Row := ⟨10, 0x28, [], 1, 0, .ro, 0, .none, false, 0, 3⟩
def QUEUE_PINNED : Row := ⟨10, 0x2C, [], 13, 0, .ro, 0, .none, false, 0, 16383⟩
def QUEUE_ALLOCATED : Row := ⟨10, 0x30, [], 16, 0, .ro, 0x48, .none, false, 0, 131071⟩
def QUEUE_EVICT_LOW : Row := ⟨10, 0x100, [(0x20, 8)], 10, 0, .rw, 0x40, .write, false, 0, 1024⟩
def QUEUE_SLOTS_FREE : Row := ⟨10, 0x104, [(0x20, 8)], 27, 16, .ro, 0x800, .none, false, 0, 4095⟩
def QUEUE_STAGED : Row := ⟨10, 0x104, [(0x20, 8)], 9, 0, .ro, 0, .none, false, 0, 1023⟩
def QUEUE_STAGE_PEAK : Row := ⟨10, 0x108, [(0x20, 8)], 9, 0, .rc, 0, .none, false, 0, 1023⟩
def QUEUE_QDIR : Row := ⟨10, 0x200, [], 31, 0, .ro, 0, .none, false, 0, 4294967295⟩
def QUEUE_QCTX : Row := ⟨10, 0x240, [(0x4, 16)], 31, 0, .ro, 0, .none, false, 0, 4294967295⟩
def QUEUE_QBASE : Row := ⟨10, 0x1000, [(0x4, 152)], 15, 0, .rw, 0, .frame, false, 0, 65535⟩
def QUEUE_HOLD_STATE : Row := ⟨10, 0x1400, [(0x4, 128)], 1, 0, .ro, 0, .none, false, 0, 3⟩
def QUEUE_CNT : Row := ⟨10, 0x2000, [(0x100, 8), (0x8, 10)], 31, 0, .rc, 0, .none, true, 0, 4294967295⟩

/-! ### R305: block 10 -/

def SCHED_NODE_SEL : Row := ⟨10, 0x14, [], 14, 0, .rw, 0, .write, false, 0, 32767⟩
def SCHED_CIR : Row := ⟨10, 0x300, [], 31, 0, .ro, 0, .none, false, 0, 4294967295⟩
def SCHED_EIR : Row := ⟨10, 0x304, [], 31, 0, .ro, 0x17d78400, .none, false, 0, 4294967295⟩
def SCHED_CBS : Row := ⟨10, 0x308, [], 24, 0, .ro, 0x40, .none, false, 0, 33554431⟩
def SCHED_EBS : Row := ⟨10, 0x30C, [], 24, 0, .ro, 0x1000000, .none, false, 0, 33554431⟩
def SCHED_CIR_CREDIT : Row := ⟨10, 0x310, [], 31, 0, .ro, 0x40, .none, false, 0, 4294967295⟩
def SCHED_EIR_CREDIT : Row := ⟨10, 0x314, [], 31, 0, .ro, 0x1000000, .none, false, 0, 4294967295⟩
def SCHED_WEIGHT : Row := ⟨10, 0x318, [], 31, 16, .ro, 1, .none, false, 0, 65535⟩
def SCHED_PARENT : Row := ⟨10, 0x318, [], 15, 3, .ro, 0, .none, false, 0, 8191⟩
def SCHED_BAND : Row := ⟨10, 0x318, [], 2, 0, .ro, 0, .none, false, 0, 7⟩
def SCHED_BLOCKED : Row := ⟨10, 0x31C, [], 31, 31, .ro, 0, .none, false, 0, 1⟩
def SCHED_ON_WHEEL : Row := ⟨10, 0x31C, [], 30, 30, .ro, 0, .none, false, 0, 1⟩
def SCHED_FROZEN : Row := ⟨10, 0x31C, [], 29, 29, .ro, 0, .none, false, 0, 1⟩
def SCHED_ACTIVE : Row := ⟨10, 0x31C, [], 7, 0, .ro, 0, .none, false, 0, 255⟩
def SCHED_Q_CIR : Row := ⟨10, 0x330, [], 31, 0, .ro, 0, .none, false, 0, 4294967295⟩
def SCHED_Q_EIR : Row := ⟨10, 0x334, [], 31, 0, .ro, 0, .none, false, 0, 4294967295⟩
def SCHED_Q_CBS : Row := ⟨10, 0x338, [], 24, 0, .ro, 0, .none, false, 0, 33554431⟩
def SCHED_Q_EBS : Row := ⟨10, 0x33C, [], 24, 0, .ro, 0, .none, false, 0, 33554431⟩
def SCHED_GATE_EN : Row := ⟨10, 0x400, [], 8, 8, .rw, 0, .gateCycle, false, 0, 1⟩
def SCHED_SHAPER_OVH : Row := ⟨10, 0x400, [], 5, 0, .rw, 0x14, .frame, false, 0, 63⟩
def SCHED_LAUNCH_WINDOW : Row := ⟨10, 0x404, [], 23, 0, .rw, 0x3e8, .frame, false, 0, 16777215⟩
def SCHED_OPER_GATES : Row := ⟨10, 0x408, [], 31, 24, .ro, 0xff, .none, false, 0, 255⟩
def SCHED_OPER_V : Row := ⟨10, 0x408, [], 23, 23, .ro, 0, .none, false, 0, 1⟩
def SCHED_PEND_ARMED : Row := ⟨10, 0x408, [], 22, 22, .ro, 0, .none, false, 0, 1⟩
def SCHED_HOLD : Row := ⟨10, 0x408, [], 21, 21, .ro, 0, .none, false, 0, 1⟩
def SCHED_OPER_ENTRY : Row := ⟨10, 0x408, [], 9, 0, .ro, 0, .none, false, 0, 1023⟩
def SCHED_OPER_LEN : Row := ⟨10, 0x40C, [], 10, 0, .ro, 0, .none, false, 0, 2047⟩
def SCHED_OPER_CYCLE : Row := ⟨10, 0x410, [], 31, 0, .ro, 0, .none, false, 0, 4294967295⟩
def SCHED_PEND_LEN : Row := ⟨10, 0x414, [], 10, 0, .ro, 0, .none, false, 0, 2047⟩
def SCHED_OPER_BASE : Row := ⟨10, 0x418, [], 31, 0, .ro, 0, .none, true, 0, 4294967295⟩
def SCHED_PEND_BASE : Row := ⟨10, 0x420, [], 31, 0, .ro, 0, .none, true, 0, 4294967295⟩
def SCHED_PEND_CYCLE : Row := ⟨10, 0x428, [], 31, 0, .ro, 0, .none, false, 0, 4294967295⟩
def SCHED_BANK : Row := ⟨10, 0x430, [], 31, 31, .rw, 0, .write, false, 0, 1⟩
def SCHED_INDEX : Row := ⟨10, 0x430, [], 9, 0, .rw, 0, .write, false, 0, 1023⟩
def SCHED_GCL_ENTRY : Row := ⟨10, 0x438, [], 31, 0, .ro, 0, .none, true, 0, 4294967295⟩
def SCHED_EN : Row := ⟨10, 0x3000, [(0x100, 8), (0x10, 16)], 31, 31, .rw, 0, .frame, false, 0, 1⟩
def SCHED_KIND : Row := ⟨10, 0x3000, [(0x100, 8), (0x10, 16)], 30, 29, .rw, 0, .frame, false, 0, 2⟩
def SCHED_BASE : Row := ⟨10, 0x3000, [(0x100, 8), (0x10, 16)], 28, 26, .rw, 0, .frame, false, 0, 6⟩
def SCHED_OFF : Row := ⟨10, 0x3000, [(0x100, 8), (0x10, 16)], 23, 16, .rw, 0, .frame, false, 0, 255⟩
def SCHED_OFFSET : Row := ⟨10, 0x3004, [(0x100, 8), (0x10, 16)], 29, 0, .rw, 0, .frame, false, 0, 1000000000⟩
def SCHED_PHASE : Row := ⟨10, 0x3008, [(0x100, 8), (0x10, 16)], 29, 0, .rw, 0, .frame, false, 0, 1000000000⟩
def SCHED_CNT : Row := ⟨10, 0x5000, [(0x100, 8), (0x8, 11)], 31, 0, .rc, 0, .none, true, 0, 4294967295⟩
def SCHED_LAUNCH_ERR : Row := ⟨10, 0x50F0, [(0x100, 8)], 4, 4, .w1c, 0, .write, false, 0, 1⟩
def SCHED_GRAT_LATE : Row := ⟨10, 0x50F0, [(0x100, 8)], 3, 3, .w1c, 0, .write, false, 0, 1⟩
def SCHED_GCL_SWITCH : Row := ⟨10, 0x50F0, [(0x100, 8)], 2, 2, .w1c, 0, .write, false, 0, 1⟩
def SCHED_GATE_OVERSIZE : Row := ⟨10, 0x50F0, [(0x100, 8)], 1, 1, .w1c, 0, .write, false, 0, 1⟩
def SCHED_DEADLINE : Row := ⟨10, 0x50F0, [(0x100, 8)], 0, 0, .w1c, 0, .write, false, 0, 1⟩

/-! ### R329: block 11 -/

def PLAIT_CTX_EN : Row := ⟨11, 0x0, [(0x4000, 4)], 6, 0, .ro, 0, .none, false, 0, 127⟩
def PLAIT_ACC_USED : Row := ⟨11, 0x4, [(0x4000, 4)], 22, 0, .ro, 0, .none, false, 0, 8388607⟩
def PLAIT_CTX_ECC : Row := ⟨11, 0x10, [(0x4000, 4)], 13, 13, .w1c, 0, .write, false, 0, 1⟩
def PLAIT_ECC_UNCORR : Row := ⟨11, 0x10, [(0x4000, 4)], 12, 12, .w1c, 0, .write, false, 0, 1⟩
def PLAIT_OUT_CLIP : Row := ⟨11, 0x10, [(0x4000, 4)], 11, 11, .w1c, 0, .write, false, 0, 1⟩
def PLAIT_OUT_DROP : Row := ⟨11, 0x10, [(0x4000, 4)], 10, 10, .w1c, 0, .write, false, 0, 1⟩
def PLAIT_SATURATED : Row := ⟨11, 0x10, [(0x4000, 4)], 9, 9, .w1c, 0, .write, false, 0, 1⟩
def PLAIT_SUPPRESSED : Row := ⟨11, 0x10, [(0x4000, 4)], 8, 8, .w1c, 0, .write, false, 0, 1⟩
def PLAIT_MISSING : Row := ⟨11, 0x10, [(0x4000, 4)], 7, 7, .w1c, 0, .write, false, 0, 1⟩
def PLAIT_LATE : Row := ⟨11, 0x10, [(0x4000, 4)], 6, 6, .w1c, 0, .write, false, 0, 1⟩
def PLAIT_EARLY : Row := ⟨11, 0x10, [(0x4000, 4)], 5, 5, .w1c, 0, .write, false, 0, 1⟩
def PLAIT_FCS : Row := ⟨11, 0x10, [(0x4000, 4)], 4, 4, .w1c, 0, .write, false, 0, 1⟩
def PLAIT_NO_WINDOW : Row := ⟨11, 0x10, [(0x4000, 4)], 3, 3, .w1c, 0, .write, false, 0, 1⟩
def PLAIT_CTX_OFF : Row := ⟨11, 0x10, [(0x4000, 4)], 2, 2, .w1c, 0, .write, false, 0, 1⟩
def PLAIT_UNKNOWN : Row := ⟨11, 0x10, [(0x4000, 4)], 1, 1, .w1c, 0, .write, false, 0, 1⟩
def PLAIT_FMT_ERR : Row := ⟨11, 0x10, [(0x4000, 4)], 0, 0, .w1c, 0, .write, false, 0, 1⟩
def PLAIT_VALID : Row := ⟨11, 0x14, [(0x4000, 4)], 31, 31, .w1c, 0, .write, false, 0, 1⟩
def PLAIT_CTX : Row := ⟨11, 0x14, [(0x4000, 4)], 14, 9, .ro, 0, .none, false, 0, 63⟩
def PLAIT_PRB : Row := ⟨11, 0x14, [(0x4000, 4)], 8, 0, .ro, 0, .none, false, 0, 511⟩
def PLAIT_EN : Row := ⟨11, 0x100, [(0x4000, 4), (0x4, 64)], 31, 31, .ro, 0, .none, false, 0, 1⟩
def PLAIT_DRAINING : Row := ⟨11, 0x100, [(0x4000, 4), (0x4, 64)], 30, 30, .ro, 0, .none, false, 0, 1⟩
def PLAIT_OPEN : Row := ⟨11, 0x100, [(0x4000, 4), (0x4, 64)], 29, 26, .ro, 0, .none, false, 0, 15⟩
def PLAIT_ECC : Row := ⟨11, 0x100, [(0x4000, 4), (0x4, 64)], 25, 25, .ro, 0, .none, false, 0, 1⟩
def PLAIT_LAST_PRESENT : Row := ⟨11, 0x100, [(0x4000, 4), (0x4, 64)], 20, 16, .ro, 0, .none, false, 0, 31⟩
def PLAIT_LAST_MASK : Row := ⟨11, 0x100, [(0x4000, 4), (0x4, 64)], 15, 0, .ro, 0, .none, false, 0, 65535⟩
def PLAIT_CTX_LATE : Row := ⟨11, 0x200, [(0x4000, 4), (0x4, 64)], 31, 0, .rc, 0, .none, false, 0, 4294967295⟩
def PLAIT_CTX_EARLY : Row := ⟨11, 0x300, [(0x4000, 4), (0x4, 64)], 31, 0, .rc, 0, .none, false, 0, 4294967295⟩
def PLAIT_CNT : Row := ⟨11, 0x400, [(0x4000, 4), (0x8, 20)], 31, 0, .rc, 0, .none, true, 0, 4294967295⟩
def PLAIT_MISS_1000 : Row := ⟨11, 0x1000, [(0x4000, 4), (0x40, 32), (0x4, 16)], 31, 0, .rc, 0, .none, false, 0, 4294967295⟩
def PLAIT_MISS_2000 : Row := ⟨11, 0x2000, [(0x4000, 4), (0x40, 32), (0x4, 16)], 31, 0, .rc, 0, .none, false, 0, 4294967295⟩

/-! ### R361: block 12 -/

def MERID_NOW_FRAC : Row := ⟨12, 0x100, [], 15, 0, .ro, 0, .none, false, 0, 65535⟩
def MERID_NOW_NS : Row := ⟨12, 0x104, [], 29, 0, .ro, 0, .none, false, 0, 1073741823⟩
def MERID_NOW_SEC_LO : Row := ⟨12, 0x108, [], 31, 0, .ro, 0, .none, false, 0, 4294967295⟩
def MERID_NOW_SEC_HI : Row := ⟨12, 0x10C, [], 15, 0, .ro, 0, .none, false, 0, 65535⟩
def MERID_NOW_SHORT_LO : Row := ⟨12, 0x110, [], 31, 0, .ro, 0, .none, false, 0, 4294967295⟩
def MERID_NOW_SHORT_HI : Row := ⟨12, 0x114, [], 15, 0, .ro, 0, .none, false, 0, 65535⟩
def MERID_ADDEND : Row := ⟨12, 0x120, [], 31, 0, .ro, 0xa0000000, .none, false, 0, 4294967295⟩
def MERID_JUMP_GUARD : Row := ⟨12, 0x124, [], 31, 0, .rw, 0xf4240, .write, false, 0, 4294967295⟩
def MERID_TIME_VALID : Row := ⟨12, 0x128, [], 31, 31, .ro, 0, .none, false, 0, 1⟩
def MERID_LAST_STEP : Row := ⟨12, 0x130, [], 31, 0, .ro, 0, .none, true, 0, 4294967295⟩
def MERID_TS_POP : Row := ⟨12, 0x200, [], 31, 0, .ro, 0, .none, false, 0, 4294967295⟩
def MERID_TS_W1 : Row := ⟨12, 0x204, [(0x4, 5)], 31, 0, .ro, 0, .none, false, 0, 4294967295⟩
def MERID_TS_LEVEL : Row := ⟨12, 0x218, [], 12, 0, .ro, 0, .none, false, 0, 8191⟩
def MERID_TS_THRESH : Row := ⟨12, 0x21C, [], 12, 0, .rw, 0, .write, false, 0, 4096⟩
def MERID_OUT_POL : Row := ⟨12, 0x300, [], 2, 2, .rw, 0, .write, false, 0, 1⟩
def MERID_IN_POL : Row := ⟨12, 0x300, [], 1, 1, .rw, 0, .write, false, 0, 1⟩
def MERID_OUT_EN : Row := ⟨12, 0x300, [], 0, 0, .rw, 0, .write, false, 0, 1⟩
def MERID_PPS_WIDTH : Row := ⟨12, 0x304, [], 29, 0, .rw, 0x5f5e100, .write, false, 100, 999999999⟩
def MERID_PPS_OFFSET : Row := ⟨12, 0x308, [], 31, 0, .rw, 0, .write, false, 0, 4294967295⟩
def MERID_PPS_IN_TIME : Row := ⟨12, 0x310, [], 31, 0, .ro, 0, .none, true, 0, 4294967295⟩
def MERID_NEW_318 : Row := ⟨12, 0x318, [], 31, 31, .ro, 0, .none, false, 0, 1⟩
def MERID_TOD_PTR : Row := ⟨12, 0x318, [], 15, 0, .ro, 0, .none, false, 0, 65535⟩
def MERID_EDGE : Row := ⟨12, 0x340, [(0x10, 4)], 1, 0, .rw, 0, .write, false, 0, 3⟩
def MERID_NEW_344 : Row := ⟨12, 0x344, [(0x10, 4)], 31, 31, .ro, 0, .none, false, 0, 1⟩
def MERID_CAP_TIME : Row := ⟨12, 0x348, [(0x10, 4)], 31, 0, .ro, 0, .none, true, 0, 4294967295⟩
def MERID_ARMED : Row := ⟨12, 0x380, [(0x10, 4)], 31, 31, .ro, 0, .none, false, 0, 1⟩
def MERID_POL : Row := ⟨12, 0x380, [(0x10, 4)], 30, 30, .rw, 0, .write, false, 0, 1⟩
def MERID_TRIG_WIDTH : Row := ⟨12, 0x380, [(0x10, 4)], 29, 0, .rw, 0x64, .write, false, 1, 1000000000⟩
def MERID_TRIG_NEXT : Row := ⟨12, 0x388, [(0x10, 4)], 31, 0, .ro, 0, .none, true, 0, 4294967295⟩
def MERID_EN : Row := ⟨12, 0x3C0, [], 31, 31, .rw, 0, .write, false, 0, 1⟩
def MERID_SQUELCHED : Row := ⟨12, 0x3C0, [], 30, 30, .ro, 1, .none, false, 0, 1⟩
def MERID_LANE : Row := ⟨12, 0x3C0, [], 22, 16, .rw, 0, .write, false, 0, 127⟩
def MERID_DIV : Row := ⟨12, 0x3C0, [], 11, 0, .rw, 0xa5, .write, false, 16, 4095⟩
def MERID_TX_ARM : Row := ⟨12, 0x3E0, [], 31, 31, .w1p, 0, .write, false, 0, 1⟩
def MERID_TX_BUSY : Row := ⟨12, 0x3E0, [], 30, 30, .ro, 0, .none, false, 0, 1⟩
def MERID_TX_LEN : Row := ⟨12, 0x3E0, [], 22, 16, .rw, 1, .write, false, 1, 64⟩
def MERID_RX_EN : Row := ⟨12, 0x3E0, [], 3, 3, .rw, 0, .write, false, 0, 1⟩
def MERID_BAUD : Row := ⟨12, 0x3E0, [], 2, 0, .rw, 0, .write, false, 0, 4⟩
def MERID_TOD_TX_DELAY : Row := ⟨12, 0x3E4, [], 29, 0, .rw, 0, .write, false, 0, 999000000⟩
def MERID_TOD_RX_PTR : Row := ⟨12, 0x3E8, [], 15, 0, .ro, 0, .none, false, 0, 65535⟩
def MERID_TX_ADJ : Row := ⟨12, 0x400, [(0x4, 128)], 31, 16, .rw, 0, .frame, false, 0, 65535⟩
def MERID_RX_ADJ : Row := ⟨12, 0x400, [(0x4, 128)], 15, 0, .rw, 0, .frame, false, 0, 65535⟩
def MERID_TS_TYPES : Row := ⟨12, 0x600, [(0x4, 128)], 31, 16, .rw, 0, .frame, false, 0, 65535⟩
def MERID_CF_TYPES : Row := ⟨12, 0x600, [(0x4, 128)], 15, 0, .rw, 0, .frame, false, 0, 65535⟩
def MERID_CNT : Row := ⟨12, 0x2000, [(0x8, 11)], 31, 0, .rc, 0, .none, true, 0, 4294967295⟩
def MERID_TOD_RX_DATA : Row := ⟨12, 0x2400, [(0x4, 64)], 31, 0, .ro, 0, .none, false, 0, 4294967295⟩
def MERID_TOD_TX_DATA : Row := ⟨12, 0x2500, [(0x4, 16)], 31, 0, .rw, 0, .write, false, 0, 4294967295⟩

/-! ### R379: block 16 -/

def MBX_TX_WORD : Row := ⟨16, 0x0, [(0x4, 16)], 31, 0, .rw, 0, .write, false, 0, 4294967295⟩
def MBX_RX_WORD : Row := ⟨16, 0x40, [(0x4, 16)], 31, 0, .ro, 0, .none, false, 0, 4294967295⟩
def MBX_ATT_BASKET_80 : Row := ⟨16, 0x80, [], 30, 28, .rw, 0, .write, false, 0, 7⟩
def MBX_ATT_INDEX_80 : Row := ⟨16, 0x80, [], 27, 16, .rw, 0, .write, false, 0, 4095⟩
def MBX_ATT : Row := ⟨16, 0x80, [], 3, 3, .w1p, 0, .write, false, 0, 1⟩
def MBX_CANCEL : Row := ⟨16, 0x80, [], 2, 2, .w1p, 0, .write, false, 0, 1⟩
def MBX_WAIT : Row := ⟨16, 0x80, [], 1, 1, .w1p, 0, .write, false, 0, 1⟩
def MBX_GO : Row := ⟨16, 0x80, [], 0, 0, .w1p, 0, .write, false, 0, 1⟩
def MBX_POST_REFUSED : Row := ⟨16, 0x84, [], 13, 13, .w1c, 0, .write, false, 0, 1⟩
def MBX_LOCK_BROKEN : Row := ⟨16, 0x84, [], 12, 12, .w1c, 0, .write, false, 0, 1⟩
def MBX_TIMEOUT : Row := ⟨16, 0x84, [], 11, 11, .w1c, 0, .write, false, 0, 1⟩
def MBX_CROSSED : Row := ⟨16, 0x84, [], 10, 10, .w1c, 0, .write, false, 0, 1⟩
def MBX_ARRIVED : Row := ⟨16, 0x84, [], 9, 9, .w1c, 0, .write, false, 0, 1⟩
def MBX_EMPTIED : Row := ⟨16, 0x84, [], 8, 8, .w1c, 0, .write, false, 0, 1⟩
def MBX_IN_WAIT : Row := ⟨16, 0x84, [], 3, 3, .ro, 0, .none, false, 0, 1⟩
def MBX_OUT_WAIT : Row := ⟨16, 0x84, [], 2, 2, .ro, 0, .none, false, 0, 1⟩
def MBX_IN_FULL : Row := ⟨16, 0x84, [], 1, 1, .ro, 0, .none, false, 0, 1⟩
def MBX_OUT_FULL : Row := ⟨16, 0x84, [], 0, 0, .ro, 0, .none, false, 0, 1⟩
def MBX_SND_EPOCH : Row := ⟨16, 0x88, [], 31, 16, .ro, 0, .none, false, 0, 65535⟩
def MBX_RX_EPOCH : Row := ⟨16, 0x88, [], 15, 0, .ro, 0, .none, false, 0, 65535⟩
def MBX_VALID : Row := ⟨16, 0x8C, [], 31, 31, .ro, 0, .none, false, 0, 1⟩
def MBX_PREDATES : Row := ⟨16, 0x8C, [], 30, 30, .ro, 0, .none, false, 0, 1⟩
def MBX_STALE_SENDER : Row := ⟨16, 0x8C, [], 29, 29, .ro, 0, .none, false, 0, 1⟩
def MBX_ATT_V : Row := ⟨16, 0x8C, [], 28, 28, .ro, 0, .none, false, 0, 1⟩
def MBX_ATT_BASKET_8C : Row := ⟨16, 0x8C, [], 26, 24, .ro, 0, .none, false, 0, 7⟩
def MBX_SENDER : Row := ⟨16, 0x8C, [], 20, 16, .ro, 0, .none, false, 0, 31⟩
def MBX_ATT_INDEX_8C : Row := ⟨16, 0x8C, [], 11, 0, .ro, 0, .none, false, 0, 4095⟩
def MBX_OWNER : Row := ⟨16, 0x90, [], 4, 0, .rw, 0, .write, false, 0, 31⟩
def MBX_MY_EPOCH : Row := ⟨16, 0x94, [], 15, 0, .ro, 0, .none, false, 0, 65535⟩
def MBX_ATT_CTL : Row := ⟨16, 0xA0, [], 31, 0, .w1p, 0, .write, false, 0, 4294967295⟩
def MBX_ATT_STATUS : Row := ⟨16, 0xA4, [], 31, 0, .ro, 0, .none, false, 0, 4294967295⟩
def MBX_ATT_SEL : Row := ⟨16, 0xA8, [], 31, 0, .rw, 0, .write, false, 0, 4294967295⟩
def MBX_ATT_DATA : Row := ⟨16, 0x100, [(0x4, 64)], 31, 0, .rw, 0, .write, false, 0, 4294967295⟩

/-! ### R390: block 5 -/

def HOST_UNIT : Row := ⟨5, 0x100, [(0x4, 64)], 15, 14, .rw, 1, .write, false, 0, 1⟩
def HOST_COUNT : Row := ⟨5, 0x100, [(0x4, 64)], 13, 0, .rw, 1, .write, false, 0, 16383⟩
def HOST_SPREAD_LOG2 : Row := ⟨5, 0x200, [(0x4, 64)], 10, 8, .rw, 0, .frame, false, 0, 4⟩
def HOST_RING_BASE : Row := ⟨5, 0x200, [(0x4, 64)], 7, 0, .rw, 0, .frame, false, 0, 255⟩
def HOST_HANDLE_300 : Row := ⟨5, 0x300, [], 14, 0, .w1p, 0, .write, false, 0, 32767⟩
def HOST_CRX_POP : Row := ⟨5, 0x400, [], 31, 0, .ro, 0, .none, false, 0, 4294967295⟩
def HOST_CRX_W1 : Row := ⟨5, 0x404, [(0x4, 7)], 31, 0, .ro, 0, .none, false, 0, 4294967295⟩
def HOST_CELL : Row := ⟨5, 0x440, [], 21, 16, .rw, 0, .write, false, 0, 37⟩
def HOST_HANDLE_440 : Row := ⟨5, 0x440, [], 14, 0, .rw, 0, .write, false, 0, 32767⟩
def HOST_LOAN_DATA : Row := ⟨5, 0x500, [(0x4, 64)], 31, 0, .rw, 0, .write, false, 0, 4294967295⟩
def HOST_CNT : Row := ⟨5, 0x600, [(0x8, 10)], 31, 0, .rc, 0, .none, true, 0, 4294967295⟩
def HOST_BUF_BASE_LO : Row := ⟨5, 0x1000, [(0x1000, 4), (0x20, 64)], 31, 12, .rw, 0, .disable, false, 0, 1048575⟩
def HOST_BUF_BASE_HI : Row := ⟨5, 0x1004, [(0x1000, 4), (0x20, 64)], 31, 0, .rw, 0, .disable, false, 0, 4294967295⟩
def HOST_CQ_BASE_LO : Row := ⟨5, 0x1008, [(0x1000, 4), (0x20, 64)], 31, 12, .rw, 0, .disable, false, 0, 1048575⟩
def HOST_CQ_BASE_HI : Row := ⟨5, 0x100C, [(0x1000, 4), (0x20, 64)], 31, 0, .rw, 0, .disable, false, 0, 4294967295⟩
def HOST_IRQ_EN : Row := ⟨5, 0x1010, [(0x1000, 4), (0x20, 64)], 30, 30, .rw, 0, .write, false, 0, 1⟩
def HOST_VEC : Row := ⟨5, 0x1010, [(0x1000, 4), (0x20, 64)], 29, 24, .rw, 0, .write, false, 0, 63⟩
def HOST_BUF_LEN : Row := ⟨5, 0x1010, [(0x1000, 4), (0x20, 64)], 21, 8, .rw, 0xa0, .disable, false, 4, 256⟩
def HOST_SIZE_LOG2 : Row := ⟨5, 0x1010, [(0x1000, 4), (0x20, 64)], 7, 4, .rw, 4, .disable, false, 4, 12⟩
def HOST_EN : Row := ⟨5, 0x1010, [(0x1000, 4), (0x20, 64)], 0, 0, .rw, 0, .write, false, 0, 1⟩
def HOST_BUF_TAIL : Row := ⟨5, 0x1014, [(0x1000, 4), (0x20, 64)], 15, 0, .rw, 0, .write, false, 0, 65535⟩
def HOST_HEAD : Row := ⟨5, 0x1018, [(0x1000, 4), (0x20, 64)], 15, 0, .ro, 0, .none, false, 0, 65535⟩
def HOST_ERR : Row := ⟨5, 0x101C, [(0x1000, 4), (0x20, 64)], 31, 31, .w1c, 0, .write, false, 0, 1⟩
def HOST_ERR_CODE : Row := ⟨5, 0x101C, [(0x1000, 4), (0x20, 64)], 7, 4, .ro, 0, .none, false, 0, 15⟩
def HOST_STATE : Row := ⟨5, 0x101C, [(0x1000, 4), (0x20, 64)], 1, 0, .ro, 0, .none, false, 0, 3⟩
def HOST_TX_BASE_LO : Row := ⟨5, 0x5000, [(0x1000, 4), (0x20, 64)], 31, 12, .rw, 0, .disable, false, 0, 1048575⟩
def HOST_TX_BASE_HI : Row := ⟨5, 0x5004, [(0x1000, 4), (0x20, 64)], 31, 0, .rw, 0, .disable, false, 0, 4294967295⟩
def HOST_WB_LO : Row := ⟨5, 0x5008, [(0x1000, 4), (0x20, 64)], 31, 3, .rw, 0, .disable, false, 0, 536870911⟩
def HOST_WB_HI : Row := ⟨5, 0x500C, [(0x1000, 4), (0x20, 64)], 31, 0, .rw, 0, .disable, false, 0, 4294967295⟩
def HOST_TX_IRQ_EN : Row := ⟨5, 0x5010, [(0x1000, 4), (0x20, 64)], 30, 30, .rw, 0, .write, false, 0, 1⟩
def HOST_TX_VEC : Row := ⟨5, 0x5010, [(0x1000, 4), (0x20, 64)], 29, 24, .rw, 0, .write, false, 0, 63⟩
def HOST_TX_SIZE_LOG2 : Row := ⟨5, 0x5010, [(0x1000, 4), (0x20, 64)], 7, 4, .rw, 4, .disable, false, 4, 12⟩
def HOST_TX_EN : Row := ⟨5, 0x5010, [(0x1000, 4), (0x20, 64)], 0, 0, .rw, 0, .write, false, 0, 1⟩
def HOST_TX_TAIL : Row := ⟨5, 0x5014, [(0x1000, 4), (0x20, 64)], 15, 0, .rw, 0, .write, false, 0, 65535⟩
def HOST_TX_HEAD : Row := ⟨5, 0x5018, [(0x1000, 4), (0x20, 64)], 15, 0, .ro, 0, .none, false, 0, 65535⟩
def HOST_TX_ERR : Row := ⟨5, 0x501C, [(0x1000, 4), (0x20, 64)], 31, 31, .w1c, 0, .write, false, 0, 1⟩
def HOST_TX_ERR_CODE : Row := ⟨5, 0x501C, [(0x1000, 4), (0x20, 64)], 7, 4, .ro, 0, .none, false, 0, 15⟩
def HOST_TX_STATE : Row := ⟨5, 0x501C, [(0x1000, 4), (0x20, 64)], 1, 0, .ro, 0, .none, false, 0, 3⟩
def HOST_RX_FRAMES : Row := ⟨5, 0xA000, [(0x8, 256)], 31, 0, .rc, 0, .none, true, 0, 4294967295⟩
def HOST_TX_FRAMES : Row := ⟨5, 0xB000, [(0x8, 256)], 31, 0, .rc, 0, .none, true, 0, 4294967295⟩
def HOST_TX_REFUSED : Row := ⟨5, 0xC000, [(0x8, 256)], 31, 0, .rc, 0, .none, true, 0, 4294967295⟩

/-! ### R409: block 14 -/

def CC_AUTO_RESTART : Row := ⟨14, 0x0, [], 1, 1, .rw, 1, .write, false, 0, 1⟩
def CC_AUTO_START : Row := ⟨14, 0x0, [], 0, 0, .rw, 1, .write, false, 0, 1⟩
def CC_ACTIVE : Row := ⟨14, 0x4, [], 1, 0, .ro, 0, .none, false, 0, 3⟩
def CC_CKPT_BASE : Row := ⟨14, 0x10, [], 22, 0, .rw, 0, .write, false, 0, 8388607⟩
def CC_GO_14 : Row := ⟨14, 0x14, [], 31, 31, .w1p, 0, .write, false, 0, 1⟩
def CC_BUSY : Row := ⟨14, 0x14, [], 30, 30, .ro, 0, .none, false, 0, 1⟩
def CC_LEN : Row := ⟨14, 0x14, [], 6, 0, .rw, 0x40, .write, false, 1, 64⟩
def CC_CKPT_SEQ : Row := ⟨14, 0x18, [], 31, 0, .ro, 0, .none, false, 0, 4294967295⟩
def CC_LP4X_SEQ : Row := ⟨14, 0x1C, [], 31, 0, .ro, 0, .none, false, 0, 4294967295⟩
def CC_SRC : Row := ⟨14, 0x20, [], 1, 0, .ro, 0, .none, false, 0, 3⟩
def CC_RESTORE_SEQ : Row := ⟨14, 0x24, [], 31, 0, .ro, 0, .none, false, 0, 4294967295⟩
def CC_IMG_ADDR : Row := ⟨14, 0x30, [], 31, 0, .rw, 0, .write, true, 0, 4294967295⟩
def CC_GO_38 : Row := ⟨14, 0x38, [], 31, 31, .w1p, 0, .write, false, 0, 1⟩
def CC_PAGES : Row := ⟨14, 0x38, [], 10, 0, .rw, 0, .write, false, 1, 1024⟩
def CC_STATE_3C : Row := ⟨14, 0x3C, [], 1, 0, .ro, 0, .none, false, 0, 3⟩
def CC_IMG_VERSION : Row := ⟨14, 0x40, [], 31, 0, .ro, 0, .none, false, 0, 4294967295⟩
def CC_CLAIM : Row := ⟨14, 0x100, [(0x40, 2)], 31, 24, .ro, 0, .none, false, 0, 255⟩
def CC_CAUSE : Row := ⟨14, 0x100, [(0x40, 2)], 19, 16, .ro, 0, .none, false, 0, 15⟩
def CC_STATE_100 : Row := ⟨14, 0x100, [(0x40, 2)], 3, 0, .ro, 0, .none, false, 0, 15⟩
def CC_START : Row := ⟨14, 0x104, [(0x40, 2)], 2, 2, .w1p, 0, .write, false, 0, 1⟩
def CC_RESTART : Row := ⟨14, 0x104, [(0x40, 2)], 1, 1, .w1p, 0, .write, false, 0, 1⟩
def CC_FORCE_FAULT : Row := ⟨14, 0x104, [(0x40, 2)], 0, 0, .w1p, 0, .write, false, 0, 1⟩
def CC_PROMOTE : Row := ⟨14, 0x108, [(0x40, 2)], 2, 2, .w1p, 0, .write, false, 0, 1⟩
def CC_SELF_FAULT : Row := ⟨14, 0x108, [(0x40, 2)], 1, 1, .w1p, 0, .write, false, 0, 1⟩
def CC_KICK : Row := ⟨14, 0x108, [(0x40, 2)], 0, 0, .w1p, 0, .write, false, 0, 1⟩
def CC_WDOG_MS : Row := ⟨14, 0x10C, [(0x40, 2)], 9, 0, .rw, 0x64, .write, false, 10, 1000⟩
def CC_PASS : Row := ⟨14, 0x110, [(0x40, 2)], 31, 31, .ro, 0, .none, false, 0, 1⟩
def CC_FAIL_ITEM : Row := ⟨14, 0x110, [(0x40, 2)], 23, 16, .ro, 0, .none, false, 0, 255⟩
def CC_TESTS : Row := ⟨14, 0x110, [(0x40, 2)], 15, 0, .ro, 0, .none, false, 0, 65535⟩
def CC_HEALTH_TIME : Row := ⟨14, 0x118, [(0x40, 2)], 31, 0, .ro, 0, .none, true, 0, 4294967295⟩
def CC_FAULT_TIME : Row := ⟨14, 0x120, [(0x40, 2)], 31, 0, .ro, 0, .none, true, 0, 4294967295⟩
def CC_CNT : Row := ⟨14, 0x400, [(0x40, 2), (0x8, 8)], 31, 0, .rc, 0, .none, true, 0, 4294967295⟩
def CC_CKPT_CNT : Row := ⟨14, 0x480, [(0x8, 2)], 31, 0, .rc, 0, .none, true, 0, 4294967295⟩

/-! ### R420: block 3 -/

def EVENT_FORCE : Row := ⟨3, 0x10, [], 1, 1, .rw, 0, .write, false, 0, 1⟩
def EVENT_FAULT_ASSERTED : Row := ⟨3, 0x10, [], 0, 0, .ro, 0, .none, false, 0, 1⟩
def EVENT_PERF_USER : Row := ⟨3, 0x14, [], 15, 0, .rw, 0, .write, false, 0, 65535⟩
def EVENT_STATUS : Row := ⟨3, 0x100, [(0x4, 36)], 31, 0, .w1c, 0, .write, false, 0, 4294967295⟩
def EVENT_COAL_US : Row := ⟨3, 0x200, [(0x4, 64)], 9, 0, .rw, 0, .write, false, 0, 1000⟩
def EVENT_V : Row := ⟨3, 0x300, [(0x4, 64)], 31, 31, .ro, 0, .none, false, 0, 1⟩
def EVENT_SRC : Row := ⟨3, 0x300, [(0x4, 64)], 10, 0, .ro, 0, .none, false, 0, 2047⟩
def EVENT_LINE_FIRST : Row := ⟨3, 0x400, [(0x4, 3)], 31, 0, .ro, 0, .none, false, 0, 4294967295⟩
def EVENT_EN : Row := ⟨3, 0x1000, [(0x1000, 3), (0x4, 512)], 31, 31, .rw, 0, .write, false, 0, 1⟩
def EVENT_FAULT : Row := ⟨3, 0x1000, [(0x1000, 3), (0x4, 512)], 30, 30, .rw, 0, .write, false, 0, 1⟩
def EVENT_CC_ACT : Row := ⟨3, 0x1000, [(0x1000, 3), (0x4, 512)], 29, 29, .rw, 0, .write, false, 0, 1⟩
def EVENT_CC_A : Row := ⟨3, 0x1000, [(0x1000, 3), (0x4, 512)], 28, 28, .rw, 0, .write, false, 0, 1⟩
def EVENT_CC_B : Row := ⟨3, 0x1000, [(0x1000, 3), (0x4, 512)], 27, 27, .rw, 0, .write, false, 0, 1⟩
def EVENT_VEC_EN : Row := ⟨3, 0x1000, [(0x1000, 3), (0x4, 512)], 26, 26, .rw, 0, .write, false, 0, 1⟩
def EVENT_VEC : Row := ⟨3, 0x1000, [(0x1000, 3), (0x4, 512)], 5, 0, .rw, 0, .write, false, 0, 63⟩
def EVENT_EVT_COUNT : Row := ⟨3, 0x4000, [(0x1000, 3), (0x4, 512)], 31, 0, .rc, 0, .none, false, 0, 4294967295⟩

/-! ### R430: block 15 -/

def TALLY_EN : Row := ⟨15, 0x10, [], 31, 31, .rw, 0, .write, false, 0, 1⟩
def TALLY_LOC : Row := ⟨15, 0x10, [], 30, 30, .rw, 0, .disable, false, 0, 1⟩
def TALLY_FUNC : Row := ⟨15, 0x10, [], 29, 25, .rw, 0, .disable, false, 0, 15⟩
def TALLY_IRQ_EN : Row := ⟨15, 0x10, [], 24, 24, .rw, 0, .write, false, 0, 1⟩
def TALLY_VEC : Row := ⟨15, 0x10, [], 23, 18, .rw, 0, .write, false, 0, 63⟩
def TALLY_ENTRY_LOG2 : Row := ⟨15, 0x10, [], 12, 8, .rw, 0x10, .disable, false, 12, 21⟩
def TALLY_SIZE_LOG2 : Row := ⟨15, 0x10, [], 4, 0, .rw, 4, .disable, false, 2, 16⟩
def TALLY_KINDS : Row := ⟨15, 0x14, [], 15, 0, .rw, 0, .write, false, 0, 65535⟩
def TALLY_PERIOD_US : Row := ⟨15, 0x18, [], 31, 0, .rw, 0, .write, false, 0, 4294967295⟩
def TALLY_RING_BASE : Row := ⟨15, 0x20, [], 31, 0, .rw, 0, .disable, true, 0, 4294967295⟩
def TALLY_PROD : Row := ⟨15, 0x28, [], 31, 0, .ro, 0, .none, false, 0, 4294967295⟩
def TALLY_CONS : Row := ⟨15, 0x2C, [], 31, 0, .rw, 0, .write, false, 0, 4294967295⟩
def TALLY_STATE : Row := ⟨15, 0x30, [], 1, 0, .ro, 0, .none, false, 0, 3⟩
def TALLY_CNT : Row := ⟨15, 0x40, [(0x8, 4)], 31, 0, .ro, 0, .none, true, 0, 4294967295⟩
def TALLY_PIPE_WORD : Row := ⟨15, 0x1000, [(0x100, 8), (0x8, 20)], 31, 0, .ro, 0, .none, true, 0, 4294967295⟩
def TALLY_THREAD_WORD : Row := ⟨15, 0x2000, [(0x40, 8), (0x8, 6)], 31, 0, .ro, 0, .none, true, 0, 4294967295⟩

/-! ### R449: block 15 -/

def TAP_TAP_SENDS : Row := ⟨15, 0x3000, [], 31, 0, .rc, 0, .none, true, 0, 4294967295⟩
def TAP_TAP_UNATTR : Row := ⟨15, 0x3008, [], 31, 0, .rc, 0, .none, true, 0, 4294967295⟩
def TAP_TAP_DISCARD : Row := ⟨15, 0x3010, [], 31, 0, .rc, 0, .none, true, 0, 4294967295⟩
def TAP_LINK_UP : Row := ⟨15, 0x3018, [], 31, 31, .ro, 0, .none, false, 0, 1⟩

/-! ### R472: block 1 -/

def CLOCKS_PPM_TH : Row := ⟨1, 0x10, [], 17, 8, .rw, 0x1f4, .write, false, 50, 1000⟩
def CLOCKS_REVERTIVE : Row := ⟨1, 0x10, [], 2, 2, .rw, 0, .write, false, 0, 1⟩
def CLOCKS_SEL : Row := ⟨1, 0x10, [], 1, 0, .rw, 0, .write, false, 0, 2⟩
def CLOCKS_HOLDOVER : Row := ⟨1, 0x14, [], 5, 5, .ro, 0, .none, false, 0, 1⟩
def CLOCKS_PLL_LOCKED : Row := ⟨1, 0x14, [], 4, 4, .ro, 0, .none, false, 0, 1⟩
def CLOCKS_B_OK : Row := ⟨1, 0x14, [], 3, 3, .ro, 0, .none, false, 0, 1⟩
def CLOCKS_A_OK : Row := ⟨1, 0x14, [], 2, 2, .ro, 0, .none, false, 0, 1⟩
def CLOCKS_IN_USE : Row := ⟨1, 0x14, [], 1, 0, .ro, 0, .none, false, 0, 3⟩
def CLOCKS_STRAP_REF : Row := ⟨1, 0x18, [], 1, 1, .ro, 0, .none, false, 0, 1⟩
def CLOCKS_STRAP_SPI : Row := ⟨1, 0x18, [], 0, 0, .ro, 0, .none, false, 0, 1⟩
def CLOCKS_REF_SWITCHES : Row := ⟨1, 0x20, [], 31, 0, .rc, 0, .none, false, 0, 4294967295⟩
def CLOCKS_HOLDOVERS : Row := ⟨1, 0x24, [], 31, 0, .rc, 0, .none, false, 0, 4294967295⟩
def CLOCKS_READY_DELTA : Row := ⟨1, 0x40, [], 31, 0, .w1c, 0, .write, true, 0, 4294967295⟩
def CLOCKS_TEMP : Row := ⟨1, 0x100, [], 15, 0, .ro, 0, .none, false, 0, 65535⟩
def CLOCKS_TEMP_MAX : Row := ⟨1, 0x104, [], 15, 0, .rc, 0, .none, false, 0, 65535⟩
def CLOCKS_WARN_TH : Row := ⟨1, 0x108, [], 7, 0, .rw, 0x64, .write, false, 60, 114⟩
def CLOCKS_WAYS : Row := ⟨1, 0x200, [], 6, 4, .rw, 0, .write, false, 0, 4⟩
def CLOCKS_DENSITY : Row := ⟨1, 0x200, [], 1, 0, .rw, 0, .write, false, 0, 2⟩
def CLOCKS_USABLE : Row := ⟨1, 0x204, [], 22, 0, .ro, 0, .none, false, 0, 8388607⟩
def CLOCKS_EN : Row := ⟨1, 0x210, [], 31, 31, .rw, 0, .write, false, 0, 1⟩
def CLOCKS_EXT_BASE : Row := ⟨1, 0x210, [], 22, 0, .rw, 0, .disable, false, 0, 8388607⟩
def CLOCKS_EXT_STATE : Row := ⟨1, 0x214, [], 1, 0, .ro, 0, .none, false, 0, 3⟩

/-! ### R473: block 13 -/

def LP4X_MEM_SEL : Row := ⟨13, 0x10, [], 2, 0, .rw, 0, .write, false, 0, 7⟩
def LP4X_RETRAIN : Row := ⟨13, 0x100, [], 0, 0, .w1p, 0, .write, false, 0, 1⟩
def LP4X_FAIL_STEP : Row := ⟨13, 0x104, [], 11, 8, .ro, 0, .none, false, 0, 15⟩
def LP4X_ATTEMPTS : Row := ⟨13, 0x104, [], 5, 4, .ro, 0, .none, false, 0, 3⟩
def LP4X_STATE : Row := ⟨13, 0x104, [], 1, 0, .ro, 0, .none, false, 0, 3⟩
def LP4X_VALID : Row := ⟨13, 0x108, [], 31, 31, .w1c, 0, .write, false, 0, 1⟩
def LP4X_GRANULE : Row := ⟨13, 0x108, [], 25, 0, .ro, 0, .none, false, 0, 67108863⟩
def LP4X_CNT : Row := ⟨13, 0x2000, [(0x8, 6)], 31, 0, .rc, 0, .none, true, 0, 4294967295⟩

/-! ### R492: block 2 -/

def POWER_PD_SEL : Row := ⟨2, 0x10, [], 5, 0, .rw, 0, .write, false, 0, 43⟩
def POWER_GO : Row := ⟨2, 0x100, [], 31, 31, .w1p, 0, .write, false, 0, 1⟩
def POWER_TARGET : Row := ⟨2, 0x100, [], 1, 0, .rw, 0, .write, false, 0, 2⟩
def POWER_STATE : Row := ⟨2, 0x104, [], 31, 30, .ro, 0, .none, false, 0, 3⟩
def POWER_BUSY : Row := ⟨2, 0x104, [], 29, 29, .ro, 0, .none, false, 0, 1⟩
def POWER_QUEUED_V : Row := ⟨2, 0x104, [], 28, 28, .ro, 0, .none, false, 0, 1⟩
def POWER_QUEUED : Row := ⟨2, 0x104, [], 27, 26, .ro, 0, .none, false, 0, 3⟩
def POWER_IN_TARGET : Row := ⟨2, 0x104, [], 25, 24, .ro, 0, .none, false, 0, 3⟩
def POWER_LAST_RESULT : Row := ⟨2, 0x104, [], 23, 22, .ro, 0, .none, false, 0, 3⟩
def POWER_REFUSER_DOM : Row := ⟨2, 0x104, [], 21, 16, .ro, 0, .none, false, 0, 63⟩
def POWER_LAST_REFUSER : Row := ⟨2, 0x104, [], 11, 8, .ro, 0, .none, false, 0, 15⟩
def POWER_ON_MAP : Row := ⟨2, 0x200, [], 31, 0, .ro, 0, .none, true, 0, 4294967295⟩
def POWER_RET_MAP : Row := ⟨2, 0x208, [], 31, 0, .ro, 0, .none, true, 0, 4294967295⟩
def POWER_BUSY_MAP : Row := ⟨2, 0x210, [], 31, 0, .ro, 0, .none, true, 0, 4294967295⟩
def POWER_DELTA_MAP : Row := ⟨2, 0x218, [], 31, 0, .w1c, 0, .write, true, 0, 4294967295⟩
def POWER_AVS_EN : Row := ⟨2, 0x300, [], 31, 31, .rw, 0, .write, false, 0, 1⟩
def POWER_AVS_TIMEOUT : Row := ⟨2, 0x300, [], 14, 0, .rw, 0x3e8, .write, false, 100, 20000⟩
def POWER_SWITCH_TIMEOUT : Row := ⟨2, 0x304, [], 9, 0, .rw, 0x32, .write, false, 5, 1000⟩
def POWER_VOLT_SRAM : Row := ⟨2, 0x308, [], 31, 16, .ro, 0, .none, false, 0, 65535⟩
def POWER_VOLT_CORE : Row := ⟨2, 0x308, [], 15, 0, .ro, 0, .none, false, 0, 65535⟩
def POWER_WAKE_EN : Row := ⟨2, 0x400, [], 31, 16, .rw, 0, .write, false, 0, 65535⟩
def POWER_WAKE_POL : Row := ⟨2, 0x400, [], 15, 0, .rw, 0, .write, false, 0, 65535⟩
def POWER_WAKE_PG_EN : Row := ⟨2, 0x404, [], 7, 0, .rw, 0, .write, false, 0, 255⟩
def POWER_WAKE_DOM : Row := ⟨2, 0x500, [(0x8, 24)], 31, 0, .rw, 0, .write, true, 0, 4294967295⟩
def POWER_DOM_CNT : Row := ⟨2, 0x2000, [(0x20, 44), (0x8, 3)], 31, 0, .rc, 0, .none, true, 0, 4294967295⟩
def POWER_CNT : Row := ⟨2, 0x3000, [(0x8, 2)], 31, 0, .rc, 0, .none, true, 0, 4294967295⟩

/-! ### R525: block 15 -/

def RAS_RAS_CORR : Row := ⟨15, 0x4000, [(0x10, 18)], 31, 0, .rc, 0, .none, true, 0, 4294967295⟩
def RAS_RAS_UNCORR : Row := ⟨15, 0x4008, [(0x10, 18)], 31, 0, .rc, 0, .none, true, 0, 4294967295⟩
def RAS_SCRUB_PASSES : Row := ⟨15, 0x4300, [], 31, 0, .rc, 0, .none, true, 0, 4294967295⟩
def RAS_VALID : Row := ⟨15, 0x4400, [], 31, 31, .w1c, 0, .write, false, 0, 1⟩
def RAS_STRUCT : Row := ⟨15, 0x4400, [], 28, 24, .ro, 0, .none, false, 0, 31⟩
def RAS_INSTANCE : Row := ⟨15, 0x4400, [], 21, 16, .ro, 0, .none, false, 0, 63⟩
def RAS_SCRUB : Row := ⟨15, 0x4400, [], 0, 0, .ro, 0, .none, false, 0, 1⟩
def RAS_INDEX : Row := ⟨15, 0x4404, [], 19, 0, .ro, 0, .none, false, 0, 1048575⟩

/-- Block 0, part 0. -/
def rows0_0 : List Row :=
  [GLOBAL_PART, GLOBAL_FAMILY, GLOBAL_REV, GLOBAL_WHOAMI, GLOBAL_LAST_RESET,
   GLOBAL_CAUSE_8, GLOBAL_REF_IN_USE, GLOBAL_FW_SRC, GLOBAL_STATE, GLOBAL_BOOT_RETRY,
   GLOBAL_WR_REFUSED, GLOBAL_REFUSED_ADDR, GLOBAL_VALID, GLOBAL_ID, GLOBAL_CAUSE_28,
   GLOBAL_READY_MAP, GLOBAL_READY_MAP_HI]

/-- The fields of block 0. -/
def rows0 : List Row := rows0_0

/-- Block 1, part 0. -/
def rows1_0 : List Row :=
  [CLOCKS_PPM_TH, CLOCKS_REVERTIVE, CLOCKS_SEL, CLOCKS_HOLDOVER, CLOCKS_PLL_LOCKED,
   CLOCKS_B_OK, CLOCKS_A_OK, CLOCKS_IN_USE, CLOCKS_STRAP_REF, CLOCKS_STRAP_SPI,
   CLOCKS_REF_SWITCHES, CLOCKS_HOLDOVERS, CLOCKS_READY_DELTA, CLOCKS_TEMP, CLOCKS_TEMP_MAX,
   CLOCKS_WARN_TH, CLOCKS_WAYS, CLOCKS_DENSITY, CLOCKS_USABLE, CLOCKS_EN,
   CLOCKS_EXT_BASE, CLOCKS_EXT_STATE]

/-- The fields of block 1. -/
def rows1 : List Row := rows1_0

/-- Block 2, part 0. -/
def rows2_0 : List Row :=
  [POWER_PD_SEL, POWER_GO, POWER_TARGET, POWER_STATE, POWER_BUSY,
   POWER_QUEUED_V, POWER_QUEUED, POWER_IN_TARGET, POWER_LAST_RESULT, POWER_REFUSER_DOM,
   POWER_LAST_REFUSER, POWER_ON_MAP, POWER_RET_MAP, POWER_BUSY_MAP, POWER_DELTA_MAP,
   POWER_AVS_EN, POWER_AVS_TIMEOUT, POWER_SWITCH_TIMEOUT, POWER_VOLT_SRAM, POWER_VOLT_CORE,
   POWER_WAKE_EN, POWER_WAKE_POL, POWER_WAKE_PG_EN, POWER_WAKE_DOM, POWER_DOM_CNT,
   POWER_CNT]

/-- The fields of block 2. -/
def rows2 : List Row := rows2_0

/-- Block 3, part 0. -/
def rows3_0 : List Row :=
  [EVENT_FORCE, EVENT_FAULT_ASSERTED, EVENT_PERF_USER, EVENT_STATUS, EVENT_COAL_US,
   EVENT_V, EVENT_SRC, EVENT_LINE_FIRST, EVENT_EN, EVENT_FAULT,
   EVENT_CC_ACT, EVENT_CC_A, EVENT_CC_B, EVENT_VEC_EN, EVENT_VEC,
   EVENT_EVT_COUNT]

/-- The fields of block 3. -/
def rows3 : List Row := rows3_0

/-- Block 4, part 0. -/
def rows4_0 : List Row :=
  [SEQ_SEQ_EN, SEQ_THREAD_HALT, SEQ_ERR_RING, SEQ_DB_REFUSED, SEQ_PRIV_REFUSED,
   SEQ_TAG, SEQ_RING, SEQ_STATE_100, SEQ_PC, SEQ_CR_BASE_LO,
   SEQ_CR_BASE_HI, SEQ_CQ_BASE_LO, SEQ_CQ_BASE_HI, SEQ_RING_LOC, SEQ_VEC,
   SEQ_IRQ_EN, SEQ_MAXTHR, SEQ_PAR, SEQ_THREAD_MASK, SEQ_SIZE_LOG2,
   SEQ_PRIO, SEQ_EN, SEQ_CR_BUDGET, SEQ_ERR, SEQ_RUNNING,
   SEQ_ERR_CODE, SEQ_STATE_1018, SEQ_STARTED]

/-- The fields of block 4. -/
def rows4 : List Row := rows4_0

/-- Block 5, part 0. -/
def rows5_0 : List Row :=
  [HOST_UNIT, HOST_COUNT, HOST_SPREAD_LOG2, HOST_RING_BASE, HOST_HANDLE_300,
   HOST_CRX_POP, HOST_CRX_W1, HOST_CELL, HOST_HANDLE_440, HOST_LOAN_DATA,
   HOST_CNT, HOST_BUF_BASE_LO, HOST_BUF_BASE_HI, HOST_CQ_BASE_LO, HOST_CQ_BASE_HI,
   HOST_IRQ_EN, HOST_VEC, HOST_BUF_LEN, HOST_SIZE_LOG2, HOST_EN,
   HOST_BUF_TAIL, HOST_HEAD, HOST_ERR, HOST_ERR_CODE, HOST_STATE,
   HOST_TX_BASE_LO, HOST_TX_BASE_HI, HOST_WB_LO, HOST_WB_HI, HOST_TX_IRQ_EN]

/-- Block 5, part 1. -/
def rows5_1 : List Row :=
  [HOST_TX_VEC, HOST_TX_SIZE_LOG2, HOST_TX_EN, HOST_TX_TAIL, HOST_TX_HEAD,
   HOST_TX_ERR, HOST_TX_ERR_CODE, HOST_TX_STATE, HOST_RX_FRAMES, HOST_TX_FRAMES,
   HOST_TX_REFUSED]

/-- The fields of block 5. -/
def rows5 : List Row := rows5_0 ++ rows5_1

/-- Block 6, part 0. -/
def rows6_0 : List Row :=
  [PORT_PORT_SEL, PORT_LOOP, PORT_LT, PORT_AN, PORT_FEC,
   PORT_MODE, PORT_ENABLE, PORT_MAX_LEN, PORT_EXP_CLASS, PORT_PFC_CLASS_EN,
   PORT_PFC, PORT_TX_EN, PORT_RX_EN, PORT_WDOG_HOLD, PORT_WDOG_TIME,
   PORT_REFRESH, PORT_QUANTA, PORT_ADD_FRAG, PORT_PREEMPTABLE, PORT_VERIFY_TIME,
   PORT_VERIFY_DIS, PORT_PREEMPT_EN, PORT_LINK_DOWN_HOLD, PORT_LINK_UP_DB, PORT_WIN,
   PORT_TH, PORT_SNAP, PORT_MAC_ADDR, PORT_MAC_ADDR_HI, PORT_HOLDOFF]

/-- Block 6, part 1. -/
def rows6_1 : List Row :=
  [PORT_PAUSED, PORT_CFG_ERR, PORT_VERIFY, PORT_REMOTE_FAULT, PORT_LOCAL_FAULT,
   PORT_LINK_STATE, PORT_RESULT, PORT_RX_CNT, PORT_TX_CNT, PORT_RX_SNAP,
   PORT_TX_SNAP, PORT_FEC_CNT, PORT_FEC_SNAP, PORT_MASK, PORT_EN,
   PORT_CRC, PORT_LISTEN, PORT_VALID, PORT_PATTERN, PORT_LANE]

/-- The fields of block 6. -/
def rows6 : List Row := rows6_0 ++ rows6_1

/-- Block 7, part 0. -/
def rows7_0 : List Row :=
  [BRIDGE_BRIDGE_SEL, BRIDGE_CM_TAP, BRIDGE_SD_AIS, BRIDGE_PRIVILEGED, BRIDGE_SIZE,
   BRIDGE_ROLE, BRIDGE_OPTION, BRIDGE_EN, BRIDGE_M, BRIDGE_N,
   BRIDGE_SD_EXIT, BRIDGE_SD_ENTRY, BRIDGE_SD_EXP, BRIDGE_LOF_EXIT, BRIDGE_LOF_ENTRY,
   BRIDGE_LOS_EXIT, BRIDGE_LOS_ENTRY, BRIDGE_SDI_EXIT, BRIDGE_SDI_ENTRY, BRIDGE_RAI_EXIT,
   BRIDGE_RAI_ENTRY, BRIDGE_CONT_ETYPE, BRIDGE_VLAN_EN, BRIDGE_PCP, BRIDGE_VID,
   BRIDGE_CONT_DA, BRIDGE_CONT_DA_HI, BRIDGE_CONT_SA, BRIDGE_CONT_SA_HI, BRIDGE_MAP_TARGET]

/-- Block 7, part 1. -/
def rows7_1 : List Row :=
  [BRIDGE_PO_TARGET, BRIDGE_LIMIT, BRIDGE_BW, BRIDGE_CLOSS_13C, BRIDGE_GAP_MAX,
   BRIDGE_RAI_TX, BRIDGE_RDI_TX, BRIDGE_AIS_TX, BRIDGE_CFG_ERR, BRIDGE_CAND,
   BRIDGE_ULOF_RX, BRIDGE_RDI_RX, BRIDGE_AIS_RX, BRIDGE_CLOSS_1000, BRIDGE_DEFECTS,
   BRIDGE_DEMAP_STATE, BRIDGE_ALIGN_STATE, BRIDGE_PO_FILL, BRIDGE_MAP_FILL, BRIDGE_NCO_OFFSET,
   BRIDGE_DELAY_MIN, BRIDGE_DELAY_MAX, BRIDGE_BFN, BRIDGE_HFN, BRIDGE_CNT]

/-- The fields of block 7. -/
def rows7 : List Row := rows7_0 ++ rows7_1

/-- Block 8, part 0. -/
def rows8_0 : List Row :=
  [SURVEY_DEPTH_HEADERS, SURVEY_LEN_LATE, SURVEY_DEPTH_BYTES, SURVEY_PROG_ID, SURVEY_NODES,
   SURVEY_SHADOW_ID, SURVEY_LOADING, SURVEY_ARM, SURVEY_DONE, SURVEY_CAP_PORT,
   SURVEY_CAP_RECORD, SURVEY_CNT, LEGEND_LINES_FREE, LEGEND_BLOCKS_FREE, LEGEND_VALID,
   LEGEND_KIND, LEGEND_ADDR, LEGEND_EN, LEGEND_RSET, LEGEND_DRAFT,
   LEGEND_ACTIVE_V, LEGEND_ACTIVE, LEGEND_LIVE, LEGEND_ROOT, LEGEND_INFLIGHT,
   LEGEND_COMMITS, LEGEND_CNT, LEGEND_EXC_FRAMES, LEGEND_SP_DROP, PIPE_SEL, FWD_EXP_EN]

/-- Block 8, part 1. -/
def rows8_1 : List Row :=
  [FWD_EXP_IN, FWD_LEARN_BURST, FWD_LEARN_RATE, FWD_EXP_MASK, FWD_AGE_PERIOD,
   FWD_AGED, FWD_ADDR_USED, FWD_EXT_USED, FWD_LEARN_MODE, FWD_MOVE_EXC,
   FWD_MAX_LEARN, FWD_LEARNED, FWD_EXP_RESERVE, FWD_FLOOD_EN, FWD_MIRROR_PROD,
   FWD_MIRROR_CONS, FWD_MIRROR_CAPT, FWD_MIRROR_DROP, FWD_CNT]

/-- The fields of block 8. -/
def rows8 : List Row := rows8_0 ++ rows8_1

/-- Block 9, part 0. -/
def rows9_0 : List Row :=
  [SLATH_BASKET_SEL, SLATH_MC_PRIO, SLATH_VALID_104, SLATH_IN, SLATH_OUT,
   SLATH_SPILL_EN, SLATH_BASKET_LIMIT, SLATH_RB_CELLS, SLATH_FLUSH_TH, SLATH_REFILL_TH,
   SLATH_SPILL_BASE, SLATH_SPILL_BLOCKS, SLATH_GO, SLATH_ID, SLATH_CELLS_FREE,
   SLATH_DESC_FREE, SLATH_PTR_FREE, SLATH_SPILL_STATE, SLATH_CACHE_FILL, SLATH_SPILL_FREE,
   SLATH_LOANS_USED, SLATH_VALID_1018, SLATH_REQ_ID, SLATH_OWNER, SLATH_INDEX,
   SLATH_XBAR_CNT, SLATH_BASKET_CNT, SLATH_CRC_LOC, SLATH_ECC_BANK, SLATH_PC_SPILL_LIMIT]

/-- Block 9, part 1. -/
def rows9_1 : List Row :=
  [SLATH_PC_LIMIT, SLATH_PC_BLOCKS, SLATH_PC_CELLS, SLATH_XOFF, SLATH_XON,
   SLATH_CHARGE]

/-- The fields of block 9. -/
def rows9 : List Row := rows9_0 ++ rows9_1

/-- Block 10, part 0. -/
def rows10_0 : List Row :=
  [QUEUE_Q_SEL, QUEUE_PAGING_EN, QUEUE_QCTX_BASE, QUEUE_PAGING_STATE, QUEUE_PINNED,
   QUEUE_ALLOCATED, QUEUE_EVICT_LOW, QUEUE_SLOTS_FREE, QUEUE_STAGED, QUEUE_STAGE_PEAK,
   QUEUE_QDIR, QUEUE_QCTX, QUEUE_QBASE, QUEUE_HOLD_STATE, QUEUE_CNT,
   SCHED_NODE_SEL, SCHED_CIR, SCHED_EIR, SCHED_CBS, SCHED_EBS,
   SCHED_CIR_CREDIT, SCHED_EIR_CREDIT, SCHED_WEIGHT, SCHED_PARENT, SCHED_BAND,
   SCHED_BLOCKED, SCHED_ON_WHEEL, SCHED_FROZEN, SCHED_ACTIVE, SCHED_Q_CIR]

/-- Block 10, part 1. -/
def rows10_1 : List Row :=
  [SCHED_Q_EIR, SCHED_Q_CBS, SCHED_Q_EBS, SCHED_GATE_EN, SCHED_SHAPER_OVH,
   SCHED_LAUNCH_WINDOW, SCHED_OPER_GATES, SCHED_OPER_V, SCHED_PEND_ARMED, SCHED_HOLD,
   SCHED_OPER_ENTRY, SCHED_OPER_LEN, SCHED_OPER_CYCLE, SCHED_PEND_LEN, SCHED_OPER_BASE,
   SCHED_PEND_BASE, SCHED_PEND_CYCLE, SCHED_BANK, SCHED_INDEX, SCHED_GCL_ENTRY,
   SCHED_EN, SCHED_KIND, SCHED_BASE, SCHED_OFF, SCHED_OFFSET,
   SCHED_PHASE, SCHED_CNT, SCHED_LAUNCH_ERR, SCHED_GRAT_LATE, SCHED_GCL_SWITCH]

/-- Block 10, part 2. -/
def rows10_2 : List Row :=
  [SCHED_GATE_OVERSIZE, SCHED_DEADLINE]

/-- The fields of block 10. -/
def rows10 : List Row := rows10_0 ++ rows10_1 ++ rows10_2

/-- Block 11, part 0. -/
def rows11_0 : List Row :=
  [PLAIT_CTX_EN, PLAIT_ACC_USED, PLAIT_CTX_ECC, PLAIT_ECC_UNCORR, PLAIT_OUT_CLIP,
   PLAIT_OUT_DROP, PLAIT_SATURATED, PLAIT_SUPPRESSED, PLAIT_MISSING, PLAIT_LATE,
   PLAIT_EARLY, PLAIT_FCS, PLAIT_NO_WINDOW, PLAIT_CTX_OFF, PLAIT_UNKNOWN,
   PLAIT_FMT_ERR, PLAIT_VALID, PLAIT_CTX, PLAIT_PRB, PLAIT_EN,
   PLAIT_DRAINING, PLAIT_OPEN, PLAIT_ECC, PLAIT_LAST_PRESENT, PLAIT_LAST_MASK,
   PLAIT_CTX_LATE, PLAIT_CTX_EARLY, PLAIT_CNT, PLAIT_MISS_1000, PLAIT_MISS_2000]

/-- The fields of block 11. -/
def rows11 : List Row := rows11_0

/-- Block 12, part 0. -/
def rows12_0 : List Row :=
  [MERID_NOW_FRAC, MERID_NOW_NS, MERID_NOW_SEC_LO, MERID_NOW_SEC_HI, MERID_NOW_SHORT_LO,
   MERID_NOW_SHORT_HI, MERID_ADDEND, MERID_JUMP_GUARD, MERID_TIME_VALID, MERID_LAST_STEP,
   MERID_TS_POP, MERID_TS_W1, MERID_TS_LEVEL, MERID_TS_THRESH, MERID_OUT_POL,
   MERID_IN_POL, MERID_OUT_EN, MERID_PPS_WIDTH, MERID_PPS_OFFSET, MERID_PPS_IN_TIME,
   MERID_NEW_318, MERID_TOD_PTR, MERID_EDGE, MERID_NEW_344, MERID_CAP_TIME,
   MERID_ARMED, MERID_POL, MERID_TRIG_WIDTH, MERID_TRIG_NEXT, MERID_EN]

/-- Block 12, part 1. -/
def rows12_1 : List Row :=
  [MERID_SQUELCHED, MERID_LANE, MERID_DIV, MERID_TX_ARM, MERID_TX_BUSY,
   MERID_TX_LEN, MERID_RX_EN, MERID_BAUD, MERID_TOD_TX_DELAY, MERID_TOD_RX_PTR,
   MERID_TX_ADJ, MERID_RX_ADJ, MERID_TS_TYPES, MERID_CF_TYPES, MERID_CNT,
   MERID_TOD_RX_DATA, MERID_TOD_TX_DATA]

/-- The fields of block 12. -/
def rows12 : List Row := rows12_0 ++ rows12_1

/-- Block 13, part 0. -/
def rows13_0 : List Row :=
  [LP4X_MEM_SEL, LP4X_RETRAIN, LP4X_FAIL_STEP, LP4X_ATTEMPTS, LP4X_STATE,
   LP4X_VALID, LP4X_GRANULE, LP4X_CNT]

/-- The fields of block 13. -/
def rows13 : List Row := rows13_0

/-- Block 14, part 0. -/
def rows14_0 : List Row :=
  [BIND_CLASS, BIND_TARGET, BIND_WR_BLOCKS, BIND_RD_BLOCKS, BIND_STORE_PAGES,
   BIND_STORE_BASE, BIND_SIDE_B, BIND_SIDE_A, BIND_FUNC, BIND_GRP,
   BIND_BIND_LOCK, CC_AUTO_RESTART, CC_AUTO_START, CC_ACTIVE, CC_CKPT_BASE,
   CC_GO_14, CC_BUSY, CC_LEN, CC_CKPT_SEQ, CC_LP4X_SEQ,
   CC_SRC, CC_RESTORE_SEQ, CC_IMG_ADDR, CC_GO_38, CC_PAGES,
   CC_STATE_3C, CC_IMG_VERSION, CC_CLAIM, CC_CAUSE, CC_STATE_100]

/-- Block 14, part 1. -/
def rows14_1 : List Row :=
  [CC_START, CC_RESTART, CC_FORCE_FAULT, CC_PROMOTE, CC_SELF_FAULT,
   CC_KICK, CC_WDOG_MS, CC_PASS, CC_FAIL_ITEM, CC_TESTS,
   CC_HEALTH_TIME, CC_FAULT_TIME, CC_CNT, CC_CKPT_CNT]

/-- The fields of block 14. -/
def rows14 : List Row := rows14_0 ++ rows14_1

/-- Block 15, part 0. -/
def rows15_0 : List Row :=
  [TALLY_EN, TALLY_LOC, TALLY_FUNC, TALLY_IRQ_EN, TALLY_VEC,
   TALLY_ENTRY_LOG2, TALLY_SIZE_LOG2, TALLY_KINDS, TALLY_PERIOD_US, TALLY_RING_BASE,
   TALLY_PROD, TALLY_CONS, TALLY_STATE, TALLY_CNT, TALLY_PIPE_WORD,
   TALLY_THREAD_WORD, TAP_TAP_SENDS, TAP_TAP_UNATTR, TAP_TAP_DISCARD, TAP_LINK_UP,
   RAS_RAS_CORR, RAS_RAS_UNCORR, RAS_SCRUB_PASSES, RAS_VALID, RAS_STRUCT,
   RAS_INSTANCE, RAS_SCRUB, RAS_INDEX]

/-- The fields of block 15. -/
def rows15 : List Row := rows15_0

/-- Block 16, part 0. -/
def rows16_0 : List Row :=
  [MBX_TX_WORD, MBX_RX_WORD, MBX_ATT_BASKET_80, MBX_ATT_INDEX_80, MBX_ATT,
   MBX_CANCEL, MBX_WAIT, MBX_GO, MBX_POST_REFUSED, MBX_LOCK_BROKEN,
   MBX_TIMEOUT, MBX_CROSSED, MBX_ARRIVED, MBX_EMPTIED, MBX_IN_WAIT,
   MBX_OUT_WAIT, MBX_IN_FULL, MBX_OUT_FULL, MBX_SND_EPOCH, MBX_RX_EPOCH,
   MBX_VALID, MBX_PREDATES, MBX_STALE_SENDER, MBX_ATT_V, MBX_ATT_BASKET_8C,
   MBX_SENDER, MBX_ATT_INDEX_8C, MBX_OWNER, MBX_MY_EPOCH, MBX_ATT_CTL]

/-- Block 16, part 1. -/
def rows16_1 : List Row :=
  [MBX_ATT_STATUS, MBX_ATT_SEL, MBX_ATT_DATA]

/-- The fields of block 16. -/
def rows16 : List Row := rows16_0 ++ rows16_1

/-- Block 18, part 0. -/
def rows18_0 : List Row :=
  [DB_TAIL, DB_CQ_HEAD, DB_HEAD, DB_CQ_TAIL, DB_RING_STATUS]

/-- The fields of block 18. -/
def rows18 : List Row := rows18_0

/-- The fields of a block by its number: 0 to 15 are the BAR0 windows of R90; 16 is the mailbox page and 18 the
command-ring doorbell page of BAR2 (R89). -/
def rowsOf (blk : Nat) : List Row :=
  match blk with
  | 0 => rows0
  | 1 => rows1
  | 2 => rows2
  | 3 => rows3
  | 4 => rows4
  | 5 => rows5
  | 6 => rows6
  | 7 => rows7
  | 8 => rows8
  | 9 => rows9
  | 10 => rows10
  | 11 => rows11
  | 12 => rows12
  | 13 => rows13
  | 14 => rows14
  | 15 => rows15
  | 16 => rows16
  | 18 => rows18
  | _ => []

end Sys2Proof.Machine.Reg
end

