-- ==== Sys2Proof/Machine/Sparse.lean ====
section
/-! DEFINITION. The operations on sparse maps in their one canonical form: keys strictly rising, no entry equal to what
an unlisted key reads as. Registers, memory, tables, frames, queues and every other sparse piece of state use them. -/

namespace Sys2Proof.Machine

open Sys2Proof

/-- The entry listed at a key. -/
def sfind {β : Type} : Sparse β → Nat → Option β
  | [], _ => none
  | (k, v) :: r, q => if k == q then some v else if q < k then none else sfind r q

/-- The value read at a key: the listed one, or what an unlisted key reads as. -/
def sget {β : Type} (dflt : Nat → β) (m : Sparse β) (k : Nat) : β := (sfind m k).getD (dflt k)

/-- Lists a value at a key. -/
def sins {β : Type} : Sparse β → Nat → β → Sparse β
  | [], q, x => [(q, x)]
  | (k, v) :: r, q, x =>
    if q < k then (q, x) :: (k, v) :: r else if k == q then (q, x) :: r else (k, v) :: sins r q x

/-- Unlists a key. -/
def sdel {β : Type} : Sparse β → Nat → Sparse β
  | [], _ => []
  | (k, v) :: r, q => if q < k then (k, v) :: r else if k == q then r else (k, v) :: sdel r q

/-- Writes a value at a key, keeping the canonical form. -/
def sset {β : Type} [DecidableEq β] (dflt : Nat → β) (m : Sparse β) (k : Nat) (x : β) : Sparse β :=
  if x = dflt k then sdel m k else sins m k x

/-- Keys strictly rising above a bound, and no listed value equal to the unlisted one. -/
def swfFrom {β : Type} [DecidableEq β] (dflt : Nat → β) : Nat → Sparse β → Bool
  | _, [] => true
  | lo, (k, v) :: r => decide (lo ≤ k) && decide (v ≠ dflt k) && swfFrom dflt (k + 1) r

/-- The canonical form. -/
def swf {β : Type} [DecidableEq β] (dflt : Nat → β) (m : Sparse β) : Bool := swfFrom dflt 0 m

/-- Rewrites every listed value by a function of its key, dropping the entries that come to equal the unlisted value. -/
def smap {β : Type} [DecidableEq β] (dflt : Nat → β) (f : Nat → β → β) : Sparse β → Sparse β
  | [] => []
  | (k, v) :: r => let x := f k v; if x = dflt k then smap dflt f r else (k, x) :: smap dflt f r

/-- Keeps the entries whose key satisfies a test. -/
def sfilter {β : Type} (p : Nat → Bool) : Sparse β → Sparse β
  | [] => []
  | (k, v) :: r => if p k then (k, v) :: sfilter p r else sfilter p r

end Sys2Proof.Machine
end

