-- ==== Sys2Proof/Machine/State.lean ====
section
/-! DEFINITION. The state of the block: plain data, everything the spec gives the machine. Registers live in one sparse
map of cells (buffered value and value in use, R99, R100); what no register shows has a typed structure per entity. -/

namespace Sys2Proof.Machine

open Sys2Proof

/-! ### Registers, memory -/

/-- A register: its buffered value B (R99) and its value in use. For fields the hardware maintains only `e` counts. -/
structure RegCell where
  b : Word
  e : Word
  deriving DecidableEq, Repr

/-- A register write held in a batch (R51): the resolved register, the value, the mask, and whether the register's own
mask rules (an RWM register, R71); `sels` are the select registers of the thread's bank at issue. -/
structure HeldWrite where
  blk : Nat
  inst : Nat
  off : Nat
  addr : Nat
  v : Word
  m : Word
  sels : List (Nat × Nat) := []
  deriving DecidableEq, Repr

/-! ### Sequencer (chapters 2 and 3) -/

/-- What a waiting instruction waits for (R53), with what it needs to complete. -/
inductive WaitKind where
  | rpoll (a addr : Nat) (mask expect : Word) (ne : Bool) (nextRead : Nat)
  | tmwait (t : Nat)
  | waitev (a sel : Nat) (mask : DWord) (mbx clr : Bool)
  | fence (e : Bool)
  | vcommit (a rset root : Nat)
  | vwait (rset slot : Nat) (any : Bool)
  | pdreq (d req : Nat)
  | endbatch (release : Option Nat) (released late refused : Bool)
  | timeChange
  | gswap (port : Nat)
  | csnap (t : Nat) (a : Nat)
  | loadp (pipes : List Nat) (prog : Option (List Nat))
  | qpin (q : Nat)
  deriving DecidableEq, Repr

/-- A wait: its kind, the cycle it began, its time-out instant (core cycles), the SOFT flag and the instruction's length
in words. -/
structure Wait where
  kind : WaitKind
  since : Nat
  deadline : Option Nat
  soft : Bool
  len : Nat
  deriving DecidableEq, Repr

/-- A sequencer thread (R43) and the program it runs. -/
structure Thread where
  running : Bool := false
  ring : Nat := 0
  tag : Nat := 0
  len : Nat := 0
  addr : Nat := 0
  loc : Bool := false
  irq : Bool := false
  nocompl : Bool := false
  budget : Nat := 0
  charged : Nat := 0
  pc : Nat := 0
  stack : List Nat := []
  g : Sparse DWord := []
  z : Bool := false
  n : Bool := false
  c : Bool := false
  v : Bool := false
  t : Bool := false
  e : Bool := false
  lstat : Nat := 0
  wait : Option Wait := none
  batch : Option (List HeldWrite) := none
  writes : List (Nat × Word) := []
  deriving DecidableEq, Repr

/-- What a command ring keeps besides its registers: since when its completion ring is full (R33), whether CQ_STALL was
raised for it, and how many of its next descriptors were pending when its complex lost the claim (R57). -/
structure RingX where
  fullSince : Option Nat := none
  stalled : Bool := false
  doomed : Nat := 0
  deriving DecidableEq, Repr

/-! ### Power domains (chapter 20) -/

/-- The steps of a transition (R484, R485): none, waiting for the regulator, waiting for the switch, draining. -/
inductive DomPhase where
  | idle | avs | switch | drain | fallSwitch
  deriving DecidableEq, Repr

/-- What a domain keeps besides PD_STATUS. -/
structure DomX where
  phase : DomPhase := .idle
  since : Nat := 0
  source : Nat := 0
  avsDone : Bool := false
  waitsFor : List Nat := []
  qReq : Nat := 0
  iReq : Nat := 0
  heldActions : List HeldWrite := []
  deriving DecidableEq, Repr

/-- A rail of R487: the outstanding request, if any, with the domain it serves (none for a reduction). -/
structure RailX where
  busy : Bool := false
  forDom : Option Nat := none
  lowering : Bool := false
  mv : Nat := 0
  deriving DecidableEq, Repr

/-! ### Clocks, resets, boot (chapter 19) -/

/-- Reset pins, lock sequence, reference monitors, temperature and the SPI loader. -/
structure BootX where
  porst : Bool := true
  perst : Bool := true
  warm : Bool := false
  attempt : Nat := 0
  lockRef : Nat := 0
  strapSpi : Bool := false
  strapRef : Bool := false
  winA : Nat := 0
  winB : Nat := 0
  lostA : Bool := false
  lostB : Bool := false
  pllUnlocked : Bool := false
  warnArmed : Bool := true
  critical : Bool := false
  bme : Sparse Bool := []
  vfe : Bool := false
  perstCycle : Option Nat := none
  deriving DecidableEq, Repr

/-! ### Control complexes (chapter 16) -/

/-- What a complex keeps besides its registers. -/
structure CplxX where
  startMem : Bool := false
  restartOffered : Bool := false
  testing : Bool := false
  since : Nat := 0
  kickAt : Nat := 0
  lastCommit : Nat := 0
  imageChecked : Bool := false
  restored : Bool := false
  receive : List Nat := []
  deriving DecidableEq, Repr

/-- A checkpoint: its sequence, its CRC-32C and its bytes (R403). -/
structure Checkpoint where
  seq : Nat
  crc : Nat
  data : List Byte
  deriving DecidableEq, Repr

/-- The image store (R401) and the checkpoint store (R403). -/
structure StoreX where
  image : List Byte := []
  loadPages : Nat := 0
  loadSrc : Nat := 0
  pendingCkpt : Option Checkpoint := none
  ckptPhase : Nat := 0
  retained : Option Checkpoint := none
  /-- What the two LP4X slots were last written with (R403): sequence, CRC-32C and length in bytes. -/
  slots : Sparse (Nat × Nat × Nat) := []
  staleRaised : Bool := false
  deriving DecidableEq, Repr

/-! ### Meridian (chapter 14) -/

/-- A change of time that waits for its own core cycle (R335). -/
structure TimeChange where
  thread : Nat
  issued : Nat
  kind : Nat          -- 0 TMSET, 1 TMADJ step, 2 TMADJ ADDEND
  force : Bool
  sec : Nat
  ns : Nat
  frac : Nat
  step : Int
  deriving DecidableEq, Repr

/-- An armed trigger output (R354): first instant, period in ns (0: once), pulses given so far. -/
structure TrigX where
  first : Nat := 0
  period : Nat := 0
  n : Nat := 0
  activeUntil : Option Nat := none
  deriving DecidableEq, Repr

/-- The time counter in units of 2^-32 ns, the residence base in the same units, and what the pulse, capture, trigger
and ToD units keep besides their registers. -/
structure MeridX where
  sec : Nat := 0
  sub : Nat := 0
  resid : Nat := 0
  addendNext : Option Nat := none
  changes : List TimeChange := []
  lastApply : Option Nat := none
  fifo : List (List Word) := []
  capSeq : Nat := 0
  ppsNext : Option Nat := none
  ppsActive : Option Nat := none
  ppsLastEdge : Option Nat := none
  ppsLossRaised : Bool := false
  trig : Sparse TrigX := []
  todTxState : Nat := 0
  todTxAt : Nat := 0
  todTxLen : Nat := 0
  todSent : List Byte := []
  deriving DecidableEq, Repr

/-! ### Events, MSI-X, Tally (chapters 15 and 17) -/

/-- An interrupt vector: a signal not yet sent (the PBA bit), when the last message went, the end of its quiet period and
whether a signal was merged into it. -/
structure VecX where
  pend : Bool := false
  lastSent : Option Nat := none
  quietEnd : Option Nat := none
  merged : Bool := false
  deriving DecidableEq, Repr

/-- A Tally snapshot that waits for its entry to be written (R425). -/
structure Snapshot where
  time : Nat
  kinds : Nat
  groups : List (Nat × List Nat)
  deriving DecidableEq, Repr

/-- What Tally keeps besides its registers. -/
structure TallyX where
  held : Option Snapshot := none
  seq : Nat := 0
  nextAt : Option Nat := none
  waiting : List (Nat × Nat) := []
  deriving DecidableEq, Repr

/-! ### CPRI lanes (chapter 6) -/

/-- A candidate of the aligner (R141): next expected offset, confirmations, last HFN, whether its start was seen. -/
structure CpriCand where
  next : Nat
  m : Nat
  hfn : Nat
  seen : Bool
  deriving DecidableEq, Repr

/-- A byte of the play-out buffer: its value, whether a pointer marks it as a hyperframe start, whether it plays as AIS. -/
structure PlayByte where
  v : Byte
  start : Bool
  ais : Bool
  deriving DecidableEq, Repr

/-- A CPRI lane (R141 to R156): enable instant, received offset, candidates; in SYNC the next expected start, the HFN expected
there, misses and whether the start was seen; received RAI and SDI bits and BFN; code violations since the tick; the SD window;
the map buffer with the HFN of each hyperframe start; ticks, first tick, next container, sequence; consecutive counts of LOS, LOF,
RAI and SDI; play-out buffer, expected sequence, ticks without a container, gap since the tick, flywheel and filter state. -/
structure LaneX where
  enAt : Nat := 0
  off : Nat := 0
  cands : List CpriCand := []
  sync : Bool := false
  nxt : Nat := 0
  hfn : Nat := 0
  misses : Nat := 0
  seen : Bool := false
  rai : Bool := false
  sdi : Bool := false
  bfn : Nat := 0
  lastHfn : Nat := 0
  viol : Nat := 0
  sdGroups : Nat := 0
  sdErr : Nat := 0
  sdBad : Nat := 0
  sdGood : Nat := 0
  map : List (Byte × Option Nat) := []
  overflow : Bool := false
  tick : Nat := 0
  t0 : Option Nat := none
  nextJ : Nat := 0
  seq : Nat := 0
  runs : List Nat := [0, 0, 0, 0]
  po : List PlayByte := []
  expected : Option Nat := none
  accepted : Bool := false
  noneTicks : Nat := 0
  gap : Bool := false
  ptrSeen : Bool := false
  fw : Nat := 0
  ff : Int := 0
  deriving DecidableEq, Repr

/-! ### Frames (chapters 5, 7 to 13) -/

/-- What a host-transmitted frame carries from its descriptor (R371). -/
structure HostTx where
  ring : Nat
  tsReq : Bool
  oneStep : Bool
  tag : Nat
  deriving DecidableEq, Repr

/-- A frame inside the device. Timestamps and residence readings are in 2^-16 ns. -/
structure Frame where
  /-- Port of the present pass, and that of the first pass (`IN_PORT` of the record). -/
  inPort : Nat := 0
  origPort : Nat := 0
  pipe : Nat := 0
  /-- The bytes received so far, the FCS included once the frame has ended. -/
  data : List Byte := []
  ended : Bool := false
  /-- The length for the data path once the frame has ended. -/
  len : Nat := 0
  bad : Bool := false
  trunc : Bool := false
  ts : Option Nat := none
  resid : Nat := 0
  prog : List Nat := []
  depthB : Nat := 0
  depthH : Nat := 0
  lenLate : Bool := false
  /-- How the frame is classified (R187, R372): 0 walked, 1 NO_MATCH, 2 WALK_FAULT, 3 direct. -/
  how : Nat := 0
  rset : Nat := 0
  ver : Nat := 0
  /-- The frame counts in `INFLIGHT` of its version (R201). -/
  counted : Bool := false
  record : List Byte := []
  legend : Nat := 0
  pass : Nat := 0
  /-- The greatest claim, while it is unresolved (R176). -/
  claim : Option Nat := none
  /-- 0 captured, 1 waits for an extension bucket, 2 forwarded, 3 held until its end (R176), 4 in recirculation. -/
  stage : Nat := 0
  /-- The policer that metered it before its end, and which buckets it debited (R304). -/
  pol : Option (Nat × Bool × Bool) := none
  launch : Option Nat := none
  host : Option HostTx := none
  direct : Option (Nat × Nat) := none
  /-- Whether the frame yielded a delivery (R426), once that is known, and whether its token was produced (R433). -/
  fate : Option Bool := none
  /-- The received length, once the frame has really ended with a good FCS. -/
  rxLen : Option Nat := none
  tokened : Bool := false
  /-- Wait for an extension bucket: forwarding domain, and whether the source lookup is done. -/
  extSa : Bool := false
  /-- The frame waited for an extension bucket, so it is not sent cut-through (R216). -/
  noCut : Bool := false
  cm : Bool := false
  deriving DecidableEq, Repr

/-- The stored copy of a frame in one basket (R249). -/
structure Copy where
  /-- Cells held, references, cells already written. -/
  k : Nat := 0
  refs : Nat := 0
  written : Nat := 0
  bad : Bool := false
  /-- 0 on chip, 1 in LP4X, 2 in read-back cells. -/
  loc : Nat := 0
  blocks : Nat := 0
  /-- The pause unit charged: port and class (R248). -/
  unit : Option (Nat × Nat) := none
  deriving DecidableEq, Repr

/-- One admitted target of a frame: an entry of a queue. -/
structure Item where
  f : Nat
  b : Nat
  port : Nat
  queue : Nat
  /-- The queue pointer, or the first spill block of a frame in LP4X: a number Creel chooses. -/
  ptr : Nat := 0
  lp : Nat := 0
  cls : Nat := 0
  /-- The amount charged, in cells, or in blocks. -/
  chg : Nat := 0
  inBlocks : Bool := false
  copyExc : Bool := false
  toCplx : Bool := false
  launch : Option Nat := none
  deriving DecidableEq, Repr

/-! ### Queues (chapter 11) -/

/-- A queue: its directory entry (R264) and its context (R265). -/
structure Queue where
  alloc : Bool := false
  mapped : Bool := false
  pinned : Bool := false
  resident : Bool := false
  paging : Bool := false
  fresh : Bool := false
  spilling : Bool := false
  port : Nat := 0
  cls : Nat := 0
  slot : Nat := 0
  spillTh : Nat := 0
  /-- Frames on chip, frames admitted for spilling and not yet copied, frames of the LP4X list, oldest first. -/
  oc : List Item := []
  pend : List Item := []
  lp : List Item := []
  enq : Nat := 0
  deq : Nat := 0
  lastUse : Nat := 0
  /-- A page-in: core cycle of its start, whether it reads LP4X. -/
  pageAt : Nat := 0
  pageRead : Bool := false
  deriving DecidableEq, Repr

/-- A page-in that waits for a slot (R272), per basket: the queue, since when, and whether QPAGE_FAULT was raised. -/
structure PagerX where
  staged : List Item := []
  /-- Descriptors of frames that a lost queue context can no longer reach (R521), until the next audit. -/
  lost : List Item := []
  pins : List Nat := []
  lastStart : Option Nat := none
  lastFresh : Option Nat := none
  waitQ : Option Nat := none
  waitAt : Nat := 0
  faulted : Bool := false
  deriving DecidableEq, Repr

/-! ### Scheduling (chapter 12) -/

/-- Values given by an SHSET, until the visit that installs them (R291). -/
structure ShSet where
  cir : Nat
  eir : Nat
  cbs : Nat
  ebs : Nat
  weight : Nat
  band : Nat
  parent : Nat
  deriving DecidableEq, Repr

/-- A shaped object: a queue, a node or a port (R282), with its state (R265, R288, R289) and the values that an SHSET has given and no
visit has installed yet. -/
structure Obj where
  cir : Nat := 0
  eir : Nat := 400000000
  cbs : Nat := 64
  ebs : Nat := 16777216
  cirC : Int := 64
  eirC : Int := 16777216
  cTime : Nat := 0
  eTime : Nat := 0
  weight : Nat := 1
  band : Nat := 0
  parent : Nat := 0
  deficit : Int := 0
  /-- The Graticule entry: the eligible short time and whether it lies in the coarse ring. -/
  wheel : Option (Nat × Bool) := none
  set : Option ShSet := none
  deriving DecidableEq, Repr

/-- The gate lists of a port (R293, R294). Instants are in 1/8 ns of short time. -/
structure GateX where
  oper : Sparse DWord := []
  pend : Sparse DWord := []
  operV : Bool := false
  operLen : Nat := 0
  operCycle : Nat := 0
  operBase : Nat := 0
  /-- A recent cycle start of the operational list, so that instants compare within a wrap of short time. -/
  anchor : Nat := 0
  armed : Bool := false
  pendLen : Nat := 0
  pendCycle : Nat := 0
  pendBase : Nat := 0
  switchAt : Nat := 0
  entry : Nat := 0
  gates : Nat := 255
  hold : Bool := false
  deriving DecidableEq, Repr

/-! ### Slath and Creel (chapter 10) -/

/-- A multicast frame at a Slath input: the fan-out, the residue of the head cell and the cell number. -/
structure McX where
  f : Nat
  fan : List Nat
  residue : List Nat
  cell : Nat
  deriving DecidableEq, Repr

/-- One Slath input: its unicast queues (frame and next cell, by output), its multicast queue, its pointer and turn. -/
structure SlathIn where
  uc : Sparse (List (Nat × Nat)) := []
  mc : List McX := []
  aptr : Nat := 0
  turn : Bool := true
  /-- The frames handed over, oldest first (R240). -/
  order : List Nat := []
  deriving DecidableEq, Repr

/-- The Slath: inputs, grant pointers, the local port of each slice. -/
structure SlathX where
  ins : Sparse SlathIn := []
  gptr : Sparse Nat := []
  loc : Sparse (List (Nat × Nat)) := []
  deriving DecidableEq, Repr

/-- A loan (R253): kind 1 SLOWPATH, 2 MIRROR, 3 MAILBOX; owner; the bytes of its cells (a byte that nothing has written is
free, drawn from `seed`); the frame whose reference it holds. -/
structure Loan where
  kind : Nat
  owner : Nat
  data : List (Option Byte)
  seed : Nat := 0
  item : Option Item := none
  deriving DecidableEq, Repr

/-- What Creel of a basket keeps besides its registers: the loan table, pointers that wait for the next flush, cells set aside for read-back. -/
structure CreelX where
  loans : Sparse Loan := []
  wait : Nat := 0
  aside : Nat := 0
  reading : Option Nat := none
  deriving DecidableEq, Repr

/-! ### Ethernet ports (chapter 5) -/

/-- A transmission: kind 0 a scheduled frame, 1 an express frame, 2 a frame of the MAC. -/
structure Tx where
  kind : Nat := 0
  item : Item := ⟨0, 0, 0, 0, 0, 0, 0, 0, false, false, false, none⟩
  edit : Option Nat := none
  /-- The bytes sent, without FCS; known once the frame has ended. -/
  data : List Byte := []
  done : Bool := false
  bad : Bool := false
  dataErr : Bool := false
  cut : Bool := false
  pmac : Bool := false
  preempted : Bool := false
  cls : Nat := 0
  /-- Egress timestamp (seconds, 2^-16 ns) and residence reading. -/
  sec : Nat := 0
  ns16 : Nat := 0
  resid : Nat := 0
  deriving DecidableEq, Repr

/-- An entry of an express FIFO: the frame and the express-table image that it hit. -/
structure ExpItem where
  f : Nat
  img : Nat
  /-- The bytes kept of a frame that outgrew the FIFO (R232). -/
  lim : Option Nat := none
  deriving DecidableEq, Repr

/-- A pause unit of a port (class c, or the whole port): end of its pause timer, since when the watchdog counts it as
paused, end of its hold-off. -/
structure PauseX where
  expiry : Nat := 0
  since : Nat := 0
  paused : Bool := false
  held : Bool := false
  holdEnd : Nat := 0
  deriving DecidableEq, Repr

/-- An Ethernet port. -/
structure PortX where
  /-- Core cycle of the last change of link state. -/
  since : Nat := 0
  closing : Bool := false
  /-- The frame in reception, and every byte of it received so far. -/
  rx : Option Nat := none
  rxAll : List Byte := []
  tx : Option Tx := none
  pre : Option Tx := none
  exp : List ExpItem := []
  ready : Sparse Item := []
  pause : Sparse PauseX := []
  pausedSince : Option Nat := none
  verifyTries : Nat := 0
  verifyAt : Nat := 0
  partnerFrag : Nat := 0
  /-- Pause classes in XOFF (R248), those that the last pause frame announced, and the next repeat. -/
  xoff : Nat := 0
  asked : Nat := 0
  refreshAt : Nat := 0
  holdEnd : Nat := 0
  /-- A pause frame waits to be sent (R128). -/
  due : Bool := false
  fecStart : Nat := 0
  fecCount : Nat := 0
  fecRaised : Bool := false
  deriving DecidableEq, Repr

/-! ### Forwarding (chapter 9) -/

/-- A pending learning or ageing write (R218): the entry, the image read, the image to be written, the pipe, and what it
is: 0 learn, 1 move, 2 hit, 3 ageing delete, 4 ageing clear. -/
structure LearnW where
  ix : Nat
  old : Nat
  img : Nat
  pipe : Nat
  kind : Nat
  deriving DecidableEq, Repr

/-- A mirror capture whose entry is not yet written (R229): frame, session, ring slot, the first 128 bytes of the frame and
its length where they are known, and bytes 128 to 251 of the entry. -/
structure MirrorW where
  f : Nat
  session : Nat
  slot : Nat
  head : Option (List Byte)
  len : Option Nat
  body : List Byte
  deriving DecidableEq, Repr

/-- The device-wide forwarding state outside registers and tables. -/
structure FwdX where
  learn : List LearnW := []
  mirror : List MirrorW := []
  trig : Sparse Nat := []
  seq : Sparse Nat := []
  /-- Fractions of the buckets of a policer, in 1/8000000 byte: committed, then peak or excess (R303). -/
  polFrac : Sparse (Nat × Nat) := []
  /-- Learning tokens of a pipe in 1/1600000, and the core cycle of the last refill. -/
  tokens : Sparse (Nat × Nat) := []
  overflow : Sparse Nat := []
  deriving DecidableEq, Repr

/-! ### Survey and Legend (chapters 7 and 8) -/

/-- The parse programs of a pipe: the active image (none: the supplied one), the shadow image, words of the active bank
whose copies are both uncorrectable (R183), and the record capture: armed (R184). -/
structure SurveyX where
  active : Option (List Nat) := none
  shadow : Option (List Nat) := none
  lost : List Nat := []
  armed : Bool := false
  deriving DecidableEq, Repr

/-- A line of Legend memory (R191): owner (rule set + 1, 0: none), hold mask, marks, image. -/
structure Line where
  owner : Nat := 0
  holds : Nat := 0
  draft : Bool := false
  release : Bool := false
  img : Nat := 0
  poisoned : Bool := false
  deriving DecidableEq, Repr

/-- The versions of a rule set: active slot, live mask, root of each slot. -/
structure Vers where
  active : Option Nat := none
  live : Nat := 0
  roots : Sparse Nat := []
  deriving DecidableEq, Repr

/-- The contents of one tree domain (R189): lines, claims of blocks (line + 1), rule slots, versions, poisoned slots. -/
structure LegMem where
  lines : Sparse Line := []
  claims : Sparse Nat := []
  rules : Sparse Nat := []
  vers : Sparse Vers := []
  badRules : List Nat := []
  deriving DecidableEq, Repr

/-- Legend: the two tree domains, the thread (plus 1) that holds each rule set's draft, and `INFLIGHT` by 4 rset + slot. -/
structure LegendX where
  m0 : LegMem := {}
  m1 : LegMem := {}
  drafts : Sparse Nat := []
  inflight : Sparse Nat := []
  deriving DecidableEq, Repr

/-! ### Top-down (chapter 17) -/

/-- A pipe: the frames that wait for their slot's core cycle, with their fate where it is already known (R426), the bytes
in its inject buffer and its frames (R372), and the round-robin place of its scheduler (R285). -/
structure PipeX where
  toIssue : List (Nat × Option Bool) := []
  inject : List Nat := []
  rr : Nat := 0
  deriving DecidableEq, Repr

/-! ### Plait (chapter 13) -/

/-- A window of a context that is live (R319): the image that governs it, its symbol start, buffer, present mask, the bytes and
survey record of its template, its timing header, accumulators by PRB × 24 + value, and PRBs marked bad (R326). -/
structure PlaitWin where
  img : Nat
  start : Nat
  buf : Nat
  present : Nat := 0
  tmpl : List Byte := []
  timing : Nat := 0
  record : List Byte := []
  acc : Sparse Int := []
  badPrb : List Nat := []
  deriving DecidableEq, Repr

/-- A frame in the input buffer of an engine (R312): its context, the cells received, and whether a cell failed its CRC. -/
structure PlaitF where
  f : Nat
  ctx : Nat
  cells : Nat
  bad : Bool := false
  deriving DecidableEq, Repr

/-- A combining context (R308, R311): the image in use, earlier images with the instants until which they govern the windows
that open, the image of a geometry change that waits, disabling, the instant a drain began, the instants before which no
window opens because of a drain and for want of an enabled context, live windows, buffers that still emit (until when),
output sequence, and whether an error disabled it. Instants are short times. -/
structure PlaitCtx where
  img : Option Nat := none
  prevs : List (Nat × Nat) := []
  next : Option Nat := none
  disabling : Bool := false
  drainFrom : Nat := 0
  noBefore : Option Nat := none
  earlyBefore : Option Nat := none
  wins : List PlaitWin := []
  busy : Sparse Nat := []
  seq : Nat := 0
  eccBad : Bool := false
  deriving DecidableEq, Repr

/-! ### Mailboxes (chapter 15) -/

/-- One side of a mailbox channel: staging buffer, outbound slot with its stamp, status flags (bits 8 to 13 of STATUS),
epoch, and the instant its post times out. -/
structure MbxSide where
  stage : Sparse Word := []
  slot : Sparse Word := []
  full : Bool := false
  waits : Bool := false
  sndEpoch : Nat := 0
  rxEpoch : Nat := 0
  sender : Nat := 0
  att : Option (Nat × Nat) := none
  flags : Nat := 0
  epoch : Nat := 0
  timer : Option Nat := none
  bells : Nat := 0
  /-- ATT_BASKET and ATT_INDEX as last written to POST. -/
  post : Nat := 0
  deriving DecidableEq, Repr

/-- A mailbox channel: its sides A and B and the owner of its lock (0: none). The `bells` of a side are the doorbell bits
it has set toward the other side (R388). -/
structure MbxX where
  a : MbxSide := {}
  b : MbxSide := {}
  lock : Nat := 0
  deriving DecidableEq, Repr



/-! ### Cartouche and tap (chapter 18) -/

/-- The key of a coalescer entry (R434): port, direction, disposition (CARRIED), tag (0 untagged, else 1 + VID), class. -/
structure TokKey where
  port : Nat
  dir : Nat
  carried : Bool
  tag : Nat
  cls : Nat
  deriving DecidableEq, Repr

/-- A coalescer entry: key, frames, bytes, core cycles of its creation and of its last use. -/
structure CoalE where
  key : TokKey
  frames : Nat
  bytes : Nat
  born : Nat
  used : Nat
  deriving DecidableEq, Repr

/-- The coalescer of a pipe: its entries, and its unattributed bins by 2 × direction + CARRIED (frames, bytes). -/
structure TapX where
  entries : List CoalE := []
  bins : Sparse (Nat × Nat) := []
  deriving DecidableEq, Repr

/-- A coalesced send that the cartouche has not yet processed; no port for an unattributed bin. -/
structure Send where
  key : Option TokKey
  dir : Nat
  carried : Bool
  frames : Nat
  bytes : Nat
  deriving DecidableEq, Repr

/-- A parameter generation (R439, R440); `keyed` where it holds a key. -/
structure Gen where
  meterIf : Nat := 0
  interval : Nat := 15
  tenantEn : Nat := 0
  map : Sparse Nat := []
  origin : Nat := 0
  deriving DecidableEq, Repr

/-- A programming session: the staging image and the staged key. -/
structure Session where
  img : Gen
  key : Option (List Byte) := none
  deriving DecidableEq, Repr

/-- The cartouche (R432): supply, tap, received sends, meters by row (bytes and frames), session, generations of the OTP,
key, audit counter, record store, operating time, host tag and the flags of the next records. -/
structure CartX where
  power : Bool := true
  ready : Bool := false
  sends : List Send := []
  bytes : Sparse Nat := []
  frames : Sparse Nat := []
  uncarried : Sparse Nat := []
  session : Option Session := none
  gens : List Gen := []
  key : Option (List Byte) := none
  audit : Nat := 0
  records : Sparse (List Byte) := []
  seq : Nat := 0
  opTime : Nat := 0
  hostTag : Nat := 0
  lastEnd : Nat := 0
  start : Bool := true
  lossFor : Nat := 0
  gap : Bool := false
  paramNew : Bool := false
  prog : Bool := false
  reply : List Byte := []
  deriving DecidableEq, Repr


/-! ### The state -/

/-- The state of the block. -/
structure State where
  pending : List Instr
  /-- Core cycles since the model's reset; one core cycle is 0.625 ns (R2). -/
  now : Nat
  /-- The data of the last bus read, as the reading master receives it. -/
  rdata : Word
  /-- The model's own counter behind free values: each use advances it. -/
  fresh : Nat
  regs : Sparse RegCell
  /-- The banks of R98: key slot × 64 + bank. -/
  banks : Sparse Nat
  /-- Registers whose enable failed its check (R113, R139) and which nothing has written since. -/
  failed : List Nat
  /-- Host memory per function, the program store and LP4X, byte by byte. -/
  mem : List Host.Cell
  /-- Table images by table, instance and index (R74). -/
  tabs : Sparse Nat
  threads : Sparse Thread
  rings : Sparse RingX
  lastStarted : Sparse Nat
  doms : Sparse DomX
  rails : Sparse RailX
  nextReq : Nat
  boot : BootX
  cplx : Sparse CplxX
  store : StoreX
  mer : MeridX
  vecs : Sparse VecX
  tally : TallyX
  lanes : Sparse LaneX
  frames : Sparse Frame
  nextFrame : Nat
  /-- Stored copies: 8 × frame + basket. -/
  copies : Sparse Copy
  queues : Sparse Queue
  pagers : Sparse PagerX
  objs : Sparse Obj
  /-- Round pointers of R286: 8 × object + band. -/
  rounds : Sparse Nat
  gates : Sparse GateX
  slath : SlathX
  creel : Sparse CreelX
  ports : Sparse PortX
  fwd : FwdX
  surveys : Sparse SurveyX
  legend : LegendX
  pipes : Sparse PipeX
  /-- Poisoned table entries (R518), by table key. -/
  poison : List Nat
  plait : Sparse PlaitCtx
  /-- Input buffers of the Plait engines (R312): frame, context and cells received. -/
  plaitIn : Sparse (List PlaitF)
  mbx : Sparse MbxX
  /-- Rule counters (R422): frames and bytes per pipe and counter. -/
  ruleCnt : Sparse Nat
  /-- MSI-X table entries by function and vector (R364). -/
  msix : Sparse Nat
  taps : Sparse TapX
  cart : CartX
  deriving DecidableEq, Repr

/-- The block right after reset: PORST_N is asserted, every map is empty (each register, table entry and entity reads as
its own reset value), no command waits, and memory lists nothing. Where the spec states no value, log entries 1 and 8. -/
def State.reset : State where
  pending := []
  now := 0
  rdata := 0
  fresh := 0
  regs := []
  banks := []
  failed := []
  mem := []
  tabs := []
  threads := []
  rings := []
  lastStarted := []
  doms := []
  rails := []
  nextReq := 0
  boot := {}
  cplx := []
  store := {}
  mer := {}
  vecs := []
  tally := {}
  lanes := []
  frames := []
  nextFrame := 0
  copies := []
  queues := []
  pagers := []
  objs := []
  rounds := []
  gates := []
  slath := {}
  creel := []
  ports := []
  fwd := {}
  surveys := []
  legend := {}
  pipes := []
  poison := []
  plait := []
  plaitIn := []
  mbx := []
  ruleCnt := []
  msix := []
  taps := []
  cart := {}

/-- The faults of a step: none. Every command of this block has an effect in every state: an access that the spec
refuses is refused inside the block (R96), so nothing raises a fault. Safe. -/
inductive Fault where
  deriving DecidableEq, Repr

/-- The refusals of a step. -/
inductive Refusal where
  /-- Raised by an arm of `exec` that has no meaning yet, with the row's mnemonic. Safe: the run stops. -/
  | notModelled (mnemonic : String)
  deriving DecidableEq, Repr

end Sys2Proof.Machine
end

