-- ==== Sys2Proof/Machine/Ops.lean ====
section
/-! DEFINITION. The named operations every meaning uses: bit fields, registers, counters, memory, time, events. -/

namespace Sys2Proof.Machine

open Sys2Proof

/-- The outcome of a step of this block. -/
abbrev Out := Host.Outcome State Fault Refusal

/-! ### Bits and bytes -/

/-- Bits hi..lo of a number. -/
def bits (x hi lo : Nat) : Nat := x / 2 ^ lo % 2 ^ (hi + 1 - lo)

/-- Bit i of a number. -/
def bit (x i : Nat) : Bool := x / 2 ^ i % 2 == 1

/-- A number with its bits hi..lo replaced. -/
def setBits (x hi lo v : Nat) : Nat :=
  let m := 2 ^ (hi + 1 - lo)
  x - (x / 2 ^ lo % m) * 2 ^ lo + (v % m) * 2 ^ lo

/-- A number with bit i set to b. -/
def setBit (x i : Nat) (b : Bool) : Nat := setBits x i i (if b then 1 else 0)

/-- 1 for true. -/
def b2n (b : Bool) : Nat := if b then 1 else 0

/-- The number whose little-endian bytes these are. -/
def leNat : List Byte → Nat
  | [] => 0
  | b :: r => b.toNat + 256 * leNat r

/-- The number whose big-endian bytes these are. -/
def beNat (l : List Byte) : Nat := l.foldl (fun a b => a * 256 + b.toNat) 0

/-- The n little-endian bytes of a number. -/
def leBytes : Nat → Nat → List Byte
  | 0, _ => []
  | n + 1, x => BitVec.ofNat 8 x :: leBytes n (x / 256)

/-- The n big-endian bytes of a number. -/
def beBytes (n x : Nat) : List Byte := (leBytes n x).reverse

/-- The value of a two's complement number of w bits. -/
def signed (w x : Nat) : Int := if x % 2 ^ w < 2 ^ (w - 1) then (x % 2 ^ w : Nat) else (x % 2 ^ w : Nat) - (2 ^ w : Nat)

/-- The w-bit two's complement form of an integer. -/
def wrapInt (w : Nat) (x : Int) : Nat := (x % (2 ^ w : Nat)).toNat

/-- ⌈a ÷ b⌉. -/
def ceilDiv (a b : Nat) : Nat := (a + b - 1) / b

/-- Replaces the bytes of l from position i on by those of x, as far as l reaches. -/
def overlay : List Byte → Nat → List Byte → List Byte
  | [], _, _ => []
  | l, _, [] => l
  | _ :: r, 0, x :: xs => x :: overlay r 0 xs
  | b :: r, i + 1, xs => b :: overlay r i xs

/-- The n bytes of a list from position i; bytes past its end are 0. -/
def slice (l : List Byte) (i n : Nat) : List Byte :=
  let d := (l.drop i).take n
  d ++ List.replicate (n - d.length) 0

/-! ### CRCs -/

/-- One bit step of a CRC that shifts right (reflected), with the reflected polynomial. -/
def crcBitR (poly : Nat) (c : Nat) : Nat := if c % 2 == 1 then (c / 2) ^^^ poly else c / 2

/-- One byte of a reflected CRC. -/
def crcByteR (poly : Nat) (c : Nat) (b : Byte) : Nat :=
  let x := c ^^^ b.toNat
  crcBitR poly (crcBitR poly (crcBitR poly (crcBitR poly (crcBitR poly (crcBitR poly (crcBitR poly (crcBitR poly x)))))))

/-- CRC-32C (polynomial 0x1EDC6F41, reflected form 0x82F63B78, initial and final inversion). -/
def crc32c (l : List Byte) : Nat := (l.foldl (crcByteR 0x82F63B78) 0xFFFFFFFF) ^^^ 0xFFFFFFFF

/-- The Ethernet FCS, CRC-32 (reflected polynomial 0xEDB88320, initial and final inversion). -/
def crc32 (l : List Byte) : Nat := (l.foldl (crcByteR 0xEDB88320) 0xFFFFFFFF) ^^^ 0xFFFFFFFF

/-- One bit step of CRC-16 with polynomial 0x1021, most significant bit first. -/
def crcBit16 (c : Nat) : Nat := if c ≥ 0x8000 then (c * 2 % 0x10000) ^^^ 0x1021 else c * 2

/-- CRC-16 of R133: polynomial 0x1021, initial value 0xFFFF, most significant bit first, no final XOR. -/
def crc16 (l : List Byte) : Nat :=
  l.foldl (fun c b =>
    let x := c ^^^ (b.toNat * 256)
    crcBit16 (crcBit16 (crcBit16 (crcBit16 (crcBit16 (crcBit16 (crcBit16 (crcBit16 x)))))))) 0xFFFF

/-! ### Register cells -/

/-- The key of a register: block, instance (modulo 2^17), offset. -/
def regKey (blk inst off : Nat) : Nat := (blk * 2 ^ 17 + inst % 2 ^ 17) * 2 ^ 16 + off

/-- The block of a register key. -/
def keyBlk (k : Nat) : Nat := k / 2 ^ 33
/-- The instance of a register key. -/
def keyInst (k : Nat) : Nat := k / 2 ^ 16 % 2 ^ 17
/-- The offset of a register key. -/
def keyOff (k : Nat) : Nat := k % 2 ^ 16

/-- Whether a distance from a row's base names a register of its array. -/
def dimsHit : List (Nat × Nat) → Nat → Bool
  | [], d => d == 0
  | (st, n) :: r, d => decide (d / st < n) && dimsHit r (d % st)

/-- The array dimensions of a row, the halves of a pair included (R92). -/
def rowDims (r : Row) : List (Nat × Nat) := if r.pair then r.dims ++ [(4, 2)] else r.dims

/-- Whether a row describes a field of the register at an offset. -/
def rowHits (off : Nat) (r : Row) : Bool := decide (r.off ≤ off) && dimsHit (rowDims r) (off - r.off)

/-- The rows of the register at an offset of a block. -/
def regRows (blk off : Nat) : List Row := (Reg.rowsOf blk).filter (rowHits off)

/-- The number of event sources (R412). -/
def eventSources : Nat := 1152

/-- Whether some register table lists the offset (R95). The tail of the last route and count segments is not listed;
0x100C + 0x10n of the binding registers is listed as reserved bits only (R106). -/
def regListed (blk off : Nat) : Bool :=
  if blk == 3 && ((decide (0x3200 ≤ off) && decide (off < 0x4000)) || (decide (0x6200 ≤ off) && decide (off < 0x7000))) then false
  else if blk == 14 && decide (0x1000 ≤ off) && decide (off < 0x1400) then off % 4 == 0
  else !(regRows blk off).isEmpty

/-- The bit mask of a row. -/
def rowMask (r : Row) : Nat := (2 ^ (r.hi + 1 - r.lo) - 1) * 2 ^ r.lo

/-- The bits of a register whose rows satisfy a test. -/
def maskOf (p : Row → Bool) (rs : List Row) : Nat := rs.foldl (fun a r => if p r then a ||| rowMask r else a) 0

/-- The bits of a register that hold written values (R93: RW and RWM). -/
def rwMask (rs : List Row) : Nat := maskOf (fun r => r.acc == .rw || r.acc == .rwm) rs

/-- Reset values that a rule gives in place of the table: `WAKE_DOM_(16+n)` (R488), `BIND_MBX_63` (R106). -/
def resetOf (k : Nat) : Nat :=
  let blk := keyBlk k
  let off := keyOff k
  if blk == 2 && decide (0x580 ≤ off) && decide (off < 0x5C0) then
    (if off % 8 == 0 then 2 ^ ((off - 0x580) / 8) * 0x10101 else 0)
  else if blk == 14 && off == 0x20FC then 0x1400
  else (regRows blk off).foldl (fun a r => a + r.reset * 2 ^ r.lo) 0

/-- A register at reset. -/
def regReset (k : Nat) : RegCell := let v : Word := BitVec.ofNat 32 (resetOf k); ⟨v, v⟩

/-- The cell of a register. -/
def State.cell (s : State) (k : Nat) : RegCell := sget regReset s.regs k

/-- The state with a register's cell replaced. -/
def State.setCell (s : State) (k : Nat) (c : RegCell) : State := { s with regs := sset regReset s.regs k c }

/-- The address of an array element of a row; an index is taken modulo the array's length. -/
def rowAdr (r : Row) (ix : List Nat) : Nat := r.off + ((List.zip r.dims ix).map (fun p => p.1.1 * (p.2 % p.1.2))).sum

/-- The value in use of a field (for a field the hardware maintains: its value). -/
def State.rget (s : State) (r : Row) (inst : Nat := 0) (ix : List Nat := []) : Nat :=
  bits (s.cell (regKey r.blk inst (rowAdr r ix))).e.toNat r.hi r.lo

/-- The buffered value of a field. -/
def State.rbuf (s : State) (r : Row) (inst : Nat := 0) (ix : List Nat := []) : Nat :=
  bits (s.cell (regKey r.blk inst (rowAdr r ix))).b.toNat r.hi r.lo

/-- Sets the value of a field that the hardware maintains. -/
def State.rput (s : State) (r : Row) (v : Nat) (inst : Nat := 0) (ix : List Nat := []) : State :=
  let k := regKey r.blk inst (rowAdr r ix)
  let c := s.cell k
  s.setCell k { c with e := BitVec.ofNat 32 (setBits c.e.toNat r.hi r.lo v) }

/-- Sets the buffered value and the value in use of a field. -/
def State.rputBoth (s : State) (r : Row) (v : Nat) (inst : Nat := 0) (ix : List Nat := []) : State :=
  let k := regKey r.blk inst (rowAdr r ix)
  let c := s.cell k
  s.setCell k ⟨BitVec.ofNat 32 (setBits c.b.toNat r.hi r.lo v), BitVec.ofNat 32 (setBits c.e.toNat r.hi r.lo v)⟩

/-- Adds to a field that the hardware maintains. -/
def State.radd (s : State) (r : Row) (n : Nat) (inst : Nat := 0) (ix : List Nat := []) : State :=
  s.rput r (s.rget r inst ix + n) inst ix

/-- Subtracts from a field that the hardware maintains, not below 0. -/
def State.rsub (s : State) (r : Row) (n : Nat) (inst : Nat := 0) (ix : List Nat := []) : State :=
  s.rput r (s.rget r inst ix - n) inst ix

/-- Whether a one-bit field is 1 in use. -/
def State.ron (s : State) (r : Row) (inst : Nat := 0) (ix : List Nat := []) : Bool := s.rget r inst ix == 1

/-- The value of a 64-bit pair (R92). -/
def State.pget (s : State) (r : Row) (inst : Nat := 0) (ix : List Nat := []) : Nat :=
  let a := rowAdr r ix
  (s.cell (regKey r.blk inst a)).e.toNat + 2 ^ 32 * (s.cell (regKey r.blk inst (a + 4))).e.toNat

/-- Sets a 64-bit pair. -/
def State.pput (s : State) (r : Row) (v : Nat) (inst : Nat := 0) (ix : List Nat := []) : State :=
  let a := rowAdr r ix
  let k := regKey r.blk inst a
  let h := regKey r.blk inst (a + 4)
  let s1 := s.setCell k { s.cell k with e := BitVec.ofNat 32 v }
  s1.setCell h { s1.cell h with e := BitVec.ofNat 32 (v / 2 ^ 32) }

/-- Adds to a 64-bit counter pair, modulo 2^64. -/
def State.cadd (s : State) (r : Row) (n : Nat) (inst : Nat := 0) (ix : List Nat := []) : State :=
  s.pput r ((s.pget r inst ix + n) % 2 ^ 64) inst ix

/-- Adds 1 to a 64-bit counter pair. -/
def State.cinc (s : State) (r : Row) (inst : Nat := 0) (ix : List Nat := []) : State := s.cadd r 1 inst ix

/-- Adds 1 to a 32-bit counter that saturates. -/
def State.sinc (s : State) (r : Row) (inst : Nat := 0) (ix : List Nat := []) : State :=
  s.rput r (min (s.rget r inst ix + 1) 0xFFFFFFFF) inst ix

/-- Adds 1 to a field that wraps at its width. -/
def State.winc (s : State) (r : Row) (inst : Nat := 0) (ix : List Nat := []) : State :=
  s.rput r ((s.rget r inst ix + 1) % 2 ^ (r.hi + 1 - r.lo)) inst ix

/-- Sets to their reset value the registers of a block whose offset satisfies a test, in every instance. -/
def State.clearRegs (s : State) (blk : Nat) (p : Nat → Nat → Bool) : State :=
  { s with regs := sfilter (fun k => !(keyBlk k == blk && p (keyInst k) (keyOff k))) s.regs }

/-! ### Memory -/

/-- What a byte that nothing has written reads as: 0 for the program store (R47); for host memory and LP4X the spec gives
no contents (DESIGN CHOICE, log entry 8). -/
def memDefault (_ : Nat) : Byte := 0

/-- The key of a byte of function f's memory, f being 0 for PF0 and k for VF k (R363). -/
def hostKey (f addr : Nat) : Nat := (f + 1) * 2 ^ 64 + addr % 2 ^ 64
/-- The key of a byte of the program store (R47: 256 KiB). -/
def storeKey (off : Nat) : Nat := 32 * 2 ^ 64 + off
/-- The key of a byte of usable LP4X (R467). -/
def lp4xKey (a : Nat) : Nat := 33 * 2 ^ 64 + a

/-- Reads one byte. -/
def State.mget (s : State) (k : Nat) : Byte := sget memDefault s.mem k

/-- Writes one byte. -/
def State.mput (s : State) (k : Nat) (b : Byte) : State := { s with mem := sset memDefault s.mem k b }

/-- Reads n bytes from a key on. -/
def State.mread (s : State) (k : Nat) : Nat → List Byte
  | 0 => []
  | n + 1 => s.mget k :: s.mread (k + 1) n

/-- Writes bytes from a key on. -/
def State.mwrite (s : State) (k : Nat) : List Byte → State
  | [] => s
  | b :: r => (s.mput k b).mwrite (k + 1) r

/-- Reads a 64-bit little-endian word. -/
def State.m64 (s : State) (k : Nat) : Nat := leNat (s.mread k 8)

/-- Writes a 64-bit little-endian word. -/
def State.mset64 (s : State) (k v : Nat) : State := s.mwrite k (leBytes 8 v)

/-- The canonical form of the memory. -/
def Memory.wf (m : List Host.Cell) : Bool := swf memDefault m

/-- The bytes software stored in its own memory before a doorbell. -/
def State.applyStores (s : State) (l : List HostStore) : State :=
  l.foldl (fun t h => t.mwrite (hostKey h.func h.addr) h.bytes) s

/-! ### Time (R331 to R333) -/

/-- Core cycles in a microsecond. -/
def us : Nat := 1600
/-- Core cycles in a millisecond. -/
def ms : Nat := 1600000

/-- The nanoseconds and fraction units of 10^9 ns. -/
def secSub : Nat := 1000000000 * 2 ^ 32

/-- Whole nanoseconds within the second. -/
def State.ns (s : State) : Nat := s.mer.sub / 2 ^ 32
/-- The 16-bit fraction, in 2^-16 ns. -/
def State.frac16 (s : State) : Nat := s.mer.sub / 2 ^ 16 % 2 ^ 16

/-- Short time (R332). -/
def State.short (s : State) : Nat := (s.mer.sec * 1000000000 + s.ns) % 2 ^ 48

/-- a is later than b, by signed 48-bit difference (R333). -/
def laterThan (a b : Nat) : Bool :=
  let d := (a % 2 ^ 48 + 2 ^ 48 - b % 2 ^ 48) % 2 ^ 48
  decide (0 < d) && decide (d < 2 ^ 47)

/-- The instant t has been reached: it is not later than now. -/
def State.reached (s : State) (t : Nat) : Bool := !laterThan t s.short

/-! ### Domains, claims, readiness -/

/-- The state of a power domain (R476): 0 off, 1 retention, 2 on. -/
def State.dom (s : State) (d : Nat) : Nat := s.rget Reg.POWER_STATE d

/-- The domain is on. -/
def State.domOn (s : State) (d : Nat) : Bool := s.dom d == 2

/-- The claim number of complex x (R394). -/
def State.claim (s : State) (x : Nat) : Nat := s.rget Reg.CC_CLAIM 0 [x]

/-- The higher-claim complex (R397): 0 for A, 1 for B, none when the claims are equal. -/
def State.higher (s : State) : Option Nat :=
  if s.claim 0 > s.claim 1 then some 0 else if s.claim 1 > s.claim 0 then some 1 else none

/-- Whether an identity is the higher-claim complex. -/
def State.isHigher (s : State) (id : Nat) : Bool :=
  match s.higher with
  | some x => id == 17 + x
  | none => false

/-- A bit of READY_MAP (R110). -/
def State.ready (s : State) (i : Nat) : Bool :=
  if i < 32 then bit (s.rget Reg.GLOBAL_READY_MAP) i else bit (s.rget Reg.GLOBAL_READY_MAP_HI) (i - 32)

/-! ### Event vectors (R364, R415) -/

/-- The state of a vector. -/
def State.vec (s : State) (v : Nat) : VecX := sget (fun _ => {}) s.vecs v
/-- Replaces the state of a vector. -/
def State.setVec (s : State) (v : Nat) (x : VecX) : State := { s with vecs := sset (fun _ => {}) s.vecs v x }

/-- The function field of a vector's binding (R106). -/
def State.vecFunc (s : State) (v : Nat) : Nat := s.rget Reg.BIND_FUNC 0 [v]

/-- Makes a vector's message pending for its function, or counts a vector that no function holds (R364). -/
def State.deliverVec (s : State) (v : Nat) : State :=
  if s.vecFunc v == 0 then s.cinc Reg.HOST_CNT 0 [2] else s.setVec v { s.vec v with pend := true }

/-- Signals a vector: at once, or merged into its quiet period (R415). -/
def State.signalVec (s : State) (v : Nat) : State :=
  let coal := s.rget Reg.EVENT_COAL_US 0 [v]
  if coal == 0 then s.deliverVec v
  else match (s.vec v).quietEnd with
    | some q =>
      if s.now < q then s.setVec v { s.vec v with merged := true }
      else (s.setVec v { s.vec v with quietEnd := some (s.now + coal * us), merged := false }).deliverVec v
    | none => (s.setVec v { s.vec v with quietEnd := some (s.now + coal * us), merged := false }).deliverVec v

/-! ### Events (R413 to R418) -/

/-- The array index of an event's route and count words (R420). -/
def evIx (src : Nat) : List Nat := [src / 512, src % 512]

/-- The status bit of an event source. -/
def State.evStatus (s : State) (src : Nat) : Bool := bit (s.rget Reg.EVENT_STATUS 0 [src / 32]) (src % 32)

/-- A source is active: its status bit and its EN are 1 (R414). -/
def State.evActive (s : State) (src : Nat) : Bool := s.evStatus src && s.ron Reg.EVENT_EN 0 (evIx src)

/-- Whether the source is routed to vector v. -/
def State.evToVec (s : State) (src v : Nat) : Bool :=
  s.ron Reg.EVENT_VEC_EN 0 (evIx src) && s.rget Reg.EVENT_VEC 0 (evIx src) == v

/-- Raises an event (R413): the status bit is set, the count rises, and a source that becomes active signals its vector. -/
def State.raise (s : State) (src : Nat) : State :=
  let was := s.evStatus src
  let s1 := s.rput Reg.EVENT_STATUS (setBit (s.rget Reg.EVENT_STATUS 0 [src / 32]) (src % 32) true) 0 [src / 32]
  let s2 := s1.sinc Reg.EVENT_EVT_COUNT 0 (evIx src)
  if !was && s2.ron Reg.EVENT_EN 0 (evIx src) && s2.ron Reg.EVENT_VEC_EN 0 (evIx src)
  then s2.signalVec (s2.rget Reg.EVENT_VEC 0 (evIx src)) else s2

/-- Raises an event when a condition holds. -/
def State.raiseIf (s : State) (c : Bool) (src : Nat) : State := if c then s.raise src else s

/-- The sources whose status bit is set, lowest first. -/
def State.setSources (s : State) : List Nat :=
  (List.range 36).flatMap (fun w =>
    let x := s.rget Reg.EVENT_STATUS 0 [w]
    if x == 0 then [] else ((List.range 32).filter (fun i => bit x i)).map (fun i => 32 * w + i))

/-- The active sources, lowest first. -/
def State.activeSources (s : State) : List Nat := s.setSources.filter s.evActive

/-- Clears status bits of word w (R413, R415): each vector to which a cleared source is routed, and which keeps another
active source, is signalled again. -/
def State.clearStatus (s : State) (w mask : Nat) : State :=
  let old := s.rget Reg.EVENT_STATUS 0 [w]
  let clr := old &&& mask
  let s1 := s.rput Reg.EVENT_STATUS (old - clr) 0 [w]
  let vs := ((((List.range 32).filter (fun i => bit clr i)).map (fun i => 32 * w + i)).filter
    (fun src => s.ron Reg.EVENT_VEC_EN 0 (evIx src))).map (fun src => s.rget Reg.EVENT_VEC 0 (evIx src))
  let act := s1.activeSources
  vs.eraseDups.foldl (fun t v => if act.any (fun src => s1.evToVec src v) then t.signalVec v else t) s1

/-! ### READY_MAP (R110, R466) -/

/-- Sets a READY_MAP bit to a value; each change sets its READY_DELTA bit and raises READY_CHANGE. -/
def State.setReady (s : State) (i : Nat) (v : Bool) : State :=
  if s.ready i == v then s
  else
    let s1 := if i < 32 then s.rput Reg.GLOBAL_READY_MAP (setBit (s.rget Reg.GLOBAL_READY_MAP) i v)
      else s.rput Reg.GLOBAL_READY_MAP_HI (setBit (s.rget Reg.GLOBAL_READY_MAP_HI) (i - 32) v)
    (s1.pput Reg.CLOCKS_READY_DELTA (setBit (s1.pget Reg.CLOCKS_READY_DELTA) i true)).raise 1145

/-! ### Entities -/

/-- A sequencer thread. -/
def State.thr (s : State) (t : Nat) : Thread := sget (fun _ => {}) s.threads t
/-- Replaces a thread. -/
def State.setThr (s : State) (t : Nat) (x : Thread) : State := { s with threads := sset (fun _ => {}) s.threads t x }
/-- What a power domain keeps besides its status register. -/
def State.domx (s : State) (d : Nat) : DomX := sget (fun _ => {}) s.doms d
/-- Replaces it. -/
def State.setDomx (s : State) (d : Nat) (x : DomX) : State := { s with doms := sset (fun _ => {}) s.doms d x }
/-- A voltage rail. -/
def State.rail (s : State) (r : Nat) : RailX := sget (fun _ => {}) s.rails r
/-- Replaces it. -/
def State.setRail (s : State) (r : Nat) (x : RailX) : State := { s with rails := sset (fun _ => {}) s.rails r x }
/-- A control complex. -/
def State.cx (s : State) (x : Nat) : CplxX := sget (fun _ => {}) s.cplx x
/-- Replaces it. -/
def State.setCx (s : State) (x : Nat) (c : CplxX) : State := { s with cplx := sset (fun _ => {}) s.cplx x c }
/-- A command ring. -/
def State.ringx (s : State) (n : Nat) : RingX := sget (fun _ => {}) s.rings n
/-- Replaces it. -/
def State.setRingx (s : State) (n : Nat) (x : RingX) : State := { s with rings := sset (fun _ => {}) s.rings n x }
/-- A word of a master's bank (R98). -/
def State.bank (s : State) (b slot : Nat) : Nat := sget (fun _ => 0) s.banks (slot * 64 + b)
/-- Replaces it. -/
def State.setBank (s : State) (b slot v : Nat) : State := { s with banks := sset (fun _ => 0) s.banks (slot * 64 + b) v }

/-- The bank of a master (R98): its identity, or 32 + t for sequencer thread t. -/
def bankOf (m : Master) : Nat := if m.id == 19 then 32 + m.thread % 8 else m.id % 32

/-- Identities that have a path to BAR0 (R103). -/
def hasBar0 (m : Master) : Bool := m.id == 1 || m.id == 17 || m.id == 18 || m.id == 19 || m.id == 21

/-- The word the reading master receives. -/
def State.answer (s : State) (v : Nat) : State := { s with rdata := BitVec.ofNat 32 v }

/-- Bus Master Enable of function f, and VF Enable for a VF: the device may issue requests for it (R363). -/
def State.mayIssue (s : State) (f : Nat) : Bool :=
  sget (fun _ => false) s.boot.bme f && (f == 0 || s.boot.vfe)

/-- LP4X is ready (READY_MAP bit 47, R467). -/
def State.lp4xReady (s : State) : Bool := s.ready 47

/-- A fresh free value: nothing constrains it. -/
def State.freeNat (s : State) : Nat := (Config.freeWord s.fresh).toNat
/-- Uses up the fresh value. -/
def State.useFree (s : State) : State := { s with fresh := s.fresh + 1 }

end Sys2Proof.Machine
end

