-- ==== Sys2Proof/Machine/Access.lean ====
section
/-! DEFINITION. Register access (chapter 4): addressing and aliases (R94, R102), select banks (R98), governing domains
(R90, R97), who may write (R96, R38, R108, R409), the checks of a write in the order R99 lists them, refusals (R96), and
the write buffer (R99). What a write or a read of a particular register does besides is in `Registers`. -/

namespace Sys2Proof.Machine

open Sys2Proof

/-! ### Addressing -/

/-- A register place: block, offset of the register itself, and whether the EFFECTIVE view was addressed. -/
structure Place where
  blk : Nat
  off : Nat
  view : Bool
  deriving DecidableEq, Repr

/-- The place a BAR0 byte address names (R94, R102). -/
def placeOf (addr : Nat) : Place :=
  let blk := addr / 2 ^ 20 % 16
  let o := addr % 2 ^ 16 / 4 * 4
  if blk == 4 && decide (0x9000 ≤ o) && decide (o < 0xA000) then ⟨blk, o - 0x8000, true⟩
  else if blk == 4 && decide (0x1000 ≤ o) && decide (o < 0x2000) then ⟨blk, o, false⟩
  else if bit o 11 then ⟨blk, o - 0x800, true⟩ else ⟨blk, o, false⟩

/-- The bank slot of a select register. -/
def selSlot (blk off : Nat) : Nat := blk * 2 ^ 16 + off

/-- The rows of the select registers (R98), and `LOAN_SEL`, whose value is also banked (R377). -/
def isSelect (blk off : Nat) : Bool :=
  (off == 0x10 && (blk == 6 || blk == 7 || blk == 8 || blk == 9 || blk == 10 || blk == 13 || blk == 2)) ||
  (off == 0x14 && blk == 10) || (off == 0x440 && blk == 5)

/-- A select value of a bank. -/
def State.sel (s : State) (b blk off : Nat) : Nat := s.bank b (selSlot blk off)

/-- Whether a pipe-block offset is the same whatever PIPE_SEL holds (R208, R236). -/
def pipeShared (off : Nat) : Bool :=
  (decide (0x600 ≤ off) && decide (off ≤ 0x608)) || (decide (0x3000 ≤ off) && decide (off < 0x3800)) ||
  (decide (0x780 ≤ off) && decide (off < 0x7A0)) || (decide (0x4000 ≤ off) && decide (off < 0x7000))

/-- Whether a Slath-block offset is governed by PD_SLATH (R262). -/
def slathShared (off : Nat) : Bool :=
  (decide (0x10 ≤ off) && decide (off ≤ 0x104)) || (decide (0x2000 ≤ off) && decide (off < 0x2038)) ||
  (decide (0x3000 ≤ off) && decide (off < 0x3480)) || decide (0x6000 ≤ off)

/-- The instance that a master's bank selects for an offset (R98, R136, R162, R208, R236, R262, R278, R305, R473, R492). -/
def State.instOf (s : State) (b blk off : Nat) : Nat :=
  match blk with
  | 2 => if off == 0x100 || off == 0x104 then s.sel b 2 0x10 else 0
  | 6 =>
    let p := s.sel b 6 0x10
    if decide (0x3000 ≤ off) && decide (off < 0x3300) then p / 16 else p
  | 7 => s.sel b 7 0x10
  | 8 => if pipeShared off then 0 else s.sel b 8 0x10
  | 9 => if slathShared off then 0 else s.sel b 9 0x10
  | 10 =>
    if (decide (0x200 ≤ off) && decide (off < 0x280)) || (decide (0x330 ≤ off) && decide (off < 0x340)) then s.sel b 10 0x10
    else if (decide (0x300 ≤ off) && decide (off < 0x320)) || (decide (0x400 ≤ off) && decide (off < 0x440)) then s.sel b 10 0x14
    else 0
  | 13 => s.sel b 13 0x10
  | _ => 0

/-! ### Governing domains (R90) -/

/-- The pipe that serves an egress port ID (R278, R281). -/
def pipeOfPort (p : Nat) : Nat := if p < 128 then p / 16 else if p < 144 then 0 else if p < 152 then 1 else p % 8

/-- The pipe that serves a scheduler node of NODE_SEL (R281: 128 level-1 and 1,024 level-2 nodes per pipe). -/
def pipeOfNode (sel : Nat) : Nat :=
  match bits sel 14 13 with
  | 0 => pipeOfPort (bits sel 12 0)
  | 1 => bits sel 12 0 / 128
  | _ => bits sel 12 0 / 1024

/-- The pipe of a fixed queue (R263, R278), if the queue is one. -/
def fixedQueuePipe (q : Nat) : Option Nat :=
  if 65528 ≤ q ∧ q < 65536 then some (q - 65528) else if 65464 ≤ q ∧ q < 65528 then some ((q - 65464) / 8) else none

/-- The power domain that governs a register, or none for the always-on domain. `qpipe` is the pipe of the selected
queue. -/
def State.govern (s : State) (b blk off : Nat) (qpipe : Option Nat) : Option Nat :=
  match blk with
  | 4 => some 43
  | 6 => some (s.sel b 6 0x10 / 16)
  | 7 => some (if s.sel b 7 0x10 < 16 then 0 else 1)
  | 8 => some (8 + s.sel b 8 0x10)
  | 9 => some (if slathShared off then 24 else 16 + s.sel b 9 0x10)
  | 10 =>
    if off ≤ 0x30 || (decide (0x200 ≤ off) && decide (off < 0x204)) then none
    else if decide (0x100 ≤ off) && decide (off < 0x200) then some (8 + (off - 0x100) / 0x20 % 8)
    else if decide (0x1000 ≤ off) && decide (off < 0x1400) then some (8 + pipeOfPort ((off - 0x1000) / 4))
    else if decide (0x1400 ≤ off) && decide (off < 0x1600) then some (8 + pipeOfPort ((off - 0x1400) / 4))
    else if decide (0x2000 ≤ off) && decide (off < 0x2800) then some (8 + (off - 0x2000) / 0x100)
    else if decide (0x3000 ≤ off) && decide (off < 0x3800) then some (8 + (off - 0x3000) / 0x100)
    else if decide (0x5000 ≤ off) && decide (off < 0x5800) then some (8 + (off - 0x5000) / 0x100)
    else if (decide (0x240 ≤ off) && decide (off < 0x280)) || (decide (0x330 ≤ off) && decide (off < 0x340)) then
      qpipe.map (fun p => 8 + p)
    else some (8 + pipeOfNode (s.sel b 10 0x14))
  | 11 => some (27 + off / 0x4000)
  | 12 => some 41
  | 13 => some (31 + s.sel b 13 0x10)
  | _ => none

/-- The device is CLOCKLESS (R461). -/
def State.clockless (s : State) : Bool := s.rget Reg.GLOBAL_STATE == 2

/-! ### Who may write -/

/-- The target of a binding admits an identity at the time of the access (R104, R105). -/
def State.admits (s : State) (target id : Nat) : Bool :=
  decide (1 ≤ id) &&
  (if bit target 5 then bits target 4 3 == 0 && bit (s.rget Reg.BIND_GRP 0 [bits target 2 0]) id else bits target 4 0 == id)

/-- The binding target of a ring (R106). -/
def State.ringTarget (s : State) (n : Nat) : Nat := s.rget Reg.BIND_TARGET 0 [n]

/-- A privileged ring (R42): bound to identity 17 or 18, or to a group that contains only those two, one or both of them (DEDUCED, log
entry 149). -/
def State.privileged (s : State) (n : Nat) : Bool :=
  let t := s.ringTarget n
  let g := s.rget Reg.BIND_GRP 0 [bits t 2 0]
  if bit t 5 then bits t 4 3 == 0 && (g == 0x20000 || g == 0x40000 || g == 0x60000)
  else t == 17 || t == 18

/-- Whether an offset of block 14 is a binding register (R106). -/
def isBinding (off : Nat) : Bool := decide (0x1000 ≤ off) && decide (off < 0x2304)

/-- The cause for which an identity may not write a register; 0 when it may (R96, R38, R42, R108, R109, R409). Every
claim test uses the claims at the time of acceptance. -/
def State.identityCause (s : State) (id blk off : Nat) : Nat :=
  let cc := id == 17 || id == 18
  let own (x : Nat) : Bool := id == 17 + x
  let std := if id == 1 || id == 21 then 0 else if cc then (if s.isHigher id then 0 else 2) else 1
  if blk == 14 && isBinding off then
    if s.rget Reg.BIND_BIND_LOCK == 1 then 5 else std
  else if blk == 14 then
    let x := (off - 0x100) / 0x40
    if decide (0x100 ≤ off) && decide (off < 0x180) && off % 0x40 == 8 then
      (if own x then 0 else if cc then 2 else 1)
    else if off == 0x14 then
      (if cc then (if s.rget Reg.CC_STATE_100 0 [id - 17] == 4 then 0 else 2) else 1)
    else if decide (0x30 ≤ off) && decide (off ≤ 0x38) then
      (if id == 1 || id == 21 then 0 else if cc then 2 else 1)
    else std
  else if blk == 4 then
    if decide (0x1000 ≤ off) && decide (off < 0x2000) && s.privileged ((off - 0x1000) / 0x40) then
      (if cc then (if s.isHigher id then 0 else 2) else 1)
    else std
  else if blk == 0 then std
  else if id == 19 then 0 else std

/-! ### Ranges that a single row cannot say -/

/-- A legal binding target (R105); `side` allows identity 20 nowhere but the fixed side B of channel 63. -/
def targetOk (t : Nat) : Bool :=
  if bit t 5 then bits t 4 3 == 0 else decide (t ≤ 18) || t == 21

/-- The reserved event sources (R412: their route words accept no field). -/
def eventReserved (src : Nat) : Bool :=
  decide (1152 ≤ src) || (decide (881 ≤ src) && decide (src < 888)) || (decide (978 ≤ src) && decide (src < 984)) ||
  (decide (1007 ≤ src) && decide (src < 1016)) || src == 1102 || src == 1103

/-- The ranges and reserved encodings that concern more than one field or depend on other state, of the merged value v of
register (blk, off). -/
def State.crossOk (s : State) (b blk inst off v : Nat) : Bool :=
  match blk with
  | 14 =>
    if decide (0x1000 ≤ off) && decide (off < 0x1400) then
      (match off % 16 with
      | 0 => bits v 31 29 == 0 && targetOk (bits v 5 0)
      | 8 => decide (bits v 12 6 + bits v 5 0 ≤ 64)
      | _ => true)
    else if decide (0x2000 ≤ off) && decide (off < 0x2100) then targetOk (bits v 5 0) && (off == 0x20FC || targetOk (bits v 13 8))
    else if decide (0x2100 ≤ off) && decide (off < 0x2200) then decide (bits v 4 0 ≤ 16)
    else if decide (0x2200 ≤ off) && decide (off < 0x2220) then v &&& 0xFFD00001 == 0
    else if off == 0x30 then bits v 11 0 == 0
    else true
  | 15 =>
    if off == 0x18 then v == 0 || (decide (100 ≤ v) && decide (v ≤ 60000000))
    else if off == 0x20 then bits v 11 0 == 0 else true
  | 3 =>
    if decide (0x1000 ≤ off) && decide (off < 0x4000) then
      v == 0 || !eventReserved (512 * ((off - 0x1000) / 0x1000) + off % 0x1000 / 4)
    else true
  | 2 => if decide (0x500 ≤ off) && decide (off < 0x5C0) && off % 8 == 4 then v / 2 ^ 12 == 0 else true
  | 12 => if off == 0x308 then decide (signed 32 v ≤ 1000000) && decide (-1000000 ≤ signed 32 v) else true
  | 6 =>
    if off == 0x110 then decide (bits v 31 16 < bits v 15 0)
    else if off == 0x118 then decide (bits v 29 16 ≤ 10000)
    else if off == 0x104 then decide (64 ≤ bits v 13 0) && decide (bits v 13 0 ≤ 9728)
    else if off == 0x3200 then
      let on := (List.range 16).filter (fun i => bit v i)
      decide (on.length ≤ 4) && on.all (fun i => s.ron Reg.PORT_ENABLE (16 * inst + i) &&
        (let md := s.rget Reg.PORT_MODE (16 * inst + i); md == 1 || md == 2))
    else true
  | 7 =>
    let size := if s.rbuf Reg.BRIDGE_SIZE inst == 1 then 2048 else 1024
    if off == 0x130 then decide (size + 16 ≤ bits v 12 0)
    else if off == 0x134 then decide (size + 1 ≤ bits v 14 0)
    else if off == 0x100 then decide (2 ≤ bits v 7 4) && decide (bits v 7 4 ≤ 11) || bits v 7 4 == 0 else true
  | 8 =>
    if off == 0x210 then
      let p := bits v 7 0
      let n := s.sel b 8 0x10
      (decide (p < 128) && p / 16 == n) || (decide (128 ≤ p) && decide (p < 144) && n == 0) ||
      (decide (144 ≤ p) && decide (p < 152) && n == 1) || p == 152 || p == 168 + n || v == 0
    else true
  | 9 =>
    if off == 0x208 then decide (bits v 12 0 + 128 ≤ bits v 28 16)
    else if decide (0x6000 ≤ off) && decide (off < 0x8000) then bits v 31 16 == 0 || decide (bits v 15 0 < bits v 31 16) else true
  | 10 =>
    if off == 0x14 then
      (match bits v 14 13 with
      | 0 => decide (bits v 12 0 ≤ 151)
      | 1 => decide (bits v 12 0 ≤ 1023)
      | 2 => true
      | _ => false)
    else if decide (0x400 ≤ off) && decide (off < 0x440) then decide (s.sel b 10 0x14 < 0x2000) else true
  | 5 =>
    if decide (0x100 ≤ off) && decide (off < 0x200) then
      (if bits v 15 14 == 0 then decide (10 ≤ bits v 13 0) else decide (1 ≤ bits v 13 0) && decide (bits v 13 0 ≤ 1000))
    else if decide (0x200 ≤ off) && decide (off < 0x300) then decide (bits v 7 0 + 2 ^ bits v 10 8 ≤ 256) else true
  | _ => true

/-- Every field that the mask touches lies in its row's range, and the cross-field ranges hold. -/
def State.rangeOk (s : State) (b blk inst off : Nat) (rs : List Row) (m v : Nat) : Bool :=
  rs.all (fun r => !(r.acc == .rw || r.acc == .rwm) || m &&& rowMask r == 0 ||
    (decide (r.min ≤ bits v r.hi r.lo) && decide (bits v r.hi r.lo ≤ r.max))) && s.crossOk b blk inst off v

/-! ### Objects in use (R107, R467, R469) -/

/-- The number of running programs of a ring (R38). -/
def State.ringRunning (s : State) (n : Nat) : Nat :=
  ((List.range 8).filter (fun t => (s.thr t).running && (s.thr t).ring == n)).length

/-- A vector is the VEC of an enabled command ring or of an enabled slow-path ring (R107). -/
def State.vecInUse (s : State) (v : Nat) : Bool :=
  (List.range 64).any (fun n => s.ron Reg.SEQ_EN 0 [n] && s.rget Reg.SEQ_VEC 0 [n] == v) ||
  (List.range 256).any (fun r => (s.ron Reg.HOST_EN 0 [r / 64, r % 64] && s.rget Reg.HOST_VEC 0 [r / 64, r % 64] == v) ||
    (s.ron Reg.HOST_TX_EN 0 [r / 64, r % 64] && s.rget Reg.HOST_TX_VEC 0 [r / 64, r % 64] == v))

/-- A mailbox channel. -/
def State.chan (s : State) (c : Nat) : MbxX := sget (fun _ => {}) s.mbx c
/-- Replaces it. -/
def State.setChan (s : State) (c : Nat) (x : MbxX) : State := { s with mbx := sset (fun _ => {}) s.mbx c x }

/-- A mailbox channel whose lock has an owner or whose slots hold a message (R107). -/
def State.chanBusy (s : State) (c : Nat) : Bool :=
  let x := s.chan c
  x.lock != 0 || x.a.full || x.b.full

/-- A basket holds spilled frames (R251): frames of a spilling queue of one of its ports. -/
def State.spillHeld (s : State) (b : Nat) : Bool :=
  s.queues.any (fun e => (!e.2.lp.isEmpty || !e.2.pend.isEmpty) && pipeOfPort e.2.port == b)

/-- A queue is allocated, not resident and not FRESH (R273). -/
def State.queuesAway (s : State) : Bool := s.queues.any (fun e => e.2.alloc && !e.2.resident && !e.2.fresh)

/-- The cause for which a write is refused because an object is in use, or 0. The binding of a ring is its whole entry, the
permission set with the target (DEDUCED from R40 and R106, log entry 142). -/
def State.busyCause (s : State) (blk inst off old v : Nat) : Nat :=
  if blk == 14 && decide (0x1000 ≤ off) && decide (off < 0x1400) then
    let n := (off - 0x1000) / 16
    if v != old && (s.ron Reg.SEQ_EN 0 [n] || decide (0 < s.ringRunning n)) then 8 else 0
  else if blk == 14 && decide (0x2000 ≤ off) && decide (off < 0x2100) then
    if v != old && s.chanBusy ((off - 0x2000) / 4) then 8 else 0
  else if blk == 14 && decide (0x2100 ≤ off) && decide (off < 0x2200) then
    if v != old && s.vecInUse ((off - 0x2100) / 4) then 8 else 0
  else if blk == 1 && off == 0x200 then
    if (List.range 8).any (fun n => s.rget Reg.LP4X_STATE n == 1 || s.rget Reg.LP4X_STATE n == 2) then 8 else 0
  else if blk == 9 && off == 0x200 then
    if bit old 16 && !bit v 16 && s.spillHeld inst then 8 else 0
  else if blk == 10 && off == 0x20 then
    if bit old 0 && !bit v 0 && s.queuesAway then 8 else 0
  else if blk == 1 && off == 0x210 then
    if bit old 31 && !bit v 31 && s.rget Reg.FWD_EXT_USED != 0 then 8 else 0
  else 0

/-! ### Refusals (R96) -/

/-- Counts and captures a refused write; a CLAIM refusal of a complex that is not the higher one raises
CLAIM_REFUSED_x (R397), and a write of a privileged ring's registers refused for its writer counts in PRIV_REFUSED (R42). -/
def State.refuseWrite (s : State) (id addr cause : Nat) : State :=
  let p := placeOf addr
  let priv := p.blk == 4 && decide (0x1000 ≤ p.off) && decide (p.off < 0x2000) && (cause == 1 || cause == 2) &&
    s.privileged ((p.off - 0x1000) / 0x40)
  let s0 := if priv then (s.sinc Reg.SEQ_PRIV_REFUSED).raise 994 else s
  let s1 := s0.sinc Reg.GLOBAL_WR_REFUSED
  let s2 := if s1.ron Reg.GLOBAL_VALID then s1
    else (((s1.rput Reg.GLOBAL_REFUSED_ADDR (addr / 4)).rput Reg.GLOBAL_ID id).rput Reg.GLOBAL_CAUSE_28 cause).rput Reg.GLOBAL_VALID 1
  s2.raiseIf (cause == 2 && (id == 17 || id == 18) && !s.isHigher id) (1131 + 5 * (id - 17))

/-! ### The write buffer (R99, R71, R93) -/

/-- The effective mask and value of a write: a register with RWM fields takes its mask from bits [31:16] (R93). -/
def effMask (rs : List Row) (v m : Nat) : Nat × Nat :=
  if rs.any (fun r => r.acc == .rwm) then (v % 2 ^ 16, v / 2 ^ 16) else (v, m)

/-- The merge of R99: bits of the mask take the written value. -/
def mergeBits (old v m : Nat) : Nat := (old &&& (0xFFFFFFFF - m)) ||| (v &&& m)

/-- The cause of a write that a W1P bit brings about: FORCE_FAULT is not a complex's (R409), and a GO of the checkpoint store
while BUSY (R403), or of the image store while a complex is BOOTING (R401), is refused with BUSY. -/
def State.goCause (s : State) (id blk off x : Nat) : Nat :=
  if blk != 14 then 0
  else if (off == 0x104 || off == 0x144) && bit x 0 && (id == 17 || id == 18) then 2
  else if off == 0x14 && bit x 31 && s.ron Reg.CC_BUSY then 8
  else if off == 0x38 && bit x 31 && (s.rget Reg.CC_STATE_100 0 [0] == 3 || s.rget Reg.CC_STATE_100 0 [1] == 3) then 8
  else 0

/-- The cause for which the block refuses a write, 0 when it accepts it: identity and claim, governing domain, reserved
offset, range, object in use (R96, R97, R99). `v`, `m`: value and mask as they arrive. -/
def State.writeCause (s : State) (id b : Nat) (p : Place) (inst : Nat) (qpipe : Option Nat) (v m : Nat) : Nat :=
  let ic := s.identityCause id p.blk p.off
  let rs := regRows p.blk p.off
  let e := effMask rs v m
  if s.clockless && p.blk != 0 then 4
  else if ic != 0 then ic
  else if !isSelect p.blk p.off && (match s.govern b p.blk p.off qpipe with | some d => s.dom d == 0 | none => false) then 4
  else if p.view || !regListed p.blk p.off then 3
  else
    let old := if isSelect p.blk p.off then s.sel b p.blk p.off else (s.cell (regKey p.blk inst p.off)).b.toNat
    let new := mergeBits old e.1 (e.2 &&& rwMask rs)
    let gc := s.goCause id p.blk p.off (v &&& m)
    if gc == 2 then 2
    else if !s.rangeOk b p.blk inst p.off rs e.2 new then 6
    else if gc != 0 then gc
    else s.busyCause p.blk inst p.off old new

/-- The enable bits of a register that R466 holds at 0 in use until the function's READY_MAP bit is set. -/
def enableBits (blk off : Nat) : Nat :=
  match blk with
  | 4 => if off == 0 then 0x100 else if decide (0x1000 ≤ off) && decide (off < 0x2000) && off % 0x40 == 0x10 then 1 else 0
  | 6 => if off == 0x100 then 1 else 0
  | 7 => if off == 0x100 then 1 else 0
  | 8 => if off == 0x700 then 0x10000 else if decide (0x1000 ≤ off) && decide (off < 0x12C0) then 0x80 else 0
  | 9 => if off == 0x200 then 0x10000 else 0
  | 10 => if off == 0x400 then 0x100 else if decide (0x3000 ≤ off) && decide (off < 0x3800) && off % 0x10 == 0 then 2 ^ 31 else 0
  | 12 => if off == 0x300 then 1 else if off == 0x3C0 then 2 ^ 31 else if off == 0x3E0 then 8 else 0
  | _ => 0

/-- Merges an accepted write into the buffered value of a register, or into the bank for a select register. -/
def State.mergeWrite (s : State) (b : Nat) (p : Place) (inst v m : Nat) : State :=
  let rs := regRows p.blk p.off
  let e := effMask rs v m
  let msk := e.2 &&& rwMask rs
  if isSelect p.blk p.off then s.setBank b (selSlot p.blk p.off) (mergeBits (s.sel b p.blk p.off) e.1 msk)
  else if p.blk == 14 && p.off == 0x20FC then
    let k := regKey p.blk inst p.off
    let c := s.cell k
    s.setCell k { c with b := BitVec.ofNat 32 (mergeBits c.b.toNat e.1 (msk &&& 0x3F)) }
  else
    let k := regKey p.blk inst p.off
    let c := s.cell k
    let s1 := s.setCell k { c with b := BitVec.ofNat 32 (mergeBits c.b.toNat e.1 msk) }
    if msk &&& enableBits p.blk p.off == 0 then s1 else { s1 with failed := s1.failed.filter (· != k) }

/-- Holds the action bits of a write accepted while domain d is in retention; several writes to one register act once (R97). -/
def State.holdAction (s : State) (d blk inst off addr v : Nat) : State :=
  let x := s.domx d
  let w := v &&& maskOf (fun r => r.acc == .w1c || r.acc == .w1p) (regRows blk off)
  if w == 0 then s
  else
    let same (h : HeldWrite) : Bool := h.blk == blk && h.inst == inst && h.off == off
    let old := match x.heldActions.find? same with | some h => h.v.toNat | none => 0
    let h : HeldWrite := ⟨blk, inst, off, addr, BitVec.ofNat 32 (old ||| w), 0xFFFFFFFF#32, []⟩
    s.setDomx d { x with heldActions := x.heldActions.filter (fun y => !same y) ++ [h] }

/-! ### Boundaries (R100, R101) -/

/-- Whether a boundary of unit u concerns an array element: "write", "cell" and "calendar" concern a whole block instance,
the others the port, lane, ring or pipe they name (the first array index). -/
def boundaryHits (bd : Boundary) (u : Nat) (r : Row) (off : Nat) : Bool :=
  match bd with
  | .frame | .gateCycle | .hyperframe | .fetch =>
    (match r.dims with
    | [] => true
    | (st, _) :: _ => (off - r.off) / st == u)
  | _ => true

/-- The bits of a register that move at a boundary. -/
def boundaryMask (bd : Boundary) (u blk off : Nat) : Nat :=
  maskOf (fun r => r.app == bd && (r.acc == .rw || r.acc == .rwm) && boundaryHits bd u r off) (regRows blk off)

/-- Moves bits of one block instance, a mask per offset, from the buffer into use. -/
def State.moveBits (s : State) (blk inst : Nat) (mask : Nat → Nat) : State :=
  { s with regs := smap regReset (fun k c =>
      if keyBlk k == blk && keyInst k == inst then
        { c with e := BitVec.ofNat 32 (mergeBits c.e.toNat c.b.toNat (mask (keyOff k))) }
      else c) s.regs }

/-! ### Ending a sequence of accepted bits -/

/-- Whether every listed register shows, in use, the buffered bits under its mask (FENCE with E, R50). -/
def State.allEffective (s : State) (l : List (Nat × Word)) : Bool :=
  l.all (fun p => let c := s.cell p.1; c.b.toNat &&& p.2.toNat == c.e.toNat &&& p.2.toNat)

end Sys2Proof.Machine
end

