-- ==== Sys2Proof/Machine/QueueOps.lean ====
section
/-! DEFINITION. Queues, shaped objects, ports and frames: accessors, the directory entry (R264), and refreshing a shaper
(R288). -/

namespace Sys2Proof.Machine

open Sys2Proof

/-! ### Queues -/

/-- A queue at reset: general queues are free, fixed queues are allocated, mapped and resident (R263). -/
def queueDflt (q : Nat) : Queue :=
  if 65464 ≤ q ∧ q < 65528 then { alloc := true, mapped := true, resident := true, port := 152, cls := (q - 65464) % 8 }
  else if 65528 ≤ q ∧ q < 65536 then { alloc := true, mapped := true, resident := true, port := 168 + (q - 65528) }
  else {}

/-- A queue. -/
def State.q (s : State) (i : Nat) : Queue := sget queueDflt s.queues i
/-- Replaces a queue. -/
def State.setQ (s : State) (i : Nat) (x : Queue) : State := { s with queues := sset queueDflt s.queues i x }

/-- A fixed queue (R263). -/
def isFixed (q : Nat) : Bool := (fixedQueuePipe q).isSome

/-- The basket of a queue: that of its port, or its own for a fixed queue (R263, R269). -/
def State.queueBasket (s : State) (q : Nat) : Nat :=
  match fixedQueuePipe q with | some n => n | none => pipeOfPort (s.q q).port

/-- The pipe that serves a queue, if it is mapped. -/
def State.queuePipe (s : State) (q : Nat) : Option Nat :=
  match fixedQueuePipe q with
  | some n => some n
  | none => if (s.q q).mapped then some (pipeOfPort (s.q q).port) else none

/-- The directory entry of a queue (R264). -/
def Queue.dir (x : Queue) : Nat :=
  b2n x.alloc * 2 ^ 31 + b2n x.mapped * 2 ^ 30 + b2n x.pinned * 2 ^ 29 + b2n x.resident * 2 ^ 28 + b2n x.paging * 2 ^ 27 +
  b2n x.fresh * 2 ^ 26 + b2n x.spilling * 2 ^ 25 + x.port * 2 ^ 16 + x.cls * 2 ^ 13 + x.slot

/-- A pinned queue is mapped to a port of basket b (R478). -/
def State.pinnedIn (s : State) (b : Nat) : Bool :=
  s.queues.any (fun q => q.2.pinned && q.2.mapped && pipeOfPort q.2.port == b)

/-! ### Ports, pipes, pagers, frames -/

/-- An Ethernet port. -/
def State.px (s : State) (p : Nat) : PortX := sget (fun _ => {}) s.ports p
/-- Replaces it. -/
def State.setPx (s : State) (p : Nat) (x : PortX) : State := { s with ports := sset (fun _ => {}) s.ports p x }
/-- A pipe. -/
def State.pipe (s : State) (n : Nat) : PipeX := sget (fun _ => {}) s.pipes n
/-- Replaces it. -/
def State.setPipe (s : State) (n : Nat) (x : PipeX) : State := { s with pipes := sset (fun _ => {}) s.pipes n x }
/-- The pager of a basket. -/
def State.pager (s : State) (b : Nat) : PagerX := sget (fun _ => {}) s.pagers b
/-- Replaces it. -/
def State.setPager (s : State) (b : Nat) (x : PagerX) : State := { s with pagers := sset (fun _ => {}) s.pagers b x }
/-- A frame. -/
def State.fr (s : State) (f : Nat) : Frame := sget (fun _ => {}) s.frames f
/-- Replaces it. -/
def State.setFr (s : State) (f : Nat) (x : Frame) : State := { s with frames := sset (fun _ => {}) s.frames f x }
/-- A stored copy. -/
def State.copy (s : State) (f b : Nat) : Copy := sget (fun _ => {}) s.copies (8 * f + b)
/-- Replaces it. -/
def State.setCopy (s : State) (f b : Nat) (x : Copy) : State := { s with copies := sset (fun _ => {}) s.copies (8 * f + b) x }
/-- The gates of a port. -/
def State.gate (s : State) (p : Nat) : GateX := sget (fun _ => {}) s.gates p
/-- Replaces them. -/
def State.setGate (s : State) (p : Nat) (x : GateX) : State := { s with gates := sset (fun _ => {}) s.gates p x }

/-- The port is UP (R116). -/
def State.portUp (s : State) (p : Nat) : Bool := s.rget Reg.PORT_LINK_STATE p == 4

/-- The MAC rate of a port mode in Gb/s (R111). -/
def modeRate : Nat → Nat
  | 1 => 10 | 2 => 25 | 3 => 50 | 4 => 100 | 5 => 100 | 6 => 200 | 7 => 400 | _ => 0
/-- The lanes of a port mode. -/
def modeLanes : Nat → Nat
  | 1 => 1 | 2 => 1 | 3 => 1 | 4 => 4 | 5 => 2 | 6 => 4 | 7 => 8 | _ => 0
/-- The MAC rate of a port. -/
def State.rate (s : State) (p : Nat) : Nat := modeRate (s.rget Reg.PORT_MODE p)

/-! ### Shaped objects (R282) -/

/-- The key of a level-2 node. -/
def l2Key (j : Nat) : Nat := 2 ^ 17 + j
/-- The key of a level-1 node. -/
def l1Key (i : Nat) : Nat := 2 ^ 18 + i
/-- The key of a port. -/
def portKey (p : Nat) : Nat := 2 ^ 19 + p

/-- An object at `PORST_N` (R282). A queue's placement comes from `QMAP`. -/
def objDflt (k : Nat) : Obj :=
  if k < 2 ^ 17 then { weight := 0 }
  else if k < 2 ^ 18 then { parent := (k - 2 ^ 17) / 8 }
  else if k < 2 ^ 19 then { parent := 16 * ((k - 2 ^ 18) / 128) + (k - 2 ^ 18) % 16 }
  else { weight := 0 }

/-- A shaped object. -/
def State.obj (s : State) (k : Nat) : Obj := sget objDflt s.objs k
/-- Replaces it. -/
def State.setObj (s : State) (k : Nat) (x : Obj) : State := { s with objs := sset objDflt s.objs k x }

/-- The signed 48-bit difference a − b of two short times (R333). -/
def diff48 (a b : Nat) : Int := signed 48 ((a % 2 ^ 48 + 2 ^ 48 - b % 2 ^ 48) % 2 ^ 48)

/-- One credit after dt ns at r kb/s toward its burst, and the time it was last updated at: the time that the whole bytes
gained represent, rounded down to 1 ns, or now when the burst was reached (R288). -/
def grow (c : Int) (r burst last now : Nat) : Int × Nat :=
  if r == 0 then (c, now)
  else
    let dt := diff48 now last
    let gain : Int := (r * dt) / 8000000
    if (burst : Int) ≤ c + gain then (burst, now) else (c + gain, wrapInt 48 (last + (gain * 8000000) / r))

/-- Refreshes an object at short time `t` (R288). Each rate keeps its own time, so that no part of a gain is lost
(DESIGN CHOICE, log entry 30). -/
def Obj.refresh (x : Obj) (t : Nat) : Obj :=
  let a := grow x.cirC x.cir x.cbs x.cTime t
  let b := grow x.eirC x.eir x.ebs x.eTime t
  { x with cirC := a.1, cTime := a.2, eirC := b.1, eTime := b.2 }

/-- SHAPER_TIME as the context shows it: the time of the rate above 0; with both, the excess rate's. -/
def Obj.stime (x : Obj) : Nat := if x.eir == 0 then x.cTime else x.eTime

/-- The port above an object of level 0 (queue) to 3 (port), following the parents. -/
def State.portAbove (s : State) (k : Nat) : Option Nat :=
  if 2 ^ 19 ≤ k then some (k - 2 ^ 19)
  else if 2 ^ 18 ≤ k then some (s.obj k).parent
  else if 2 ^ 17 ≤ k then some (s.obj (l1Key (s.obj k).parent)).parent
  else if (s.q k).mapped then some (s.q k).port else none

/-- The object's port is in HOLD, so it is frozen (R292). -/
def State.frozen (s : State) (k : Nat) : Bool :=
  match s.portAbove k with
  | some p => decide (p < 128) && s.rget Reg.QUEUE_HOLD_STATE 0 [p] == 1
  | none => false

/-- Refreshes an object of the state, unless it is frozen. -/
def State.refreshObj (s : State) (k : Nat) : State :=
  if s.frozen k then s else s.setObj k ((s.obj k).refresh s.short)

/-- The eligible time of an object with a credit below 0 (R289). -/
def Obj.eligibleAt (x : Obj) (now : Nat) : Option Nat :=
  let wait (r : Nat) (c : Int) : Option Nat := if 0 < r ∧ c < 0 then some (ceilDiv (c.natAbs * 8000000) r) else none
  match wait x.cir x.cirC, wait x.eir x.eirC with
  | some a, some b => some ((now + min a b) % 2 ^ 48)
  | some a, none => some ((now + a) % 2 ^ 48)
  | none, some b => some ((now + b) % 2 ^ 48)
  | none, none => none

/-- The object can be chosen under no rate: every rate above 0 has a credit below 0 (R289). -/
def Obj.exhausted (x : Obj) : Bool :=
  !(decide (0 < x.cir) && decide (0 ≤ x.cirC)) && !(decide (0 < x.eir) && decide (0 ≤ x.eirC))

/-- Enters an object on the Graticule when it can no longer be chosen and some rate is above 0 (R289, R291). -/
def Obj.enter (x : Obj) (now : Nat) : Obj :=
  if x.exhausted then
    match x.eligibleAt now with
    | some t => { x with wheel := some (t, decide (20480 ≤ diff48 t now)) }
    | none => { x with wheel := none }
  else { x with wheel := none }

end Sys2Proof.Machine
end

