-- ==== Sys2Proof/Machine/Supplied.lean ====
section
/-! DEFINITION. The supplied parse program of R180 and R181. -/

namespace Sys2Proof.Machine

/-- Part 0 of the supplied program. -/
def suppliedPart0 : List Nat := [
  0x110000003e022, 0xc00000000000000, 0x0, 0x400a400040ca5800, 0x0, 0x0,
  0x0, 0x3002000ffff000c, 0x0, 0x400000000000000, 0x0, 0x4042700000000000,
  0x0, 0x0, 0x0, 0x3002002ffff0004, 0x0, 0x400000000000000,
  0x0, 0x4042780000000000, 0x0, 0x0, 0x0, 0x3002004ffff0004,
  0x0, 0x400000000000000, 0x0, 0x0, 0x0, 0x0,
  0x0, 0x3002006ffff0004, 0x0, 0x400000000000000, 0x0, 0x0,
  0x0, 0x0, 0x0, 0x3002008ffff0004, 0x0, 0x1000000,
  0x0, 0x0, 0x0, 0x0, 0x0, 0x8000000000000000]

/-- Part 1 of the supplied program. -/
def suppliedPart1 : List Nat := [
  0x0, 0x200000000000000, 0x0, 0x4002800000000000, 0x0, 0x0,
  0x0, 0x8000800affff0000, 0x0, 0x400000000000000, 0x0, 0x4006880000000000,
  0x0, 0x0, 0x0, 0x400101201000002, 0x0, 0x400000000000000,
  0x0, 0x0, 0x0, 0x0, 0x0, 0x480101301000002,
  0x0, 0x400000000000000, 0x0, 0x0, 0x0, 0x0,
  0x0, 0x500101401000002, 0x0, 0x400000000000000, 0x0, 0x0,
  0x0, 0x0, 0x0, 0x580101501000002, 0x0, 0x400000000000000,
  0x0, 0x0, 0x0, 0x0, 0x0, 0x600101601000002]

/-- Part 2 of the supplied program. -/
def suppliedPart2 : List Nat := [
  0x0, 0x400000000000000, 0x0, 0x0, 0x0, 0x0,
  0x0, 0x680101701000002, 0x0, 0x400000000000000, 0x0, 0x0,
  0x0, 0x0, 0x0, 0x700101801000002, 0x0, 0x400000000000000,
  0x0, 0x0, 0x0, 0x0, 0x0, 0x780101901000002,
  0x0, 0x1000000, 0x0, 0x0, 0x0, 0x0,
  0x0, 0x8000000000000000, 0x0, 0x0, 0x0, 0x0,
  0x0, 0x0, 0x0, 0x8000201af0000000, 0x0, 0xf8a200000,
  0x2002000060000000, 0x4020a8004120ac00, 0xc01eb0004186f000, 0xc017000042073000, 0x0, 0x8000201cff000009]

/-- Part 3 of the supplied program. -/
def suppliedPart3 : List Nat := [
  0x0, 0x2800000000200000, 0x4004000020000000, 0x8000a80040c0ac00, 0xc006b000411ec000, 0x431f000000000000,
  0x0, 0x8000601eff000006, 0x0, 0x80000ff0e000000, 0x0, 0x4000ac0000000000,
  0x0, 0x0, 0x0, 0x80006024ff000000, 0x0, 0x800000000000000,
  0x80000000, 0x4000ac0000000000, 0x0, 0x0, 0x0, 0x8000602aff000000,
  0x0, 0x800000000400000, 0x2004000020000000, 0x4006b00000000000, 0x0, 0x0,
  0x0, 0x80005030ffff0002, 0x0, 0xc000fca400000, 0x0, 0x4006b00000000000,
  0x0, 0x0, 0x0, 0x8000000000000000, 0x0, 0x800000000600000,
  0x4002000020000000, 0x4086880000000000, 0x0, 0x0, 0x0, 0xc00103507000000]

/-- Part 4 of the supplied program. -/
def suppliedPart4 : List Nat := [
  0x0, 0x400000000000000, 0x0, 0x0, 0x0, 0x0,
  0x0, 0xc82103600ff0002, 0x0, 0xff8a000000, 0x0, 0x0,
  0x0, 0x0, 0x0, 0xc82103700ff0002, 0x0, 0x800000000600000,
  0x0, 0x4086880000000000, 0x0, 0x0, 0x0, 0xd80000000000000,
  0x0, 0xc00000000000000, 0x0, 0x0, 0x0, 0x0,
  0x0, 0xe802038ffff000c, 0x0, 0x400000000000000, 0x0, 0x0,
  0x0, 0x0, 0x0, 0xe80203affff0004, 0x0, 0x200000000000000,
  0x0, 0x0, 0x0, 0x0, 0x0, 0x8000203cffff0000]

/-- Part 5 of the supplied program. -/
def suppliedPart5 : List Nat := [
  0x0, 0x400000000800100, 0x4002000000000000, 0x4020980040829c00, 0x0, 0x0,
  0x0, 0x8000000000000000, 0x0, 0x800000000800200, 0x4002000000000000, 0x4002980000000000,
  0x0, 0x0, 0x0, 0x8000000000000000, 0x0, 0x2200000000800300,
  0x2002000000000000, 0x4000980040809c00, 0x40c2a00000000000, 0x0, 0x0, 0x8000000000000000,
  0x0, 0x1000000000800400, 0x0, 0x400298004042a000, 0x0, 0x0,
  0x0, 0x8000000000000000, 0x0, 0x8100ffff00010000, 0x88a8ffff00010000, 0x8100ffff00020000,
  0x88a8ffff00020000, 0x8100ffff00030000, 0x88a8ffff00030000, 0x8100ffff00040000, 0x88a8ffff00040000, 0x8100ffff00050000,
  0x88a8ffff00050000, 0x800ffff00110000, 0x86ddffff00120000, 0x8847ffff00070000, 0x8848ffff00070000, 0xaefeffff001e0000]

/-- Part 6 of the supplied program. -/
def suppliedPart6 : List Nat := [
  0xfc3dffff001f0000, 0x88f7ffff00200000, 0x88b5ffff00210000, 0x100010000100000, 0x100010000100000, 0x100010000100000,
  0x100010000100000, 0x100010000100000, 0x100010000100000, 0x100010000100000, 0x100010000100000, 0x4000f00000110000,
  0x6000f00000120000, 0x1100ff0000150000, 0x600ff0000160000, 0x1100ff0000150000, 0x600ff0000160000, 0xff0000130000,
  0x2b00ff0000130000, 0x3c00ff0000130000, 0x2c00ff0000140000, 0x1100ff0000150000, 0x600ff0000160000, 0xff0000130000,
  0x2b00ff0000130000, 0x3c00ff0000130000, 0x2c00ff0000140000, 0x1100ff0000150000, 0x600ff0000160000, 0xff0000130000,
  0x2b00ff0000130000, 0x3c00ff0000130000, 0x2c00ff0000140000, 0x868ffff00170000, 0x12b5ffff001a0000, 0x13fffff00200000,
  0x140ffff00200000, 0xaefeffff001e0000, 0x70000100000, 0xff00100000, 0xff00100000, 0x8100ffff001c0000,
  0x88a8ffff001c0000, 0x8100ffff001c0000, 0x88a8ffff001c0000, 0x800ffff00110000, 0x86ddffff00120000]

/-- The supplied program (R181), encoded as R167 to R170 lay an image out. -/
def suppliedProgram : List Nat :=
  suppliedPart0 ++ suppliedPart1 ++ suppliedPart2 ++ suppliedPart3 ++ suppliedPart4 ++ suppliedPart5 ++ suppliedPart6

end Sys2Proof.Machine
end

