-- ==== Sys2Proof/Machine/Survey.lean ====
section
/-! DEFINITION. Survey (chapter 7): parse programs (R167 to R171) and the parse of a frame (R172 to R179). -/

namespace Sys2Proof.Machine

open Sys2Proof

/-! ### Program images -/

/-- Word i of an image. -/
def pword (p : List Nat) (i : Nat) : Nat := p[i]?.getD 0
/-- Word w of node n. -/
def nword (p : List Nat) (n w : Nat) : Nat := pword p (1 + 8 * n + w)
/-- The number of nodes. -/
def progNodes (p : List Nat) : Nat := bits (pword p 0) 8 0
/-- The number of transitions. -/
def progTrans (p : List Nat) : Nat := bits (pword p 0) 23 12
/-- The PROG_ID. -/
def progId (p : List Nat) : Nat := bits (pword p 0) 63 48
/-- Transition word i. -/
def tword (p : List Nat) (i : Nat) : Nat := pword p (1 + 8 * progNodes p + i)
/-- Extraction j of node n. -/
def extWord (p : List Nat) (n j : Nat) : Nat :=
  let w := nword p n (2 + j / 2)
  if j % 2 == 0 then bits w 63 32 else bits w 31 0

/-- A next-node value is legal: DONE, or a node of the program (R168). -/
def nextOk (p : List Nat) (v : Nat) : Bool := v == 0x100 || decide (v < progNodes p)

/-- A node record is well formed (R168, R169, R171). -/
def nodeOk (p : List Nat) (n : Nat) : Bool :=
  let w0 := nword p n 0
  let w1 := nword p n 1
  let w6 := nword p n 6
  let inner := bits (pword p 0) 43 38
  decide (bits w0 23 21 ≤ 4) && bits w0 20 16 == 0 && decide (bits w1 63 61 ≤ 2) && bits w1 60 56 == 0 && bits w1 47 32 == 0 &&
  decide (bits w1 31 30 ≤ 2) && bits w1 28 0 == 0 && nextOk p (bits w6 63 55) && bits w6 54 50 == 0 && decide (bits w6 48 44 ≤ 16) &&
  bits w6 43 43 == 0 && bits w6 15 8 == 0 && decide (bits w6 42 32 + bits w6 48 44 ≤ progTrans p) &&
  !(bit w6 49 && decide (bits w6 7 0 < 2)) && nword p n 7 == 0 &&
  (List.range 8).all (fun j =>
    let e := extWord p n j
    let ln := bits e 20 17 + 1
    let d := bits e 16 10 + (if bit e 29 then inner else 0)
    bits e 9 0 == 0 && (bits e 31 30 == 0 || (decide (16 ≤ bits e 16 10) && decide (bits e 16 10 + ln ≤ 80) && decide (d + ln ≤ 80))))

/-- A program image is well formed (R171). -/
def progOk (p : List Nat) : Bool :=
  let h := pword p 0
  bits h 47 44 == 1 && bits h 37 32 == 0 && bits h 11 9 == 0 && decide (1 ≤ progNodes p) && decide (progNodes p ≤ 256) &&
  decide (progTrans p ≤ 2048) && p.length == 1 + 8 * progNodes p + progTrans p && decide (bits h 31 24 < progNodes p) &&
  (List.range (progNodes p)).all (nodeOk p) &&
  (List.range (progTrans p)).all (fun i =>
    let t := tword p i
    bits t 31 25 == 0 && bits t 15 0 == 0 && nextOk p (bits t 24 16) && bits t 63 48 &&& (0xFFFF - bits t 47 32) == 0)

/-! ### The parse -/

/-- What a parse has found so far. `rd` are the words of the image that were read. -/
structure Parse where
  record : List Byte
  flags : Nat := 0
  level : Nat := 0
  off : Nat := 0
  visits : Nat := 0
  endNode : Nat := 0
  limit : Option Nat := none
  claim : Nat := 0
  reason : Nat := 0
  /-- 1 TRUNC_BYTES, 2 TRUNC_HEADERS, 3 TRUNC_STOP. -/
  cause : Nat := 0
  rd : List Nat := []
  /-- The parse waits for bytes that have not arrived. -/
  waits : Bool := false
  deriving DecidableEq, Repr

/-- The 16-bit big-endian value at a position. -/
def be16 (d : List Byte) (i : Nat) : Nat := beNat (slice d i 2)

/-- One extraction of a node (R169). -/
def applyExt (e inner level off : Nat) (d : List Byte) (r : List Byte) : List Byte :=
  let ln := bits e 20 17 + 1
  let src := off + bits e 28 21
  let dst := bits e 16 10 + (if bit e 29 && level == 1 then inner else 0)
  match bits e 31 30 with
  | 1 => overlay r dst (slice d src ln)
  | 2 => overlay r dst ((List.range ln).map (fun i =>
      BitVec.ofNat 8 ((((slice d (src + i) 1).headD 0).toNat * 16) ||| (((slice d (src + i + 1) 1).headD 0).toNat / 16))))
  | 3 => overlay r dst (List.replicate ln 0)
  | _ => r

/-- The bytes that an extraction reads, from the header start. -/
def extNeed (e : Nat) : Nat :=
  match bits e 31 30 with
  | 1 => bits e 28 21 + bits e 20 17 + 1
  | 2 => bits e 28 21 + bits e 20 17 + 2
  | _ => 0

/-- Writes an offset byte of the record while it still reads 0xFF (R179). -/
def markOff (r : List Byte) (i off : Nat) : List Byte :=
  if r[i]?.getD 0 == 0xFF then r.set i (BitVec.ofNat 8 off) else r

/-- The mark of a node (R179). -/
def applyMark (mk level off app : Nat) (r : List Byte) : List Byte :=
  match mk with
  | 1 => markOff r (if level == 0 then 8 else 10) off
  | 2 => markOff r (if level == 0 then 9 else 11) off
  | 3 => r.set 12 (BitVec.ofNat 8 off)
  | 4 => if r[13]?.getD 0 == 0xFF then (r.set 13 (BitVec.ofNat 8 off)).set 15 (BitVec.ofNat 8 app) else r
  | _ => r

/-- The transition that a key takes among the next `n` from `i` on, and the words read (R170). -/
def findTrans (p : List Nat) (k : Nat) : Nat → Nat → Option Nat × List Nat
  | _, 0 => (none, [])
  | i, n + 1 =>
    let t := tword p i
    let w := 1 + 8 * progNodes p + i
    if k &&& bits t 47 32 == bits t 63 48 then (some (bits t 24 16), [w])
    else let r := findTrans p k (i + 1) n; (r.1, w :: r.2)

/-- The parse loop of R172 from node n on. `avail` bytes are present, the frame's end has arrived where `ended` holds. -/
def parseLoop (p : List Nat) (d : List Byte) (avail : Nat) (ended : Bool) (depthB depthH : Nat) : Nat → Nat → Parse → Parse
  | 0, _, x => x
  | fuel + 1, n, x =>
    if n == 0x100 then x
    else
      let w0 := nword p n 0
      let w1 := nword p n 1
      let w6 := nword p n 6
      let inner := bits (pword p 0) 43 38
      let x := { x with rd := x.rd ++ (List.range 8).map (fun w => 1 + 8 * n + w) }
      let mk := bits w0 23 21
      let trunc (c : Nat) : Parse := { x with flags := x.flags ||| 1, cause := c, endNode := n }
      let short (r : Nat) : Parse := { x with flags := x.flags ||| 2, reason := r, endNode := n }
      if x.visits == depthH then trunc 2
      else if bit w0 24 then trunc 3
      else if mk == 3 && x.level == 1 then trunc 2
      else
        let var := bit w0 25
        let raw := be16 d (x.off + bits w0 55 48)
        let hlen := bits w0 63 56 + (if var then ((raw / 2 ^ bits w0 31 28) &&& bits w0 47 32) * 2 ^ bits w0 27 26 else 0)
        let chk := bits w1 63 61
        let doChk := chk != 0 && x.flags &&& 4 == 0
        let frag := bits w1 31 30
        let km := bits w6 31 16
        let koff := bits w6 7 0
        let keyEnd := bit w6 49
        let before := keyEnd && decide (hlen < koff)
        let kpos := if keyEnd then hlen - koff else koff
        let reads := [if var then bits w0 55 48 + 2 else 0, if doChk then bits w1 55 48 + 2 else 0,
          if km != 0 && !before then kpos + 2 else 0, if frag == 1 then 8 else if frag == 2 then 4 else 0] ++
          (List.range 8).map (fun j => extNeed (extWord p n j))
        let need := x.off + max hlen (reads.foldl max 0)
        if avail < need then
          (if ended then short 1 else { x with waits := true })
        else if decide (depthB < need) || x.off == 255 then trunc 1
        else if var && hlen == 0 then short 2
        else
          let v := be16 d (x.off + bits w1 55 48)
          let c := x.off + (if chk == 1 then v else hlen + v)
          if doChk && chk == 1 && decide (v < hlen) then short 2
          else if doChk && (match x.limit with | some l => decide (l < c) | none => false) then short 3
          else
            let claim := if doChk then max x.claim c else x.claim
            let limit := if doChk && bit w1 29 then some c else x.limit
            let r1 := (List.range 8).foldl (fun r j => applyExt (extWord p n j) inner x.level x.off d r) x.record
            let r2 := applyMark mk x.level x.off (bits w0 15 8) r1
            let fl := x.flags ||| (bits w0 7 0 * 256) ||| (if mk == 3 then 16 else 0)
            let fw := if frag == 1 then be16 d (x.off + 6) else be16 d (x.off + 2)
            let fo := if frag == 1 then bits fw 12 0 else bits fw 15 3
            let fm := if frag == 1 then bit fw 13 else bit fw 0
            let later := frag != 0 && fo != 0
            let fl2 := if later then fl ||| 12 else if frag != 0 && fm then fl ||| 4 else fl
            let k := if km != 0 && !before then be16 d (x.off + kpos) &&& km else 0
            let t := if before then (none, []) else findTrans p k (bits w6 42 32) (bits w6 48 44)
            let nx := if later then 0x100 else t.1.getD (bits w6 63 55)
            parseLoop p d avail ended depthB depthH fuel nx
              { x with record := r2, flags := fl2, level := if mk == 3 then 1 else x.level, off := x.off + hlen,
                       visits := x.visits + 1, endNode := n, limit := limit, claim := claim, rd := x.rd ++ t.2 }

/-- The record at the start of a parse (R165). -/
def freshRecord : List Byte := List.replicate 8 0 ++ List.replicate 6 0xFF ++ List.replicate 66 0

/-- The parse of a frame (R172). -/
def parseFrame (p : List Nat) (d : List Byte) (avail : Nat) (ended : Bool) (depthB depthH : Nat) : Parse :=
  parseLoop p d avail ended depthB depthH 26 (bits (pword p 0) 31 24) { record := freshRecord }

/-- The record of a finished parse (R165, R166). -/
def Parse.finish (x : Parse) (inPort pass progNum : Nat) (macTrunc : Bool) : List Byte :=
  let fl := x.flags ||| (if macTrunc then 32 else 0)
  let r := overlay x.record 0 (beBytes 2 fl ++ [BitVec.ofNat 8 inPort, BitVec.ofNat 8 (pass * 128 + x.level * 32 + x.visits)] ++
    beBytes 2 progNum ++ [BitVec.ofNat 8 x.reason, BitVec.ofNat 8 x.endNode])
  r.set 14 (BitVec.ofNat 8 x.off)

/-! ### Programs of a pipe (R180, R182) -/

/-- The Survey state of a pipe. -/
def State.sv (s : State) (n : Nat) : SurveyX := sget (fun _ => {}) s.surveys n
/-- Replaces it. -/
def State.setSv (s : State) (n : Nat) (x : SurveyX) : State := { s with surveys := sset (fun _ => {}) s.surveys n x }

/-- The active program of a pipe: the supplied one until a `LOADP` has switched (R180). -/
def State.activeProg (s : State) (n : Nat) : List Nat := (s.sv n).active.getD suppliedProgram

/-- A loaded program is written to the shadow bank of a pipe (R88, R182). -/
def State.loadShadow (s : State) (n : Nat) (p : List Nat) : State :=
  ((s.setSv n { s.sv n with shadow := some p, lost := [] }).rput Reg.SURVEY_SHADOW_ID (progId p) n).rput Reg.SURVEY_LOADING 1 n

/-- A pipe switches to its loaded program at a frame boundary (R182). -/
def State.progSwitch (s : State) (n : Nat) : State :=
  match (s.sv n).shadow with
  | some p =>
    if s.ron Reg.SURVEY_LOADING n then
      let old := s.activeProg n
      let s1 := s.setSv n { s.sv n with active := some p, shadow := some old, lost := [] }
      let s2 := (((s1.rput Reg.SURVEY_PROG_ID (progId p) n).rput Reg.SURVEY_NODES (progNodes p) n).rput Reg.SURVEY_SHADOW_ID (progId old) n).rput Reg.SURVEY_LOADING 0 n
      (s2.cinc Reg.SURVEY_CNT n [10]).raise (816 + 8 * n)
    else s
  | none => s

/-- The supplied program is loaded when `PD_PIPE_n` goes from off to on (R180). -/
def State.loadSupplied (s : State) (n : Nat) : State :=
  ((((s.setSv n {}).rput Reg.SURVEY_PROG_ID 1 n).rput Reg.SURVEY_NODES 34 n).rput Reg.SURVEY_SHADOW_ID 0 n).rput Reg.SURVEY_LOADING 0 n

end Sys2Proof.Machine
end

