-- ==== Sys2Proof/Machine/TableOps.lean ====
section
/-! DEFINITION. The tables of R74 as images, and the fields of an image. An image is the number whose most significant byte
is its byte 0; word w of a layout is bytes 8w to 8w + 7 and its bit 63 is the most significant bit of byte 8w
(DEDUCED, log entry 12). -/

namespace Sys2Proof.Machine

open Sys2Proof

/-- The key of a table entry. -/
def tabKey (t inst i : Nat) : Nat := t * 2 ^ 40 + inst * 2 ^ 32 + i

/-- The image of a table entry; 0 where nothing was written. -/
def State.tab (s : State) (t inst i : Nat) : Nat := sget (fun _ => 0) s.tabs (tabKey t inst i)

/-- Replaces the image of a table entry, in one write (R17). -/
def State.setTab (s : State) (t inst i img : Nat) : State :=
  { s with tabs := sset (fun _ => 0) s.tabs (tabKey t inst i) img }

/-- Bits hi..lo of word w of an image of sz bytes. -/
def imgF (sz img w hi lo : Nat) : Nat := let b := 8 * sz - 64 * (w + 1); bits img (b + hi) (b + lo)

/-- An image of sz bytes with bits hi..lo of word w replaced. -/
def imgSet (sz img w hi lo v : Nat) : Nat := let b := 8 * sz - 64 * (w + 1); setBits img (b + hi) (b + lo) v

/-- n bytes of an image of sz bytes from byte i on, as a number. -/
def imgBytes (sz img i n : Nat) : Nat := img / 2 ^ (8 * (sz - i - n)) % 2 ^ (8 * n)

/-- Table numbers of R74. -/
def tADDR : Nat := 0
def tEXPRESS : Nat := 1
def tFLOW : Nat := 2
def tPOLICER : Nat := 3
def tMCGROUP : Nat := 4
def tEDIT : Nat := 5
def tMIRROR : Nat := 6
def tEXCEPT : Nat := 7
def tRULE : Nat := 8

/-- The image size of a table in bytes (R74). -/
def tabSize : Nat → Nat
  | 0 => 32 | 1 => 128 | 2 => 64 | 3 => 32 | 4 => 64 | 5 => 128 | 6 => 32 | 7 => 8 | _ => 192

/-- The number of entries of a table (R74). -/
def tabEntries : Nat → Nat
  | 0 => 8912896 | 1 => 4096 | 2 => 16384 | 3 => 32768 | 4 => 4096 | 5 => 1024 | 6 => 16 | 7 => 64 | _ => 65536

/-- Keyed tables (R74). -/
def tabKeyed (t : Nat) : Bool := decide (t < 3)

/-- Per-pipe tables (R74). -/
def tabPerPipe (t : Nat) : Bool := t == 1 || t == 2

/-! ### The address table (R214, R215) -/

/-- The CRC of an address key: domain in two bytes, then the address. -/
def addrCrc (d mac : Nat) : Nat := crc32 (beBytes 2 (d % 4096) ++ beBytes 6 mac)

/-- Fields of an address image. -/
def aDOMAIN (i : Nat) : Nat := imgF 32 i 0 59 48
def aMAC (i : Nat) : Nat := imgF 32 i 0 47 0
def aDTYPE (i : Nat) : Nat := imgF 32 i 1 63 62
def aDEST (i : Nat) : Nat := imgF 32 i 1 59 48
def aVALID (i : Nat) : Bool := imgF 32 i 3 63 63 == 1
def aHIT (i : Nat) : Bool := imgF 32 i 3 62 62 == 1
def aLOCK (i : Nat) : Bool := imgF 32 i 3 61 61 == 1
def aDYN (i : Nat) : Bool := imgF 32 i 3 60 60 == 1

/-- The number of on-chip entries. -/
def addrChip : Nat := 524288

/-- The address extension is ready (R30, R469). -/
def State.extReady (s : State) : Bool := s.ready 50

/-- The overflow count of an on-chip bucket (R214). -/
def State.overflow (s : State) (b : Nat) : Nat := sget (fun _ => 0) s.fwd.overflow b
/-- Sets it. -/
def State.setOverflow (s : State) (b n : Nat) : State :=
  { s with fwd := { s.fwd with overflow := sset (fun _ => 0) s.fwd.overflow b n } }

/-- A table entry is poisoned (R518). -/
def State.poisoned (s : State) (t inst i : Nat) : Bool := s.poison.contains (tabKey t inst i)

/-- A write of an entry ends its poison (R518). -/
def State.unpoison (s : State) (t inst i : Nat) : State := { s with poison := s.poison.filter (· != tabKey t inst i) }

/-- Adds or removes one valid address entry in the counts that depend on it: entries used, `LEARNED` of its port (R217),
and the overflow count of its on-chip bucket (R214). -/
def State.countAddr (s : State) (ix img : Nat) (add : Bool) : State :=
  if !aVALID img then s
  else
    let up (u : State) (r : Row) (l : List Nat) : State := if add then u.radd r 1 0 l else u.rsub r 1 0 l
    let s1 := if ix < addrChip then up s Reg.FWD_ADDR_USED [] else
      (let b := addrCrc (aDOMAIN img) (aMAC img) % 65536
       let n := s.overflow b
       (up s Reg.FWD_EXT_USED []).setOverflow b (if add then n + 1 else n - 1))
    if aDYN img && aDTYPE img == 0 && decide (aDEST img < 152) then up s1 Reg.FWD_LEARNED [aDEST img] else s1

/-- Replaces an address entry and keeps the counts. -/
def State.setAddr (s : State) (ix img : Nat) : State :=
  (((s.countAddr ix (s.tab tADDR 0 ix) false).countAddr ix img true).setTab tADDR 0 ix img).unpoison tADDR 0 ix

/-- The valid entry with a key among the 8 ways from index i. -/
def State.addrWays (s : State) (i d mac : Nat) : Option Nat :=
  ((List.range 8).map (fun w => i + w)).find? (fun k =>
    let e := s.tab tADDR 0 k
    aVALID e && aDOMAIN e == d && aMAC e == mac && !s.poisoned tADDR 0 k)

/-- The lowest free way among the 8 ways from index i. -/
def State.addrFree (s : State) (i : Nat) : Option Nat :=
  ((List.range 8).map (fun w => i + w)).find? (fun k => !aVALID (s.tab tADDR 0 k) && !s.poisoned tADDR 0 k)

/-- First index of the on-chip bucket and of the extension bucket of a key. -/
def chipIx (d mac : Nat) : Nat := 8 * (addrCrc d mac % 65536)
def extIx (d mac : Nat) : Nat := addrChip + 8 * (addrCrc d mac / 4096)

/-- A lookup needs a read of the extension (R216). -/
def State.addrNeedsExt (s : State) (d mac : Nat) : Bool :=
  (s.addrWays (chipIx d mac) d mac).isNone && s.overflow (chipIx d mac / 8) != 0 && s.extReady

/-- A lookup (R216). -/
def State.addrFind (s : State) (d mac : Nat) : Option Nat :=
  match s.addrWays (chipIx d mac) d mac with
  | some k => some k
  | none => if s.overflow (chipIx d mac / 8) != 0 && s.extReady then s.addrWays (extIx d mac) d mac else none

/-- The place of a new key (R214). -/
def State.addrPlace (s : State) (d mac : Nat) : Option Nat :=
  match s.addrFree (chipIx d mac) with
  | some k => some k
  | none => if s.extReady then s.addrFree (extIx d mac) else none

/-- A mirror session is valid (R227). -/
def State.mirrorValid (s : State) (i : Nat) : Bool := imgF 32 (s.tab tMIRROR 0 i) 3 63 63 == 1
/-- Its ring lies in LP4X (R227). -/
def State.mirrorLp4x (s : State) (i : Nat) : Bool := imgF 32 (s.tab tMIRROR 0 i) 1 58 58 == 1

end Sys2Proof.Machine
end

