-- ==== Sys2Proof/Machine/Versions.lean ====
section
/-! DEFINITION. Legend memory and rule-set versions (chapter 8): the two tree domains (R189), lines and blocks (R191), image
checks (R192, R193, R197), commit (R202), retirement (R203), discarding a draft (R204), and in-flight counts (R201). -/

namespace Sys2Proof.Machine

open Sys2Proof

/-! ### Domains and lines -/

/-- The tree domain that serves a pipe: 25 or 26 (R189). -/
def treeDom (pipe : Nat) : Nat := if pipe < 4 then 25 else 26

/-- The Legend memory that a pipe reads. -/
def State.legOf (s : State) (pipe : Nat) : LegMem := if pipe < 4 then s.legend.m0 else s.legend.m1

/-- The Legend memory that instructions read: a domain that is on (R190). -/
def State.leg (s : State) : LegMem := if s.domOn 25 then s.legend.m0 else if s.domOn 26 then s.legend.m1 else {}

/-- A tree domain is on (R190). -/
def State.treeOn (s : State) : Bool := s.domOn 25 || s.domOn 26

/-- A write to Legend memory goes to each domain that is on (R189). -/
def State.legApply (s : State) (g : LegMem → LegMem) : State :=
  { s with legend := { s.legend with
      m0 := if s.domOn 25 then g s.legend.m0 else s.legend.m0,
      m1 := if s.domOn 26 then g s.legend.m1 else s.legend.m1 } }

/-- A line. -/
def LegMem.line (m : LegMem) (i : Nat) : Line := sget (fun _ => {}) m.lines i
/-- Replaces a line. -/
def LegMem.setLine (m : LegMem) (i : Nat) (x : Line) : LegMem := { m with lines := sset (fun _ => {}) m.lines i x }
/-- A rule slot's image. -/
def LegMem.rule (m : LegMem) (i : Nat) : Nat := sget (fun _ => 0) m.rules i
/-- Replaces a rule slot. -/
def LegMem.setRule (m : LegMem) (i x : Nat) : LegMem := { m with rules := sset (fun _ => 0) m.rules i x }
/-- The line (plus 1) that claims a block, 0 where none does. -/
def LegMem.claimOf (m : LegMem) (b : Nat) : Nat := sget (fun _ => 0) m.claims b
/-- Replaces a claim. -/
def LegMem.setClaim (m : LegMem) (b x : Nat) : LegMem := { m with claims := sset (fun _ => 0) m.claims b x }
/-- The versions of a rule set. -/
def LegMem.ver (m : LegMem) (rs : Nat) : Vers := sget (fun _ => {}) m.vers rs
/-- Replaces them. -/
def LegMem.setVer (m : LegMem) (rs : Nat) (x : Vers) : LegMem := { m with vers := sset (fun _ => {}) m.vers rs x }

/-- The kind of a node image (R192). -/
def nodeKind (img : Nat) : Nat := imgF 64 img 0 63 60
/-- The block of a leaf image. -/
def leafBlock (img : Nat) : Nat := imgF 64 img 1 12 0

/-- Unclaims the block of a leaf line; its 8 slots read as invalid (R191). -/
def LegMem.unclaim (m : LegMem) (i : Nat) : LegMem :=
  let x := m.line i
  if x.owner != 0 && nodeKind x.img == 3 then
    let b := leafBlock x.img
    let m1 := m.setClaim b 0
    { m1 with rules := sfilter (fun k => k / 8 != b) m1.rules, badRules := m1.badRules.filter (fun k => k / 8 != b) }
  else m

/-- A line becomes free (R191). -/
def LegMem.freeLine (m : LegMem) (i : Nat) : LegMem := (m.unclaim i).setLine i {}

/-- The lines of a rule set. -/
def LegMem.linesOf (m : LegMem) (rs : Nat) : List Nat := (m.lines.filter (fun e => e.2.owner == rs + 1)).map (·.1)

/-- Free lines (R208). -/
def LegMem.linesFree (m : LegMem) : Nat := 131072 - (m.lines.filter (fun e => e.2.owner != 0)).length
/-- Unclaimed blocks (R208). -/
def LegMem.blocksFree (m : LegMem) : Nat := 8192 - m.claims.length

/-! ### Actions (R196, R197, R199) -/

/-- Whether a 128-bit `ACTION` may be used by a rule or a flow entry. -/
def actionOk (a : Nat) : Bool :=
  let ty := bits a 96 94
  bits a 127 126 == 0 && bits a 125 120 == 0 && bits a 15 0 == 0 && bits a 115 114 != 3 && ty != 7 &&
  !(ty == 1 && decide (151 < bits a 89 82)) && !(ty == 4 && !bit a 60) &&
  !(decide (1 ≤ bits a 21 16) && decide (bits a 21 16 ≤ 31))

/-- The `ACTION` of a rule image (192 bytes). -/
def ruleAction (img : Nat) : Nat := imgBytes 192 img 160 16
/-- The `VALID` bit of a rule image. -/
def ruleValid (img : Nat) : Bool := imgF 192 img 22 63 63 == 1

/-! ### Image checks (R192, R193) -/

/-- Key field f of a root image. -/
def rootField (img f : Nat) : Nat := imgF 64 img (1 + f / 4) (63 - 16 * (f % 4)) (48 - 16 * (f % 4))

/-- Child i of an internal node. -/
def nodeChild (img i : Nat) : Nat := bits (imgBytes 64 img 16 48) (383 - 24 * i) (360 - 24 * i)

/-- The format of an image for the draft of rule set rs: RANGE where it is broken (R193). -/
def imageOk (rs img : Nat) : Bool :=
  let w (i : Nat) : Nat := imgF 64 img i 63 0
  let k := nodeKind img
  let common := imgF 64 img 0 59 54 == rs && imgF 64 img 0 53 24 == 0 && imgF 64 img 0 21 17 == 0 && (k == 4 || imgF 64 img 0 23 22 == 0)
  common && (match k with
  | 1 =>
    let fs := (List.range 16).map (rootField img)
    let en := fs.filter (fun f => bit f 15)
    fs.all (fun f => bits f 3 0 == 0) && en.all (fun f => decide (bits f 14 8 + bits f 7 4 + 1 ≤ 80)) &&
    decide ((en.map (fun f => bits f 7 4 + 1)).sum ≤ 80) && imgF 64 img 5 63 24 == 0 && imgF 64 img 5 22 17 == 0 && w 6 == 0 && w 7 == 0
  | 2 =>
    let wd := imgF 64 img 1 52 50
    imgF 64 img 1 49 0 == 0 && decide (1 ≤ wd) && decide (wd ≤ 4) &&
    (List.range 16).all (fun i => bits (nodeChild img i) 22 17 == 0 && (decide (i < 2 ^ wd) || nodeChild img i == 0))
  | 3 => imgF 64 img 1 63 13 == 0 && (List.range 6).all (fun i => w (i + 2) == 0)
  | 4 =>
    imgF 64 img 0 16 16 == 0 &&
    (imgF 64 img 0 23 22 != 3 || ((List.range 4).all (fun i => w (i + 4) == 0) && imgF 64 img 2 62 0 == 0 && w 3 == 0))
  | 5 => (List.range 7).all (fun i => w (i + 1) == 0)
  | _ => false)

/-- Whether the draft may apply an image to the memory as earlier images left it: REFUSED where it may not (R193). -/
def LegMem.imageAllowed (m : LegMem) (rs img : Nat) : Bool :=
  let a := imgF 64 img 0 16 0
  let x := m.line a
  match nodeKind img with
  | 4 =>
    let c := m.claimOf (a / 8)
    c != 0 && (m.line (c - 1)).owner == rs + 1 && (m.line (c - 1)).draft
  | 5 =>
    match (m.ver rs).active with
    | some v => x.owner == rs + 1 && bit x.holds v && !x.draft
    | none => false
  | k =>
    (x.owner == 0 || x.owner == rs + 1) && x.holds == 0 &&
    (k != 3 || m.claimOf (leafBlock img) == 0 || m.claimOf (leafBlock img) == a + 1)

/-- Applies an accepted image (R193). -/
def LegMem.applyImage (m : LegMem) (rs img : Nat) : LegMem :=
  let a := imgF 64 img 0 16 0
  match nodeKind img with
  | 4 =>
    let part := imgF 64 img 0 23 22
    let n := if part == 3 then 24 else 56
    let v := imgBytes 64 img 8 n
    let sh := 8 * (192 - 56 * part - n)
    m.setRule a (setBits (m.rule a) (sh + 8 * n - 1) sh v)
  | 5 => m.setLine a { m.line a with release := true }
  | k =>
    let keep := k == 3 && nodeKind (m.line a).img == 3 && leafBlock (m.line a).img == leafBlock img
    let m1 := if keep then m else m.unclaim a
    let m2 := m1.setLine a { m1.line a with owner := rs + 1, draft := true, img := img, poisoned := false }
    if k == 3 then m2.setClaim (leafBlock img) (a + 1) else m2

/-- The images of one `VPUT`, in order: the memory they leave, or the status of the first failure. -/
def LegMem.putImages (m : LegMem) (rs : Nat) : List Nat → Except Nat LegMem
  | [] => .ok m
  | i :: r => if !imageOk rs i then .error 0x12 else if !m.imageAllowed rs i then .error 0x03 else (m.applyImage rs i).putImages rs r

/-- `VPUT` (R193, R197): images, then the `ACTION` of each slot written whose `VALID` reads 1. -/
def LegMem.vput (m : LegMem) (rs : Nat) (imgs : List Nat) : Except Nat LegMem :=
  match m.putImages rs imgs with
  | .error e => .error e
  | .ok m1 =>
    let slots := (imgs.filter (fun i => nodeKind i == 4)).map (fun i => imgF 64 i 0 15 0)
    if slots.all (fun k => !ruleValid (m1.rule k) || actionOk (ruleAction (m1.rule k))) then .ok m1 else .error 0x12

/-! ### Drafts, commit, retirement -/

/-- The thread (plus 1) that holds the draft of a rule set. -/
def State.draftOf (s : State) (rs : Nat) : Nat := sget (fun _ => 0) s.legend.drafts rs
/-- Sets it. -/
def State.setDraft (s : State) (rs x : Nat) : State :=
  { s with legend := { s.legend with drafts := sset (fun _ => 0) s.legend.drafts rs x } }

/-- The lines of a draft that is closed without a commit become free, and its release marks clear (R204). -/
def LegMem.discardDraft (m : LegMem) (rs : Nat) : LegMem :=
  (m.linesOf rs).foldl (fun n i =>
    let x := n.line i
    if x.draft && x.holds == 0 then n.freeLine i else n.setLine i { x with draft := false, release := false }) m

/-- VABORT of a rule set's draft. -/
def State.vabort (s : State) (rs : Nat) : State := (s.legApply (fun m => m.discardDraft rs)).setDraft rs 0

/-- VABORT of every draft that thread t opened (R46, R204). -/
def State.abortDrafts (s : State) (t : Nat) : State :=
  ((s.legend.drafts.filter (fun e => e.2 == t + 1)).map (·.1)).foldl (fun u rs => u.vabort rs) s

/-- `INFLIGHT` of a slot (R201). -/
def State.inflight (s : State) (rs k : Nat) : Nat := sget (fun _ => 0) s.legend.inflight (4 * rs + k)
/-- Sets it. -/
def State.setInflight (s : State) (rs k n : Nat) : State :=
  { s with legend := { s.legend with inflight := sset (fun _ => 0) s.legend.inflight (4 * rs + k) n } }

/-- The lowest slot of a rule set that is free for a commit: not live, with a count of 0 (R202, R78). -/
def State.freeSlot (s : State) (rs : Nat) : Option Nat :=
  (List.range 4).find? (fun k => !bit ((s.leg).ver rs).live k && s.inflight rs k == 0)

/-- The commit of R202 into slot k. -/
def LegMem.commit (m : LegMem) (rs k root : Nat) : LegMem :=
  let v := m.ver rs
  let m1 := (m.linesOf rs).foldl (fun n i =>
    let x := n.line i
    let h := (match v.active with | some a => bit x.holds a && !x.release | none => false) || x.draft
    n.setLine i { x with holds := setBit x.holds k h, draft := false, release := false }) m
  m1.setVer rs { active := some k, live := setBit v.live k true, roots := sset (fun _ => 0) v.roots k root }

/-- VCOMMIT's effect: the commit, `COMMITS`, the draft is closed. -/
def State.vcommit (s : State) (rs k root : Nat) : State :=
  ((s.legApply (fun m => m.commit rs k root)).setDraft rs 0).winc Reg.LEGEND_COMMITS 0 [rs]

/-- The retirement of R203. -/
def LegMem.retire (m : LegMem) (rs k : Nat) : LegMem :=
  let v := m.ver rs
  let m1 := (m.linesOf rs).foldl (fun n i =>
    let x := n.line i
    let h := setBit x.holds k false
    if h == 0 && !x.draft then n.freeLine i else n.setLine i { x with holds := h }) m
  m1.setVer rs { v with live := setBit v.live k false, roots := sset (fun _ => 0) v.roots k 0 }

/-- A slot can retire: live, not active, count 0. -/
def State.canRetire (s : State) (rs k : Nat) : Bool :=
  let v := (s.leg).ver rs
  bit v.live k && v.active != some k && s.inflight rs k == 0

/-- A frame stops counting in `INFLIGHT` (R201). -/
def State.uncount (s : State) (f : Nat) : State :=
  let x := s.fr f
  if x.counted then (s.setFr f { x with counted := false }).setInflight x.rset x.ver (s.inflight x.rset x.ver - 1) else s

end Sys2Proof.Machine
end

