-- ==== Sys2Proof/Machine/Classify.lean ====
section
/-! DEFINITION. Legend (chapter 8): keys (R188), the walk (R194), the flow table (R195), legend records (R196), exceptions
(R198 to R200), and the version a frame takes (R187, R201). -/

namespace Sys2Proof.Machine

open Sys2Proof

/-! ### Exception codes (R198) -/

def excNONE : Nat := 0
def excNO_MATCH : Nat := 1
def excLENGTH : Nat := 2
def excTREE_ECC : Nat := 3
def excWALK_FAULT : Nat := 4
def excRECIRC_LIMIT : Nat := 5
def excCM : Nat := 6
def excSA_UNKNOWN : Nat := 7
def excSA_MOVE : Nat := 8
def excSA_LOCKED : Nat := 9
def excLEARN_LIMIT : Nat := 10
def excDA_MISS : Nat := 11
def excTTL : Nat := 12
def excMC_EMPTY : Nat := 13

/-- What the exception table makes of a code: action (0 FORWARD, 1 SLOW, 2 DROP, 3 COPY), destination (1: complex), slow-path
queue where the entry is valid, mirror session. -/
structure ExcAct where
  action : Nat
  dest : Nat
  spq : Option Nat
  mirror : Option Nat
  deriving DecidableEq, Repr

/-- The default of a code (R198). -/
def excDefault (c : Nat) : ExcAct :=
  if c == 0 then ⟨0, 0, none, none⟩
  else if c == 3 || c == 4 || c == 5 || c == 9 || c == 10 || c == 13 then ⟨2, 0, none, none⟩
  else if c == 7 || c == 8 then ⟨1, 1, none, none⟩ else ⟨1, 0, none, none⟩

/-- The entry of a code, or its default (R200). -/
def State.excAct (s : State) (c : Nat) : ExcAct :=
  let i := s.tab tEXCEPT 0 c
  if c == 0 || !bit i 0 || s.poisoned tEXCEPT 0 c then excDefault c
  else ⟨bits i 63 62, bits i 61 61, some (bits i 60 58), if bit i 57 then some (bits i 56 53) else none⟩

/-! ### Keys and walks -/

/-- The 80-byte key that a root lays out (R188). -/
def gatherKey (root : Nat) (record : List Byte) : List Byte :=
  let fs := ((List.range 16).map (rootField root)).filter (fun f => bit f 15)
  let l := fs.flatMap (fun f => slice record (bits f 14 8) (bits f 7 4 + 1))
  l ++ List.replicate (80 - l.length) 0

/-- The value of key field f, none where it is disabled (R188). -/
def fieldValue (root f : Nat) (record : List Byte) : Option Nat :=
  let w := rootField root f
  if bit w 15 then some (beNat (slice record (bits w 14 8) (bits w 7 4 + 1))) else none

/-- How a walk ends: a rule slot, or an exception code. -/
inductive WalkEnd where
  | hit (slot : Nat)
  | exc (code : Nat)
  deriving DecidableEq, Repr

/-- The first matching rule of a block, in slot order; `TREE_ECC` where a slot read is poisoned. -/
def LegMem.testRules (m : LegMem) (key : Nat) (block : Nat) : Nat → Nat → WalkEnd
  | _, 0 => .exc excNO_MATCH
  | j, n + 1 =>
    let k := 8 * block + j
    let r := m.rule k
    if m.badRules.contains k then .exc excTREE_ECC
    else if ruleValid r && (key ^^^ imgBytes 192 r 0 80) &&& imgBytes 192 r 80 80 == 0 then .hit k
    else m.testRules key block (j + 1) n

/-- The walk from line x on; `fuel` lines may still be read (R194). -/
def LegMem.walkFrom (m : LegMem) (rs root : Nat) (record : List Byte) : Nat → Nat → WalkEnd
  | 0, _ => .exc excWALK_FAULT
  | fuel + 1, x =>
    let n := m.line x
    if n.poisoned then .exc excTREE_ECC
    else if n.owner != rs + 1 then .exc excWALK_FAULT
    else match nodeKind n.img with
    | 2 =>
      (match fieldValue root (imgF 64 n.img 1 63 60) record with
      | none => .exc excWALK_FAULT
      | some v =>
        let i := v / 2 ^ imgF 64 n.img 1 59 53 % 2 ^ imgF 64 n.img 1 52 50
        let c := nodeChild n.img i
        if bit c 23 then m.walkFrom rs root record fuel (bits c 16 0) else .exc excNO_MATCH)
    | 3 => m.testRules (beNat (gatherKey root record)) (leafBlock n.img) 0 8
    | _ => .exc excWALK_FAULT

/-- The walk of a version: at most 12 lines, the root included. -/
def LegMem.walk (m : LegMem) (rs rootLine : Nat) (record : List Byte) : WalkEnd :=
  let r := m.line rootLine
  if r.poisoned then .exc excTREE_ECC
  else if imgF 64 r.img 5 23 23 == 0 then .exc excNO_MATCH
  else m.walkFrom rs r.img record 11 (imgF 64 r.img 5 16 0)

/-! ### Flow table (R195) -/

/-- The bucket of a key in the flow table. -/
def flowBucket (rs : Nat) (key : List Byte) : Nat := crc32 (BitVec.ofNat 8 (rs % 64) :: key.take 40) % 4096

/-- The entry of a pipe's flow table that holds a rule set and key. -/
def State.flowFind (s : State) (pipe rs : Nat) (key : List Byte) : Option Nat :=
  let b := flowBucket rs key
  ((List.range 4).map (fun w => 4 * b + w)).find? (fun i =>
    let e := s.tab tFLOW pipe i
    imgF 64 e 7 63 63 == 1 && imgF 64 e 7 53 48 == rs && imgBytes 64 e 0 40 == beNat (key.take 40) && !s.poisoned tFLOW pipe i)

/-! ### The version a frame takes (R187, R201) -/

/-- Header-window capture: program, configuration, rule set and version are fixed, and the frame is counted in flight.
`rmap` is the RSET_MAP entry. A second pass keeps its version. -/
def State.capture (s : State) (f rmap : Nat) : State :=
  let x := s.fr f
  let n := x.pipe
  let x1 := { x with prog := s.activeProg n, depthB := s.rget Reg.SURVEY_DEPTH_BYTES n, depthH := s.rget Reg.SURVEY_DEPTH_HEADERS n,
                     lenLate := s.ron Reg.SURVEY_LEN_LATE n, stage := 0 }
  if x.direct.isSome then s.setFr f { x1 with how := 3 }
  else if x.pass == 1 then s.setFr f x1
  else
    let rs := s.rget Reg.LEGEND_RSET n [rmap]
    let v := (s.legOf n).ver rs
    if !s.ron Reg.LEGEND_EN n [rmap] then s.setFr f { x1 with how := 1, rset := rs }
    else if !s.ready (treeDom n) then s.setFr f { x1 with how := 2, rset := rs }
    else match v.active with
    | none => s.setFr f { x1 with how := 1, rset := rs }
    | some k => (s.setFr f { x1 with how := 0, rset := rs, ver := k, counted := true }).setInflight rs k (s.inflight rs k + 1)

/-! ### The legend record (R196) -/

/-- Fields of a 128-bit legend record. -/
def lgCLASS (r : Nat) : Nat := bits r 119 116
def lgQMODE (r : Nat) : Bool := bit r 113
def lgQUEUE (r : Nat) : Nat := bits r 112 97
def lgFWD_TYPE (r : Nat) : Nat := bits r 96 94
def lgFWD_TARGET (r : Nat) : Nat := bits r 93 82
def lgEXC (r : Nat) : Nat := bits r 21 16
def lgRULE (r : Nat) : Nat := bits r 15 0

/-- A record on a miss or fault: `VER`, `RSET` and `EXC` only. -/
def missRecord (ver rs exc : Nat) : Nat := ver * 2 ^ 126 + rs * 2 ^ 120 + exc * 2 ^ 16

/-- A record from an `ACTION`. -/
def hitRecord (ver rs action rule : Nat) : Nat := setBits (setBits (setBits action 15 0 rule) 125 120 rs) 127 126 ver

/-- The record with its exception code replaced. -/
def withExc (r c : Nat) : Nat := setBits r 21 16 c

/-- LEGEND_WALK (R194): the legend record of a parsed frame before LENGTH and RECIRC_LIMIT are applied. -/
def State.legendWalk (s : State) (f : Nat) : State × Nat :=
  let x := s.fr f
  let n := x.pipe
  if x.how == 3 then
    let d := x.direct.getD (0, 0)
    (s, d.2 * 2 ^ 97 + 1 * 2 ^ 94 + d.1 * 2 ^ 82)
  else if x.how == 1 then (s, missRecord 0 x.rset excNO_MATCH)
  else if x.how == 2 then (s, missRecord 0 x.rset excWALK_FAULT)
  else
    let m := s.legOf n
    let v := m.ver x.rset
    let rootLine := sget (fun _ => 0) v.roots x.ver
    let s0 := s.cinc Reg.LEGEND_CNT n [0]
    let s1 := if x.pass == 1 then s0.cinc Reg.LEGEND_CNT n [3] else s0
    if !s.ready (treeDom n) then (s1, missRecord x.ver x.rset excWALK_FAULT)
    else
      let w := m.walk x.rset rootLine x.record
      let key := gatherKey (m.line rootLine).img x.record
      let fl := s.flowFind n x.rset key
      let hard := w == .exc excTREE_ECC || w == .exc excWALK_FAULT
      let s2 := match fl with
        | some i => s1.setTab tFLOW n i (imgSet 64 (s1.tab tFLOW n i) 7 61 61 1)
        | none => s1
      match (if hard then none else fl), w with
      | some i, _ => (s2.cinc Reg.LEGEND_CNT n [2], hitRecord x.ver x.rset (imgBytes 64 (s.tab tFLOW n i) 40 16) i)
      | none, .hit k => (s2.cinc Reg.LEGEND_CNT n [1], hitRecord x.ver x.rset (ruleAction (m.rule k)) k)
      | none, .exc c => (s2.raiseIf (c == excWALK_FAULT) (819 + 8 * n), missRecord x.ver x.rset c)

end Sys2Proof.Machine
end

