-- ==== Sys2Proof/Machine/AxCore.lean ====
section
/-! DEFINITION. What every Axsel instruction shares: charging and advancing, statuses and SOFT (R54), completion records
(R34, R36), program end (R46, R52, R56), ring errors (R38), and the end of a wait (R53). -/

namespace Sys2Proof.Machine

open Sys2Proof

/-! ### Status codes (R55) -/

def stOK : Nat := 0x00
def stSUPERSEDED : Nat := 0x01
def stTIMEOUT : Nat := 0x02
def stREFUSED : Nat := 0x03
def stNOTFOUND : Nat := 0x04
def stFULL : Nat := 0x05
def stBUSY : Nat := 0x06
def stLATE : Nat := 0x07
def stILLEGAL : Nat := 0x10
def stPERM : Nat := 0x11
def stRANGE : Nat := 0x12
def stALIGN : Nat := 0x13
def stBUS : Nat := 0x14
def stECC : Nat := 0x15
def stBUDGET : Nat := 0x16
def stSTACK : Nat := 0x17
def stBATCH : Nat := 0x18
def stTRAP : Nat := 0x19
def stABORTED : Nat := 0x1A
def stEND : Nat := 0x1B
def stCLAIM : Nat := 0x1C

/-! ### Rings -/

/-- The number of entries of a ring pair (R31). -/
def State.ringSize (s : State) (n : Nat) : Nat := 2 ^ s.rget Reg.SEQ_SIZE_LOG2 0 [n]

/-- The function a ring's memory accesses use: the ring must be bound directly to one function identity (R40, R48). -/
def State.ringFunc (s : State) (n : Nat) : Option Nat :=
  let t := s.ringTarget n
  if 1 ≤ t ∧ t ≤ 16 then some (t - 1) else none

/-- A completion ring has a free entry (R33). -/
def State.cqFree (s : State) (n : Nat) : Bool :=
  let used := (s.rget Reg.DB_CQ_TAIL n + 65536 - s.rget Reg.DB_CQ_HEAD n) % 65536
  decide (used + s.ringRunning n < s.ringSize n)

/-- Records since when a completion ring has no free entry (R33). -/
def State.noteCq (s : State) (n : Nat) : State :=
  let x := s.ringx n
  if s.cqFree n then s.setRingx n { x with fullSince := none, stalled := false }
  else if x.fullSince.isSome then s else s.setRingx n { x with fullSince := some s.now, stalled := false }

/-- A ring stops by error (R38): its code, ERR, EN 0, ERR_RING and event RING_ERROR. -/
def State.ringError (s : State) (n code : Nat) : State :=
  let s1 := ((s.rput Reg.SEQ_ERR 1 0 [n]).rput Reg.SEQ_ERR_CODE code 0 [n]).rputBoth Reg.SEQ_EN 0 0 [n]
  (s1.rput Reg.SEQ_ERR_RING n).raise 992

/-- The sequencer can issue a request for function f: its Bus Master Enable (R48), and the domain that holds the sequencer's host
path (R477). -/
def State.hostPath (s : State) (f : Nat) : Bool := s.mayIssue f && s.domOn 42

/-- The key of byte o of a ring's memory, or none where the device may issue no request (R40, R48). `base` is the ring
base; RING_LOC 1 is the program store. -/
def State.ringKey (s : State) (n base o : Nat) : Option Nat :=
  if s.ron Reg.SEQ_RING_LOC 0 [n] then (if base + o + 32 ≤ 0x40000 then some (storeKey (base + o)) else none)
  else match s.ringFunc n with
    | some f => if s.hostPath f then some (hostKey f (base + o)) else none
    | none => none

/-- The base of a command ring. -/
def State.crBase (s : State) (n : Nat) : Nat :=
  s.rget Reg.SEQ_CR_BASE_LO 0 [n] * 4096 + s.rget Reg.SEQ_CR_BASE_HI 0 [n] * 2 ^ 32

/-- The base of a completion ring. -/
def State.cqBase (s : State) (n : Nat) : Nat :=
  s.rget Reg.SEQ_CQ_BASE_LO 0 [n] * 4096 + s.rget Reg.SEQ_CQ_BASE_HI 0 [n] * 2 ^ 32

/-- Writes a completion record (R34, R36): words 1 to 3, then word 0 with PHASE; `irq` signals the ring's vector when its
IRQ_EN is 1 (R35, R38). A record that cannot be written stops the ring with BUS (R48). -/
def State.writeRecord (s : State) (n tag status thread trap fo cycles result : Nat) (irq : Bool) : State :=
  let ct := s.rget Reg.DB_CQ_TAIL n
  let lg := s.rget Reg.SEQ_SIZE_LOG2 0 [n]
  let phase := 1 - ct / 2 ^ lg % 2
  let w0 := tag * 2 ^ 48 + status * 2 ^ 40 + thread * 2 ^ 37 + n * 2 ^ 26 + trap * 2 ^ 16 + phase
  match s.ringKey n (s.cqBase n) (32 * (ct % 2 ^ lg)) with
  | none => s.ringError n 3
  | some k =>
    let s1 := s.mset64 (k + 8) (fo * 2 ^ 32 + min cycles 0xFFFFFFFF)
    let s2 := s1.mset64 (k + 16) s.short
    let s3 := s2.mset64 (k + 24) result
    let s4 := (s3.mset64 k w0).rput Reg.DB_CQ_TAIL ((ct + 1) % 65536) n
    if irq && s4.ron Reg.SEQ_IRQ_EN 0 [n] then s4.signalVec (s4.rget Reg.SEQ_VEC 0 [n]) else s4

/-! ### Threads -/

/-- A general register of a thread. -/
def Thread.reg (x : Thread) (i : Nat) : DWord := sget (fun _ => 0) x.g i
/-- Writes a general register. -/
def Thread.setReg (x : Thread) (i : Nat) (v : DWord) : Thread := { x with g := sset (fun _ => 0) x.g i v }

/-- Writes a general register of thread t. -/
def State.setG (s : State) (t i : Nat) (v : DWord) : State := s.setThr t ((s.thr t).setReg i v)

/-- The control cycles a program spent become RETIRED or WASTED at its end (R427). -/
def State.settleThread (s : State) (t : Nat) (okEnd : Bool) : State :=
  let p := s.pget Reg.TALLY_THREAD_WORD 0 [t, 5]
  (s.cadd Reg.TALLY_THREAD_WORD p 0 [t, if okEnd then 1 else 2]).pput Reg.TALLY_THREAD_WORD 0 0 [t, 5]

/-- A program ends (R46): an open batch is discarded, with status BATCH and event 997 where R52 says so; its drafts are
aborted; its record is written (not with OK under NOCOMPL); a status of 0x10 or above raises THREAD_FAULT_t (R56). -/
def State.endProg (s : State) (t st fo trap : Nat) : State :=
  let x := s.thr t
  let inBatch := x.batch.isSome && (st == stOK || st == stTRAP || st == stEND)
  let st' := if inBatch then stBATCH else st
  let trap' := if st' == stTRAP then trap else 0
  let s1 := s.raiseIf inBatch 997
  let s2 := s1.abortDrafts t
  let s3 := s2.raiseIf (decide (0x10 ≤ st')) (984 + t)
  let s4 := s3.settleThread t (st' == stOK)
  let s5 := s4.setThr t {}
  let s6 := if st' == stOK && x.nocompl then s5
    else s5.writeRecord x.ring x.tag st' t trap' fo x.charged (x.reg 15).toNat x.irq
  s6.noteCq x.ring

/-- A program ends with no record (R45). -/
def State.killProg (s : State) (t : Nat) : State :=
  (((s.abortDrafts t).raise (984 + t)).settleThread t false).setThr t {}

/-- An instruction completes with the next pc: the cost is charged (R64); the program ends with END at LEN, or with BUDGET
when the budget expired during the instruction (R53). -/
def State.finishAt (s : State) (t pc cost : Nat) : State :=
  let x := s.thr t
  let s1 := s.setThr t { x with charged := x.charged + cost, pc := pc, wait := none }
  if x.len != 0 && decide (x.len ≤ pc) then s1.endProg t stEND x.len 0
  else if x.budget != 0 && decide (x.budget ≤ x.charged + cost) then s1.endProg t stBUDGET x.pc 0
  else s1

/-- An instruction of `len` words completes with OK. -/
def State.finish (s : State) (t len cost : Nat) : State := s.finishAt t ((s.thr t).pc + len) cost

/-- An instruction ends with a status (R54): OK and a soft status under SOFT go on (E or T set, LSTAT written), every other
status ends the program. -/
def State.result (s : State) (t st len cost : Nat) (soft : Bool) : State :=
  if st == stOK then s.finish t len cost
  else if decide (st < 0x10) && soft then
    let x := s.thr t
    (s.setThr t (if st == stTIMEOUT then { x with t := true, lstat := st } else { x with e := true, lstat := st })).finish t len cost
  else
    let x := s.thr t
    (s.setThr t { x with charged := x.charged + cost, wait := none }).endProg t st x.pc 0

/-- Puts a thread into a wait (R53); TO = NONE is no deadline. The instruction's cost is charged now. -/
def State.startWait (s : State) (t : Nat) (k : WaitKind) (deadline : Option Nat) (soft : Bool) (len cost : Nat) : State :=
  let x := s.thr t
  s.setThr t { x with charged := x.charged + cost, wait := some ⟨k, s.now, deadline, soft, len⟩ }

/-- The wait of a thread ends with a status; its duration in control cycles is charged (R64). -/
def State.endWait (s : State) (t st : Nat) : State :=
  match (s.thr t).wait with
  | none => s
  | some w => s.result t st w.len ((s.now - w.since) / 2) w.soft

/-- The threads that wait, with their wait. -/
def State.waiters (s : State) : List (Nat × Wait) :=
  (List.range 8).filterMap (fun t => (s.thr t).wait.map (fun w => (t, w)))

/-- Ends the waits of PDREQ request `req` (R84). -/
def State.endPdreq (s : State) (req st : Nat) : State :=
  if req == 0 then s
  else s.waiters.foldl (fun u p => match p.2.kind with
    | .pdreq _ r => if r == req then u.endWait p.1 st else u
    | _ => u) s

end Sys2Proof.Machine
end

