-- ==== Sys2Proof/Machine/TapOps.lean ====
section
/-! DEFINITION. Accounting tokens, coalescers and the tap link (R433 to R435), and the fate of frame slots (R426). -/

namespace Sys2Proof.Machine

open Sys2Proof

/-- The coalescer of a pipe. -/
def State.tap (s : State) (n : Nat) : TapX := sget (fun _ => {}) s.taps n
/-- Replaces it. -/
def State.setTap (s : State) (n : Nat) (x : TapX) : State := { s with taps := sset (fun _ => {}) s.taps n x }

/-- The tap link is up (R435). -/
def State.tapUp (s : State) : Bool := s.ron Reg.TAP_LINK_UP

/-- The link can take a send: it is up and the ready line is high (R435). -/
def State.tapAccepts (s : State) : Bool := s.tapUp && s.cart.ready

/-- Sends one entry of pipe n across the link, and with it the pipe's unattributed bins (R434). -/
def State.tapSend (s : State) (n : Nat) (e : CoalE) : State :=
  let x := s.tap n
  let sends := ⟨some e.key, e.key.dir, e.key.carried, e.frames, e.bytes⟩ ::
    x.bins.map (fun b => (⟨none, b.1 / 2, b.1 % 2 == 1, b.2.1, b.2.2⟩ : Send))
  let s1 := { s with cart := { s.cart with sends := s.cart.sends ++ sends } }
  (s1.setTap n { x with bins := [] }).cadd Reg.TAP_TAP_SENDS sends.length

/-- The frames held in a coalescer and its bins. -/
def TapX.held (x : TapX) : Nat := (x.entries.map (·.frames)).sum + (x.bins.map (fun b => b.2.1)).sum

/-- A coalescer discards its entries and bins while the link is down (R435). -/
def State.tapDiscard (s : State) (n : Nat) : State :=
  let c := (s.tap n).held
  if c == 0 then s else ((s.setTap n {}).cadd Reg.TAP_TAP_DISCARD c).raise 1151

/-- The least recently used entry of a coalescer. -/
def lruEntry : List CoalE → Option CoalE
  | [] => none
  | e :: r => match lruEntry r with
    | some m => some (if m.used < e.used then m else e)
    | none => some e

/-- Folds one token into the unattributed bin of its direction and disposition (R434). -/
def State.tapUnattr (s : State) (n : Nat) (k : TokKey) (len : Nat) : State :=
  let x := s.tap n
  let i := 2 * k.dir + b2n k.carried
  let o := sget (fun _ => (0, 0)) x.bins i
  ((s.setTap n { x with bins := sset (fun _ => (0, 0)) x.bins i (o.1 + 1, o.2 + len) }).cinc Reg.TAP_TAP_UNATTR).raise 1150

/-- A token of pipe n with its key and length (R434). -/
def State.token (s : State) (n : Nat) (k : TokKey) (len : Nat) : State :=
  let x := s.tap n
  let new : CoalE := ⟨k, 1, len, s.now, s.now⟩
  if !s.tapUp then (s.cinc Reg.TAP_TAP_DISCARD).raise 1151
  else if x.entries.any (fun e => e.key == k) then
    s.setTap n { x with entries := x.entries.map (fun e => if e.key == k
      then { e with frames := (e.frames + 1) % 2 ^ 40, bytes := (e.bytes + len) % 2 ^ 56, used := s.now } else e) }
  else if x.entries.length < 256 then s.setTap n { x with entries := x.entries ++ [new] }
  else if !s.tapAccepts then s.tapUnattr n k len
  else match lruEntry x.entries with
    | none => s
    | some v =>
      let s1 := s.tapSend n v
      s1.setTap n { s1.tap n with entries := (s1.tap n).entries.filter (fun e => e.key != v.key) ++ [new] }

/-- The tag of a frame's bytes as a token carries it (R433): 0 untagged, else 1 + VID, and the class. -/
def tagOf (d : List Byte) : Nat × Nat :=
  let t := beNat (slice d 12 2)
  let tci := beNat (slice d 14 2)
  if decide (16 ≤ d.length) && (t == 0x8100 || t == 0x88A8) then (1 + tci % 4096, tci / 2 ^ 13) else (0, 0)

/-! ### Frame slots (R426) -/

/-- A frame that is handed to a pipe takes the next frame slot. -/
def State.issueSlot (s : State) (n f : Nat) : State :=
  let p := s.pipe n
  s.setPipe n { p with toIssue := p.toIssue ++ [(f, none)] }

/-- The RX token of a frame, once its fate and its end are both known (R433). -/
def State.rxToken (s : State) (f : Nat) : State :=
  let x := s.fr f
  match x.fate, x.rxLen with
  | some c, some n =>
    if !x.tokened && x.pass == 0 && decide (x.inPort < 128) then
      let t := tagOf x.data
      (s.setFr f { x with tokened := true }).token x.pipe ⟨x.inPort, 0, c, t.1, t.2⟩ n
    else s
  | _, _ => s

/-- The fate of a frame's slot becomes known (R426): retired when it yielded a delivery, else wasted. -/
def State.setFate (s : State) (f : Nat) (carried : Bool) : State :=
  let x := s.fr f
  if x.fate.isSome then s
  else
    let p := s.pipe x.pipe
    let s1 := s.setFr f { x with fate := some carried }
    let s2 := if p.toIssue.any (fun e => e.1 == f) then
        s1.setPipe x.pipe { p with toIssue := p.toIssue.map (fun e => if e.1 == f then (f, some carried) else e) }
      else
        let w := s1.pget Reg.TALLY_PIPE_WORD 0 [x.pipe, 5]
        (s1.pput Reg.TALLY_PIPE_WORD (w - 1) 0 [x.pipe, 5]).cinc Reg.TALLY_PIPE_WORD 0 [x.pipe, if carried then 1 else 2]
    s2.rxToken f

end Sys2Proof.Machine
end

