-- ==== Sys2Proof/Machine/Creel.lean ====
section
/-! DEFINITION. Storage (R249 to R254): cells, descriptors and pointers, charges (R244, R245, R248), references, loans,
spill blocks (R252), and discarding the frames of a queue (R266, R277). -/

namespace Sys2Proof.Machine

open Sys2Proof

/-! ### Charges and pools -/

/-- The index of a pause unit's `CHARGE` (R262). -/
def unitIx (p c : Nat) : List Nat := [p / 64, p % 64, c]

/-- Adds to or takes from the charge of a pause unit. -/
def State.chargeUnit (s : State) (u : Option (Nat × Nat)) (add : Bool) (n : Nat) : State :=
  match u with
  | some (p, c) => if add then s.radd Reg.SLATH_CHARGE n 0 (unitIx p c) else s.rsub Reg.SLATH_CHARGE n 0 (unitIx p c)
  | none => s

/-- Charges a target against its port and class (R244). -/
def State.chargeItem (s : State) (it : Item) : State :=
  s.radd (if it.inBlocks then Reg.SLATH_PC_BLOCKS else Reg.SLATH_PC_CELLS) it.chg it.b [it.lp, it.cls]

/-- Returns a target's charge. -/
def State.unchargeItem (s : State) (it : Item) : State :=
  s.rsub (if it.inBlocks then Reg.SLATH_PC_BLOCKS else Reg.SLATH_PC_CELLS) it.chg it.b [it.lp, it.cls]

/-- What Creel of a basket keeps. -/
def State.crl (s : State) (b : Nat) : CreelX := sget (fun _ => {}) s.creel b
/-- Replaces it. -/
def State.setCrl (s : State) (b : Nat) (x : CreelX) : State := { s with creel := sset (fun _ => {}) s.creel b x }

/-- The cells of read-back frames in a basket (R257). -/
def State.rbUsed (s : State) (b : Nat) : Nat := ((s.copies.filter (fun e => e.1 % 8 == b && e.2.loc == 2)).map (·.2.k)).sum

/-- Cells that admission counts as used (R244): all but the free ones and those set aside for read-back (R250). -/
def State.cellsUsed (s : State) (b : Nat) : Nat :=
  49152 - s.rget Reg.SLATH_CELLS_FREE b - (s.crl b).aside

/-! ### Spill blocks (R252) -/

/-- Takes n spill blocks from the cache; none where the cache holds fewer. -/
def State.spillTake (s : State) (b n : Nat) : Option State :=
  let c := s.rget Reg.SLATH_CACHE_FILL b
  if c < n then none
  else
    let s1 := (s.rput Reg.SLATH_CACHE_FILL (c - n) b).rsub Reg.SLATH_SPILL_FREE n b
    some (s1.raiseIf (decide (0 < n) && s1.rget Reg.SLATH_SPILL_FREE b == 0) (890 + 4 * b))

/-- Returns n spill blocks: into the cache, and beyond 4,096 they wait for the next flush burst. -/
def State.spillGive (s : State) (b n : Nat) : State :=
  let c := s.rget Reg.SLATH_CACHE_FILL b
  let m := min n (4096 - c)
  let s1 := (s.rput Reg.SLATH_CACHE_FILL (c + m) b).radd Reg.SLATH_SPILL_FREE m b
  s1.setCrl b { s1.crl b with wait := (s1.crl b).wait + (n - m) }

/-! ### Frames and copies (R249) -/

/-- Whether anything in the device still holds a frame. -/
def State.frameHeld (s : State) (f : Nat) : Bool :=
  let x := s.fr f
  !x.ended || x.stage != 2 || s.copies.any (fun e => e.1 / 8 == f) || s.fwd.mirror.any (fun m => m.f == f) ||
  s.slath.ins.any (fun e => e.2.uc.any (fun q => q.2.any (fun c => c.1 == f)) || e.2.mc.any (fun m => m.f == f)) ||
  s.ports.any (fun e => e.2.exp.any (fun i => i.f == f) || e.2.rx == some f ||
    (match e.2.tx with | some t => t.kind != 2 && t.item.f == f | none => false) ||
    (match e.2.pre with | some t => t.kind != 2 && t.item.f == f | none => false)) ||
  s.plaitIn.any (fun e => e.2.any (fun c => c.f == f))

/-- A frame that nothing holds leaves the device: its slot's fate is settled and its version count released (R201). -/
def State.reap (s : State) (f : Nat) : State :=
  if s.frameHeld f then s
  else
    let s1 := (s.setFate f false).uncount f
    { s1 with frames := sdel s1.frames f }

/-- Cells of a frame that still wait at the Slath or the local port for a basket are dropped. -/
def State.slathDrop (s : State) (f b : Nat) : State :=
  let x := s.slath
  let ins := x.ins.map (fun e => (e.1, { e.2 with
      uc := sset (fun _ => []) e.2.uc b ((sget (fun _ => []) e.2.uc b).filter (fun c => c.1 != f)),
      mc := (e.2.mc.map (fun m => if m.f == f then { m with fan := m.fan.filter (· != b), residue := m.residue.filter (· != b) } else m)).filter (fun m => !m.fan.isEmpty) }))
  { s with slath := { x with ins := ins, loc := sset (fun _ => []) x.loc b ((sget (fun _ => []) x.loc b).filter (fun c => c.1 != f)) } }

/-- The storage of a copy returns to Creel (R249). -/
def State.copyFree (s : State) (f b : Nat) : State :=
  let c := s.copy f b
  let s0 := s.slathDrop f b
  let s1 := { s0 with copies := sdel s0.copies (8 * f + b) }
  let s2 := if c.loc == 0 then ((s1.radd Reg.SLATH_CELLS_FREE c.k b).radd Reg.SLATH_DESC_FREE 1 b).chargeUnit c.unit false c.k
    else if c.loc == 1 then s1.spillGive b c.blocks else s1
  s2.reap f

/-- One reference of a copy ends (R249): the target's charge and pointer return, and at 0 the storage does. -/
def State.release (s : State) (it : Item) : State :=
  let s1 := (s.unchargeItem it).radd Reg.SLATH_PTR_FREE 1 it.b
  let c := s1.copy it.f it.b
  if c.refs ≤ 1 then s1.copyFree it.f it.b else s1.setCopy it.f it.b { c with refs := c.refs - 1 }

/-- A frame leaves its queue without being sent. -/
def State.dropItem (s : State) (it : Item) : State :=
  let x := s.q it.queue
  (s.setQ it.queue { x with deq := (x.deq + 1) % 2 ^ 32, lastUse := s.now }).release it

/-! ### Queues -/

/-- A transmission of a frame of queue q. -/
def txOfQueue (q : Nat) (t : Option Tx) : Bool := match t with | some x => x.kind == 0 && x.item.queue == q | none => false

/-- A queue is empty (R264). -/
def State.queueEmpty (s : State) (q : Nat) : Bool :=
  let x := s.q q
  let p := s.px x.port
  x.oc.isEmpty && x.pend.isEmpty && x.lp.isEmpty && !(s.pager (s.queueBasket q)).staged.any (fun i => i.queue == q) &&
  !(x.mapped && (p.ready.any (fun r => r.2.queue == q) || txOfQueue q p.tx || txOfQueue q p.pre))

/-- The level-2 nodes with a queue that holds frames. -/
def State.busyL2 (s : State) : List Nat :=
  (s.queues.filter (fun e => e.2.mapped && !isFixed e.1 && !(e.2.oc.isEmpty && e.2.pend.isEmpty && e.2.lp.isEmpty))).map
    (fun e => (s.obj e.1).parent)

/-- The nodes above a queue that are now idle (R281) leave the Graticule (R290), and their deficit is 0 (R286). -/
def State.nodesIdle (s : State) (q : Nat) : State :=
  let j := (s.obj q).parent
  let i := (s.obj (l2Key j)).parent
  let busy := s.busyL2
  let off (t : State) (k : Nat) : State := t.setObj k { t.obj k with deficit := 0, wheel := none }
  if isFixed q then s
  else
    let s1 := if busy.contains j then s else off s (l2Key j)
    if busy.any (fun b => (s.obj (l2Key b)).parent == i) then s1 else off s1 (l1Key i)

/-- A queue that has no frame left is not on the Graticule (R290), and its deficit is 0 (R286). -/
def State.noteEmpty (s : State) (q : Nat) : State :=
  let x := s.q q
  if x.oc.isEmpty && x.pend.isEmpty && x.lp.isEmpty then (s.setObj q { s.obj q with deficit := 0, wheel := none }).nodesIdle q else s

/-- The on-chip list receives an item; the objects above are refreshed as they become active (R290). -/
def State.enqueue (s : State) (it : Item) : State :=
  let x := s.q it.queue
  let s1 := s.setQ it.queue { x with oc := x.oc ++ [it], enq := (x.enq + 1) % 2 ^ 32, lastUse := s.now }
  if x.oc.isEmpty && !isFixed it.queue then
    let l2 := (s1.obj it.queue).parent
    let l1 := (s1.obj (l2Key l2)).parent
    ((s1.refreshObj it.queue).refreshObj (l2Key l2)).refreshObj (l1Key l1)
  else s1

/-- A frame whose first cell has been written passes the frames just before it that have none yet. -/
def writtenOrder (here mine : Item → Bool) (l : List Item) : List Item :=
  let before := l.takeWhile (fun i => !mine i)
  match l.drop before.length with
  | [] => l
  | it :: rest =>
    let wait := (before.reverse.takeWhile (fun i => !here i)).reverse
    before.take (before.length - wait.length) ++ it :: (wait ++ rest)

/-- The first cell of frame f is written in basket b: its queues hold their frames in the order in which first cells are written
(DEDUCED from R26, log entry 139). -/
def State.firstCell (s : State) (f b : Nat) : State :=
  let here (i : Item) : Bool := decide (0 < (s.copy i.f i.b).written) || (s.copy i.f i.b).loc == 2
  let mine (i : Item) : Bool := i.f == f && i.b == b
  { s with queues := smap queueDflt (fun _ x => if x.oc.any mine then { x with oc := writtenOrder here mine x.oc } else x) s.queues }

/-- Discards the frames of a queue that are not in transmission (R266, R277); `cnt` is the counter that takes them. -/
def State.flushQueue (s : State) (q cnt : Nat) : State :=
  let b := s.queueBasket q
  let x := s.q q
  let pg := s.pager b
  let stg := pg.staged.filter (fun i => i.queue == q)
  let rdy := if x.mapped && !isFixed q then ((s.px x.port).ready.filter (fun r => r.2.queue == q)).map (·.2) else []
  let all := x.oc ++ x.pend ++ x.lp ++ rdy
  let s1 := s.setQ q { x with oc := [], pend := [], lp := [], spilling := false, deq := (x.deq + x.oc.length + x.pend.length + x.lp.length) % 2 ^ 32 }
  let s2 := (s1.setPager b { pg with staged := pg.staged.filter (fun i => i.queue != q) }).rsub Reg.QUEUE_STAGED stg.length 0 [b]
  let s3 := if rdy.isEmpty then s2 else
    s2.setPx x.port { s2.px x.port with ready := (s2.px x.port).ready.filter (fun r => r.2.queue != q) }
  let s4 := (all ++ stg).foldl (fun t i => t.release i) s3
  ((s4.setObj q { s4.obj q with wheel := none }).nodesIdle q).cadd Reg.QUEUE_CNT (all.length + stg.length) 0 [b, cnt]

/-- The queues mapped to a port. -/
def State.queuesOf (s : State) (p : Nat) : List Nat :=
  (s.queues.filter (fun e => e.2.alloc && e.2.mapped && e.2.port == p && !isFixed e.1)).map (·.1)

/-- A flush of port p (R277). -/
def State.flushPort (s : State) (p : Nat) : State := (s.queuesOf p).foldl (fun t q => t.flushQueue q 8) s

/-! ### Loans (R253, R254) -/

/-- The owner of a loan. -/
def State.loanOwner (s : State) (b i : Nat) : Option Nat := (sfind (s.crl b).loans i).map (·.owner)

/-- A loan passes to a new owner (R387). -/
def State.loanPass (s : State) (b i id : Nat) : State :=
  match sfind (s.crl b).loans i with
  | some l => s.setCrl b { s.crl b with loans := sins (s.crl b).loans i { l with owner := id } }
  | none => s

/-- The lowest free loan index, if the table has one. -/
def State.loanFree (s : State) (b : Nat) : Option Nat :=
  if (s.crl b).loans.length < 4096 then (List.range 4096).find? (fun i => (sfind (s.crl b).loans i).isNone) else none

/-- Enters a loan at an index. -/
def State.loanPut (s : State) (b i : Nat) (l : Loan) : State :=
  (s.setCrl b { s.crl b with loans := sins (s.crl b).loans i l }).radd Reg.SLATH_LOANS_USED 1 b

/-- Loans a chain of n free cells; none when the table is full or the cells are not free. -/
def State.loanNew (s : State) (b kind owner n : Nat) : State × Option Nat :=
  match s.loanFree b with
  | some i =>
    if n ≤ s.rget Reg.SLATH_CELLS_FREE b then
      let l : Loan := { kind := kind, owner := owner, data := List.replicate (256 * n) none, seed := s.fresh }
      ({ (s.loanPut b i l).rsub Reg.SLATH_CELLS_FREE n b with fresh := s.fresh + 256 * n }, some i)
    else (s, none)
  | none => (s, none)

/-- A loan ends: its reference is released (R378), or its cells return. -/
def State.loanEnd (s : State) (b i : Nat) : State :=
  match sfind (s.crl b).loans i with
  | some l =>
    let s1 := (s.setCrl b { s.crl b with loans := sdel (s.crl b).loans i }).rsub Reg.SLATH_LOANS_USED 1 b
    match l.item with
    | some it => s1.release it
    | none => s1.radd Reg.SLATH_CELLS_FREE (l.data.length / 256) b
  | none => s

/-- A return request (R253): freed for its owner; refused, counted and captured for any other identity. -/
def State.loanReturn (s : State) (b i requester : Nat) : State :=
  if s.loanOwner b i == some requester then s.loanEnd b i
  else
    let s1 := s.cinc Reg.SLATH_BASKET_CNT b [13]
    let s2 := if s1.ron Reg.SLATH_VALID_1018 b then s1
      else (((s1.rput Reg.SLATH_REQ_ID requester b).rput Reg.SLATH_OWNER ((s.loanOwner b i).getD 0) b).rput Reg.SLATH_INDEX i b).rput Reg.SLATH_VALID_1018 1 b
    s2.raise (891 + 4 * b)

/-- Every loan of a basket owned by an identity returns (R254). -/
def State.loanReclaim (s : State) (b id : Nat) : State :=
  (((s.crl b).loans.filter (fun e => e.2.owner == id)).map (·.1)).foldl (fun t i => t.loanEnd b i) s

/-- A byte of a loan: a byte that nothing has written is a free value. -/
def Loan.byte (l : Loan) (i : Nat) : Byte :=
  match l.data[i]? with
  | some (some x) => x
  | _ => BitVec.ofNat 8 (Config.freeWord (l.seed + i)).toNat

end Sys2Proof.Machine
end

