-- ==== Sys2Proof/Machine/Edit.lean ====
section
/-! DEFINITION. Edit scripts (R224, R225), checksums, and the one-step correction of PTP messages (R343 to R346). -/

namespace Sys2Proof.Machine

open Sys2Proof

/-! ### Checksums -/

/-- The one's-complement sum of big-endian 16-bit words; a last odd byte is a high byte. -/
def sum16 : List Byte → Nat
  | [] => 0
  | [a] => a.toNat * 256
  | a :: b :: r => a.toNat * 256 + b.toNat + sum16 r

/-- Folds carries into 16 bits. -/
def fold16 (x : Nat) : Nat := if x == 0 then 0 else (x - 1) % 0xFFFF + 1

/-- The Internet checksum of bytes. -/
def inetSum (l : List Byte) : Nat := 0xFFFF - fold16 (sum16 l)

/-- An incrementally updated checksum: the sum covered changes from `old` to `new`. -/
def incrSum (hc old new : Nat) : Nat := 0xFFFF - fold16 ((0xFFFF - hc) + new + (0xFFFF - fold16 old))

/-! ### Scripts -/

/-- The state of a script: bytes without FCS, bases 0 to 6 (R224), skipped steps. -/
structure EditSt where
  data : List Byte
  bases : List (Option Nat)
  errs : Nat := 0
  deriving DecidableEq, Repr

/-- Base i of a script. -/
def EditSt.base (e : EditSt) (i : Nat) : Option Nat := (e.bases[i]?).getD none

/-- Step i of an `EDIT` image. -/
def editStep (img i : Nat) : Nat := imgBytes 128 img (4 * i) 4
/-- n bytes of the data area from k on. -/
def editData (img k n : Nat) : List Byte := (beBytes 64 (imgBytes 128 img 64 64)).drop k |>.take n

/-- The steps up to the first END. -/
def editSteps (img : Nat) : List Nat := ((List.range 16).map (editStep img)).takeWhile (fun w => bits w 31 28 != 0)

/-- The pseudo-header bytes of an L3 header that a transport checksum covers. -/
def pseudo (d : List Byte) (l3 : Option Nat) : List Byte :=
  match l3 with
  | none => []
  | some o =>
    if (slice d o 1).headD 0 / 16 == 6 then slice d (o + 4) 2 ++ [0] ++ slice d (o + 6) 1 ++ slice d (o + 8) 32
    else slice d (o + 2) 2 ++ [0] ++ slice d (o + 9) 1 ++ slice d (o + 12) 8

/-- The bytes that a transport checksum at q covers, the checksum itself as 0: pseudo-header, then from the L4 base on. -/
def covered (d : List Byte) (l3 l4 : Option Nat) (rel : Nat) : List Byte :=
  match l4 with
  | none => []
  | some o => pseudo d l3 ++ overlay (d.drop o) rel [0, 0]

/-- Whether the L3 header is IPv4, and whether it carries UDP. -/
def isV4 (d : List Byte) (l3 : Option Nat) : Bool := match l3 with | some o => (slice d o 1).headD 0 / 16 == 4 | none => false
def isUdp (d : List Byte) (l3 : Option Nat) : Bool :=
  match l3 with
  | some o => if isV4 d l3 then (slice d (o + 9) 1).headD 0 == 17 else (slice d (o + 6) 1).headD 0 == 17
  | none => false

/-- Writes a transport checksum: 0 over UDP and IPv4 stays 0, a computed UDP result of 0 is sent as 0xFFFF (R224). -/
def putL4Sum (d : List Byte) (q hc' : Nat) (v4 udp : Bool) : List Byte :=
  let hc := beNat (slice d q 2)
  if udp && v4 && hc == 0 then d else overlay d q (beBytes 2 (if udp && hc' == 0 then 0xFFFF else hc'))

/-- One step of a script on the bytes as earlier steps left them; `orig` is the frame before the script. -/
def runStep (img : Nat) (orig : EditSt) (e : EditSt) (w : Nat) : EditSt :=
  let bi := bits w 27 25
  let ln := bits w 16 11 + 1
  let dof := bits w 10 5
  let skip : EditSt := { e with errs := e.errs + 1 }
  match e.base bi with
  | none => skip
  | some b =>
    let q := b + bits w 24 17
    let n := e.data.length
    let mapB (g : Nat → Option Nat) : List (Option Nat) :=
      (List.range 7).map (fun i => if i == 0 then some 0 else match e.base i with | some x => g x | none => none)
    match bits w 31 28 with
    | 1 => if n < q then skip else
        { e with data := e.data.take q ++ editData img dof ln ++ e.data.drop q, bases := mapB (fun x => some (if q ≤ x then x + ln else x)) }
    | 2 => if n < q + ln then skip else
        { e with data := e.data.take q ++ e.data.drop (q + ln),
                 bases := mapB (fun x => if q + ln ≤ x then some (x - ln) else if q ≤ x then none else some x) }
    | 3 => if n < q + ln then skip else { e with data := overlay e.data q (editData img dof ln) }
    | 4 => if n < q + ln then skip else
        { e with data := overlay e.data q (beBytes ln ((beNat (slice e.data q ln) + beNat (editData img dof ln)) % 2 ^ (8 * ln))) }
    | 5 => if n < q + 1 then skip else
        { e with data := overlay e.data q (beBytes 1 ((beNat (slice e.data q 1) + 255) % 256)) }
    | 6 =>
      if bits w 4 0 == 0 then
        let hl := 4 * ((slice e.data q 1).headD 0).toNat % 64
        if n < q + max hl 20 then skip else
          let h := overlay (slice e.data q hl) 10 [0, 0]
          { e with data := overlay e.data (q + 10) (beBytes 2 (inetSum h)) }
      else if n < q + 2 then skip
      else
        let l3i := if bi == 4 then 3 else 1
        let rel := bits w 24 17
        let old := sum16 (covered orig.data (orig.base l3i) (orig.base bi) rel)
        let new := sum16 (covered e.data (e.base l3i) (some b) rel)
        let hc := beNat (slice e.data q 2)
        let same := fold16 old == fold16 new
        { e with data := if same then e.data
            else putL4Sum e.data q (incrSum hc old new) (isV4 e.data (e.base l3i)) (isUdp e.data (e.base l3i)) }
    | _ => e

/-- Runs a script on bytes without FCS (R224, R225). -/
def runEdit (img : Nat) (d : List Byte) (bases : List (Option Nat)) : EditSt :=
  let e0 : EditSt := { data := d, bases := bases }
  (editSteps img).foldl (fun e w => runStep img e0 e w) e0

/-- The bytes that a script adds and removes, as R295 counts them. -/
def editGrowth (img : Nat) : Int :=
  ((editSteps img).map (fun w => let n : Int := ((bits w 16 11 + 1 : Nat) : Int)
    if bits w 31 28 == 1 then n else if bits w 31 28 == 2 then -n else 0)).sum

/-- An `EDIT` image is legal (R224). -/
def editOk (img : Nat) : Bool :=
  let sts := (List.range 16).map (editStep img)
  sts.all (fun w =>
    let op := bits w 31 28
    let ln := bits w 16 11
    decide (op ≤ 6) && bits w 27 25 != 7 && decide (bits w 4 0 ≤ (if op == 6 then 1 else 0)) &&
    (op != 0 || w == 0) && (op != 5 || ln == 0) && (op != 6 || ln == 0) &&
    ((op == 1 || op == 3 || op == 4) || bits w 10 5 == 0) &&
    (!(op == 1 || op == 3 || op == 4) || decide (bits w 10 5 + ln + 1 ≤ 64)))

/-! ### PTP correction (R343 to R346) -/

/-- Bases of a frame from its survey record (R165, R224). -/
def recordBases (r : List Byte) : List (Option Nat) :=
  some 0 :: [8, 9, 10, 11, 12, 13].map (fun i => let b := (r[i]?.getD 0xFF).toNat; if b == 0xFF then none else some b)

/-- A frame is PTP version 2 at its application offset (second and third conditions of R343). -/
def isPtp (record : List Byte) (d : List Byte) (app : Option Nat) : Bool :=
  match app with
  | some o => record[15]?.getD 0 == 3 && ((slice d (o + 1) 1).headD 0).toNat % 16 == 2
  | none => false

/-- Replaces bytes of a PTP message and keeps its UDP checksum right where it is carried in UDP (R345). -/
def ptpPut (e : EditSt) (o pos : Nat) (new : List Byte) : List Byte :=
  let d := overlay e.data pos new
  match e.base 2 with
  | some l4 =>
    if o == l4 + 8 then
      let q := l4 + 6
      let hc := beNat (slice e.data q 2)
      let old := sum16 (covered e.data (e.base 1) (e.base 2) 6)
      let nw := sum16 (covered d (e.base 1) (e.base 2) 6)
      if fold16 old == fold16 nw then d else putL4Sum d q (incrSum hc old nw) (isV4 d (e.base 1)) true
    else d
  | none => d

/-- Adds to the signed 64-bit `correctionField`, saturating (R344); tells whether it saturated. -/
def addCf (cf : Nat) (x : Int) : Nat × Bool :=
  let v := signed 64 cf + x
  if v < -(2 ^ 63 : Int) ∨ (2 ^ 63 : Int) ≤ v then (0x7FFFFFFFFFFFFFFF, true) else (wrapInt 64 v, false)

end Sys2Proof.Machine
end

