-- ==== Sys2Proof/Machine/PowerOps.lean ====
section
/-! DEFINITION. Power requests and the tests of a transition (R478 to R483, R489), and the conditions of the READY_MAP
bits (R465). -/

namespace Sys2Proof.Machine

open Sys2Proof

/-- A transition is in progress (R482). -/
def State.domBusy (s : State) (d : Nat) : Bool := s.ron Reg.POWER_BUSY d

/-- A domain is falling: a transition below on is in progress (R478). -/
def State.falling (s : State) (d : Nat) : Bool := s.domBusy d && decide (s.rget Reg.POWER_IN_TARGET d < 2)

/-- A domain's function takes new work: it is on, its READY_MAP bit is set and no fall is in progress (R466, R485). -/
def State.works (s : State) (d : Nat) : Bool := s.domOn d && s.ready d && !s.falling d

/-- A domain is rising: a transition to on is in progress, or its queued target is on (R478). -/
def State.rising (s : State) (d : Nat) : Bool :=
  (s.domBusy d && s.rget Reg.POWER_IN_TARGET d == 2) || (s.ron Reg.POWER_QUEUED_V d && s.rget Reg.POWER_QUEUED d == 2)

/-- On or rising, as the tests of R478 count it: a falling domain is neither. -/
def State.onOrRising (s : State) (d : Nat) : Bool := !s.falling d && (s.dom d == 2 || s.rising d)

/-- The prerequisites for on (R478). -/
def prereqs (d : Nat) : List Nat :=
  if d < 8 then [8 + d, 41] else if d < 16 then [8 + d, 41] else if 27 ≤ d ∧ d < 31 then [24, 41] else []

/-- The domains that keep a domain on (R478, last column). -/
def dependents (d : Nat) : List Nat :=
  if 8 ≤ d ∧ d < 16 then [d - 8] else if 16 ≤ d ∧ d < 24 then [d - 8] else if d == 24 then [27, 28, 29, 30]
  else if d == 41 then List.range 16 ++ [27, 28, 29, 30] else []

/-- W, the number of controllers that serve LP4X (R467). -/
def State.lp4xWays (s : State) : Nat :=
  match s.rget Reg.CLOCKS_WAYS with | 1 => 1 | 2 => 2 | 3 => 4 | 4 => 8 | _ => 0

/-- A use of LP4X moves the access counters of its controllers (R474); how many accesses it takes of each the spec does not say: free
values. `wr` says whether it writes. -/
def State.lp4xUse (s : State) (wr : Bool) : State :=
  (List.range s.lp4xWays).foldl (fun t n => (t.cadd Reg.LP4X_CNT t.freeNat n [b2n wr]).useFree) s

/-- The usable LP4X in 2 KiB units (R467: U = W × D × 7 ÷ 8). -/
def State.lp4xUsable (s : State) : Nat := s.lp4xWays * (2 ^ (29 + s.rget Reg.CLOCKS_DENSITY)) * 7 / 8 / 2048

/-- An uncorrectable error in an LP4X read at usable address a (R470): counted, captured and raised by its controller. -/
def State.lp4xEcc (s : State) (a : Nat) : State :=
  let n := a / 256 % s.lp4xWays
  let s1 := (s.cinc Reg.LP4X_CNT n [3]).raise (1106 + 3 * n)
  if s1.ron Reg.LP4X_VALID n then s1 else (s1.rput Reg.LP4X_GRANULE (a / 256) n).rput Reg.LP4X_VALID 1 n

/-- An LP4X user is enabled (R478). -/
def State.lp4xUser (s : State) : Bool :=
  (List.range 8).any (fun b => s.ron Reg.SLATH_SPILL_EN b) || s.ron Reg.QUEUE_PAGING_EN || s.ron Reg.CLOCKS_EN ||
  (s.ron Reg.TALLY_EN && s.ron Reg.TALLY_LOC) || (List.range 16).any (fun i => s.mirrorValid i && s.mirrorLp4x i)

/-- A host user is enabled (R478). -/
def State.hostUser (s : State) : Bool :=
  (List.range 64).any (fun n => s.ron Reg.SEQ_EN 0 [n] && !s.ron Reg.SEQ_RING_LOC 0 [n]) ||
  (List.range 256).any (fun r => s.ron Reg.HOST_EN 0 [r / 64, r % 64] || s.ron Reg.HOST_TX_EN 0 [r / 64, r % 64]) ||
  (s.ron Reg.TALLY_EN && !s.ron Reg.TALLY_LOC) || (List.range 16).any (fun i => s.mirrorValid i && !s.mirrorLp4x i)

/-- Why a domain may not go below on, or from retention to off: refuser code and domain (R478, R489); none when it may. -/
def State.fallRefuser (s : State) (d : Nat) : Option (Nat × Nat) :=
  match (dependents d).filter s.onOrRising with
  | x :: _ => some (1, x)
  | [] =>
    if d == 43 then some (9, 0)
    else if 16 ≤ d ∧ d < 24 ∧ s.pinnedIn (d - 16) = true then some (4, 0)
    else if d == 41 && (s.ron Reg.MERID_OUT_EN || (List.range 4).any (fun k => s.ron Reg.MERID_ARMED 0 [k])) then some (5, 0)
    else if 31 ≤ d ∧ d < 39 ∧ d - 31 < s.lp4xWays ∧ s.lp4xUser = true then some (6, 0)
    else if d == 42 && s.hostUser then some (7, 0)
    else if (d == 39 || d == 40) && s.higher == some (d - 39) then some (8, 0)
    else none

/-- Records the outcome of a request in PD_STATUS (R489, R492). -/
def State.pdResult (s : State) (d res : Nat) : State := s.rput Reg.POWER_LAST_RESULT res d

/-- A refusal: counted, recorded with its refuser, event REFUSED, and the waiting PDREQ ends with REFUSED (R483, R489). -/
def State.pdRefuse (s : State) (d refuser dom req : Nat) : State :=
  let s1 := ((s.cinc Reg.POWER_DOM_CNT 0 [d, 1]).rput Reg.POWER_LAST_REFUSER refuser d).rput Reg.POWER_REFUSER_DOM dom d
  ((s1.pdResult d 2).raise 1081).endPdreq req stREFUSED

/-- The immediate refusals of a request (R481, R84): FIXED for PD_SEQ, CLAIM for the higher-claim complex's domain. -/
def State.pdImmediate (s : State) (d target : Nat) : Option Nat :=
  if target == 2 then none
  else if d == 43 then some 9
  else if (d == 39 || d == 40) && s.higher == some (d - 39) then some 8 else none

/-- A request (R481, R482): refused at once, complete at once, or queued; the last request wins. `req` is the number a
waiting PDREQ carries, 0 for other sources. -/
def State.pdRequest (s : State) (d target req : Nat) : State :=
  match s.pdImmediate d target with
  | some r => s.pdRefuse d r 0 req
  | none =>
    if s.dom d == target && !s.domBusy d then (s.pdResult d 0).endPdreq req stOK
    else
      let s1 := if s.ron Reg.POWER_QUEUED_V d then
          (((s.cinc Reg.POWER_DOM_CNT 0 [d, 2]).raise 1083).pdResult d 1).endPdreq (s.domx d).qReq stSUPERSEDED
        else s
      ((s1.rput Reg.POWER_QUEUED_V 1 d).rput Reg.POWER_QUEUED target d).setDomx d { s1.domx d with qReq := req }

/-- Removes the queued target of a domain. -/
def State.pdUnqueue (s : State) (d : Nat) : State :=
  ((s.rput Reg.POWER_QUEUED_V 0 d).rput Reg.POWER_QUEUED 0 d).setDomx d { s.domx d with qReq := 0 }

/-- A wake source fires (R488): event, and target on for every masked domain that is not already on or rising. -/
def State.wakeFire (s : State) (w : Nat) : State :=
  let s1 := s.raise (if w < 16 then 1086 + w else 1085)
  let m := s1.pget Reg.POWER_WAKE_DOM 0 [w]
  ((List.range 44).filter (fun d => bit m d && !s1.onOrRising d)).foldl (fun t d => t.pdRequest d 2 0) s1

/-! ### Readiness (R465) -/

/-- Tally's path is ready (R425). -/
def State.tallyPath (s : State) : Bool :=
  if s.ron Reg.TALLY_LOC then s.lp4xReady else s.mayIssue (s.rget Reg.TALLY_FUNC)

/-- The part of a READY_MAP condition that the state holds (R465, R411, R467, R251, R273, R469, R425, R435). What only the
hardware knows (a quad calibrated, a free list built) is the command's own assertion. -/
def State.readyCond (s : State) (i : Nat) : Bool :=
  if i < 31 then s.domOn i
  else if i < 39 then s.domOn i && s.rget Reg.LP4X_STATE (i - 31) == 2
  else if i < 41 then (let c := s.rget Reg.CC_STATE_100 0 [i - 39]; c == 2 || c == 3 || c == 4)
  else match i with
  | 41 => s.domOn 41
  | 42 => !s.boot.perst
  | 43 => s.domOn 43
  | 44 => s.domOn 0
  | 45 => s.ron Reg.CLOCKS_PLL_LOCKED
  | 46 => s.rget Reg.CC_STATE_100 0 [0] == 4 || s.rget Reg.CC_STATE_100 0 [1] == 4
  | 47 => s.lp4xWays != 0 && (List.range s.lp4xWays).all (fun n => s.domOn (31 + n) && s.rget Reg.LP4X_STATE n == 2)
  | 48 => (List.range 8).any (fun b => s.ron Reg.SLATH_SPILL_EN b) &&
    (List.range 8).all (fun b => !s.ron Reg.SLATH_SPILL_EN b || s.rget Reg.SLATH_SPILL_STATE b == 2)
  | 49 => s.lp4xReady && s.rget Reg.QUEUE_PAGING_STATE == 1
  | 50 => s.lp4xReady && s.rget Reg.CLOCKS_EXT_STATE == 1
  | 51 => s.ron Reg.TALLY_EN && s.tallyPath
  | 52 => s.ron Reg.TAP_LINK_UP
  | _ => false

/-- Clears the READY_MAP bits whose condition has stopped holding. -/
def State.dropUnready (s : State) : State :=
  (List.range 53).foldl (fun t i => if t.ready i && !t.readyCond i then t.setReady i false else t) s

end Sys2Proof.Machine
end

