-- ==== Sys2Proof/Machine/Admit.lean ====
section
/-! DEFINITION. From a delivery to a queue (R268), admission (R244 to R248), staging (R247, R271), spilling (R255), the hand-over
to the Slath or the local port (R12, R239), and launch times (R298). -/

namespace Sys2Proof.Machine

open Sys2Proof

/-- A delivery of a frame to one target port. -/
structure Target where
  port : Nat
  queue : Nat
  copyExc : Bool := false
  toCplx : Bool := false
  grp : Bool := false
  deriving DecidableEq, Repr

/-- The basket of a target: that of its port, or the slice of the frame for the slow path and recirculation. -/
def basketOf (slice port : Nat) : Nat := if port < 152 then pipeOfPort port else slice

/-- The local port index (R244). -/
def lpOf (port : Nat) : Nat :=
  if port < 128 then port % 16 else if port < 144 then port - 112 else if port < 152 then port - 128
  else if port == 152 then 32 else 33

/-! ### Launch time (R298) -/

/-- The first cycle start of a port's operational list, plus PHASE, not earlier than t. -/
def State.cycleLaunch (s : State) (port t phase : Nat) : Nat :=
  let g := s.gate port
  if !g.operV || g.operCycle == 0 then t
  else
    let cyc : Int := (g.operCycle * 5 : Nat)
    let ph : Int := ((phase * 8) % (g.operCycle * 5) : Nat)
    let d : Int := diff48 t (g.anchor / 8) * 8 - (g.anchor % 8 : Nat)
    let k : Int := (d - ph + cyc - 1) / cyc
    wrapInt 48 ((g.anchor + k * cyc + ph + 7) / 8)

/-- The launch time of a frame toward a port, and whether a FIELD rule failed. -/
def State.launchOf (s : State) (f port : Nat) : Option Nat × Bool :=
  let x := s.fr f
  if x.launch.isSome then (x.launch, false)
  else if !bit x.legend 51 then (none, false)
  else
    let ix := [x.pipe, bits x.legend 50 47]
    if !s.ron Reg.SCHED_EN 0 ix || s.poison.contains (tabKey 20 x.pipe (bits x.legend 50 47)) then (none, false)
    else
      let off := s.rget Reg.SCHED_OFFSET 0 ix
      match s.rget Reg.SCHED_KIND 0 ix, x.ts with
      | 0, some t => (some ((t / 65536 + off) % 2 ^ 48), false)
      | 1, some t => (some (s.cycleLaunch port ((t / 65536 + off) % 2 ^ 48) (s.rget Reg.SCHED_PHASE 0 ix)), false)
      | 2, _ =>
        (match ((recordBases x.record)[s.rget Reg.SCHED_BASE 0 ix]?).getD none with
        | some b =>
          let p := b + s.rget Reg.SCHED_OFF 0 ix
          if p + 6 ≤ x.data.length - 4 then (some ((beNat (slice x.data p 6) + off) % 2 ^ 48), false) else (none, true)
        | none => (none, true))
      | _, _ => (none, false)

/-! ### Queue resolution (R268) -/

/-- The queue of a delivery to a port: `QUEUE` itself, or an offset to the port's queue base. -/
def State.deliveryQueue (s : State) (legend port : Nat) (group : Bool) : Nat :=
  if group || lgQMODE legend then s.rget Reg.QUEUE_QBASE 0 [port] + lgQUEUE legend else lgQUEUE legend

/-- The reason a target is refused before admission: the counter of its basket (6 Q_MISS, 7 DOWN_REFUSED). -/
def State.resolveFail (s : State) (t : Target) : Option Nat :=
  if 152 ≤ t.port then none
  else
    let q := s.q t.queue
    if 65535 < t.queue || isFixed t.queue || !q.alloc || !q.mapped || q.port != t.port then some 6
    else if t.port < 128 && s.rget Reg.QUEUE_HOLD_STATE 0 [t.port] == 0 then some 7 else none

/-- The class of a target: that of its queue. -/
def State.targetClass (s : State) (t : Target) : Nat := (s.q t.queue).cls

/-! ### Admission (R244) -/

/-- The ways a frame can be stored for a queue (R255). -/
inductive SpillPath where
  | onchip | spill | refuse
  deriving DecidableEq, Repr

/-- The cells of a queue's on-chip frames. -/
def State.ocCells (s : State) (q : Nat) : Nat := ((s.q q).oc.map (fun i => (s.copy i.f i.b).k)).sum

/-- `spill_path` (R255); a queue that is not resident never spills (R269). -/
def State.spillPath (s : State) (b q n k : Nat) : SpillPath :=
  let x := s.q q
  if !s.ron Reg.SLATH_SPILL_EN b || s.rget Reg.SLATH_SPILL_STATE b != 2 || !s.lp4xReady || n != 1 || x.spillTh == 0 || x.pinned ||
    !x.resident then .onchip
  else
    let free := s.rget Reg.SLATH_SPILL_FREE b
    if x.spilling then (if 0 < free then .spill else .refuse)
    else if x.spillTh * 4096 < (s.ocCells q + k) * 256 then (if 0 < free then .spill else .onchip)
    else .onchip

/-- The decision of R244 for one target: how it is stored, or the basket counter of the refusal (2 PC_REFUSED, 6 SPILL_FULL). -/
def State.admitOne (s : State) (b n k : Nat) (t : Target) : Except Nat SpillPath :=
  let lp := lpOf t.port
  let c := s.targetClass t
  match s.spillPath b t.queue n k with
  | .refuse => .error 6
  | .spill => if s.rget Reg.SLATH_PC_SPILL_LIMIT b [lp, c] < s.rget Reg.SLATH_PC_BLOCKS b [lp, c] + ceilDiv k 8 then .error 2 else .ok .spill
  | .onchip => if s.rget Reg.SLATH_PC_LIMIT b [lp, c] < s.rget Reg.SLATH_PC_CELLS b [lp, c] + k then .error 2 else .ok .onchip

/-- A refused target: its reason, `MC_PARTIAL` of a group, and what the kind of port adds (R223, R200, R324, R372). -/
def State.noteRefused (s : State) (f b : Nat) (t : Target) : State :=
  let x := s.fr f
  let s1 := if t.grp then s.cinc Reg.SLATH_BASKET_CNT b [5] else s
  let s2 := if t.port == 152 then
      (let u := s1.cinc Reg.LEGEND_SP_DROP x.pipe [lgEXC x.legend]
       if x.cm then u.cinc Reg.BRIDGE_CNT (x.origPort - 128) [18] else u)
    else if 168 ≤ t.port then s1.cinc Reg.FWD_CNT x.pipe [10]
    else if 160 ≤ x.inPort && x.inPort < 164 then
      ((s1.cinc Reg.PLAIT_CNT 0 [x.inPort - 160, 15]).rput Reg.PLAIT_OUT_DROP 1 0 [x.inPort - 160]).raise (947 + 4 * (x.inPort - 160))
    else s1
  match x.host with
  | some h => s2.cinc Reg.HOST_TX_REFUSED 0 [h.ring]
  | none => s2

/-- Places one admitted target: in its queue, in the list of frames to be spilled, or in the staging list; a full staging
list withdraws the admission (R247, R271). -/
def State.placeItem (s : State) (it : Item) (sp : SpillPath) (group : Bool) : State :=
  let q := s.q it.queue
  if q.resident then
    (match sp with
    | .spill =>
      s.setQ it.queue { q with pend := q.pend ++ [it], spilling := true, enq := (q.enq + 1) % 2 ^ 32, lastUse := s.now }
    | _ => s.enqueue it)
  else
    let pg := s.pager it.b
    if pg.staged.length < 512 then
      let n := pg.staged.length + 1
      let s1 := (s.setPager it.b { pg with staged := pg.staged ++ [it] }).rput Reg.QUEUE_STAGED n 0 [it.b]
      if s1.rget Reg.QUEUE_STAGE_PEAK 0 [it.b] < n then s1.rput Reg.QUEUE_STAGE_PEAK n 0 [it.b] else s1
    else
      let s1 := ((s.release it).cinc Reg.QUEUE_CNT 0 [it.b, 3]).raise (920 + 2 * it.b)
      if group then s1.cinc Reg.SLATH_BASKET_CNT it.b [5] else s1

/-- The cell reservation (R245). -/
def State.reservation (s : State) (f : Nat) : Nat :=
  let x := s.fr f
  if x.ended then ceilDiv x.len 256
  else if x.inPort < 128 then ceilDiv (s.rget Reg.PORT_MAX_LEN x.inPort) 256 else 38

/-- Admission of a frame's targets in basket b (R244): the state, and the ports of the targets admitted. -/
def State.admitBasket (s : State) (f b : Nat) (ts : List Target) : State × List Nat :=
  -- R268
  let s0 := ts.foldl (fun (u : State) t => match s.resolveFail t with
    | some c => (u.cinc Reg.QUEUE_CNT 0 [b, c]).noteRefused f b t
    | none => u) s
  let ok := ts.filter (fun t => (s.resolveFail t).isNone)
  let k := s.reservation f
  let dec := ok.map (fun t => (t, s.admitOne b ok.length k t))
  let s1 := dec.foldl (fun (u : State) d => match d.2 with
    | .error c => (u.cinc Reg.SLATH_BASKET_CNT b [c]).noteRefused f b d.1
    | .ok _ => u) s0
  let adm := dec.filterMap (fun d => match d.2 with | .ok p => some (d.1, p) | .error _ => none)
  if adm.isEmpty then (s1, [])
  else
    let refuseAll (u : State) : State := adm.foldl (fun v d => v.noteRefused f b d.1) u
    if s1.rget Reg.SLATH_BASKET_LIMIT b < s1.cellsUsed b + k || s1.rget Reg.SLATH_CELLS_FREE b < k then
      (refuseAll ((s1.cinc Reg.SLATH_BASKET_CNT b [3]).raise (889 + 4 * b)), [])
    else if s1.rget Reg.SLATH_DESC_FREE b == 0 || s1.rget Reg.SLATH_PTR_FREE b < adm.length then
      (refuseAll (s1.cinc Reg.SLATH_BASKET_CNT b [4]), [])
    else
      let x := s1.fr f
      let u := if x.inPort < 128 then some (x.inPort, lgCLASS x.legend % 8) else none
      let s2 := (((s1.rsub Reg.SLATH_CELLS_FREE k b).rsub Reg.SLATH_DESC_FREE 1 b).rsub Reg.SLATH_PTR_FREE adm.length b).chargeUnit u true k
      let s3 := s2.setCopy f b { k := k, refs := adm.length, unit := u }
      let s4 := (s3.cinc Reg.SLATH_BASKET_CNT b [0]).cadd Reg.SLATH_BASKET_CNT adm.length b [1]
      let s5 := adm.foldl (fun (v : State) d =>
        let t := d.1
        let l := v.launchOf f t.port
        let sp := d.2 == SpillPath.spill
        let it : Item := { f := f, b := b, port := t.port, queue := t.queue, ptr := v.freeNat % 65536, lp := lpOf t.port,
                           cls := v.targetClass t, chg := if sp then ceilDiv k 8 else k, inBlocks := sp, copyExc := t.copyExc,
                           toCplx := t.toCplx, launch := if t.port < 152 then l.1 else none }
        let v1 := v.useFree
        let v2 := if l.2 && t.port < 152 then
            ((v1.cinc Reg.SCHED_CNT 0 [x.pipe, 5]).rput Reg.SCHED_LAUNCH_ERR 1 0 [x.pipe]).raise (936 + x.pipe) else v1
        (v2.chargeItem it).placeItem it d.2 t.grp) s4
      (s5, adm.map (fun d => d.1.port))

/-! ### Hand-over to the Slath (R12, R239, R241) -/

/-- The Slath input of a number. -/
def State.sin (s : State) (i : Nat) : SlathIn := sget (fun _ => {}) s.slath.ins i
/-- Replaces it. -/
def State.setSin (s : State) (i : Nat) (x : SlathIn) : State :=
  { s with slath := { s.slath with ins := sset (fun _ => {}) s.slath.ins i x } }

/-- A frame's cells are handed over: input i of the matrix toward outputs `outs`, and the local port where `loc` names a
basket. -/
def State.crossTo (s : State) (f i : Nat) (outs : List Nat) (loc : Option Nat) : State :=
  let s1 := match loc with
    | some b => { s with slath := { s.slath with loc := sset (fun _ => []) s.slath.loc b ((sget (fun _ => []) s.slath.loc b) ++ [(f, 0)]) } }
    | none => s
  let x := { s1.sin i with order := if outs.isEmpty && loc.isNone then (s1.sin i).order else (s1.sin i).order ++ [f] }
  match outs with
  | [] => s1.setSin i x
  | [o] => s1.setSin i { x with uc := sset (fun _ => []) x.uc o ((sget (fun _ => []) x.uc o) ++ [(f, 0)]) }
  | _ => s1.setSin i { x with mc := x.mc ++ [⟨f, outs, outs, 0⟩] }

/-- Delivers a frame to its targets and, where named, to a Plait engine. `input` is its Slath input: its pipe, or 8 + engine.
A delivery whose way is closed by a power domain counts in `FWD_DROP`, before R268 (R480, R312; DEDUCED, log entry 144). The frame's
slot is retired where a basket admits a delivery other than recirculation (R426). -/
def State.deliver (s : State) (f input : Nat) (ts : List Target) (plait : Option Nat) : State :=
  let slice := (s.fr f).pipe
  let isPipe := decide (input < 8)
  let r := (List.range 8).foldl (fun (a : State × List Nat × Bool) b =>
    let mine := ts.filter (fun t => basketOf slice t.port == b)
    if mine.isEmpty then a
    else if !a.1.works (16 + b) || (!(isPipe && b == slice) && !a.1.works 24) then
      (mine.foldl (fun u _ => u.cinc Reg.FWD_CNT slice [9]) a.1, a.2)
    else
      let d := a.1.admitBasket f b mine
      let held := decide (0 < (d.1.copy f b).refs)
      (d.1, if held then a.2.1 ++ [b] else a.2.1, a.2.2 || (held && d.2.any (fun p => p < 168)))) (s, [], false)
  let p := match plait with
    | some k => if r.1.works (27 + k) && r.1.works 24 then [8 + k] else []
    | none => []
  let s1 := if plait.isSome && p.isEmpty then r.1.cinc Reg.FWD_CNT slice [9] else r.1
  let loc := if isPipe && r.2.1.contains slice then some slice else none
  let s2 := s1.crossTo f input ((r.2.1.filter (fun b => !(isPipe && b == slice))) ++ p) loc
  if r.2.2 then s2.setFate f true else s2

end Sys2Proof.Machine
end

