-- ==== Sys2Proof/Machine/Counters.lean ====
section
/-! DEFINITION. Counter groups (R421, R422) as CSNAP and Tally read them. -/

namespace Sys2Proof.Machine

open Sys2Proof

/-- Where a counter lives: a register pair, or a rule-counter word. -/
inductive CtrRef where
  | pair (r : Row) (inst : Nat) (ix : List Nat)
  | rule (k : Nat)
  deriving DecidableEq, Repr

/-- n consecutive pairs of a row. -/
def pairsOf (r : Row) (inst : Nat) (pre : List Nat) (n : Nat) : List CtrRef :=
  (List.range n).map (fun i => .pair r inst (pre ++ [i]))

/-- The key of a rule counter word: pipe, counter, 0 frames or 1 bytes (R422). -/
def ruleKey (pipe c part : Nat) : Nat := pipe * 2 ^ 16 + 2 * c + part

/-- The counters of a group in order (R421), or none for an undefined group. -/
def groupRefs (g : Nat) : Option (List CtrRef) :=
  let i := g % 4096
  let n := g % 256
  match g / 4096 with
  | 0 => if i < 128 then some (pairsOf Reg.PORT_RX_CNT i [] 40 ++ pairsOf Reg.PORT_TX_CNT i [] 40 ++ pairsOf Reg.PORT_FEC_CNT i [] 7) else none
  | 1 => if i < 24 then some (pairsOf Reg.BRIDGE_CNT i [] 21) else none
  | 2 =>
    if 8 ≤ n then none
    else match i / 256 with
      | 0 => some (pairsOf Reg.SURVEY_CNT n [] 14)
      | 1 => some (pairsOf Reg.LEGEND_CNT n [] 7 ++ pairsOf Reg.LEGEND_EXC_FRAMES n [] 64 ++ pairsOf Reg.LEGEND_SP_DROP n [] 64)
      | 2 => some (pairsOf Reg.FWD_CNT n [] 16 ++ (if n == 0 then
          [CtrRef.pair Reg.FWD_AGED 0 []] ++ pairsOf Reg.FWD_MIRROR_CAPT 0 [] 16 ++ pairsOf Reg.FWD_MIRROR_DROP 0 [] 16 else []))
      | 3 => some (pairsOf Reg.SCHED_CNT 0 [n] 11)
      | _ => none
  | 3 => if i < 512 then some ((List.range 512).map (fun j => .rule (ruleKey (i / 64) (256 * (i % 64) + j / 2) (j % 2)))) else none
  | 4 =>
    if i == 0 then some (pairsOf Reg.SLATH_XBAR_CNT 0 [] 7 ++ (List.range 12).flatMap (fun a => pairsOf Reg.SLATH_CRC_LOC 0 [a] 12))
    else if 8 ≤ n then none
    else match i / 256 with
      | 1 => some (pairsOf Reg.SLATH_BASKET_CNT n [] 17 ++ pairsOf Reg.SLATH_ECC_BANK n [] 16)
      | 2 => some (pairsOf Reg.QUEUE_CNT 0 [n] 10)
      | _ => none
  | 5 => if i < 4 then some (pairsOf Reg.PLAIT_CNT 0 [i] 20) else none
  | 6 => if i == 0 then some (pairsOf Reg.MERID_CNT 0 [] 11) else none
  | 7 => if i == 0 then some (pairsOf Reg.HOST_CNT 0 [] 10 ++ pairsOf Reg.HOST_RX_FRAMES 0 [] 256 ++ pairsOf Reg.HOST_TX_FRAMES 0 [] 256 ++ pairsOf Reg.HOST_TX_REFUSED 0 [] 256) else none
  | 8 => if i == 0 then some (pairsOf Reg.CC_CNT 0 [0] 8 ++ pairsOf Reg.CC_CNT 0 [1] 8 ++ pairsOf Reg.CC_CKPT_CNT 0 [] 2) else none
  | 9 => if i < 8 then some (pairsOf Reg.LP4X_CNT i [] 6) else none
  | 10 => if i == 0 then some ((List.range 44).flatMap (fun d => pairsOf Reg.POWER_DOM_CNT 0 [d] 3) ++ pairsOf Reg.POWER_CNT 0 [] 2) else none
  | 15 =>
    if i == 0 then some (pairsOf Reg.TALLY_CNT 0 [] 4)
    else if i == 0x100 then some ((List.range 8).flatMap (fun p => pairsOf Reg.TALLY_PIPE_WORD 0 [p] 20) ++
      (List.range 8).flatMap (fun t => pairsOf Reg.TALLY_THREAD_WORD 0 [t] 6))
    else none
  | _ => none

/-- The value of a counter. -/
def State.ctr (s : State) : CtrRef → Nat
  | .pair r i ix => s.pget r i ix
  | .rule k => sget (fun _ => 0) s.ruleCnt k

/-- Clears a counter. -/
def State.ctrClear (s : State) : CtrRef → State
  | .pair r i ix => s.pput r 0 i ix
  | .rule k => { s with ruleCnt := sset (fun _ => 0) s.ruleCnt k 0 }

/-- Adds to a rule counter word. -/
def State.ruleAdd (s : State) (k n : Nat) : State :=
  { s with ruleCnt := sset (fun _ => 0) s.ruleCnt k ((sget (fun _ => 0) s.ruleCnt k + n) % 2 ^ 64) }

/-- Whether CSNAP of a group clears it: groups 0xF000 and 0xF100 hold no RC counters (R421). -/
def groupClears (g : Nat) : Bool := g / 4096 != 15

/-- The governing domain of a group's counters (R423), none for always-on. -/
def groupDomain (g : Nat) : Option Nat :=
  let i := g % 4096
  let n := g % 256
  match g / 4096 with
  | 0 => some (i / 16)
  | 1 => some (if i < 16 then 0 else 1)
  | 2 => some (8 + n)
  | 3 => some (8 + i / 64)
  | 4 => if i == 0 then some 24 else if i / 256 == 1 then some (16 + n) else some (8 + n)
  | 5 => some (27 + i)
  | 6 => some 41
  | 9 => some (31 + i)
  | _ => none

/-- The group numbers that exist of a kind, ascending. -/
def groupsOfKind (k : Nat) : List Nat :=
  let cand := match k with
    | 0 => List.range 128
    | 1 => List.range 24
    | 2 => (List.range 4).flatMap (fun a => (List.range 8).map (fun n => 256 * a + n))
    | 3 => List.range 512
    | 4 => 0 :: (List.range 2).flatMap (fun a => (List.range 8).map (fun n => 256 * (a + 1) + n))
    | 5 => List.range 4
    | 9 => List.range 8
    | 6 | 7 | 8 | 10 => [0]
    | 15 => [0, 0x100]
    | _ => []
  cand.map (fun i => k * 4096 + i)

end Sys2Proof.Machine
end

