-- ==== Sys2Proof/Machine/Forward.lean ====
section
/-! DEFINITION. The walk of a frame through Survey and Legend (R172 to R199) and the forwarding stage (R211 to R229): learning,
exceptions, policing (R303, R304), deliveries, mirror captures, rule counters; and the meanings of SURVEY_PARSE,
ADDR_EXT_READ_DONE, LEARN_WRITE, AGE_VISIT, MIRROR_ENTRY_WRITE, PROG_SWITCH and VERSION_RETIRE. -/

namespace Sys2Proof.Machine

open Sys2Proof

/-! ### Bytes of a frame -/

/-- The bytes that are present (R164): those before the last four received. -/
def Frame.body (x : Frame) : List Byte := x.data.take (x.data.length - 4)

/-- Word of bytes of a frame. -/
def Frame.field (x : Frame) (i n : Nat) : Nat := beNat (slice x.body i n)

/-- The frame leaves every path: its references, if any, end elsewhere. -/
def State.discard (s : State) (f : Nat) : State :=
  let s1 := (s.uncount f).setFate f false
  (s1.setFr f { s1.fr f with stage := 2 }).reap f

/-! ### Learning (R217) -/

/-- `LEARN_MODE` of the port by which a frame entered: off for the slow path and recirculation. -/
def State.learnMode (s : State) (p : Nat) : Nat := if p < 152 then s.rget Reg.FWD_LEARN_MODE 0 [p] else 0

/-- Takes a token of a pipe's learning bucket, which starts full (DESIGN CHOICE, log entry 31): units of 1/1600000 token. -/
def State.learnToken (s : State) (n : Nat) : State × Bool :=
  let burst := s.rget Reg.FWD_LEARN_BURST n * ms
  let t := match sfind s.fwd.tokens n with
    | some (v, at_) => min burst (v + s.rget Reg.FWD_LEARN_RATE n * (s.now - at_))
    | none => burst
  let ok := decide (ms ≤ t)
  ({ s with fwd := { s.fwd with tokens := sins s.fwd.tokens n (if ok then t - ms else t, s.now) } }, ok)

/-- Queues a conditional learning write (R218). -/
def State.queueLearn (s : State) (w : LearnW) : State := { s with fwd := { s.fwd with learn := s.fwd.learn ++ [w] } }

/-- The image of a learned entry. -/
def learnImage (d mac port : Nat) : Nat :=
  imgSet 32 (imgSet 32 (imgSet 32 (imgSet 32 (imgSet 32 0 0 59 48 d) 0 47 0 mac) 1 59 48 port) 3 63 63 1) 3 60 60 1

/-- The image of a moved entry: PORT, the ingress port, HIT; LOCK and DYN are kept. -/
def moveImage (img port : Nat) : Nat := imgSet 32 (imgSet 32 (imgSet 32 img 1 63 62 0) 1 59 48 port) 3 62 62 1

/-- The source lookup of `l2` (R217): the state and the exception it sets. -/
def State.l2Source (s : State) (x : Frame) : State × Nat :=
  let n := x.pipe
  let d := lgFWD_TARGET x.legend
  let sa := x.field 6 6
  let p := x.inPort
  let mode := s.learnMode p
  if mode == 0 || x.field 6 1 % 2 == 1 then (s, 0)
  else match s.addrFind d sa with
  | none =>
    let r := s.learnToken n
    let s1 := r.1
    if !r.2 then (s1.cinc Reg.FWD_CNT n [5], 0)
    else if mode == 2 then (s1, excSA_UNKNOWN)
    else if s1.rget Reg.FWD_MAX_LEARN 0 [p] != 0 && decide (s1.rget Reg.FWD_MAX_LEARN 0 [p] ≤ s1.rget Reg.FWD_LEARNED 0 [p]) then
      (s1, excLEARN_LIMIT)
    else (match s1.addrPlace d sa with
      | none => ((s1.cinc Reg.FWD_CNT n [6]).raise (820 + 8 * n), 0)
      | some ix => ((s1.queueLearn ⟨ix, s1.tab tADDR 0 ix, learnImage d sa p, n, 0⟩).cinc Reg.FWD_CNT n [4], 0))
  | some ix =>
    let e := s.tab tADDR 0 ix
    if aDTYPE e != 0 || aDEST e != p then
      if aLOCK e then (s, excSA_LOCKED)
      else if s.ron Reg.FWD_MOVE_EXC 0 [p] then (s, excSA_MOVE)
      else
        let r := s.learnToken n
        if !r.2 then (r.1.cinc Reg.FWD_CNT n [5], 0)
        else (((r.1.queueLearn ⟨ix, e, moveImage e p, n, 1⟩).cinc Reg.FWD_CNT n [7]).raise (821 + 8 * n), 0)
    else (s.setTab tADDR 0 ix (imgSet 32 e 3 62 62 1), 0)

/-! ### Destinations (R213, R220, R222) -/

/-- Where a record sends a frame. -/
inductive Dest where
  | drop
  | port (p : Nat)
  | group (g : Nat) (flood : Bool)
  | slow
  | plait (ctx : Nat)
  | recirc
  | nothing
  deriving DecidableEq, Repr

/-- The destination lookup of `l2` (R220): the state, the destination, the exception. -/
def State.l2Dest (s : State) (x : Frame) : State × Dest × Nat :=
  let n := x.pipe
  let d := lgFWD_TARGET x.legend
  match s.addrFind d (x.field 0 6) with
  | some ix =>
    let e := s.tab tADDR 0 ix
    (s.cinc Reg.FWD_CNT n [1], (match aDTYPE e with | 0 => .port (aDEST e % 256) | 1 => .group (aDEST e) false | _ => .drop), 0)
  | none =>
    if bit (s.rget Reg.FWD_FLOOD_EN 0 [d / 32]) (d % 32) then (s.cinc Reg.FWD_CNT n [2], .group d true, 0)
    else (s, .nothing, excDA_MISS)

/-- The destination of a record that names it directly. -/
def recordDest (lg : Nat) : Dest :=
  match lgFWD_TYPE lg with
  | 0 => .drop
  | 1 => .port (lgFWD_TARGET lg % 256)
  | 2 => .group (lgFWD_TARGET lg) false
  | 3 => .slow
  | 4 => .plait (bits lg 59 52)
  | 5 => .recirc
  | _ => .nothing

/-- The ports of a group delivery (R222): none where the group is invalid or poisoned. -/
def State.groupPorts (s : State) (g inPort : Nat) (flood : Bool) : List Nat :=
  let img := s.tab tMCGROUP 0 g
  if imgF 64 img 7 63 63 == 0 || s.poisoned tMCGROUP 0 g then []
  else (List.range 152).filter (fun p => bit (imgBytes 64 img (p / 8) 1) (7 - p % 8) &&
    !((flood || imgF 64 img 2 39 39 == 1) && p == inPort))

/-- `ttl_check` (R226): some DEC step of the script would decrement a byte that is 0 or 1. -/
def State.ttlBad (s : State) (x : Frame) : Bool :=
  (editSteps (s.tab tEDIT 0 (bits x.legend 45 36))).any (fun w =>
    bits w 31 28 == 5 && (match ((recordBases x.record)[bits w 27 25]?).getD none with
      | some b => let p := b + bits w 24 17
        decide (p < x.depthB) && decide (p < x.body.length) && decide (x.field p 1 ≤ 1)
      | none => false))

/-- The greatest byte offset that the forwarding stage still needs (R226, R298), plus 1. -/
def State.fwdNeeds (s : State) (x : Frame) (lg : Nat) : Nat :=
  let b (i : Nat) : Option Nat := ((recordBases x.record)[i]?).getD none
  let ttl := if bit lg 46 then (editSteps (s.tab tEDIT 0 (bits lg 45 36))).map (fun w =>
    if bits w 31 28 == 5 then (match b (bits w 27 25) with
      | some o => if o + bits w 24 17 < x.depthB then o + bits w 24 17 + 1 else 0
      | none => 0) else 0) else []
  let ix := [x.pipe, bits lg 50 47]
  let fld := if bit lg 51 && s.ron Reg.SCHED_EN 0 ix && s.rget Reg.SCHED_KIND 0 ix == 2 then
      (match b (s.rget Reg.SCHED_BASE 0 ix) with | some o => o + s.rget Reg.SCHED_OFF 0 ix + 6 | none => 0) else 0
  (fld :: ttl).foldl max 0

/-! ### Policing (R303, R304) -/

/-- The scale of a bucket: 1/8000000 byte. -/
def polScale : Nat := 8000000

/-- The exact buckets of a policer after a refresh to the present: committed, then peak or excess. -/
def State.polRefresh (s : State) (i : Nat) : Int × Int :=
  let img := s.tab tPOLICER 0 i
  let fr := sget (fun _ => ((0 : Nat), (0 : Nat))) s.fwd.polFrac i
  let dt : Int := max 0 (diff48 s.short (imgF 32 img 3 47 0))
  let cir : Int := (imgF 32 img 0 63 32 : Nat)
  let pir : Int := (imgF 32 img 0 31 0 : Nat)
  let cbs : Int := (imgF 32 img 1 55 32 * polScale : Nat)
  let pbs : Int := (imgF 32 img 1 23 0 * polScale : Nat)
  let tc := signed 32 (imgF 32 img 2 63 32) * (polScale : Nat) + (fr.1 : Nat) + cir * dt
  let tp := signed 32 (imgF 32 img 2 31 0) * (polScale : Nat) + (fr.2 : Nat)
  if imgF 32 img 3 62 62 == 0 then (min cbs tc, min pbs (tp + pir * dt))
  else (min cbs tc, min pbs (tp + max 0 (tc - cbs)))

/-- Stores the buckets of a policer; `stamp` sets `LAST`. -/
def State.polStore (s : State) (i : Nat) (tc tp : Int) (stamp : Bool) : State :=
  let img := s.tab tPOLICER 0 i
  let sc : Int := (polScale : Nat)
  let a := imgSet 32 (imgSet 32 img 2 63 32 (wrapInt 32 (tc / sc))) 2 31 0 (wrapInt 32 (tp / sc))
  let b := if stamp then imgSet 32 a 3 47 0 s.short else a
  let s1 := s.setTab tPOLICER 0 i b
  { s1 with fwd := { s1.fwd with polFrac := sset (fun _ => (0, 0)) s1.fwd.polFrac i ((tc % sc).toNat, (tp % sc).toNat) } }

/-- Meters b bytes of input colour `inC` (0 green, 1 yellow, 2 red): the state, the colour, and which buckets were debited. -/
def State.meter (s : State) (i inC b : Nat) : State × Nat × Bool × Bool :=
  let img := s.tab tPOLICER 0 i
  let r := s.polRefresh i
  let n : Int := (b * polScale : Nat)
  let c := if imgF 32 img 3 61 61 == 1 then inC else 0
  let res : Nat × Bool × Bool :=
    if imgF 32 img 3 62 62 == 0 then
      (if c == 2 || decide (r.2 < n) then (2, false, false)
       else if c == 1 || decide (r.1 < n) then (1, false, true) else (0, true, true))
    else
      (if c == 0 && decide (n ≤ r.1) then (0, true, false)
       else if c != 2 && decide (n ≤ r.2) then (1, false, true) else (2, false, false))
  (s.polStore i (r.1 - if res.2.1 then n else 0) (r.2 - if res.2.2 then n else 0) true, res)

/-- The policer of a frame with a FORWARD delivery (R212, R303): the state and whether the delivery is dropped. An entry that
is not valid meters nothing (DESIGN CHOICE, log entry 32); a poisoned one colours red and drops (R518). -/
def State.police (s : State) (f : Nat) : State × Bool :=
  let x := s.fr f
  let n := x.pipe
  let i := bits x.legend 75 61
  let img := s.tab tPOLICER 0 i
  if !bit x.legend 76 then (s, false)
  else if s.poisoned tPOLICER 0 i then
    (((s.setFr f { x with legend := setBits x.legend 115 114 2 }).cinc Reg.SCHED_CNT 0 [n, 8]).cinc Reg.SCHED_CNT 0 [n, 9], true)
  else if imgF 32 img 3 63 63 == 0 then (s, false)
  else
    let m := s.meter i (bits x.legend 115 114) (if x.ended then x.len else 64)
    let x1 := { x with legend := setBits x.legend 115 114 m.2.1, pol := if x.ended then none else some (i, m.2.2.1, m.2.2.2) }
    let s1 := (m.1.setFr f x1).cinc Reg.SCHED_CNT 0 [n, 6 + m.2.1]
    if m.2.1 == 2 && imgF 32 img 3 60 60 == 1 then (s1.cinc Reg.SCHED_CNT 0 [n, 9], true) else (s1, false)

/-! ### Mirroring (R227 to R229) -/

/-- The first 128 bytes of a frame, once they or its end have arrived. -/
def Frame.head128 (x : Frame) : Option (List Byte) :=
  if x.ended || 128 ≤ x.data.length then some (slice x.data 0 128) else none

/-- Bytes 128 to 251 of a capture entry, with the length bytes 0. -/
def mirrorBody (short session : Nat) (fromExc express : Bool) (inPort act pipe legend flags seq : Nat) : List Byte :=
  beBytes 6 short ++ [BitVec.ofNat 8 (session * 16 + b2n fromExc * 8 + b2n express * 4), BitVec.ofNat 8 inPort, 0, 0,
    BitVec.ofNat 8 (act * 64 + if express then 0 else lgEXC legend), BitVec.ofNat 8 pipe] ++
  (if express then List.replicate 16 0 else beBytes 16 legend) ++ beBytes 2 flags ++ [0, 0] ++ beBytes 4 seq ++ List.replicate 88 0

/-- A mirror trigger of a session (R228). -/
def State.mirrorTrigger (s : State) (f session : Nat) (fromExc express : Bool) : State :=
  let x := s.fr f
  let img := s.tab tMIRROR 0 session
  let drop (t : State) : State := (t.cinc Reg.FWD_MIRROR_DROP 0 [session]).raise (822 + 8 * x.pipe)
  if s.poisoned tMIRROR 0 session then drop s
  else if !s.mirrorValid session then s
  else
    let c := sget (fun _ => 0) s.fwd.trig session + 1
    if c < imgF 32 img 1 31 0 then { s with fwd := { s.fwd with trig := sset (fun _ => 0) s.fwd.trig session c } }
    else
      let s1 : State := { s with fwd := { s.fwd with trig := sset (fun _ => 0) s.fwd.trig session 0 } }
      let prod := s1.rget Reg.FWD_MIRROR_PROD 0 [session]
      let ready := if s1.mirrorLp4x session then s1.lp4xReady else s1.mayIssue (imgF 32 img 1 57 53 - 1)
      if (prod + 2 ^ 32 - s1.rget Reg.FWD_MIRROR_CONS 0 [session]) % 2 ^ 32 == 2 ^ imgF 32 img 1 63 59 || !ready then drop s1
      else
        let q := sget (fun _ => 0) s1.fwd.seq session
        let act := (s1.excAct (lgEXC x.legend)).action
        let body := mirrorBody s1.short session fromExc express x.origPort (if express then 0 else act) x.pipe x.legend
          (if express then 0 else beNat (slice x.record 0 2)) q
        let s2 := (s1.winc Reg.FWD_MIRROR_PROD 0 [session]).cinc Reg.FWD_MIRROR_CAPT 0 [session]
        { s2 with fwd := { s2.fwd with
            seq := sset (fun _ => 0) s2.fwd.seq session ((q + 1) % 2 ^ 32)
            mirror := s2.fwd.mirror ++ [⟨f, session, prod, x.head128, if x.ended then some x.len else none, body⟩] } }

/-- Fills in what a capture of a frame still lacks when its bytes are about to change or its end has come. -/
def State.mirrorFill (s : State) (f : Nat) : State :=
  let x := s.fr f
  { s with fwd := { s.fwd with mirror := s.fwd.mirror.map (fun m =>
      if m.f == f then { m with head := if m.head.isSome then m.head else x.head128, len := if x.ended then some x.len else m.len } else m) } }

/-- MIRROR_ENTRY_WRITE (R229): the oldest capture whose bytes are present is written, its last 4 bytes last. The length of a
frame that has not ended is a free value. -/
def execMirrorEntryWrite (s : State) : Out :=
  .next (
    let ready (m : MirrorW) : Bool := m.head.isSome || ((s.fr m.f).head128).isSome
    match s.fwd.mirror.find? ready with
    | none => s
    | some m =>
      let x := s.fr m.f
      let img := s.tab tMIRROR 0 m.session
      let sz := imgF 32 img 1 63 59
      let base := imgF 32 img 0 63 0 + 256 * (m.slot % 2 ^ sz)
      let key := if imgF 32 img 1 58 58 == 1 then lp4xKey base else hostKey (imgF 32 img 1 57 53 - 1) base
      let len := match m.len with | some n => n | none => if x.ended then x.len else s.freeNat
      let body := overlay m.body 8 (beBytes 2 len)
      let ph := (1 - m.slot / 2 ^ sz % 2) * 2 ^ 31
      let s1 := ((s.useFree.mwrite key ((m.head.getD ((x.head128).getD [])) ++ body)).mwrite (key + 252) (beBytes 4 ph))
      let s2 := if imgF 32 img 1 58 58 == 1 then s1.lp4xUse true else s1
      ({ s2 with fwd := { s2.fwd with mirror := s2.fwd.mirror.erase m } } : State).reap m.f)

/-! ### The forwarding stage (R211) -/

/-- The slow-path target of a frame (R213, R200): queue and destination. -/
def State.slowTarget (s : State) (x : Frame) (copy : Bool) : Target :=
  let e := lgEXC x.legend
  let a := s.excAct e
  let q := if e == 0 then lgCLASS x.legend % 8 else a.spq.getD (lgCLASS x.legend % 8)
  { port := 152, queue := 65464 + 8 * x.pipe + q, copyExc := copy, toCplx := e != 0 && a.dest == 1 }

/-- The targets of a destination, and the Plait engine. -/
def State.destTargets (s : State) (x : Frame) (d : Dest) (ports : List Nat) : List Target × Option Nat :=
  match d with
  | .port p => ([{ port := p, queue := s.deliveryQueue x.legend p false }], none)
  | .group _ _ => (ports.map (fun p => { port := p, queue := s.deliveryQueue x.legend p true, grp := true }), none)
  | .slow => ([s.slowTarget x false], none)
  | .plait c => ([], some (c / 64))
  | .recirc => ([{ port := 168 + x.pipe, queue := 65528 + x.pipe }], none)
  | _ => ([], none)

/-- An exception code of the forwarding stage stands in the legend record unless one does already (R199). -/
def State.setExc (s : State) (f c : Nat) : State :=
  let y := s.fr f
  if c != 0 && lgEXC y.legend == 0 then s.setFr f { y with legend := withExc y.legend c } else s

/-- The l2 step (R211, R213 to R215): source, then destination lookup of a frame whose record names an l2 domain. -/
def State.fwdL2 (s : State) (f : Nat) (x : Frame) : State × Dest :=
  if lgFWD_TYPE x.legend == 6 then
    let r := (s.cinc Reg.FWD_CNT x.pipe [0]).l2Source x
    let q := (r.1.setExc f r.2).l2Dest x
    (q.1.setExc f q.2.2, q.2.1)
  else (s, recordDest x.legend)

/-- The ports of a group destination, none of another one. -/
def State.fwdPorts (s : State) (x : Frame) (d : Dest) : List Nat :=
  match d with
  | .group g fl => s.groupPorts g x.inPort fl
  | _ => []

/-- A destination can take deliveries. -/
def destDelivers (d : Dest) (ports : List Nat) : Bool :=
  match d with
  | .drop => false
  | .nothing => false
  | .group _ _ => !ports.isEmpty
  | _ => true

/-- A destination is a group. -/
def destIsGroup (d : Dest) : Bool :=
  match d with
  | .group _ _ => true
  | _ => false

/-- The ttl_check and resolve steps (R211). -/
def State.fwdResolve (s : State) (f : Nat) (d : Dest) (x : Frame) : State :=
  let y := s.fr f
  let s1 := if lgEXC y.legend == 0 && bit y.legend 46 && s.ttlBad y then s.setExc f excTTL else s
  if destIsGroup d && (s1.fwdPorts x d).isEmpty then s1.setExc f excMC_EMPTY else s1

/-- The action of exception code e (R200); none is 0. -/
def State.fwdAct (s : State) (e : Nat) : Nat := if e == 0 then 0 else (s.excAct e).action

/-- The destination takes deliveries under the action of code e (R200, R211). -/
def State.fwdHas (s : State) (e : Nat) (d : Dest) (ports : List Nat) : Bool :=
  (s.fwdAct e == 0 || s.fwdAct e == 3) && destDelivers d ports

/-- The police step (R211, R302): the answer is true when the frame is discarded. -/
def State.fwdPolice (s : State) (f e : Nat) (d : Dest) (ports : List Nat) : State × Bool :=
  if s.fwdHas e d ports then s.police f else (s, false)

/-- The deliver step (R211) of frame f as it is after policing; the Plait engine of the delivery, if any, comes with the state. -/
def State.fwdDeliver (s : State) (f e : Nat) (y : Frame) (d : Dest) (ports : List Nat) (dropped : Bool) : State × Option Nat :=
  let act := s.fwdAct e
  let dt := if s.fwdHas e d ports && !dropped then s.destTargets y d ports else ([], none)
  let s1 := if (act == 0 || act == 3) && d == Dest.drop then s.cinc Reg.FWD_CNT y.pipe [9] else s
  let slow := if act == 1 || act == 3 then [s1.slowTarget y (act == 3)] else []
  (s1.deliver f y.pipe (dt.1 ++ slow) dt.2, dt.2)

/-- The mirror step (R211, R228): the session of the record, then that of the exception. -/
def State.fwdMirror (s : State) (f e lg : Nat) : State :=
  let sess := if bit lg 81 then some (bits lg 80 77) else none
  let es := if e == 0 then none else (s.excAct e).mirror
  let s1 := match sess with | some i => s.mirrorTrigger f i false false | none => s
  match es with | some i => if sess == some i then s1 else s1.mirrorTrigger f i true false | none => s1

/-- The counters of a frame that was forwarded (R422, R209). -/
def State.fwdCounters (s : State) (n e : Nat) (y : Frame) : State :=
  let c := bits y.legend 35 22
  let s1 := if c == 0 then s else
    (s.ruleAdd (ruleKey n c 0) 1).ruleAdd (ruleKey n c 1) (if y.ended then y.len else 0)
  s1.cinc Reg.LEGEND_EXC_FRAMES n [e]

/-- What is left when a frame was forwarded (R201, R426): it releases its version unless it recirculates, and its slot is wasted unless a
delivery was admitted. -/
def State.fwdEnd (s : State) (f : Nat) (y : Frame) (eng : Option Nat) : State :=
  let parked := y.pass == 0 && ((s.q (65528 + y.pipe)).oc.any (fun i => i.f == f))
  let s1 := if parked then s else s.uncount f
  let plait := eng.isSome && (s1.slath.ins.any (fun w => w.2.uc.any (fun q => 8 ≤ q.1 && q.2.any (fun c => c.1 == f)) || w.2.mc.any (fun m => m.f == f)))
  let s2 := if plait then s1 else s1.setFate f false
  (s2.setFr f { s2.fr f with stage := 2 }).reap f

/-- The forwarding stage of a frame whose legend record stands in it (R211). -/
def State.forward (s : State) (f : Nat) : State :=
  let x := s.fr f
  let a := s.fwdL2 f x
  let s1 := a.1.fwdResolve f a.2 x
  let e := lgEXC (s1.fr f).legend
  let ports := s1.fwdPorts x a.2
  let p := s1.fwdPolice f e a.2 ports
  let y := p.1.fr f
  let b := p.1.fwdDeliver f e y a.2 ports p.2
  ((b.1.fwdMirror f e y.legend).fwdCounters x.pipe e y).fwdEnd f y b.2

/-- The walk is abandoned or the frame waits: an extension bucket must be read first (R216). -/
def State.needsExt (s : State) (x : Frame) : Bool :=
  lgFWD_TYPE x.legend == 6 &&
  ((!x.extSa && s.learnMode x.inPort != 0 && x.field 6 1 % 2 == 0 && s.addrNeedsExt (lgFWD_TARGET x.legend) (x.field 6 6)) ||
   s.addrNeedsExt (lgFWD_TARGET x.legend) (x.field 0 6))

/-- The forwarding stage, unless an extension read comes first. -/
def State.forwardOrWait (s : State) (f : Nat) : State :=
  if s.needsExt (s.fr f) then s.setFr f { s.fr f with stage := 1 } else s.forward f

/-! ### Survey and Legend of a frame -/

/-- Counts a LENGTH contradiction (R177). -/
def State.countLength (s : State) (f reason : Nat) : State :=
  let x := s.fr f
  let s1 := s.cinc Reg.SURVEY_CNT x.pipe [3 + reason]
  if x.origPort < 128 && x.pass == 0 then s1.cinc Reg.PORT_RX_CNT x.origPort [34] else s1

/-- The precedence of R199 among the codes that Survey and Legend produce, for a legend record that carries `e` of its walk. -/
def State.surveyExc (_s : State) (x : Frame) (lg : Nat) (len : Bool) : Nat :=
  let e := lgEXC lg
  if len then excLENGTH
  else if e == excTREE_ECC || e == excWALK_FAULT then e
  else if x.pass == 1 && lgFWD_TYPE lg == 5 then excRECIRC_LIMIT
  else if x.cm then excCM else e

/-- The record capture of R184. -/
def State.captureRecord (s : State) (n port : Nat) (r : List Byte) : State :=
  if (s.sv n).armed && s.rget Reg.SURVEY_CAP_PORT n == port then
    ((List.range 20).foldl (fun t w => t.rput Reg.SURVEY_CAP_RECORD (beNat (slice r (4 * w) 4)) n [w])
      (s.setSv n { s.sv n with armed := false })).rput Reg.SURVEY_DONE 1 n
  else s

/-- SURVEY_PARSE (R172, R194, R211): the parse of frame f completes, the walk gives its legend record, and the forwarding
stage runs; nothing happens while a byte that is needed has not arrived. A frame whose claim is unresolved, or that broke a
length check before its end, is held until its end (R176, R177). -/
def execSurveyParse (f : Nat) (s : State) : Out :=
  .next (
    let x := s.fr f
    let n := x.pipe
    let avail := x.body.length
    let p := parseFrame x.prog x.body avail x.ended x.depthB x.depthH
    if (sfind s.frames f).isNone || x.stage != 0 || x.prog.isEmpty || !s.domOn (8 + n) || p.waits then s
    else if p.rd.any (fun w => (s.sv n).lost.contains w) then
      ((s.cinc Reg.SURVEY_CNT n [13]).raise (817 + 8 * n)).discard f
    else
      let short := p.flags / 2 % 2 == 1
      let unmet := !short && decide (avail < p.claim) && !x.trunc
      let p1 : Parse := if x.ended && unmet then { p with flags := p.flags ||| 2, reason := 4 } else p
      let r := p1.finish x.origPort x.pass (progId x.prog) x.trunc
      let y := { x with record := r }
      let s0 := s.setFr f y
      let w := s0.legendWalk f
      if !x.ended && decide (avail < w.1.fwdNeeds y w.2) then s
      else
        let s1 := w.1.cinc Reg.SURVEY_CNT n [0]
        let s2 := if p.cause == 0 then s1 else s1.cinc Reg.SURVEY_CNT n [p.cause]
        let s3 := if bit p.flags 3 then s2.cinc Reg.SURVEY_CNT n [9]
          else if bit p.flags 2 then s2.cinc Reg.SURVEY_CNT n [8] else s2
        let s4 := s3.captureRecord n x.inPort r
        let len := p1.flags / 2 % 2 == 1
        let z := { s4.fr f with legend := w.2, claim := if !x.ended && unmet then some p.claim else none }
        if !x.ended && (len || (unmet && !x.lenLate)) then s4.setFr f { z with stage := 3 }
        else if x.ended && x.bad then (s4.setFr f z).discard f
        else
          let s5 := (s4.setFr f { z with legend := withExc w.2 (s4.surveyExc z w.2 len) })
          (if len then s5.countLength f p1.reason else s5).forwardOrWait f)

/-- What remains of a frame held until its end (R176, R177), now that it has ended with a good FCS: a claim that failed sets
LENGTH, the survey record follows, and the forwarding stage runs. -/
def State.forwardHeld (s : State) (f : Nat) : State :=
  let x := s.fr f
  let fl := beNat (slice x.record 0 2)
  let failed := match x.claim with | some c => decide (x.body.length < c) && !x.trunc | none => false
  let rs := if failed then 4 else beNat (slice x.record 6 1)
  let len := failed || bit fl 1
  let rec1 := overlay x.record 0 (beBytes 2 ((if len then fl ||| 2 else fl) ||| (if x.trunc then 32 else 0)))
  let y := { x with record := overlay rec1 6 (beBytes 1 rs), legend := withExc x.legend (s.surveyExc x x.legend len), claim := none, stage := 0 }
  let s1 := s.setFr f y
  (if len then s1.countLength f rs else s1).forwardOrWait f

/-- ADDR_EXT_READ_DONE (R216, R470): the extension bucket that frame f waits for has been read. With `ecc` the entry
of that way is uncorrectable: it reads as absent, and it is deleted at its next ageing visit. -/
def execAddrExtReadDone (f : Nat) (ecc : Option Nat) (s : State) : Out :=
  .next (
    let x := s.fr f
    if x.stage != 1 then s
    else
      let d := lgFWD_TARGET x.legend
      let sa := !x.extSa && s.learnMode x.inPort != 0 && x.field 6 1 % 2 == 0 && s.addrNeedsExt d (x.field 6 6)
      let ix := extIx d (if sa then x.field 6 6 else x.field 0 6)
      let s0 := match ecc with
        | some w =>
          let s1 := (s.lp4xUse false).lp4xEcc (s.rget Reg.CLOCKS_EXT_BASE * 2048 + 32 * (ix + w % 8 - addrChip))
          { s1 with poison := (s1.poison ++ [tabKey tADDR 0 (ix + w % 8)]).eraseDups }
        | none => s.lp4xUse false
      let s1 := s0.cinc Reg.FWD_CNT x.pipe [3]
      let y := { x with extSa := x.extSa || sa, noCut := true, stage := 0 }
      if sa && s1.addrNeedsExt d (x.field 0 6) then s1.setFr f { y with stage := 1 }
      else if x.ended && x.bad then (s1.setFr f y).discard f
      else (s1.setFr f y).forward f)

/-! ### Learning and ageing writes (R218, R219) -/

/-- LEARN_WRITE (R218): the oldest pending learning or ageing write is applied where the entry still holds what was read
(its HIT bit apart), else abandoned and counted in LEARN_RACE. -/
def execLearnWrite (s : State) : Out :=
  .next (match s.fwd.learn with
    | [] => s
    | w :: r =>
      let s1 : State := { s with fwd := { s.fwd with learn := r } }
      let e := s.tab tADDR 0 w.ix
      let d := aDOMAIN w.img
      let mac := aMAC w.img
      let clear (i : Nat) : Nat := imgSet 32 i 3 62 62 0
      let same := clear e == clear w.old && !(w.kind == 0 && (s.addrFind d mac).isSome) && !(w.kind == 3 && aHIT e)
      if same then
        (let s2 := if addrChip ≤ w.ix then s1.lp4xUse true else s1
        match w.kind with
        | 3 => (s2.setAddr w.ix 0).cinc Reg.FWD_AGED
        | 4 => s2.setTab tADDR 0 w.ix (clear e)
        | _ => s2.setAddr w.ix w.img)
      else s1.cinc Reg.FWD_CNT w.pipe [8])

/-- AGE_VISIT (R219, R518): hardware ageing visits one entry: a poisoned one is deleted; a valid, unlocked one without HIT is
deleted; every other one has its HIT cleared. -/
def execAgeVisit (ix : Nat) (s : State) : Out :=
  .next (
    let e := s.tab tADDR 0 ix
    let u := if addrChip ≤ ix then s.lp4xUse false else s
    if s.rget Reg.FWD_AGE_PERIOD == 0 || tabEntries tADDR ≤ ix then s
    else if s.poisoned tADDR 0 ix then
      (let s1 := u.setAddr ix 0
       if aVALID e then s1.cinc Reg.FWD_AGED else s1)
    else if aVALID e && !aLOCK e && !aHIT e then u.queueLearn ⟨ix, e, 0, 0, 3⟩
    else if aHIT e then u.queueLearn ⟨ix, e, imgSet 32 e 3 62 62 0, 0, 4⟩ else u)

/-! ### Programs and versions -/

/-- PROG_SWITCH (R182): a pipe switches to its loaded program; a LOADP whose pipes have all switched completes, and one that waits for
earlier loads of its pipes writes their shadow banks. -/
def execProgSwitch (pipe : Nat) (s : State) : Out :=
  .next (
    let s1 := s.progSwitch pipe
    s1.waiters.foldl (fun t w => match w.2.kind with
      | .loadp ps none => if ps.all (fun p => !t.ron Reg.SURVEY_LOADING p) then t.endWait w.1 stOK else t
      | .loadp ps (some img) =>
        if ps.all (fun p => !t.ron Reg.SURVEY_LOADING p) then
          (ps.foldl (fun u p => u.loadShadow p img) t).setThr w.1 { t.thr w.1 with wait := some { w.2 with kind := .loadp ps none } }
        else t
      | _ => t) s1)

/-- VERSION_RETIRE (R203): a slot that can retire does, and a VWAIT for it completes. -/
def execVersionRetire (rset slot : Nat) (s : State) : Out :=
  .next (
    if s.treeOn && decide (rset < 64) && decide (slot < 4) && s.canRetire rset slot then
      let s1 := s.legApply (fun m => m.retire rset slot)
      s1.waiters.foldl (fun t w => match w.2.kind with
        | .vwait r k any => if r == rset && (if any then (t.freeSlot r).isSome else t.inflight r k == 0) then t.endWait w.1 stOK else t
        | _ => t) s1
    else s)

end Sys2Proof.Machine
end

