-- ==== Sys2Proof/Machine/Plait.lean ====
section
/-! DEFINITION. Plait (chapter 13): image checks (R309, R310), symbol timing (R318), drains (R311), frames taken (R313 to R317, R321),
windows and output frames (R320, R323, R324): the meanings of PLAIT_TAKE, WINDOW_OPEN and WINDOW_CLOSE. -/

namespace Sys2Proof.Machine

open Sys2Proof

/-! ### Images (R308) -/

/-- Field of an image: 64-bit word w, bits hi..lo. -/
def plF (img w hi lo : Nat) : Nat := imgF 128 img w hi lo

def plMU (i : Nat) : Nat := plF i 0 63 62
def plSYMS (i : Nat) : Nat := plF i 0 61 58
def plPRBS (i : Nat) : Nat := plF i 0 57 49
def plBFP (i : Nat) : Bool := plF i 0 48 48 == 1
def plW (i : Nat) : Nat := plF i 0 47 43
def plSHIFT (i : Nat) : Nat := plF i 0 42 39
def plNCONTRIB (i : Nat) : Nat := plF i 0 38 34
def plMIN (i : Nat) : Nat := plF i 0 33 29
def plNOUT (i : Nat) : Nat := plF i 0 28 27
def plOPEN (i : Nat) : Int := signed 32 (plF i 1 63 32)
def plCLOSE (i : Nat) : Int := signed 32 (plF i 1 31 0)
def plEPOCH (i : Nat) : Nat := plF i 2 63 16
/-- Output section j: identifier, first PRB, PRBs. -/
def plSection (i j : Nat) : Nat × Nat × Nat := let w := imgBytes 128 i (32 + 4 * j) 4; (bits w 31 20, bits w 19 10, bits w 9 1)
/-- PC_ID and gain of contributor c. -/
def plPcId (i c : Nat) : Nat := bits (imgBytes 128 i (64 + 4 * c) 4) 31 16
def plGain (i c : Nat) : Int := signed 16 (imgBytes 128 i (64 + 4 * c) 4)

/-- `D_min` of a numerology (R318). -/
def plDmin : Nat → Nat
  | 0 => 71354 | 1 => 35677 | 2 => 17838 | _ => 8919

/-- The footprint of an image (R310). -/
def plFoot (i : Nat) : Nat := plPRBS i * 12 * plSYMS i * 6

/-- The checks of R309 on an image. -/
def plOk (i : Nat) : Bool :=
  let n := plNCONTRIB i
  let secs := (List.range (plNOUT i + 1)).map (plSection i)
  let ids := (List.range n).map (plPcId i)
  let port := plF i 3 15 8
  decide (1 ≤ plSYMS i) && decide (plSYMS i ≤ 14) && decide (1 ≤ plPRBS i) && decide (plPRBS i ≤ 275) &&
  decide (8 ≤ plW i) && decide (plW i ≤ 16) && (plBFP i || plW i == 16) && decide (plSHIFT i ≤ 8) &&
  decide (1 ≤ n) && decide (n ≤ 16) && decide (1 ≤ plMIN i) && decide (plMIN i ≤ n) && plF i 0 26 0 == 0 &&
  decide (plOPEN i < plCLOSE i) && decide (plCLOSE i - plOPEN i ≤ ((plSYMS i * plDmin (plMU i) : Nat) : Int) - 1000) &&
  plF i 2 15 0 == 0 && plF i 3 30 26 == 0 && plF i 3 7 0 == 0 && decide (port ≤ 151) &&
  plF i 6 63 0 == 0 && plF i 7 63 0 == 0 &&
  (List.range 4).all (fun j => decide (j ≤ plNOUT i) || imgBytes 128 i (32 + 4 * j) 4 == 0) &&
  (List.range 4).all (fun j => !bit (imgBytes 128 i (32 + 4 * j) 4) 0) &&
  (List.range 16).all (fun c => decide (c < n) || imgBytes 128 i (64 + 4 * c) 4 == 0) &&
  decide (ids.eraseDups.length = n) &&
  secs.all (fun e => decide (1 ≤ e.2.2) && decide (e.2.1 + e.2.2 ≤ plPRBS i) &&
    decide (20 + e.2.2 * (if plBFP i then 1 + 3 * plW i else 48) ≤ 9600)) &&
  (List.range secs.length).all (fun a => (List.range a).all (fun b =>
    let x := secs[a]?.getD (0, 0, 0)
    let y := secs[b]?.getD (0, 0, 0)
    decide (x.2.1 + x.2.2 ≤ y.2.1) || decide (y.2.1 + y.2.2 ≤ x.2.1)))

/-- Two images have the same geometry (R311). -/
def plSameGeometry (a b : Nat) : Bool :=
  plMU a == plMU b && plSYMS a == plSYMS b && plPRBS a == plPRBS b && plEPOCH a == plEPOCH b && plOPEN a == plOPEN b && plCLOSE a == plCLOSE b

/-! ### Symbol timing (R318) -/

/-- `ns(ts(i))` of R318: the start of symbol i within its half subframe, in ns. -/
def plSymNs (mu i : Nat) : Nat := (if i == 0 then 0 else 16 + i * (2192 / 2 ^ mu)) * 3125 / 96

/-- Start of a symbol relative to the start of its radio frame, in ns; j counts the symbols of the subframe. -/
def plOffset (mu subframe j : Nat) : Nat :=
  let h := j / (7 * 2 ^ mu)
  subframe * 1000000 + h * 500000 + plSymNs mu (j % (7 * 2 ^ mu))

/-- The symbol that a timing header names at take time `t`: its start relative to `AIR_EPOCH`, and its number. -/
def plSymbol (img t frame subframe slot symbol : Nat) : Int × Int :=
  let mu := plMU img
  let j := slot * 14 + symbol
  let off : Int := (plOffset mu subframe j : Nat)
  let d := diff48 t (plEPOCH img)
  let m := (d - ((10000000 * frame : Nat) : Int) - off + 1280000000) / 2560000000
  let kf : Int := (frame : Nat) + 256 * m
  (10000000 * kf + off, kf * ((140 * 2 ^ mu : Nat) : Int) + ((subframe * 14 * 2 ^ mu + j : Nat) : Int))

/-- The latest instant not later than `t` at which a window of an image opens. -/
def plLastOpen (img t : Nat) : Nat :=
  let mu := plMU img
  let d := diff48 t (plEPOCH img) - plOPEN img
  let half := d / 500000
  let r := d % 500000
  let m : Nat := ((List.range (7 * 2 ^ mu)).map (plSymNs mu)).foldl (fun (a : Nat) (x : Nat) => if ((x : Nat) : Int) ≤ r then max a x else a) 0
  wrapInt 48 ((plEPOCH img : Nat) + half * 500000 + (m : Nat) + plOPEN img)

/-- The length of a window. -/
def plSpan (img : Nat) : Int := plCLOSE img - plOPEN img

/-! ### Contexts -/

/-- A context. -/
def State.pc (s : State) (x : Nat) : PlaitCtx := sget (fun _ => {}) s.plait x
/-- Replaces it. -/
def State.setPc (s : State) (x : Nat) (c : PlaitCtx) : State := { s with plait := sset (fun _ => {}) s.plait x c }

/-- A context drains (R311). -/
def PlaitCtx.draining (c : PlaitCtx) : Bool := c.disabling || c.next.isSome

/-- The footprint that a context occupies (R310). -/
def PlaitCtx.foot (c : PlaitCtx) : Nat :=
  (match c.img with | some i => plFoot i | none => 0) + (match c.next with | some i => plFoot i | none => 0)

/-- When a drain ends: the last window open at its start has closed and its output frames have left. -/
def PlaitCtx.drainEnd (c : PlaitCtx) (img : Nat) : Nat :=
  let e := wrapInt 48 ((plLastOpen img c.drainFrom : Nat) + plSpan img)
  let e1 := if laterThan e c.drainFrom then e else c.drainFrom
  c.busy.foldl (fun a b => if laterThan b.2 a then b.2 else a) e1

/-- What the passing of time has made of a context (R311): a disable or a geometry change whose windows have all emitted. -/
def State.plaitSettle (s : State) (x : Nat) : State :=
  let c := s.pc x
  match c.img with
  | none => s
  | some i =>
    if !c.draining || !c.wins.isEmpty || !s.domOn (27 + x / 64) || !s.reached (c.drainEnd i) then s
    else match c.next with
    | some n =>
      if c.disabling then s.setPc x { seq := c.seq }
      else if laterThan (c.drainEnd i) (plLastOpen n s.short) then s
      else s.setPc x { c with img := some n, prevs := [], next := none, noBefore := some (c.drainEnd i), busy := [] }
    | none => s.setPc x { seq := c.seq }

/-- The image that governs a window opening at an instant (R311). -/
def PlaitCtx.imgAt (c : PlaitCtx) (w : Nat) : Option Nat :=
  match c.prevs.find? (fun e => laterThan e.2 w) with
  | some e => some e.1
  | none => c.img

/-- Sets a cause bit of an engine and raises its event (R328). -/
def State.plaitCause (s : State) (k : Nat) (r : Row) : State :=
  (s.rput r 1 0 [k]).raise ((if r.lo ≤ 4 then 945 else if r.lo ≤ 6 then 946 else if r.lo ≤ 11 then 947 else 944) + 4 * k)

/-- Counts in an engine. -/
def State.plaitCnt (s : State) (k i n : Nat) : State := if n == 0 then s else s.cadd Reg.PLAIT_CNT n 0 [k, i]

/-! ### Sections (R316, R317, R321) -/

/-- A section header and where its PRB data begin. -/
structure PlSect where
  first : Nat
  num : Nat
  bfp : Bool
  w : Nat
  data : Nat
  deriving DecidableEq, Repr

/-- The bytes of a PRB of a section. -/
def PlSect.prbBytes (e : PlSect) : Nat := if e.bfp then 1 + 3 * e.w else 48

/-- Parses the sections from byte `p` to `last`: those before the first that breaks R316, and whether one did. -/
def parseSections (img : Nat) (d : List Byte) (last : Nat) : Nat → Nat → List PlSect × Bool
  | 0, _ => ([], false)
  | n + 1, p =>
    if last ≤ p then ([], false)
    else if last < p + 8 then ([], true)
    else
      let h := beNat (slice d p 8)
      let e : PlSect := ⟨bits h 51 42, bits h 41 33, bit h 32, bits h 31 27, p + 8⟩
      if bits h 26 0 == 0 && decide (1 ≤ e.num) && decide (e.num ≤ 275) && decide (e.first + e.num ≤ plPRBS img) &&
          decide (8 ≤ e.w) && decide (e.w ≤ 16) && (e.bfp || e.w == 16) && decide (e.data + e.num * e.prbBytes ≤ last) then
        let r := parseSections img d last n (e.data + e.num * e.prbBytes)
        (e :: r.1, r.2)
      else ([], true)

/-- The 24 values of a PRB, none where its exponent byte is illegal (R317). -/
def prbValues (e : PlSect) (d : List Byte) (p : Nat) : Option (List Int) :=
  if e.bfp then
    let x := ((slice d p 1).headD 0).toNat
    if 24 - e.w < x % 16 || 16 ≤ x then none
    else
      let all := beNat (slice d (p + 1) (3 * e.w))
      some ((List.range 24).map (fun k => signed e.w (all / 2 ^ (e.w * (23 - k))) * ((2 ^ (x % 16) : Nat) : Int)))
  else some ((List.range 24).map (fun k => signed 16 (beNat (slice d (p + 2 * k) 2))))

/-- Clamps a value. -/
def clampInt (lo hi v : Int) : Int := if v < lo then lo else if hi < v then hi else v

/-- Adds a PRB's values into the accumulators; the number of values clipped. -/
def addPrb (g : Int) (prb : Nat) (vs : List Int) (acc : Sparse Int) : Sparse Int × Nat :=
  (vs.zip (List.range 24)).foldl (fun a v =>
    let k := 24 * prb + v.2
    let sum := sget (fun _ => 0) a.1 k + (v.1 * g + 0x4000) / 32768
    let c := clampInt (-(8388608 : Int)) 8388607 sum
    (sset (fun _ => 0) a.1 k c, if c == sum then a.2 else a.2 + 1)) (acc, 0)

/-- Accumulates a section of contributor c: accumulators, PRBs added, illegal PRBs, values clipped. -/
def addSection (g : Int) (e : PlSect) (d : List Byte) (acc : Sparse Int) : Sparse Int × Nat × Nat × Nat :=
  (List.range e.num).foldl (fun a i =>
    match prbValues e d (e.data + i * e.prbBytes) with
    | none => (a.1, a.2.1, a.2.2.1 + 1, a.2.2.2)
    | some vs => let r := addPrb g (e.first + i) vs a.1; (r.1, a.2.1 + 1, a.2.2.1, a.2.2.2 + r.2)) (acc, 0, 0, 0)

/-- How a section's window stands at take time (R311, R319). -/
inductive WinTest where
  | noWindow | early | late | open_
  deriving DecidableEq, Repr

/-- The test of R319 for the window of a symbol that starts at S and uses buffer b. -/
def State.winTest (s : State) (c : PlaitCtx) (img S b : Nat) : WinTest :=
  let w := wrapInt 48 ((S : Nat) + plOPEN img)
  let cl := wrapInt 48 ((S : Nat) + plCLOSE img)
  let prevented := (c.draining && !laterThan c.drainFrom w) || (match c.noBefore with | some n => laterThan n w | none => false)
  if prevented then .noWindow
  else if !s.reached w || (match c.earlyBefore with | some n => laterThan n w | none => false) then .early
  else if s.reached cl then .late
  else if c.wins.any (fun x => x.buf == b && x.start != S) then .early
  else match sfind c.busy b with
  | some u => if s.reached u then .open_ else .early
  | none => .open_

/-- The sections of a frame of contributor c are accumulated into the window that starts at S. -/
def State.plaitAccumulate (s : State) (k x f c img S b timing : Nat) (secs : List PlSect) : State :=
  let cx := s.pc x
  let fr := s.fr f
  let d := fr.body
  let app := ((recordBases fr.record)[6]?.getD none).getD 0
  let w0 : PlaitWin := match cx.wins.find? (fun w => w.start == S) with
    | some w => w
    | none => { img := img, start := S, buf := b, tmpl := d.take app, timing := timing, record := fr.record }
  let r := secs.foldl (fun (a : Sparse Int × Nat × Nat × Nat) e =>
    let q := addSection (plGain img c) e d a.1
    (q.1, a.2.1 + q.2.1, a.2.2.1 + q.2.2.1, a.2.2.2 + q.2.2.2)) (w0.acc, 0, 0, 0)
  let w1 := { w0 with acc := r.1, present := w0.present ||| 2 ^ c }
  let s1 := s.setPc x { cx with wins := cx.wins.filter (fun w => w.start != S) ++ [w1] }
  let s2 := (s1.plaitCnt k 2 r.2.1).plaitCnt k 10 r.2.2.2
  let s3 := if r.2.2.2 == 0 then s2 else s2.plaitCause k Reg.PLAIT_SATURATED
  if r.2.2.1 == 0 then s3 else (s3.plaitCnt k 3 r.2.2.1).plaitCause k Reg.PLAIT_FMT_ERR

/-- A counter word of a stream that saturates. -/
def State.plaitStream (s : State) (r : Row) (k st n : Nat) : State :=
  s.rput r (min (s.rget r 0 [k, st] + n) 0xFFFFFFFF) 0 [k, st]

/-- A taken frame is checked and its sections act (R314 to R321). -/
def State.plaitFrame (s : State) (k x f : Nat) : State :=
  let c := s.pc x
  let fr := s.fr f
  let d := fr.body
  let drop (i : Nat) (r : Row) : State := (s.plaitCnt k i 1).plaitCause k r
  match c.img with
  | none => drop 5 Reg.PLAIT_CTX_OFF
  | some cur =>
    match (recordBases fr.record)[6]?.getD none with
    | none => drop 3 Reg.PLAIT_FMT_ERR
    | some app =>
      let h := beNat (slice d app 4)
      let t := beNat (slice d (app + 8) 4)
      let mu := plMU cur
      if decide (96 < app) || bits h 31 28 != 1 || bit h 24 || bits h 23 16 != 0 || bits t 31 28 != 1 || decide (9 < bits t 19 16) ||
          decide (2 ^ mu ≤ bits t 15 10) || decide (13 < bits t 9 6) || bits t 5 0 != 0 then drop 3 Reg.PLAIT_FMT_ERR
      else
        let sy := plSymbol cur s.short (bits t 27 20) (bits t 19 16) (bits t 15 10) (bits t 9 6)
        let S := wrapInt 48 ((plEPOCH cur : Nat) + sy.1)
        let b := (sy.2 % ((plSYMS cur : Nat) : Int)).toNat
        let img := (c.imgAt (wrapInt 48 ((S : Nat) + plOPEN cur))).getD cur
        match (List.range (plNCONTRIB img)).find? (fun j => plPcId img j == beNat (slice d (app + 4) 2)) with
        | none => drop 4 Reg.PLAIT_UNKNOWN
        | some j =>
          let last := min (app + 4 + bits h 15 0) d.length
          let ps := parseSections img d last 1200 (app + 12)
          let n := ps.1.length
          let s1 := (s.plaitCnt k 0 1).plaitCnt k 1 n
          let s2 := if n == 0 then s1 else match s.winTest c img S b with
            | .noWindow => (s1.plaitCnt k 6 n).plaitCause k Reg.PLAIT_NO_WINDOW
            | .early => ((s1.plaitCnt k 8 n).plaitStream Reg.PLAIT_CTX_EARLY k (x % 64) n).plaitCause k Reg.PLAIT_EARLY
            | .late => ((s1.plaitCnt k 9 n).plaitStream Reg.PLAIT_CTX_LATE k (x % 64) n).plaitCause k Reg.PLAIT_LATE
            | .open_ => s1.plaitAccumulate k x f j img S b t ps.1
          if ps.2 then (s2.plaitCnt k 3 1).plaitCause k Reg.PLAIT_FMT_ERR else s2

/-- PLAIT_TAKE (R313): engine k takes the oldest frame of its input buffer, once all its cells are there. -/
def execPlaitTake (k : Nat) (s : State) : Out :=
  .next (match sget (fun _ => []) s.plaitIn k with
    | [] => s
    | e :: r =>
      let x := s.fr e.f
      if 4 ≤ k || !s.works (27 + k) || !x.ended || e.cells < ceilDiv x.len 256 then s
      else
        let s1 : State := { s with plaitIn := sset (fun _ => []) s.plaitIn k r }
        let s2 := if x.bad || x.trunc || e.bad then (s1.plaitCnt k 7 1).plaitCause k Reg.PLAIT_FCS
          else (s1.plaitSettle e.ctx).plaitFrame k e.ctx e.f
        s2.reap e.f)

/-- WINDOW_OPEN (R311): a window boundary of context x; an image whose drain has ended comes into use. -/
def execWindowOpen (x : Nat) (s : State) : Out := .next (if x < 256 then s.plaitSettle x else s)

/-! ### Emission (R320, R323, R324) -/

/-- The recompressed bytes of a PRB and the number of values clipped (R323). -/
def emitPrb (img prb : Nat) (acc : Sparse Int) : List Byte × Nat :=
  let sh := plSHIFT img
  let v := (List.range 24).map (fun k =>
    let a := sget (fun _ => (0 : Int)) acc (24 * prb + k)
    if sh == 0 then a else (a + ((2 ^ (sh - 1) : Nat) : Int)) / ((2 ^ sh : Nat) : Int))
  let narrow (w : Nat) (m : Int) : Int := clampInt (-((2 ^ (w - 1) : Nat) : Int)) (((2 ^ (w - 1) : Nat) : Int) - 1) m
  let w := plW img
  if !plBFP img then
    let y := v.map (narrow 16)
    (y.flatMap (fun q => beBytes 2 (wrapInt 16 q)), ((v.zip y).filter (fun p => p.1 != p.2)).length)
  else
    let fitsAt (e : Nat) : Bool := v.all (fun q => let z := q / ((2 ^ e : Nat) : Int); narrow w z == z)
    let e := ((List.range 15).find? fitsAt).getD 15
    let m := v.map (fun q => if e == 0 then q else (q + ((2 ^ (e - 1) : Nat) : Int)) / ((2 ^ e : Nat) : Int))
    let y := m.map (narrow w)
    let packed := y.foldl (fun a q => a * 2 ^ w + wrapInt w q) 0
    (BitVec.ofNat 8 e :: beBytes (3 * w) packed, ((m.zip y).filter (fun p => p.1 != p.2)).length)

/-- The checksum of a UDP datagram at l4 over the L3 header at l3, its own field taken as 0; 0 is sent as 0xFFFF. -/
def udpSum (d : List Byte) (l3 l4 : Nat) : Nat :=
  let n := d.length - l4
  let ps := if ((slice d l3 1).headD 0).toNat / 16 == 6 then slice d (l3 + 8) 32 ++ beBytes 4 n ++ [0, 0, 0, 17]
    else slice d (l3 + 12) 8 ++ [0, 17] ++ beBytes 2 n
  let c := inetSum (ps ++ overlay (d.drop l4) 6 [0, 0])
  if c == 0 then 0xFFFF else c

/-- Recomputes the lengths and checksums of the encapsulation (R323). -/
def fixHeaders (record : List Byte) (d : List Byte) : List Byte :=
  let l3 := (recordBases record)[1]?.getD none
  let l4 := (recordBases record)[2]?.getD none
  let d1 := match l3 with
    | none => d
    | some o =>
      let vb := ((slice d o 1).headD 0).toNat
      if vb / 16 == 4 then
        let a := overlay d (o + 2) (beBytes 2 (d.length - o))
        overlay a (o + 10) (beBytes 2 (inetSum (overlay (slice a o (4 * (vb % 16))) 10 [0, 0])))
      else if vb / 16 == 6 then overlay d (o + 4) (beBytes 2 (d.length - o - 40)) else d
  match l3, l4 with
  | some o, some q =>
    if isUdp d1 (some o) then
      let a := overlay d1 (q + 4) (beBytes 2 (d1.length - q))
      overlay a (q + 6) (beBytes 2 (udpSum a o q))
    else d1
  | _, _ => d1

/-- Output section j of a window, without FCS, and the number of values clipped. -/
def outFrame (w : PlaitWin) (j seq : Nat) : List Byte × Nat :=
  let e := plSection w.img j
  let prbs := (List.range e.2.2).map (fun i => emitPrb w.img (e.2.1 + i) w.acc)
  let data := prbs.flatMap (·.1)
  let size := 16 + data.length
  let hd := beBytes 4 (0x10000000 + size) ++ beBytes 2 (plF w.img 3 47 32) ++ beBytes 1 seq ++ [0x80] ++ beBytes 4 w.timing ++
    beBytes 8 (e.1 * 2 ^ 52 + e.2.1 * 2 ^ 42 + e.2.2 * 2 ^ 33 + b2n (plBFP w.img) * 2 ^ 32 + plW w.img * 2 ^ 27)
  (fixHeaders w.record (w.tmpl ++ hd ++ data), (prbs.map (·.2)).sum)

/-- Emits output section j: the frame, its delivery on the context's queue, its counts. -/
def State.emitSection (s : State) (x : Nat) (w : PlaitWin) (j : Nat) : State :=
  let k := x / 64
  let e := plSection w.img j
  if w.badPrb.any (fun p => decide (e.2.1 ≤ p) && decide (p < e.2.1 + e.2.2)) then s
  else
    let c := s.pc x
    let o := outFrame w j c.seq
    let port := plF w.img 3 15 8
    let b := pipeOfPort port
    let f := s.nextFrame
    let lg := if plF w.img 3 31 31 == 1 then 2 ^ 46 + plF w.img 3 25 16 * 2 ^ 36 else 0
    let fr : Frame := { inPort := 160 + k, origPort := 160 + k, pipe := b, data := o.1 ++ leBytes 4 (crc32 o.1), ended := true,
                        len := o.1.length + 4, how := 3, record := w.record, legend := lg, stage := 2, fate := some true, tokened := true }
    let s0 := s.setPc x { c with seq := (c.seq + 1) % 256 }
    let s1 : State := { s0 with nextFrame := f + 1, frames := sins s0.frames f fr }
    let s2 := if o.2 == 0 then s1 else (s1.plaitCnt k 16 o.2).plaitCause k Reg.PLAIT_OUT_CLIP
    let t : Target := { port := port, queue := plF w.img 3 63 48 }
    let s3 := if s2.works (16 + b) && s2.works 24 then s2.deliver f (8 + k) [t] none else s2.noteRefused f b t
    (if (s3.copy f b).refs == 0 then s3 else s3.plaitCnt k 14 1).reap f

/-- WINDOW_CLOSE (R320): the oldest live window of context x whose close has come. -/
def execWindowClose (x : Nat) (s : State) : Out :=
  .next (
    let k := x / 64
    let c := s.pc x
    let due (w : PlaitWin) : Bool := s.reached (wrapInt 48 ((w.start : Nat) + plCLOSE w.img))
    let oldest := (c.wins.filter due).foldl (fun (a : Option PlaitWin) w =>
      match a with | some b => if laterThan b.start w.start then some w else a | none => some w) none
    if 256 ≤ x || !s.domOn (27 + k) then s
    else match oldest with
    | none => s
    | some w =>
      let miss := (List.range (plNCONTRIB w.img)).filter (fun j => !bit w.present j)
      let n := plNCONTRIB w.img - miss.length
      let s1 := s.plaitCnt k 11 1
      let s2 := if miss.isEmpty then s1 else (s1.plaitCnt k 12 miss.length).plaitCause k Reg.PLAIT_MISSING
      let st := x % 64
      let s3 := miss.foldl (fun t j =>
        if st < 32 then t.sinc Reg.PLAIT_MISS_1000 0 [k, st, j] else t.sinc Reg.PLAIT_MISS_2000 0 [k, st - 32, j]) s2
      let s4 := (s3.rput Reg.PLAIT_LAST_PRESENT n 0 [k, st]).rput Reg.PLAIT_LAST_MASK w.present 0 [k, st]
      let secs := List.range (plNOUT w.img + 1)
      let total := (secs.map (fun j => (plSection w.img j).2.2)).sum
      let until_ := (s.short + ceilDiv ((16 + ceilDiv (12 * total) 16) * 5) 8) % 2 ^ 48
      let s5 := s4.setPc x { c with wins := c.wins.filter (fun v => v.start != w.start),
                                    busy := if plMIN w.img ≤ n then sins c.busy w.buf until_ else sdel c.busy w.buf }
      if plMIN w.img ≤ n then secs.foldl (fun t j => t.emitSection x w j) s5
      else (s5.plaitCnt k 13 1).plaitCause k Reg.PLAIT_SUPPRESSED)

end Sys2Proof.Machine
end

