-- ==== Sys2Proof/Machine/Events.lean ====
section
/-! DEFINITION. Events, MSI-X and Tally: the meanings of STATUS_CLEAR, COALESCE_END, MSIX_MESSAGE, BUS_MASTER_ENABLE,
TALLY_PERIOD, TALLY_ENTRY_WRITTEN and TALLY_SNAPSHOT_AT_TIME (R363, R364, R413 to R418, R421 to R431). -/

namespace Sys2Proof.Machine

open Sys2Proof

/-! ### A write of a register that acts (R96, R97) -/

/-- A master's write to a register: nothing while PORST_N is asserted or where the master has no path to BAR0 (R103); refused as
R96 states; else merged and, unless the governing domain is in retention (R97: the action is held), acted on. -/
def State.guardWrite (s : State) (m : Master) (blk off : Nat) (v : Word) (act : State → Nat → State) : State :=
  let b := bankOf m
  let p : Place := ⟨blk, off, false⟩
  let inst := s.instOf b blk off
  let c := s.writeCause m.id b p inst none v.toNat 0xFFFFFFFF
  let addr := blk * 2 ^ 20 + off
  if s.boot.porst || !hasBar0 m then s
  else if c != 0 then s.refuseWrite m.id addr c
  else
    let s1 := s.mergeWrite b p inst v.toNat 0xFFFFFFFF
    match s.govern b blk off none with
    | some d => if s.dom d == 1 then s1.holdAction d blk inst off addr v.toNat else act s1 inst
    | none => act s1 inst

/-- STATUS_CLEAR (R413, R415): a write of STATUS_w clears the bits written 1. -/
def execStatusClear (m : Master) (w : Nat) (value : Word) (s : State) : Out :=
  .next (if w < 36 then s.guardWrite m 3 (0x100 + 4 * w) value (fun t _ => t.clearStatus w value.toNat) else s)

/-- COALESCE_END (R415): the quiet period of vector v ends; merged signals become one signal at its end, which is a signal
of v as any other (DEDUCED, log entry 20). -/
def execCoalesceEnd (v : Nat) (s : State) : Out :=
  .next (match (s.vec v).quietEnd with
    | some q =>
      if q ≤ s.now then
        let m := (s.vec v).merged
        let s1 := s.setVec v { s.vec v with quietEnd := none, merged := false }
        if m then s1.signalVec v else s1
      else s
    | none => s)

/-- The MSI-X table entry of a function's vector (R364): a 128-bit number, masked at reset as the PCI Express Base
Specification requires. -/
def State.msixEntry (s : State) (f v : Nat) : Nat := sget (fun _ => 2 ^ 96) s.msix (f * 64 + v)

/-- MSIX_MESSAGE (R364, R363): a pending, unmasked vector of a function that may issue requests sends its message, at most
one per microsecond; the message writes the entry's data at the entry's address. -/
def execMsixMessage (v : Nat) (s : State) : Out :=
  .next (
    let x := s.vec v
    let fn := s.vecFunc v
    let e := s.msixEntry (fn - 1) v
    let spaced := match x.lastSent with | some t => decide (t + us ≤ s.now) | none => true
    if x.pend && fn != 0 && s.mayIssue (fn - 1) && bits e 96 96 == 0 && spaced then
      (s.mwrite (hostKey (fn - 1) (bits e 63 0)) (leBytes 4 (bits e 95 64))).setVec v { x with pend := false, lastSent := some s.now }
    else s)

/-- BUS_MASTER_ENABLE (R363): a function's Bus Master Enable takes a value; `vfe` sets PF0's VF Enable (clearing it is a
function reset, FUNCTION_LEVEL_RESET). -/
def execBusMasterEnable (func : Nat) (bme vfe : Bool) (s : State) : Out :=
  .next (
    if func < 16 then
      ({ s with boot := { s.boot with bme := sset (fun _ => false) s.boot.bme func bme, vfe := s.boot.vfe || vfe } } : State).dropUnready
    else s)

/-! ### Tally (R423 to R425) -/

/-- The groups a snapshot captures: kinds enabled, domain on, ascending (R423, R424). -/
def State.tallyGroups (s : State) : List Nat :=
  ((List.range 16).filter (fun k => bit (s.rget Reg.TALLY_KINDS) k)).flatMap (fun k =>
    (groupsOfKind k).filter (fun g => match groupDomain g with | some d => s.domOn d | none => true))

/-- The ring has no room, or its path is not ready (R425). -/
def State.tallyFull (s : State) : Bool :=
  (s.rget Reg.TALLY_PROD + 2 ^ 32 - s.rget Reg.TALLY_CONS) % 2 ^ 32 == 2 ^ s.rget Reg.TALLY_SIZE_LOG2 || !s.tallyPath

/-- Takes a snapshot at the current instant, or discards it (R423, R425). The Bool says whether it was taken. -/
def State.tallySnap (s : State) : State × Bool :=
  if !s.ron Reg.TALLY_EN then (s, false)
  else if s.tally.held.isSome then (s.cinc Reg.TALLY_CNT 0 [2], false)
  else if s.tallyFull then (s.cinc Reg.TALLY_CNT 0 [1], false)
  else
    let gs := s.tallyGroups.map (fun g => (g, ((groupRefs g).getD []).map s.ctr))
    let s1 := s.cinc Reg.TALLY_CNT 0 [0]
    ({ s1 with tally := { s1.tally with held := some ⟨s.short, s.rget Reg.TALLY_KINDS, gs⟩ } }, true)

/-- TALLY_PERIOD (R423): at each PERIOD_US instant a snapshot is taken; the next instant follows without accumulated error. -/
def execTallyPeriod (s : State) : Out :=
  .next (match s.tally.nextAt with
    | some t =>
      if s.ron Reg.TALLY_EN && s.rget Reg.TALLY_PERIOD_US != 0 && s.reached t then
        let s1 := s.tallySnap.1
        { s1 with tally := { s1.tally with nextAt := some ((t + 1000 * s.rget Reg.TALLY_PERIOD_US) % 2 ^ 48) } }
      else s
    | none => s)

/-- The groups that fit in `room` words, and whether any was omitted (R424: a group that does not fit is omitted, with every
later one). -/
def fitGroups : Nat → List (Nat × List Nat) → List (Nat × List Nat) × Bool
  | _, [] => ([], false)
  | room, g :: r =>
    if g.2.length + 1 ≤ room then let q := fitGroups (room - (g.2.length + 1)) r; (g :: q.1, q.2) else ([], true)

/-- Writes a list of 64-bit words from a key on. -/
def State.mwriteWords (s : State) (k : Nat) (l : List Nat) : State := s.mwrite k (l.flatMap (leBytes 8))

/-- TALLY_ENTRY_WRITTEN (R424, R425): the held snapshot is written as the entry at PROD and PROD advances, or it is dropped
when the ring is full or its path not ready. -/
def execTallyEntryWritten (s : State) : Out :=
  .next (match s.tally.held with
    | none => s
    | some h =>
      let s0 : State := { s with tally := { s.tally with held := none } }
      if s.tallyFull then s0.cinc Reg.TALLY_CNT 0 [1]
      else
        let lg := s.rget Reg.TALLY_ENTRY_LOG2
        let prod := s.rget Reg.TALLY_PROD
        let sz := s.rget Reg.TALLY_SIZE_LOG2
        let idx := prod % 2 ^ sz
        let base := s.pget Reg.TALLY_RING_BASE + idx * 2 ^ lg
        let key := if s.ron Reg.TALLY_LOC then lp4xKey base else hostKey (s.rget Reg.TALLY_FUNC) base
        let fit := fitGroups (2 ^ lg / 8 - 8) h.groups
        let body := fit.1.flatMap (fun g => (g.1 * 2 ^ 48 + g.2.length * 2 ^ 32) :: g.2)
        let w7 := (1 - prod / 2 ^ sz % 2) * 2 ^ 63
        let s1 := s0.mwriteWords key [h.time, (s.tally.seq + 1) % 2 ^ 32 * 2 ^ 32 + 64 + 8 * body.length, b2n fit.2 * 2 ^ 16 + h.kinds, 0, 0, 0, 0]
        let s2 := (s1.mwriteWords (key + 64) body).mset64 (key + 56) w7
        let s2a := if s.ron Reg.TALLY_LOC then s2.lp4xUse true else s2
        let s3 := if fit.2 then s2a.cinc Reg.TALLY_CNT 0 [3] else s2a
        let s4 := s3.winc Reg.TALLY_PROD
        let s5 : State := { s4 with tally := { s4.tally with seq := (s.tally.seq + 1) % 2 ^ 32 } }
        if s5.ron Reg.TALLY_IRQ_EN then s5.signalVec (s5.rget Reg.TALLY_VEC) else s5)

/-- Takes the snapshot that waiting CSNAP instructions of an instant expect, and completes them (R86, R423, R425). -/
def State.tallyAtTime (s : State) : State :=
  let due := s.waiters.filterMap (fun p => match p.2.kind with
    | .csnap t _ => if s.reached t then some p.1 else none
    | _ => none)
  match due with
  | [] => s
  | l => let r := s.tallySnap; l.foldl (fun u t => u.endWait t (if r.2 then stOK else stFULL)) r.1

/-- TALLY_SNAPSHOT_AT_TIME (R423): the short time named by a waiting CSNAP with TALLY is reached. -/
def execTallySnapshotAtTime (s : State) : Out := .next s.tallyAtTime

end Sys2Proof.Machine
end

