-- ==== Sys2Proof/Machine/Ports.lean ====
section
/-! DEFINITION. Ethernet ports (chapter 5): statistics (R134), pause and its watchdog (R126 to R129), MAC-merge verification
(R125), entering and leaving UP (R130, R131, R276, R292), frames that fail after forwarding began (R121), and the link
state rows (R113 to R117, R119). -/

namespace Sys2Proof.Machine

open Sys2Proof

/-! ### Statistics (R134) -/

/-- Adds to receive counter i of a port. -/
def State.rxAdd (s : State) (p i n : Nat) : State := s.cadd Reg.PORT_RX_CNT n p [i]
/-- Adds to transmit counter i of a port. -/
def State.txAdd (s : State) (p i n : Nat) : State := s.cadd Reg.PORT_TX_CNT n p [i]

/-- The size bin of a length from 64 bytes on, none beyond 9,728. -/
def sizeBin (n : Nat) : Option Nat :=
  if n < 64 then none else if n == 64 then some 0 else if n ≤ 127 then some 1 else if n ≤ 255 then some 2
  else if n ≤ 511 then some 3 else if n ≤ 1023 then some 4 else if n ≤ 1518 then some 5 else if n ≤ 2047 then some 6
  else if n ≤ 4095 then some 7 else if n ≤ 9728 then some 8 else none

/-- The counter of a frame's destination address: 2 unicast, 3 multicast, 4 broadcast. -/
def castIx (d : List Byte) : Nat :=
  let a := slice d 0 6
  if beNat a == 2 ^ 48 - 1 then 4 else if (a.headD 0).toNat % 2 == 1 then 3 else 2

/-- A VLAN-tagged frame. -/
def isTagged (d : List Byte) : Bool := (tagOf d).1 != 0

/-- Counts a received frame of `n` bytes: all frames, and the good ones among them. -/
def State.rxStats (s : State) (p : Nat) (d : List Byte) (n : Nat) (good : Bool) : State :=
  let s1 := (s.rxAdd p 31 n).rxAdd p 32 1
  let s2 := match sizeBin n with | some b => s1.rxAdd p (22 + b) 1 | none => s1
  if good then
    let s3 := ((s2.rxAdd p 0 n).rxAdd p 1 1).rxAdd p (castIx d) 1
    if isTagged d then s3.rxAdd p 33 1 else s3
  else s2

/-- Counts a frame whose transmission ended, of `n` bytes. -/
def State.txStats (s : State) (p : Nat) (d : List Byte) (n : Nat) (good : Bool) : State :=
  let s1 := (s.txAdd p 27 n).txAdd p 28 1
  let s2 := match sizeBin n with | some b => s1.txAdd p (18 + b) 1 | none => s1
  if good then
    let s3 := ((s2.txAdd p 0 n).txAdd p 1 1).txAdd p (castIx d) 1
    if isTagged d then s3.txAdd p 29 1 else s3
  else s2

/-- A snapshot of the 87 counters of a port (R134): they are copied and cleared in one core cycle. -/
def State.portSnap (s : State) (p : Nat) : State :=
  let one (t : State) (r q : Row) (i : Nat) : State := (t.pput q (t.pget r p [i]) p [i]).pput r 0 p [i]
  let s1 := (List.range 40).foldl (fun t i => one (one t Reg.PORT_RX_CNT Reg.PORT_RX_SNAP i) Reg.PORT_TX_CNT Reg.PORT_TX_SNAP i) s
  (List.range 7).foldl (fun t i => one t Reg.PORT_FEC_CNT Reg.PORT_FEC_SNAP i) s1

/-- SNAP (R134): a write of STATS_CTL. -/
def execSnap (m : Master) (value : Word) (s : State) : Out :=
  .next (s.guardWrite m 6 0x120 value (fun t p => if bit value.toNat 0 then t.portSnap p else t))

/-! ### Pause units (R126, R127, R129) -/

/-- The units of a port: each class in PFC mode, the whole port (8) in PAUSE mode. -/
def PortX.unit (x : PortX) (u : Nat) : PauseX := sget (fun _ => {}) x.pause u
/-- Replaces a unit. -/
def PortX.setUnit (x : PortX) (u : Nat) (y : PauseX) : PortX := { x with pause := sset (fun _ => {}) x.pause u y }

/-- The status bits of a unit. -/
def unitMask (u : Nat) : Nat := if u == 8 then 255 else 2 ^ u

/-- Shows a field of PORT_STATUS from the units that satisfy a test. -/
def unitsMask (x : PortX) (g : PauseX → Bool) : Nat := (x.pause.filter (fun e => g e.2)).foldl (fun a e => a ||| unitMask e.1) 0

/-- PAUSED and HOLDOFF follow the units (R127, R129), and TX_PAUSED_US counts the microseconds in which some class was paused. -/
def State.showPause (s : State) (p : Nat) : State :=
  let x := s.px p
  let m := unitsMask x (·.paused)
  let s1 := (s.rput Reg.PORT_PAUSED m p).rput Reg.PORT_HOLDOFF (unitsMask x (·.held)) p
  match x.pausedSince with
  | some t => if m == 0 then (s1.setPx p { x with pausedSince := none }).txAdd p 36 ((s.now - t) / us) else s1
  | none => if m == 0 then s1 else s1.setPx p { x with pausedSince := some s.now }

/-- The core cycles of q quanta at a port's MAC rate, rounded up (R126: 512 bit times each). -/
def State.quanta (s : State) (p q : Nat) : Nat := ceilDiv (q * 4096) (5 * s.rate p)

/-- Sets, replaces or ends the timer of a unit (R126). -/
def State.setPause (s : State) (p u q : Nat) : State :=
  let x := s.px p
  let y := x.unit u
  let y1 := if q == 0 then { y with paused := false, expiry := 0 }
    else { y with paused := true, expiry := s.now + s.quanta p q, since := if y.paused then y.since else s.now }
  (s.setPx p (x.setUnit u y1)).showPause p

/-- A received PAUSE or PFC frame with a good FCS (R126, R129), or another MAC control frame (R120). -/
def State.macControl (s : State) (p : Nat) (d : List Byte) : State :=
  let op := beNat (slice d 14 2)
  let pfc := s.ron Reg.PORT_PFC p
  let act := s.ron Reg.PORT_RX_EN p
  if op == 1 && !(act && pfc) then
    let s1 := s.rxAdd p 7 1
    if !act || ((s.px p).unit 8).held then s1.rxAdd p 36 1 else s1.setPause p 8 (beNat (slice d 16 2))
  else if op == 0x101 && (!act || pfc) then
    let v := beNat (slice d 16 2) % 256
    let cs := (List.range 8).filter (fun c => bit v c)
    let s1 := cs.foldl (fun t c => t.rxAdd p (9 + c) 1) (s.rxAdd p 8 1)
    let en := cs.filter (fun c => bit (s.rget Reg.PORT_PFC_CLASS_EN p) c)
    if !act then s1.rxAdd p 36 1
    else
      let held := en.filter (fun c => ((s.px p).unit c).held)
      let s2 := if held.isEmpty then s1 else s1.rxAdd p 36 1
      (en.filter (fun c => !held.contains c)).foldl (fun t c => t.setPause p c (beNat (slice d (18 + 2 * c) 2))) s2
  else s.rxAdd p 17 1

/-- PAUSE_RECEIVE (R126): a MAC control frame with a good FCS has ended on port p; `d` is the frame from its destination
address on. -/
def execPauseReceive (p : Nat) (d : List Byte) (s : State) : Out :=
  .next (if p < 128 && s.portUp p && beNat (slice d 12 2) == 0x8808 then (s.rxStats p d d.length true).macControl p d else s)

/-- PAUSE_EXPIRY (R126): a pause timer runs out. -/
def execPauseExpiry (p u : Nat) (s : State) : Out :=
  .next (
    let y := (s.px p).unit u
    if p < 128 && y.paused && decide (y.expiry ≤ s.now) then s.setPause p u 0 else s)

/-- PAUSE_WDOG (R129): a unit has been paused for WDOG_TIME; the pause is broken and a hold-off starts. -/
def execPauseWdog (p u : Nat) (s : State) : Out :=
  .next (
    let x := s.px p
    let y := x.unit u
    let w := s.rget Reg.PORT_WDOG_TIME p
    if p < 128 && w != 0 && y.paused && !y.held && decide (y.since + w * ms ≤ s.now) then
      let y1 : PauseX := { y with paused := false, expiry := 0, held := true, holdEnd := s.now + s.rget Reg.PORT_WDOG_HOLD p * ms }
      (((s.setPx p (x.setUnit u y1)).showPause p).raise (6 * p + 4)).txAdd p 37 1
    else s)

/-- HOLDOFF_END (R129): a hold-off runs out. -/
def execHoldoffEnd (p u : Nat) (s : State) : Out :=
  .next (
    let x := s.px p
    let y := x.unit u
    if p < 128 && y.held && decide (y.holdEnd ≤ s.now) then (s.setPx p (x.setUnit u { y with held := false, holdEnd := 0 })).showPause p else s)

/-- A source is paused (R127): class c, or the express FIFO for 8. -/
def State.paused (s : State) (p c : Nat) : Bool :=
  let m := s.rget Reg.PORT_PAUSED p
  if c == 8 then (if s.ron Reg.PORT_PFC p then bit m (s.rget Reg.PORT_EXP_CLASS p) else m != 0) else bit m c

/-! ### Transmitted pause frames (R128, R248) -/

/-- Whether a class unit of port p is in XOFF after its charge is compared with the thresholds (R248). -/
def State.xoffNext (s : State) (p c : Nat) : Bool :=
  let ix := unitIx p c
  let xoff := s.rget Reg.SLATH_XOFF 0 ix
  let q := s.rget Reg.SLATH_CHARGE 0 ix
  xoff != 0 && (decide (xoff ≤ q) || (bit (s.px p).xoff c && decide (s.rget Reg.SLATH_XON 0 ix < q)))

/-- A pause request of a port changes with its XOFF units: a frame becomes due (R128). -/
def State.pauseRequest (s : State) (p : Nat) : State :=
  let x := s.px p
  let m := (List.range 8).foldl (fun a c => if s.xoffNext p c then a + 2 ^ c else a) 0
  if m == x.xoff then s
  else
    let ann := if s.ron Reg.PORT_PFC p then x.asked != m else (x.asked == 0) != (m == 0)
    s.setPx p { x with xoff := m, due := s.ron Reg.PORT_TX_EN p && s.portUp p && ann }

/-- The pause frame a port sends, without FCS (R128). -/
def State.pauseFrame (s : State) (p : Nat) : List Byte :=
  let x := s.px p
  let q := s.rget Reg.PORT_QUANTA p
  let hd := beBytes 6 0x0180C2000001 ++ beBytes 2 (s.rget Reg.PORT_MAC_ADDR_HI p) ++ beBytes 4 (s.rget Reg.PORT_MAC_ADDR p) ++ beBytes 2 0x8808
  let body := if s.ron Reg.PORT_PFC p then
      beBytes 2 0x101 ++ beBytes 2 (x.xoff ||| x.asked) ++ (List.range 8).flatMap (fun c => beBytes 2 (if bit x.xoff c then q else 0))
    else beBytes 2 1 ++ beBytes 2 (if x.xoff == 0 then 0 else q)
  slice (hd ++ body) 0 60

/-- PAUSE_REFRESH (R128): while a request holds, the frame is repeated every REFRESH quanta. -/
def execPauseRefresh (p : Nat) (s : State) : Out :=
  .next (
    let x := s.px p
    if p < 128 && s.portUp p && s.ron Reg.PORT_TX_EN p && x.asked != 0 && x.xoff != 0 && decide (x.refreshAt ≤ s.now) then
      s.setPx p { x with due := true, refreshAt := s.now + s.quanta p (s.rget Reg.PORT_REFRESH p) }
    else s)

/-! ### MAC merge (R125) -/

/-- Preemption may be used: PREEMPT_EN, and verification succeeded or disabled. -/
def State.preemptOn (s : State) (p : Nat) : Bool :=
  s.ron Reg.PORT_PREEMPT_EN p && (s.ron Reg.PORT_VERIFY_DIS p || s.rget Reg.PORT_VERIFY p == 2)

/-- `pmac` of R295. -/
def State.pmac (s : State) (p c : Nat) : Bool := s.preemptOn p && bit (s.rget Reg.PORT_PREEMPTABLE p) c

/-- Verification starts: the first verify frame is sent. -/
def State.verifyStart (s : State) (p : Nat) : State :=
  if s.ron Reg.PORT_PREEMPT_EN p && !s.ron Reg.PORT_VERIFY_DIS p then
    ((s.setPx p { s.px p with verifyTries := 1, verifyAt := s.now }).rput Reg.PORT_VERIFY 1 p).txAdd p 34 1
  else s.rput Reg.PORT_VERIFY 0 p

/-- VERIFY_TIMER (R125): the verify timer expires: another verify frame, or failure after 3 attempts. -/
def execVerifyTimer (p : Nat) (s : State) : Out :=
  .next (
    let x := s.px p
    if p < 128 && s.rget Reg.PORT_VERIFY p == 1 && decide (x.verifyAt + s.rget Reg.PORT_VERIFY_TIME p * ms ≤ s.now) then
      if x.verifyTries < 3 then (s.setPx p { x with verifyTries := x.verifyTries + 1, verifyAt := s.now }).txAdd p 34 1
      else s.rput Reg.PORT_VERIFY 3 p
    else s)

/-! ### Frames that fail (R121) -/

/-- Removes a frame's copies that have not begun transmission. -/
def State.purge (s : State) (f : Nat) : State :=
  let mine (i : Item) : Bool := i.f == f
  let qs := (s.queues.filter (fun e => (e.2.oc ++ e.2.pend ++ e.2.lp).any mine)).map (·.1)
  let s1 := qs.foldl (fun (t : State) q =>
    let x := t.q q
    let gone := (x.oc ++ x.pend ++ x.lp).filter mine
    let t1 := t.setQ q { x with oc := x.oc.filter (fun i => !mine i), pend := x.pend.filter (fun i => !mine i), lp := x.lp.filter (fun i => !mine i), deq := (x.deq + gone.length) % 2 ^ 32, lastUse := t.now }
    (gone.foldl (fun u i => u.release i) t1).noteEmpty q) s
  let s2 := (List.range 8).foldl (fun (t : State) b =>
    let g := t.pager b
    let gone := g.staged.filter mine
    if gone.isEmpty then t
    else gone.foldl (fun u i => u.release i) ((t.setPager b { g with staged := g.staged.filter (fun i => !mine i) }).rsub Reg.QUEUE_STAGED gone.length 0 [b])) s1
  let ps := (s2.ports.filter (fun e => e.2.ready.any (fun r => mine r.2) || e.2.exp.any (fun i => i.f == f))).map (·.1)
  ps.foldl (fun (t : State) p =>
    let x := t.px p
    let gone := (x.ready.filter (fun r => mine r.2)).map (·.2)
    let t1 := t.setPx p { x with ready := x.ready.filter (fun r => !mine r.2), exp := x.exp.filter (fun i => i.f != f) }
    gone.foldl (fun u i => u.release i) t1) s2

/-- Marks the transmissions of a frame whose copies must end with a corrupted FCS. -/
def State.stomp (s : State) (f : Nat) : State :=
  let g (t : Option Tx) : Option Tx := t.map (fun x => if x.kind != 2 && x.item.f == f then { x with bad := true } else x)
  { s with ports := smap (fun _ => {}) (fun _ x => { x with tx := g x.tx, pre := g x.pre }) s.ports }

/-- A frame that was being forwarded fails at its end (R121): copies in transmission are stomped, others discarded. -/
def State.failFrame (s : State) (f : Nat) : State :=
  let s1 := s.setFr f { s.fr f with bad := true, ended := true }
  let s2 := (s1.stomp f).purge f
  let x := s2.fr f
  if x.stage == 2 then s2.reap f else s2.discard f

/-! ### Leaving and entering UP -/

/-- The length of a transmission from the destination address to the FCS. -/
def State.txLen (s : State) (t : Tx) : Nat := if t.done then t.data.length + 4 else (s.fr t.item.f).data.length

/-- What a transmission held is released. -/
def State.txRelease (s : State) (t : Tx) : State :=
  match t.kind with | 0 => s.release t.item | 1 => s.reap t.item.f | _ => s

/-- A transmission is cut by link loss (R130, R433). -/
def State.txCut (s : State) (p : Nat) (o : Option Tx) : State :=
  match o with
  | none => s
  | some t =>
    let s1 := s.txAdd p 17 1
    let d := if t.done then t.data else (s.fr t.item.f).data
    let s2 := if t.kind == 2 then s1 else (let g := tagOf d; s1.token (p / 16) ⟨p, 1, false, g.1, g.2⟩ (s1.txLen t))
    s2.txRelease t

/-- The express FIFO of a port is flushed (R130). -/
def State.flushExpress (s : State) (p : Nat) : State :=
  let x := s.px p
  let s1 := (s.setPx p { x with exp := [] }).txAdd p 39 x.exp.length
  (x.exp.map (·.f)).foldl (fun t f => t.reap f) s1

/-- Every listed object below a port is rewritten. -/
def State.mapObjs (s : State) (p : Nat) (g : Obj → Obj) : State :=
  { s with objs := smap objDflt (fun k o => if s.portAbove k == some p then g o else o) s.objs }

/-- A port leaves UP (R130, R276). The new link state is set by the caller. -/
def State.leaveUp (s : State) (p : Nat) : State :=
  let x := s.px p
  let s1 := s.setPx p { x with tx := none, pre := none, rx := none }
  let s2 := (s1.txCut p x.tx).txCut p x.pre
  let s3 := match x.rx with | some f => (s2.rxAdd p 35 1).failFrame f | none => s2
  let s4 := s3.flushExpress p
  let y := s4.px p
  let s5 := (s4.setPx p { y with pause := [], verifyTries := 0, due := false, asked := 0 }).showPause p
  let h := s5.rget Reg.PORT_LINK_DOWN_HOLD p
  let s6 := ((s5.rput Reg.PORT_VERIFY 0 p).cinc Reg.PORT_FEC_CNT p [4]).raise (6 * p)
  if h == 0 then (s6.rput Reg.QUEUE_HOLD_STATE 0 0 [p]).flushPort p
  else
    let s7 := (s6.mapObjs p (fun o => o.refresh s6.short)).rput Reg.QUEUE_HOLD_STATE 1 0 [p]
    s7.setPx p { s7.px p with holdEnd := s7.now + h * us }

/-- The recovered-clock output is squelched (R356): no enabled Ethernet port in UP has the selected lane, nor an enabled CPRI lane
without LOS; with EN = 0 it reads 1 (DEDUCED from its reset value, log entry 43). -/
def State.rclkSquelched (s : State) : Bool :=
  let l := s.rget Reg.MERID_LANE
  if !s.ron Reg.MERID_EN then true
  else if l < 24 ∧ s.ron Reg.BRIDGE_EN l = true then bit (s.rget Reg.BRIDGE_DEFECTS l) 0
  else !(List.range 8).any (fun i => decide (i ≤ l) && (let p := l - i
    s.ron Reg.PORT_ENABLE p && decide (i < modeLanes (s.rget Reg.PORT_MODE p)) && s.portUp p))

/-- SQUELCHED follows its condition; each change raises RCLK_SQUELCH (R356). -/
def State.rclkSettle (s : State) : State :=
  let q := s.rclkSquelched
  if s.ron Reg.MERID_SQUELCHED == q || !s.domOn 41 then s else (s.rput Reg.MERID_SQUELCHED (b2n q)).raise 974

/-- A port leaves its link state for another; a DISABLED port receives nothing, so it shows no fault. -/
def State.linkTo (s : State) (p st : Nat) : State :=
  let was := s.rget Reg.PORT_LINK_STATE p
  let s1 := if was == 4 then s.leaveUp p else s
  let s2 := if st == 0 then (s1.rput Reg.PORT_LOCAL_FAULT 0 p).rput Reg.PORT_REMOTE_FAULT 0 p else s1
  let s3 := (s2.rput Reg.PORT_LINK_STATE st p).rput Reg.PORT_RESULT (if st == 1 then 1 else if st == 0 then 0 else s2.rget Reg.PORT_RESULT p) p
  (s3.setPx p { s3.px p with since := s3.now }).rclkSettle

/-- The state after a link is lost: AN with `AN` = 1, else LOCK (R116). -/
def State.anOrLock (s : State) (p : Nat) : Nat := if s.ron Reg.PORT_AN p then 1 else 3

/-- A port enters UP (R131, R276, R292). -/
def State.enterUp (s : State) (p frag : Nat) : State :=
  let t := s.short
  let wasHold := s.rget Reg.QUEUE_HOLD_STATE 0 [p] == 1
  let s1 := if wasHold then s.mapObjs p (fun o =>
      let o1 := { o with cTime := t, eTime := t }
      if o.wheel.isSome then o1.enter t else o1) else s
  let s2 := (((s1.rput Reg.QUEUE_HOLD_STATE 2 0 [p]).rput Reg.PORT_LINK_STATE 4 p).rput Reg.PORT_LOCAL_FAULT 0 p).rput Reg.PORT_REMOTE_FAULT 0 p
  let x := s2.px p
  let s3 := s2.setPx p { x with since := s2.now, partnerFrag := frag % 4, due := s2.ron Reg.PORT_TX_EN p && x.xoff != 0, rx := none }
  ((s3.verifyStart p).raise (6 * p)).rclkSettle

/-! ### Link state rows (R114 to R117) -/

/-- PORT_DISABLE_DONE (R128): the MAC has finished the frame in transmission after ENABLE went to 0. -/
def execPortDisableDone (p : Nat) (s : State) : Out :=
  .next (
    let x := s.px p
    if p < 128 && x.closing && x.tx.isNone && x.pre.isNone then
      let s1 := s.linkTo p 0
      s1.setPx p { s1.px p with closing := false }
    else s)

/-- AN_COMPLETE (R114): auto-negotiation ends with result 0 no common technology, 1 agreement, 2 another FEC. -/
def execAnComplete (p result : Nat) (s : State) : Out :=
  .next (
    if p < 128 && s.rget Reg.PORT_LINK_STATE p == 1 then
      if result == 1 then (s.linkTo p (if s.ron Reg.PORT_LT p then 2 else 3)).rput Reg.PORT_RESULT 2 p
      else if result == 2 then (s.rput Reg.PORT_RESULT 3 p).cinc Reg.PORT_FEC_CNT p [5] else s
    else s)

/-- LT_DONE (R115): link training of every lane completes, or a lane fails. -/
def execLtDone (p : Nat) (pass : Bool) (s : State) : Out :=
  .next (
    if p < 128 && s.rget Reg.PORT_LINK_STATE p == 2 then
      if pass then s.linkTo p 3
      else (s.linkTo p (if s.ron Reg.PORT_AN p then 1 else 2)).cinc Reg.PORT_FEC_CNT p [6]
    else s)

/-- LINK_UP (R116): locked without fault for LINK_UP_DB; `frag` is the partner's addFragSize. -/
def execLinkUp (p frag : Nat) (s : State) : Out :=
  .next (
    if p < 128 && s.rget Reg.PORT_LINK_STATE p == 3 && !(s.px p).closing &&
        decide ((s.px p).since + s.rget Reg.PORT_LINK_UP_DB p * ms ≤ s.now) then s.enterUp p frag else s)

/-- LOCK_TIMEOUT (R116): not locked 500 ms after entering LOCK. -/
def execLockTimeout (p : Nat) (s : State) : Out :=
  .next (if p < 128 && s.rget Reg.PORT_LINK_STATE p == 3 && decide ((s.px p).since + 500 * ms ≤ s.now) then s.linkTo p (s.anOrLock p) else s)

/-- LOCAL_FAULT (R116, R117): the onset of local fault; each onset raises the event (DEDUCED, log entry 140). -/
def execLocalFault (p : Nat) (s : State) : Out :=
  .next (
    let st := s.rget Reg.PORT_LINK_STATE p
    if 128 ≤ p || st == 0 then s
    else
      let s1 := (s.rput Reg.PORT_LOCAL_FAULT 1 p).raise (6 * p + 1)
      if st == 4 || st == 5 then s1.linkTo p (s1.anOrLock p) else s1)

/-- REMOTE_FAULT (R116, R117): remote-fault ordered sets are received; each onset raises the event, and in RFAULT the time without
remote fault starts anew (DEDUCED, log entry 140). -/
def execRemoteFault (p : Nat) (s : State) : Out :=
  .next (
    let st := s.rget Reg.PORT_LINK_STATE p
    if 128 ≤ p || st == 0 then s
    else
      let s1 := (s.rput Reg.PORT_REMOTE_FAULT 1 p).raise (6 * p + 2)
      if st == 4 then s1.linkTo p 5
      else if st == 5 then s1.setPx p { s1.px p with since := s1.now }
      else s1)

/-- RFAULT_CLEAR (R116): no remote fault for LINK_UP_DB. -/
def execRfaultClear (p frag : Nat) (s : State) : Out :=
  .next (
    if p < 128 && s.rget Reg.PORT_LINK_STATE p == 5 && !(s.px p).closing &&
        decide ((s.px p).since + s.rget Reg.PORT_LINK_UP_DB p * ms ≤ s.now) then s.enterUp p frag else s)

/-- FEC_CODEWORD (R119): a codeword is decoded: corrected symbols, or uncorrectable; `blockErrs` PCS block errors since the
last one. The windows of FEC_BURST are consecutive and aligned to the port's enable. -/
def execFecCodeword (p corrSyms : Nat) (uncorr : Bool) (blockErrs : Nat) (s : State) : Out :=
  .next (
    if 128 ≤ p || s.rget Reg.PORT_LINK_STATE p == 0 then s
    else
      let s0 := s.cadd Reg.PORT_FEC_CNT blockErrs p [3]
      if uncorr then
        let s1 := s0.cinc Reg.PORT_FEC_CNT p [1]
        let x := s1.px p
        let win := s1.rget Reg.PORT_WIN p * us
        let start := x.fecStart + (s1.now - x.fecStart) / win * win
        let cnt := if start == x.fecStart then x.fecCount + 1 else 1
        let raised := start == x.fecStart && x.fecRaised
        let th := s1.rget Reg.PORT_TH p
        let fire := th != 0 && decide (th ≤ cnt) && !raised
        (s1.setPx p { x with fecStart := start, fecCount := cnt, fecRaised := raised || fire }).raiseIf fire (6 * p + 3)
      else if 0 < corrSyms then (s0.cinc Reg.PORT_FEC_CNT p [0]).cadd Reg.PORT_FEC_CNT corrSyms p [2] else s0)

end Sys2Proof.Machine
end

