-- ==== Sys2Proof/Machine/Gates.lean ====
section
/-! DEFINITION. Time gates (R293 to R297): the entry in force at an instant, `fits`, the GATE_ENTRY and GCL_SWITCH rows, and
the SCHED events (R307). Instants are in 1/8 ns of short time; a core cycle is 5 of them. -/

namespace Sys2Proof.Machine

open Sys2Proof

/-- Sets a bit of a pipe's `SCHED_CAUSE` and raises SCHED_p (R307). -/
def State.schedCause (s : State) (n : Nat) (r : Row) : State := (s.rput r 1 0 [n]).raise (936 + n)

/-- The present instant. -/
def State.t8 (s : State) : Nat := s.short * 8 + s.frac16 / 8192

/-- The signed difference of two instants. -/
def diff8 (a b : Nat) : Int := signed 51 ((a % 2 ^ 51 + 2 ^ 51 - b % 2 ^ 51) % 2 ^ 51)

/-- `GATES`, `OP` and the length in 1/8 ns of an entry. -/
def entGates (e : DWord) : Nat := bits e.toNat 63 56
def entOp (e : DWord) : Nat := bits e.toNat 55 54
def entLen (e : DWord) : Nat := bits e.toNat 31 0 * 5

/-- Entry k of the operational list. -/
def GateX.ent (g : GateX) (k : Nat) : DWord := sget (fun _ => 0) g.oper k

/-- The cycle time in 1/8 ns. -/
def GateX.cyc (g : GateX) : Nat := g.operCycle * 5

/-- The entry in force at position `pos` of a cycle: its index and its end. The list is cut at the cycle end; its last entry
lasts until then (R294). -/
def GateX.findEnt (g : GateX) (pos : Nat) : Nat → Nat → Nat → Nat × Nat
  | 0, k, _ => (k, g.cyc)
  | n + 1, k, start =>
    let e := start + entLen (g.ent k)
    if n == 0 || g.cyc ≤ e then (k, g.cyc) else if pos < e then (k, e) else g.findEnt pos n (k + 1) e

/-- The entry in force at an instant: index, and the time left until it ends. -/
def GateX.entAt (g : GateX) (t : Nat) : Nat × Nat :=
  let pos := (diff8 t g.anchor % (g.cyc : Int)).toNat
  let r := g.findEnt pos g.operLen 0 0
  (r.1, r.2 - pos)

/-- The time from the end of an entry through at most n more entries that keep gate c open (R295). -/
def GateX.runFrom (g : GateX) (c : Nat) : Nat → Nat → Nat
  | 0, _ => 0
  | n + 1, t =>
    let r := g.entAt t
    if bit (entGates (g.ent r.1)) c then r.2 + g.runFrom c n (t + r.2) else 0

/-- `fits` of R295 at instant t for a frame of `len` bytes of class c on port p; a bridge port has no guard band (R284). -/
def State.fits (s : State) (p c t len : Nat) : Bool :=
  let g := s.gate p
  if !s.ron Reg.SCHED_GATE_EN p || !g.operV || g.operCycle == 0 then true
  else
    let r := g.entAt t
    let pm := decide (p < 128) && s.pmac p c
    if !bit (entGates (g.ent r.1)) c || (pm && g.hold) then false
    else if 128 ≤ p then true
    else
      let run := g.runFrom c 4 t
      let sw := (diff8 g.switchAt t).toNat
      let close := if g.armed && decide (0 ≤ diff8 g.switchAt t) then min run sw else run
      let f := 64 * (1 + (s.px p).partnerFrag)
      let need := if pm && decide (f + 64 ≤ len) then f else len
      decide ((need + 20) * 64 ≤ close * s.rate p)

/-- The length of a frame for gates and charges (R295): stored length with the script's growth, at least 64; the ingress port's
`MAX_LEN`, or 9,728, while its end has not arrived. -/
def State.schedLen (s : State) (f : Nat) : Nat :=
  let x := s.fr f
  if x.ended then max 64 (x.len + if bit x.legend 46 then editGrowth (s.tab tEDIT 0 (bits x.legend 45 36)) else (0 : Int)).toNat
  else if x.inPort < 128 then s.rget Reg.PORT_MAX_LEN x.inPort else 9728

/-- The longest run of open entries for class c that `fits` could find in the list (R297), in 1/8 ns. -/
def GateX.longest (g : GateX) (c : Nat) : Nat :=
  let starts := (List.range g.operLen).foldl (fun (a : List Nat × Nat) k => (a.1 ++ [a.2], a.2 + entLen (g.ent k))) ([], 0)
  ((starts.1.filter (fun st => st < g.cyc)).map (fun st => g.runFrom c 4 (g.anchor + st))).foldl max 0

/-- A frame's need exceeds the longest run of its class, and its gate is open somewhere (R297). -/
def State.gateOversize (s : State) (p c len : Nat) : Bool :=
  let g := s.gate p
  if !s.ron Reg.SCHED_GATE_EN p || !g.operV || g.operCycle == 0 || 128 ≤ p then false
  else
    let f := 64 * (1 + (s.px p).partnerFrag)
    let need := if decide (p < 128) && s.pmac p c && decide (f + 64 ≤ len) then f else len
    let m := g.longest c
    decide (0 < m) && decide (m * s.rate p < (need + 20) * 64)

/-- The gates and the hold follow an entry that is in force (R294, R296). -/
def GateX.begin (g : GateX) (k : Nat) : GateX :=
  let e := g.ent k
  { g with entry := k, gates := entGates e, hold := if entOp e == 1 then true else if entOp e == 2 then false else g.hold }

/-- Every entry from the one after `entry` up to k begins in turn (the list wraps). -/
def GateX.beginTo (g : GateX) (k : Nat) : GateX :=
  let n := g.operLen
  let steps := (k + n - g.entry % n) % n
  (List.range steps).foldl (fun h i => h.begin ((g.entry + 1 + i) % n)) g

/-- GATE_ENTRY (R294): the entry in force at this instant takes effect. -/
def execGateEntry (p : Nat) (s : State) : Out :=
  .next (
    let g := s.gate p
    if p < 152 && g.operV && g.operCycle != 0 && g.operLen != 0 then
      let pos := (diff8 s.t8 g.anchor % (g.cyc : Int)).toNat
      s.setGate p { (g.beginTo (g.entAt s.t8).1) with anchor := (s.t8 + 2 ^ 51 - pos) % 2 ^ 51 }
    else s)

/-- GCL_SWITCH (R294, R81): the armed instant has come: the banks change places and every GSWAP that waits for a switch of
this port completes. -/
def execGclSwitch (p : Nat) (s : State) : Out :=
  .next (
    let g := s.gate p
    let n := pipeOfPort p
    if p < 152 && g.armed && decide (0 ≤ diff8 s.t8 g.switchAt) then
      let g1 : GateX := { g with oper := g.pend, pend := g.oper, operV := true, operLen := g.pendLen, operCycle := g.pendCycle,
                                  operBase := g.switchAt, anchor := g.switchAt, armed := false, pendLen := g.operLen, pendCycle := g.operCycle,
                                  pendBase := g.operBase / 8, switchAt := 0, hold := false }
      let s1 := ((s.setGate p (g1.begin 0)).cinc Reg.SCHED_CNT 0 [n, 10]).schedCause n Reg.SCHED_GCL_SWITCH
      s1.waiters.foldl (fun t w => match w.2.kind with
        | .gswap q => if q == p then t.endWait w.1 stOK else t
        | _ => t) s1
    else s)

end Sys2Proof.Machine
end

