-- ==== Sys2Proof/Machine/Meridian.lean ====
section
/-! DEFINITION. Meridian (chapter 14): the counter, changes of time, timestamps, pulses, captures, triggers and ToD. -/

namespace Sys2Proof.Machine

open Sys2Proof

/-! ### The counter (R331, R339) -/

/-- Sets the time counter to a count of 2^-32 ns since second 0, the seconds wrapping at 48 bits. -/
def State.setTime (s : State) (total : Int) : State :=
  let t := (total % ((2 ^ 48 * secSub : Nat) : Int)).toNat
  { s with mer := { s.mer with sec := t / secSub, sub := t % secSub } }

/-- One core cycle of Meridian: the time and the residence base advance by ADDEND while PD_MERIDIAN is on; a loaded ADDEND
holds from the next cycle on (R337). -/
def State.meridTick (s : State) : State :=
  if s.domOn 41 then
    let a := s.rget Reg.MERID_ADDEND
    let x := s.mer.sub + a
    let c := x / secSub
    let s1 : State := { s with mer := { s.mer with
      sec := (s.mer.sec + c) % 2 ^ 48, sub := x % secSub, resid := s.mer.resid + a, addendNext := none } }
    match s.mer.addendNext with
    | some n => s1.rput Reg.MERID_ADDEND n
    | none => s1
  else s

/-- The full time in units of 2^-16 ns. -/
def State.full16 (s : State) : Int := (((s.mer.sec * 1000000000) * 2 ^ 16 + s.mer.sub / 2 ^ 16 : Nat) : Int)

/-- A step saturated to the signed 64-bit range (R336). -/
def sat64 (x : Int) : Int := max (-(2 ^ 63 : Int)) (min x (2 ^ 63 - 1))

/-- Shows an applied step in LAST_STEP, counts it and raises TIME_STEP (R336, R337). -/
def State.noteStep (s : State) (step : Int) : State :=
  ((s.pput Reg.MERID_LAST_STEP (wrapInt 64 (sat64 step))).cinc Reg.MERID_CNT 0 [8]).raise 972

/-- The change whose turn it is: the earliest issued, and among those of one cycle the lowest thread (R335, R17). -/
def nextChange : List TimeChange → Option TimeChange
  | [] => none
  | c :: r => match nextChange r with
    | none => some c
    | some d => if d.issued < c.issued || (d.issued == c.issued && d.thread < c.thread) then some d else some c

/-- Applies a TMSET (R336): refused under JUMP_GUARD, or the full time is loaded and TIME_VALID set. -/
def State.applySet (s : State) (c : TimeChange) : State :=
  let new : Int := (((c.sec * 1000000000 + c.ns) * 2 ^ 16 + c.frac : Nat) : Int)
  let step := new - s.full16
  if s.ron Reg.MERID_TIME_VALID && !c.force && decide (s.rget Reg.MERID_JUMP_GUARD < step.natAbs / 2 ^ 16) then
    ((s.cinc Reg.MERID_CNT 0 [9]).raise 973).endWait c.thread stREFUSED
  else
    ((((s.setTime (new * 2 ^ 16)).rput Reg.MERID_TIME_VALID 1).noteStep step)).endWait c.thread stOK

/-- Applies a TMADJ step (R337). -/
def State.applyStep (s : State) (c : TimeChange) : State :=
  ((s.setTime ((s.mer.sec * secSub + s.mer.sub : Nat) + c.step * 2 ^ 16)).noteStep c.step).endWait c.thread stOK

/-- TIME_CHANGE_APPLY (R335): at most one pending change is applied per core cycle. -/
def execTimeChangeApply (s : State) : Out :=
  .next (
    if s.mer.lastApply == some s.now then s
    else match nextChange s.mer.changes with
    | none => s
    | some c =>
      let s1 : State := { s with mer := { s.mer with changes := s.mer.changes.erase c, lastApply := some s.now } }
      match c.kind with
      | 0 => s1.applySet c
      | 1 => s1.applyStep c
      | _ => ({ s1 with mer := { s1.mer with addendNext := some c.ns } } : State).endWait c.thread stOK)

/-! ### Reads that latch (R334, R349) -/

/-- A read of the Meridian block answers 0 while the device is CLOCKLESS or PD_MERIDIAN is off (R97). -/
def State.meridDead (s : State) : Bool := s.clockless || s.dom 41 == 0

/-- NOW_FRAC_READ (R334): the read latches the full time and the short time in the reader's bank. -/
def State.nowFracRead (s : State) (m : Master) : State :=
  if s.meridDead then s.answer 0
  else
    let b := bankOf m
    let s1 := ((s.setBank b (selSlot 12 0x104) s.ns).setBank b (selSlot 12 0x108) (s.mer.sec % 2 ^ 32)).setBank b (selSlot 12 0x10C) (s.mer.sec / 2 ^ 32)
    ((s1.setBank b (selSlot 12 0x110) (s.short % 2 ^ 32)).setBank b (selSlot 12 0x114) (s.short / 2 ^ 32)).answer s.frac16

/-- NOW_FRAC_READ. -/
def execNowFracRead (m : Master) (s : State) : Out := .next (if hasBar0 m then s.nowFracRead m else s)

/-- TS_POP (R349): the oldest timestamp entry leaves the FIFO; word 0 is the answer, words 1 to 5 go to the reader's bank. -/
def State.tsPop (s : State) (m : Master) : State :=
  if s.meridDead then s.answer 0
  else
    let b := bankOf m
    let put (t : State) (l : List Word) : State :=
      (List.range 5).foldl (fun u w => u.setBank b (selSlot 12 (0x204 + 4 * w)) (l.getD w 0).toNat) t
    match s.mer.fifo with
    | [] => (put s []).answer 0
    | e :: r =>
      let s1 : State := { s with mer := { s.mer with fifo := r } }
      ((put s1 (e.drop 1)).rput Reg.MERID_TS_LEVEL r.length).answer (e.headD 0).toNat

/-- TS_POP. -/
def execTsPop (m : Master) (s : State) : Out := .next (if hasBar0 m then s.tsPop m else s)

/-- A capture for the transmit timestamp FIFO (R347, R348, R350): `w1` is word 1, `tag` word 2; the time is the current
full time. A capture that finds 4,096 entries is lost, its sequence value consumed. -/
def State.tsCapture (s : State) (port w1 tag sec ns frac : Nat) : State :=
  let q := s.mer.capSeq
  let s1 : State := { s with mer := { s.mer with capSeq := (q + 1) % 65536 } }
  if 4096 ≤ s.mer.fifo.length then (s1.cinc Reg.MERID_CNT 0 [4]).raise 960
  else
    let w : Nat → Word := BitVec.ofNat 32
    let e := [w (2 ^ 31 + port * 2 ^ 16 + q), w w1, w tag, w (sec / 2 ^ 32 * 2 ^ 16 + frac), w sec, w ns]
    let s2 : State := { s1 with mer := { s1.mer with fifo := s1.mer.fifo ++ [e] } }
    let lv := s2.mer.fifo.length
    let s3 := (s2.rput Reg.MERID_TS_LEVEL lv).cinc Reg.MERID_CNT 0 [3]
    s3.raiseIf (s3.rget Reg.MERID_TS_THRESH != 0 && s3.rget Reg.MERID_TS_THRESH == lv) 961

/-! ### Pulses (R351, R352) -/

/-- The second whose pulse is due: ⌊(time in ns + PPS_OFFSET) ÷ 10^9⌋. -/
def State.ppsSecond (s : State) : Int :=
  ((s.mer.sec * 1000000000 + s.ns : Nat) + signed 32 (s.rget Reg.MERID_PPS_OFFSET)) / 1000000000

/-- OUT_EN came into use, or went out of use: the next pulse is that of the next second. -/
def State.ppsEnable (s : State) : State :=
  { s with mer := { s.mer with ppsNext := if s.ron Reg.MERID_OUT_EN then some (s.ppsSecond + 1).toNat else none, ppsActive := none } }

/-- PPS_OUT_PULSE (R351, R338): one pulse, however many instants were passed; it is active until PPS_WIDTH later. A ToD
message armed for this pulse is timed from it (R355). -/
def execPpsOutPulse (s : State) : Out :=
  .next (match s.mer.ppsNext with
    | some n =>
      if s.domOn 41 && s.ron Reg.MERID_OUT_EN && decide ((n : Int) ≤ s.ppsSecond) then
        let s1 : State := { s with mer := { s.mer with
          ppsNext := some (s.ppsSecond + 1).toNat
          ppsActive := some ((s.short + s.rget Reg.MERID_PPS_WIDTH) % 2 ^ 48) } }
        if s1.mer.todTxState == 1 then
          { s1 with mer := { s1.mer with todTxState := 2, todTxAt := (s.short + s.rget Reg.MERID_TOD_TX_DELAY) % 2 ^ 48 } }
        else s1
      else s
    | none => s)

/-- PPS_OUT is at its active level. -/
def State.ppsOutActive (s : State) : Bool :=
  s.ron Reg.MERID_OUT_EN && (match s.mer.ppsActive with | some t => laterThan t s.short | none => false)

/-- A captured instant: short time and 16-bit fraction. -/
def State.capStamp (s : State) : Nat := s.short * 2 ^ 16 + s.frac16

/-- PPS_IN (R352): an edge of the selected polarity is captured. -/
def execPpsIn (rising : Bool) (s : State) : Out :=
  .next (
    if s.domOn 41 && rising != s.ron Reg.MERID_IN_POL then
      let s1 := ((s.pput Reg.MERID_PPS_IN_TIME s.capStamp).rput Reg.MERID_NEW_318 1).rput Reg.MERID_TOD_PTR (s.rget Reg.MERID_TOD_RX_PTR)
      let s2 := (s1.cinc Reg.MERID_CNT 0 [5]).raise 962
      { s2 with mer := { s2.mer with ppsLastEdge := some s.short, ppsLossRaised := false } }
    else s)

/-- PPS_LOSS (R352): no edge for 1.1 s of Meridian time; raised once until an edge arrives. -/
def execPpsLoss (s : State) : Out :=
  .next (match s.mer.ppsLastEdge with
    | some t =>
      if s.domOn 41 && !s.mer.ppsLossRaised && s.reached ((t + 1100000000) % 2 ^ 48) then
        let s1 := s.raise 963
        { s1 with mer := { s1.mer with ppsLossRaised := true } }
      else s
    | none => s)

/-- CAP (R353): a selected edge of TS_CAP_k is captured; one that finds NEW set replaces the capture and is counted. -/
def execCap (k : Nat) (rising : Bool) (s : State) : Out :=
  .next (
    let e := s.rget Reg.MERID_EDGE 0 [k]
    if k < 4 && s.domOn 41 && (e == 3 || (e == 1 && rising) || (e == 2 && !rising)) then
      let s1 := if s.ron Reg.MERID_NEW_344 0 [k] then s.cinc Reg.MERID_CNT 0 [6] else s
      (((s1.pput Reg.MERID_CAP_TIME s.capStamp 0 [k]).rput Reg.MERID_NEW_344 1 0 [k])).raise (964 + k)
    else s)

/-! ### Triggers (R354) -/

/-- A trigger output. -/
def State.trg (s : State) (k : Nat) : TrigX := sget (fun _ => {}) s.mer.trig k
/-- Replaces it. -/
def State.setTrg (s : State) (k : Nat) (x : TrigX) : State :=
  { s with mer := { s.mer with trig := sset (fun _ => {}) s.mer.trig k x } }

/-- Arms trigger output k (R82, R354): a period from 1 to 15 ns is taken as 16 ns. -/
def State.trigArm (s : State) (k first period : Nat) : State :=
  let p := if period == 0 then 0 else max 16 period
  ((s.setTrg k { s.trg k with first := first, period := p, n := 0 }).rput Reg.MERID_ARMED 1 0 [k]).pput Reg.MERID_TRIG_NEXT first 0 [k]

/-- Disarms trigger output k. -/
def State.trigDisarm (s : State) (k : Nat) : State := (s.rput Reg.MERID_ARMED 0 0 [k]).pput Reg.MERID_TRIG_NEXT 0 0 [k]

/-- TRIG (R354, R338): the next instant of an armed output is reached: one pulse; the next instant is the first of the series
after the current time; a one-shot arming raises TRIG_k and is disarmed. -/
def execTrig (k : Nat) (s : State) : Out :=
  .next (
    let x := s.trg k
    let due := s.pget Reg.MERID_TRIG_NEXT 0 [k]
    if k < 4 && s.domOn 41 && s.ron Reg.MERID_ARMED 0 [k] && s.reached due then
      let s1 := (s.cinc Reg.MERID_CNT 0 [7]).setTrg k { x with activeUntil := some ((s.short + s.rget Reg.MERID_TRIG_WIDTH 0 [k]) % 2 ^ 48) }
      if x.period == 0 then (s1.trigDisarm k).raise (968 + k)
      else
        let n := ((s.short + 2 ^ 48 - x.first) % 2 ^ 48) / x.period + 1
        (s1.setTrg k { s1.trg k with n := n }).pput Reg.MERID_TRIG_NEXT ((x.first + n * x.period) % 2 ^ 48) 0 [k]
    else s)

/-! ### ToD (R355) -/

/-- The bit rate that BAUD selects. -/
def baudRate : Nat → Nat
  | 0 => 9600 | 1 => 19200 | 2 => 38400 | 3 => 57600 | _ => 115200

/-- TOD_RX (R355): a received byte goes into the 256-byte ring; one that follows at least two idle character times raises
TOD_RX. -/
def execTodRx (b : Byte) (afterGap : Bool) (s : State) : Out :=
  .next (
    if s.domOn 41 && s.ron Reg.MERID_RX_EN then
      let p := s.rget Reg.MERID_TOD_RX_PTR
      let w := p % 256 / 4
      let lane := 3 - p % 4
      let old := s.rget Reg.MERID_TOD_RX_DATA 0 [w]
      let s1 := s.rput Reg.MERID_TOD_RX_DATA (setBits old (8 * lane + 7) (8 * lane) b.toNat) 0 [w]
      ((s1.rput Reg.MERID_TOD_RX_PTR ((p + 1) % 65536)).cinc Reg.MERID_CNT 0 [10]).raiseIf afterGap 975
    else s)

/-- The action of TX_ARM: a transmission is armed for the next PPS_OUT pulse; no effect while TX_BUSY is 1. -/
def State.todArm (s : State) : State :=
  if s.ron Reg.MERID_TX_BUSY then s
  else
    let s1 := s.rput Reg.MERID_TX_BUSY 1
    { s1 with mer := { s1.mer with todTxState := 1 } }

/-- TX_ARM (R355): a write of TOD_CFG with TX_ARM. -/
def execTxArm (m : Master) (value : Word) (s : State) : Out :=
  .next (if hasBar0 m then s.guardWrite m 12 0x3E0 value (fun t _ => if bit value.toNat 31 then t.todArm else t) else s)

/-- The first n bytes of the ToD transmit buffer; byte 4w is in [31:24] (R361). -/
def State.todBytes (s : State) (n : Nat) : List Byte :=
  ((List.range 16).flatMap (fun w => beBytes 4 (s.rget Reg.MERID_TOD_TX_DATA 0 [w]))).take n

/-- TOD_TX_START (R355): TOD_TX_DELAY after the pulse, the first TX_LEN bytes are sent. -/
def execTodTxStart (s : State) : Out :=
  .next (
    if s.domOn 41 && s.mer.todTxState == 2 && s.reached s.mer.todTxAt then
      let n := s.rget Reg.MERID_TX_LEN
      { s with mer := { s.mer with todTxState := 3, todTxAt := s.now, todTxLen := n, todSent := s.todBytes n } }
    else s)

/-- TOD_TX_DONE (R355): the last stop bit is sent, ten bit times per byte after the start. -/
def execTodTxDone (s : State) : Out :=
  .next (
    if s.domOn 41 && s.mer.todTxState == 3 &&
        decide (s.mer.todTxAt + ceilDiv (s.mer.todTxLen * 10 * 1600000000) (baudRate (s.rget Reg.MERID_BAUD)) ≤ s.now) then
      let s1 := (s.rput Reg.MERID_TX_BUSY 0).raise 976
      { s1 with mer := { s1.mer with todTxState := 0 } }
    else s)

end Sys2Proof.Machine
end

