-- ==== Sys2Proof/Machine/PortTx.lean ====
section
/-! DEFINITION. Transmission (R123 to R125, R127, R225, R235, R343 to R347): what a copy becomes on the wire, the start and the end
of a transmission, preemption. -/

namespace Sys2Proof.Machine

open Sys2Proof

/-! ### Corrections -/

/-- A signed picosecond adjustment in units of 2^-16 ns, rounded down (R341). -/
def adj16 (x : Nat) : Int := signed 16 x * 65536 / 1000

/-- The residence time of a transmission (R344), in 2^-16 ns. -/
def State.residence (s : State) (t : Tx) : Int := signed 64 ((t.resid + 2 ^ 64 - (s.fr t.item.f).resid % 2 ^ 64) % 2 ^ 64)

/-- Counts a corrected frame. -/
def State.cfCount (s : State) (sat : Bool) : State :=
  let s1 := s.cinc Reg.MERID_CNT 0 [0]
  if sat then (s1.cinc Reg.MERID_CNT 0 [1]).raise 977 else s1

/-- The PTP message of edited bytes: its offset, where the record and the version say there is one and `APP_OFF` + 15 lies
before the FCS; the Bool tells that only this last condition failed. -/
def ptpAt (x : Frame) (e : EditSt) : Option Nat × Bool :=
  match e.base 6 with
  | some o => if isPtp x.record e.data (some o) then (if o + 15 < e.data.length then (some o, false) else (none, true)) else (none, false)
  | none => (none, false)

/-- One-step correction of edited bytes (R343 to R346). -/
def State.oneStep (s : State) (p : Nat) (t : Tx) (e : EditSt) : State × List Byte :=
  let x := s.fr t.item.f
  let a := ptpAt x e
  let types := s.rget Reg.MERID_CF_TYPES 0 [p]
  let m (o : Nat) : Nat := ((slice e.data o 1).headD 0).toNat % 16
  match x.host with
  | some h =>
    (match a.1 with
    | some o =>
      if h.oneStep && o + 44 ≤ e.data.length then
        let d1 := ptpPut e o (o + 34) (beBytes 6 t.sec ++ beBytes 4 (t.ns16 / 65536))
        let c := addCf (beNat (slice d1 (o + 8) 8)) (t.ns16 % 65536 : Nat)
        (s, ptpPut { e with data := d1 } o (o + 8) (beBytes 8 c.1))
      else (s, e.data)
    | none => (s, e.data))
  | none =>
    (match a.1, e.base 6 with
    | some o, _ =>
      if x.origPort < 128 && bit types (m o) then
        let c := addCf (beNat (slice e.data (o + 8) 8)) (s.residence t)
        (s.cfCount c.2, ptpPut e o (o + 8) (beBytes 8 c.1))
      else (s, e.data)
    | none, some o => (if a.2 && x.origPort < 128 && bit types (m o) then s.cinc Reg.MERID_CNT 0 [2] else s, e.data)
    | none, none => (s, e.data))

/-- The transmit timestamp of a frame (R347, R348). -/
def State.twoStep (s : State) (p : Nat) (t : Tx) (e : EditSt) : State :=
  let x := s.fr t.item.f
  let a := (ptpAt x e).1
  let byType := match a with | some o => bit (s.rget Reg.MERID_TS_TYPES 0 [p]) (((slice e.data o 1).headD 0).toNat % 16) | none => false
  let byHost := match x.host with | some h => h.tsReq | none => false
  if byType || byHost then
    let w1 := (match a with
      | some o => beNat (slice e.data (o + 30) 2) * 65536 + ((slice e.data o 1).headD 0).toNat % 16 * 4096 + ((slice e.data (o + 4) 1).headD 0).toNat * 16
      | none => 0) + b2n byHost * 8
    s.tsCapture p w1 (match x.host with | some h => if h.tsReq then h.tag else 0 | none => 0) t.sec (t.ns16 / 65536) (t.ns16 % 65536)
  else s

/-! ### What goes onto the wire -/

/-- An express copy (R231, R235): rewrite, and the residence time added at `CF_OFF`. -/
def State.expressBytes (s : State) (t : Tx) (img : Nat) : State × List Byte :=
  let d := (s.fr t.item.f).body
  let d1 := overlay d (imgBytes 128 img 80 1) ((beBytes 16 (imgBytes 128 img 64 16)).take (imgBytes 128 img 81 1 / 8))
  let co := imgBytes 128 img 84 1
  let uo := imgBytes 128 img 85 1
  if !bit (imgBytes 128 img 83 1) 7 || decide (d1.length < co + 8) then (s, d1)
  else
    let c := addCf (beNat (slice d1 co 8)) (s.residence t)
    let d2 := overlay d1 co (beBytes 8 c.1)
    let s1 := s.cfCount c.2
    if uo == 0 || decide (d2.length < uo + 2) then (s1, d2)
    else
      let cov (b : List Byte) : Nat := sum16 ((overlay b uo [0, 0]).drop (uo % 2))
      let hc := beNat (slice d1 uo 2)
      let et (o : Nat) : Nat := beNat (slice d1 o 2)
      let l3 := if et 12 == 0x8100 || et 12 == 0x88A8 then (if et 16 == 0x8100 then et 20 else et 16) else et 12
      let old := cov d1
      let new := cov d2
      (s1, if fold16 old == fold16 new then d2 else putL4Sum d2 uo (incrSum hc old new) (l3 != 0x86DD) true)

/-- The bytes of a transmission, without FCS, once its frame has ended (R123, R225): edited, corrected, padded, truncated at the
port's `MAX_LEN`. `img` is the express image. -/
def State.txFinish (s : State) (p : Nat) (t : Tx) (img : Nat) (lim : Option Nat) : State × Tx :=
  let x := s.fr t.item.f
  let r : State × List Byte :=
    if t.kind == 1 then
      (let q := s.expressBytes t img
       match lim with | some n => (q.1, q.2.take n) | none => q)
    else
      (let e := match t.edit with
        | some i => runEdit (s.tab tEDIT 0 i) x.body (recordBases x.record)
        | none => { data := x.body, bases := recordBases x.record }
       let s1 := s.cadd Reg.FWD_CNT e.errs (p / 16) [11]
       let s2 := s1.twoStep p t e
       s2.oneStep p t e)
  let d := if r.2.length < 60 then slice r.2 0 60 else r.2
  let mx := r.1.rget Reg.PORT_MAX_LEN p
  let tooLong := decide (mx < d.length + 4)
  let s3 := if tooLong then r.1.txAdd p 16 1 else r.1
  (s3, { t with data := if tooLong then d.take (mx - 4) else d, done := true, cut := tooLong, bad := t.bad || x.trunc || lim.isSome })

/-- A frame whose end has arrived: the bytes of its transmissions are known (R121). -/
def State.txArrived (s : State) (f : Nat) : State :=
  let ps := (s.ports.filter (fun e => match e.2.tx, e.2.pre with
    | some t, some u => (t.kind != 2 && t.item.f == f && !t.done) || (u.kind != 2 && u.item.f == f && !u.done)
    | some t, none => t.kind != 2 && t.item.f == f && !t.done
    | none, some u => u.kind != 2 && u.item.f == f && !u.done
    | none, none => false)).map (·.1)
  ps.foldl (fun (v : State) p =>
    let go (w : State) (o : Option Tx) : State × Option Tx := match o with
      | some t => if t.kind != 2 && t.item.f == f && !t.done then
          (let r := w.txFinish p t (t.edit.getD 0) none; (r.1, some r.2)) else (w, some t)
      | none => (w, none)
    let a := go v (v.px p).tx
    let b := go a.1 (a.1.px p).pre
    b.1.setPx p { b.1.px p with tx := a.2, pre := b.2 }) s

/-! ### Sources (R124, R127, R283) -/

/-- A stored copy is wholly in the basket. -/
def State.stored (s : State) (f b : Nat) : Bool :=
  let c := s.copy f b
  c.loc == 2 || decide (ceilDiv (s.fr f).len 256 ≤ c.written)

/-- A frame may leave port p before it is wholly stored (R26, R216, R249): its first cell is written, both ports are Ethernet
ports and the egress rate does not exceed the ingress rate. -/
def State.cutThrough (s : State) (p : Nat) (it : Item) : Bool :=
  let x := s.fr it.f
  decide (p < 128) && decide (x.inPort < 128) && !x.noCut && decide (0 < (s.copy it.f it.b).written) &&
  decide (s.rate p ≤ s.rate x.inPort)

/-- A selected frame has the bytes that its transmission needs. -/
def State.canStart (s : State) (p : Nat) (it : Item) : Bool :=
  ((s.fr it.f).ended && s.stored it.f it.b) || s.cutThrough p it

/-- A ready slot's frame may start (R283): unpaused, launch time reached, fits; a preempted frame keeps the pMAC. -/
def State.slotReady (s : State) (p c : Nat) : Bool :=
  match sfind (s.px p).ready c with
  | none => false
  | some it =>
    s.canStart p it && !s.paused p c && (match it.launch with | some t => s.reached t | none => true) &&
    s.fits p c s.t8 (s.schedLen it.f) && !(s.pmac p c && ((s.gate p).hold || (s.px p).pre.isSome))

/-- The highest class that may start, among those that satisfy a test. -/
def State.readyClass (s : State) (p : Nat) (ok : Nat → Bool) : Option Nat :=
  [7, 6, 5, 4, 3, 2, 1, 0].find? (fun c => ok c && s.slotReady p c)

/-- The egress timestamp of a frame that starts now, its timestamp point `lag` × 2^-16 ns later: seconds, 2^-16 ns within
the second, residence reading (R340, R341, R344). -/
def State.egressStamp (s : State) (p lag : Nat) : Nat × Nat × Nat :=
  let a := adj16 (s.rget Reg.MERID_TX_ADJ 0 [p])
  let t : Int := s.full16 + (lag : Nat) + a
  let m : Int := ((1000000000 * 65536 : Nat) : Int)
  ((t / m % (2 ^ 48 : Nat)).toNat, (t % m).toNat, wrapInt 64 ((s.mer.resid / 65536 : Nat) + (lag : Nat) + a))

/-- Starts a transmission. -/
def State.txBegin (s : State) (p lag : Nat) (t : Tx) (img : Nat) (lim : Option Nat) : State :=
  let st := s.egressStamp p lag
  let t1 := { t with sec := st.1, ns16 := st.2.1, resid := st.2.2 }
  let r := if (s.fr t.item.f).ended then s.txFinish p t1 img lim else (s, t1)
  r.1.setPx p { r.1.px p with tx := some r.2 }

/-- Starts the frame of ready slot c; a copy that a buffer error or a poisoned script spoils is discarded (R258, R518). -/
def State.startSlot (s : State) (p lag c : Nat) : State :=
  match sfind (s.px p).ready c with
  | none => s
  | some it =>
    let x := s.fr it.f
    let ed := if bit x.legend 46 then some (bits x.legend 45 36) else none
    let s1 := s.setPx p { s.px p with ready := sdel (s.px p).ready c }
    if (s1.copy it.f it.b).bad then (s1.release it).cinc Reg.SLATH_BASKET_CNT it.b [16]
    else if (match ed with | some i => s1.poisoned tEDIT 0 i | none => false) then (s1.release it).txAdd p 38 1
    else s1.txBegin p lag { kind := 0, item := it, edit := ed, cls := c, pmac := s1.pmac p c } 0 none

/-- Starts the head of the express FIFO. -/
def State.startExpress (s : State) (p lag : Nat) : State :=
  match (s.px p).exp with
  | [] => s
  | e :: r =>
    let s1 := s.setPx p { s.px p with exp := r }
    s1.txBegin p lag { kind := 1, item := ⟨e.f, 0, p, 0, 0, 0, 0, 0, false, false, false, none⟩, edit := some e.img } e.img e.lim

/-- Starts a pause frame that is due (R128). -/
def State.startPause (s : State) (p : Nat) : State :=
  let x := s.px p
  s.setPx p { x with tx := some { kind := 2, data := s.pauseFrame p, done := true }, due := false, asked := x.xoff,
                     refreshAt := s.now + s.quanta p (s.rget Reg.PORT_REFRESH p) }

/-- The pMAC frame in transmission is set aside (R125, R296). -/
def State.preempt (s : State) (p : Nat) (t : Tx) : State :=
  let s1 := if t.preempted then s else s.txAdd p 33 1
  s1.setPx p { s1.px p with tx := none, pre := some { t with preempted := true } }

/-- A preempted frame goes on (R296): its gate is open and no hold applies. -/
def State.resume (s : State) (p : Nat) : State :=
  match (s.px p).pre with
  | none => s
  | some t =>
    let g := s.gate p
    let shut := s.ron Reg.SCHED_GATE_EN p && g.operV && (g.hold || !bit g.gates t.cls)
    if shut then s else (s.setPx p { s.px p with tx := some t, pre := none }).txAdd p 31 1

/-- FRAME_TRANSMIT (R124, R125): a frame start on port p. `lag` is the time, in 2^-16 ns, from this cycle to the frame's
timestamp point. While a pMAC frame is in transmission this is its first permitted point: it is preempted for an eMAC
frame, or for a hold or its closed gate. -/
def execFrameTransmit (p lag : Nat) (s : State) : Out :=
  .next (
    let x := s.px p
    let exp := !x.exp.isEmpty && !s.paused p 8
    let em := s.readyClass p (fun c => !s.pmac p c)
    if 128 ≤ p || !s.portUp p || x.closing && x.tx.isNone && x.pre.isNone then s
    else match x.tx with
    | some t =>
      if t.kind == 0 && t.pmac && s.preemptOn p then
        let g := s.gate p
        if !x.closing && exp then (s.preempt p t).startExpress p lag
        else match if x.closing then none else em with
          | some c => (s.preempt p t).startSlot p lag c
          | none =>
            if s.ron Reg.SCHED_GATE_EN p && g.operV && (g.hold || !bit g.gates t.cls) then (s.preempt p t).txAdd p 32 1 else s
      else s
    | none =>
      if x.closing then s.resume p
      else if x.due && x.pre.isNone then s.startPause p
      else if exp then s.startExpress p lag
      else match x.pre, em with
        | some _, some c => s.startSlot p lag c
        | some _, none => s.resume p
        | none, _ => (match s.readyClass p (fun _ => true) with
          | some c => s.startSlot p lag c
          | none => s))

/-! ### The end of a transmission -/

/-- A transmission whose frame failed, at its FCS or with its link, takes the bytes that arrived and ends corrupted (R121). -/
def State.txComplete (s : State) (p : Nat) : State :=
  match (s.px p).tx with
  | none => s
  | some t =>
    if t.done || t.kind == 2 || !t.bad || !(s.fr t.item.f).ended then s
    else
      let r := s.txFinish p t (t.edit.getD 0) none
      r.1.setPx p { r.1.px p with tx := some r.2 }

/-- FRAME_TX_END (R249, R121, R134, R433): the transmission on port p ends: counters, accounting token, release. -/
def execFrameTxEnd (p : Nat) (s0 : State) : Out :=
  .next (
    let s := s0.txComplete p
    match (s.px p).tx with
    | none => s
    | some t =>
      if !t.done || (t.kind == 0 && !s.stored t.item.f t.item.b && !t.bad) then s
      else
        let n := t.data.length + 4
        let good := !t.bad && !t.dataErr && !t.cut
        let s1 := (s.setPx p { s.px p with tx := none }).txStats p t.data n good
        if t.kind == 2 then
          let v := beNat (slice t.data 16 2)
          if beNat (slice t.data 14 2) == 1 then s1.txAdd p 5 1
          else ((List.range 8).filter (fun c => bit v c)).foldl (fun u c => u.txAdd p (7 + c) 1) (s1.txAdd p 6 1)
        else
          let s2 := if t.dataErr then s1.txAdd p 38 1 else if t.bad then s1.txAdd p 15 1 else s1
          let s3 := if t.kind == 1 then s2.txAdd p 30 1 else s2
          let g := tagOf t.data
          (s3.token (p / 16) ⟨p, 1, good, g.1, g.2⟩ n).txRelease t)

end Sys2Proof.Machine
end

