-- ==== Sys2Proof/Machine/PortRx.lean ====
section
/-! DEFINITION. Reception (R120 to R122, R125, R132, R133, R176, R245, R304): header-window capture, the express lookup
(R230 to R232), a frame's end, and wake patterns. -/

namespace Sys2Proof.Machine

open Sys2Proof

/-! ### Checks of a received frame -/

/-- The FCS of a frame's bytes checks: CRC-32 of all but the last four, sent least significant byte first. -/
def fcsGood (d : List Byte) : Bool :=
  let n := d.length - 4
  4 ≤ d.length && leNat (d.drop n) == crc32 (d.take n)

/-- Counts a frame at its real end (R120, R122, R134): `d` all its bytes. -/
def State.rxEndStats (s : State) (p : Nat) (d : List Byte) (good : Bool) : State :=
  let n := d.length
  let mx := s.rget Reg.PORT_MAX_LEN p
  let s1 := s.rxStats p d n (good && decide (64 ≤ n) && decide (n ≤ mx))
  if n < 64 then s1.rxAdd p (if good then 18 else 19) 1
  else if mx < n then s1.rxAdd p (if good then 20 else 21) 1
  else if good then s1 else s1.rxAdd p 5 1

/-- The bytes of a frame for the data path (R122): all of them, or the first `MAX_LEN` − 4 with 4 bytes in the place of an FCS. -/
def pathBytes (mx : Nat) (d : List Byte) : List Byte := if mx < d.length then d.take (mx - 4) ++ [0, 0, 0, 0] else d

/-- A MAC control frame (R120). -/
def isCtrl (d : List Byte) : Bool := beNat (slice d 12 2) == 0x8808

/-! ### Wake patterns (R133) -/

/-- Pattern k of port group g matches a frame. -/
def State.wakeMatch (s : State) (g k : Nat) (d : List Byte) : Bool :=
  let sel := (List.range 128).filter (fun i => bit (s.rget Reg.PORT_MASK g [k, i / 32]) (i % 32))
  s.ron Reg.PORT_EN g [k] && sel.all (fun i => i + 4 < d.length) &&
  crc16 (sel.map (fun i => (slice d i 1).headD 0)) == s.rget Reg.PORT_CRC g [k]

/-- A good frame on a LISTEN lane of a group in retention (R132, R133). -/
def State.listenFrame (s : State) (p : Nat) (d : List Byte) : State :=
  let g := p / 16
  match (List.range 16).find? (fun k => s.wakeMatch g k d) with
  | none => s
  | some k =>
    let s1 := if s.ron Reg.PORT_VALID g then s
      else ((s.rput Reg.PORT_PATTERN k g).rput Reg.PORT_LANE (p % 16) g).rput Reg.PORT_VALID 1 g
    (s1.raise (6 * p + 5)).wakeFire (16 + g)

/-! ### The express lane (R230 to R232) -/

/-- The masked key of a frame's first 64 bytes. -/
def State.expKey (s : State) (n : Nat) (d : List Byte) : Nat :=
  beNat (slice d 0 64) &&& beNat ((List.range 16).flatMap (fun w => beBytes 4 (s.rget Reg.FWD_EXP_MASK n [w])))

/-- The express entry that a frame hits. -/
def State.expFind (s : State) (n p : Nat) (d : List Byte) : Option Nat :=
  if s.ron Reg.FWD_EXP_EN n && bit (s.rget Reg.FWD_EXP_IN n) (p % 16) then
    let k := s.expKey n d
    let b := crc32 (beBytes 64 k) % 1024
    ((List.range 4).map (fun w => 4 * b + w)).find? (fun i =>
      let e := s.tab tEXPRESS n i
      imgF 128 e 15 63 63 == 1 && imgBytes 128 e 0 64 == k && !s.poisoned tEXPRESS n i)
  else none

/-- The bytes held in an express FIFO. -/
def State.expUsed (s : State) (q : Nat) : Nat :=
  ((s.px q).exp.map (fun e => match e.lim with | some n => n | none => (s.fr e.f).data.length)).sum

/-- Cells of a frame that cross the express plane (R243) are counted. -/
def State.expCells (s : State) (n q len : Nat) : State := if q / 16 == n then s else s.cadd Reg.SLATH_XBAR_CNT (ceilDiv len 256) 0 [4]

/-- An express hit (R232). -/
def State.expressHit (s : State) (f i : Nat) : State :=
  let x := s.fr f
  let n := x.pipe
  let img := s.tab tEXPRESS n i
  let q := imgBytes 128 img 82 1 % 128
  let s1 := (s.cinc Reg.FWD_CNT n [12]).setFr f { x with stage := 2 }
  let s2 := if bit (imgBytes 128 img 83 1) 6 then s1.mirrorTrigger f (bits (imgBytes 128 img 83 1) 5 2) false true else s1
  if q / 16 != n && !s2.works 24 then (s2.cinc Reg.FWD_CNT n [9]).discard f
  else if !s2.portUp q then (s2.cinc Reg.FWD_CNT n [14]).discard f
  else if 16384 - s2.expUsed q < s2.rget Reg.FWD_EXP_RESERVE 0 [q] then
    ((s2.cinc Reg.FWD_CNT n [13]).raise (823 + 8 * n)).discard f
  else
    let room := 16384 - s2.expUsed q
    let tooBig := decide (room < x.data.length)
    let s3 := s2.setPx q { s2.px q with exp := (s2.px q).exp ++ [⟨f, img, if tooBig then some room else none⟩] }
    let s4 := if tooBig then s3.cinc Reg.FWD_CNT n [15] else s3
    (if x.ended then s4.expCells n q x.len else s4).setFate f true

/-- A frame in an express FIFO has grown: what does not fit is cut (R232). -/
def State.expGrow (s : State) (f : Nat) : State :=
  let ps := (s.ports.filter (fun e => e.2.exp.any (fun i => i.f == f && i.lim.isNone))).map (·.1)
  ps.foldl (fun (t : State) q =>
    let used := t.expUsed q
    if used ≤ 16384 then t
    else
      let keep := (t.fr f).data.length - (used - 16384)
      (t.setPx q { t.px q with exp := (t.px q).exp.map (fun i => if i.f == f then { i with lim := some keep } else i) }).cinc
        Reg.FWD_CNT (t.fr f).pipe [15]) s

/-! ### A frame's end (R121, R176, R245, R304) -/

/-- Every queue entry of a frame is charged by its real length (R245). -/
def State.exactItems (s : State) (f len : Nat) : State :=
  let new (i : Item) : Nat := if i.inBlocks then ceilDiv len 2048 else ceilDiv len 256
  let fix (i : Item) : Item := if i.f == f && new i < i.chg then { i with chg := new i } else i
  let less (t : State) (i : Item) : State :=
    if i.f == f && new i < i.chg then
      t.rsub (if i.inBlocks then Reg.SLATH_PC_BLOCKS else Reg.SLATH_PC_CELLS) (i.chg - new i) i.b [i.lp, i.cls] else t
  let txItem (o : Option Tx) : List Item := match o with | some t => if t.kind == 0 then [t.item] else [] | none => []
  let qi := s.queues.flatMap (fun e => e.2.oc ++ e.2.pend ++ e.2.lp)
  let gi := s.pagers.flatMap (fun e => e.2.staged)
  let pi := s.ports.flatMap (fun e => e.2.ready.map (·.2) ++ txItem e.2.tx ++ txItem e.2.pre)
  let s1 := (qi ++ gi ++ pi).foldl less s
  let tx (o : Option Tx) : Option Tx := o.map (fun t => if t.kind == 0 then { t with item := fix t.item } else t)
  { s1 with
    queues := smap queueDflt (fun _ x => { x with oc := x.oc.map fix, pend := x.pend.map fix, lp := x.lp.map fix }) s1.queues
    pagers := smap (fun _ => {}) (fun _ x => { x with staged := x.staged.map fix }) s1.pagers
    ports := smap (fun _ => {}) (fun _ x => { x with ready := x.ready.map (fun r => (r.1, fix r.2)), tx := tx x.tx, pre := tx x.pre }) s1.ports }

/-- At a frame's end the cells beyond its real length return and the charges fall (R245). -/
def State.exactCells (s : State) (f len : Nat) : State :=
  let k := ceilDiv len 256
  (List.range 8).foldl (fun (t : State) b =>
    let c := t.copy f b
    if c.refs == 0 || c.k ≤ k then t
    else
      ((t.setCopy f b { c with k := k }).radd Reg.SLATH_CELLS_FREE (c.k - k) b).chargeUnit c.unit false (c.k - k))
    (s.exactItems f len)

/-- The rest of a policer's debit (R304). -/
def State.polRest (s : State) (f len : Nat) : State :=
  match (s.fr f).pol with
  | none => s
  | some (i, a, b) =>
    let sc : Int := (polScale : Nat)
    let img := s.tab tPOLICER 0 i
    let fr := sget (fun _ => ((0 : Nat), (0 : Nat))) s.fwd.polFrac i
    let n : Int := ((len - 64) * polScale : Nat)
    let tc := signed 32 (imgF 32 img 2 63 32) * sc + (fr.1 : Nat)
    let tp := signed 32 (imgF 32 img 2 31 0) * sc + (fr.2 : Nat)
    (s.polStore i (if a then tc - n else tc) (if b then tp - n else tp) false).setFr f { s.fr f with pol := none }

/-- The end, for the data path, of a frame that was handed to its pipe earlier: its bytes, length and goodness are in it. -/
def State.frameEnds (s : State) (f : Nat) : State :=
  let s0 := (s.mirrorFill f).expGrow f
  let x := s0.fr f
  if x.bad then s0.failFrame f
  else if x.stage == 3 then s0.forwardHeld f
  else if x.stage == 2 then
    let late := match x.claim with | some c => decide (x.body.length < c) && !x.trunc | none => false
    if late then ((s0.countLength f 4).rxAdd x.origPort 5 1).failFrame f
    else
      let c := bits x.legend 35 22
      let s1 := if c == 0 then s0 else s0.ruleAdd (ruleKey x.pipe c 1) x.len
      let s2 := ((s1.polRest f x.len).exactCells f x.len).txArrived f
      let out := s2.ports.find? (fun e => e.2.exp.any (fun i => i.f == f) || (match e.2.tx with | some t => t.kind == 1 && t.item.f == f | none => false))
      (match out with | some e => s2.expCells x.pipe e.1 x.len | none => s2).reap f
  else s0

/-- A good frame's accounting token follows once its fate is known (R433). -/
def State.rxGood (s : State) (f n : Nat) : State := (s.setFr f { s.fr f with rxLen := some n }).rxToken f

/-! ### Header-window capture -/

/-- The ingress timestamp and residence reading (R340, R341): `lead` is the time, in 2^-16 ns, since the timestamp point. -/
def State.ingressStamp (s : State) (p lead : Nat) : Nat × Nat :=
  let a := adj16 (s.rget Reg.MERID_RX_ADJ 0 [p])
  (((((s.short * 65536 + s.frac16 : Nat) : Int) - (lead : Nat) + a) % ((2 ^ 64 : Nat) : Int)).toNat,
   wrapInt 64 ((s.mer.resid / 65536 : Nat) - (lead : Nat) + a))

/-- A frame is handed to its pipe: slot, express lookup, header-window capture (R201, R230). -/
def State.handOver (s : State) (f p : Nat) : State :=
  let n := p / 16
  let s1 := s.issueSlot n f
  let x := s1.fr f
  if x.ended && x.bad then s1.capture f p
  else match s1.expFind n p x.data with
  | some i => s1.expressHit f i
  | none => s1.capture f p

/-- FRAME_RECEIVE (R120, R122, R125, R132): bytes of a frame from its destination address on have arrived on port p: its first 64
bytes at least, or all of it with its FCS (`ended`). In retention, only LISTEN lanes match wake patterns. A MAC-merge
verification or an ill-formed fragment (`kind`) is not a frame. -/
def execFrameReceive (p : Nat) (d : List Byte) (i : RxInfo) (s : State) : Out :=
  .next (
    let good := i.ended && !i.marked && fcsGood d
    if 128 ≤ p || !s.portUp p then s
    else if s.dom (p / 16) == 1 then
      (if good && decide (64 ≤ d.length) && bit (s.rget Reg.PORT_LISTEN (p / 16)) (p % 16) then s.listenFrame p d else s)
    else if !s.domOn (p / 16) || (s.px p).rx.isSome then s
    else match i.kind with
    | 1 => if s.ron Reg.PORT_PREEMPT_EN p then s.txAdd p 35 1 else s
    | 2 => if s.rget Reg.PORT_VERIFY p == 1 then s.rput Reg.PORT_VERIFY 2 p else s
    | 3 => s.rxAdd p 37 1
    | 4 => s.rxAdd p 38 1
    | _ =>
      let s0 := (s.rxAdd p 39 i.frags).rxAdd p 6 (b2n i.symErr)
      let mx := s.rget Reg.PORT_MAX_LEN p
      let st := s0.ingressStamp p i.lead
      let f := s0.nextFrame
      let x : Frame := { inPort := p, origPort := p, pipe := p / 16, data := pathBytes mx d, ended := i.ended || decide (mx < d.length),
                         len := min mx d.length, bad := i.ended && !good && decide (d.length ≤ mx), trunc := decide (mx < d.length), ts := some st.1, resid := st.2 }
      let born (t : State) : State := { t with nextFrame := f + 1, frames := sins t.frames f x }
      if i.ended then
        let s1 := s0.rxEndStats p d good
        if d.length < 64 then s1
        else if isCtrl d then (if good && decide (d.length ≤ mx) then s1.macControl p d else s1)
        else
          let s2 := (born s1).handOver f p
          if good then s2.rxGood f d.length else s2
      else if d.length < 64 then s0
      else
        let s1 := born s0
        let s2 := s1.setPx p { s1.px p with rx := some f, rxAll := d }
        if isCtrl d then s2.setFr f { s2.fr f with stage := 2, fate := some false } else s2.handOver f p)

/-- FRAME_END (R121, R122, R176, R245, R304): more bytes of the frame in reception on port p have arrived, and with `ended` its
end. -/
def execFrameEnd (p : Nat) (rest : List Byte) (i : RxInfo) (s : State) : Out :=
  .next (match (s.px p).rx with
    | none => s
    | some f =>
      let all := (s.px p).rxAll ++ rest
      let mx := s.rget Reg.PORT_MAX_LEN p
      let x := s.fr f
      let ctrl := isCtrl all
      let cutNow := decide (mx < all.length) && !x.trunc
      let good := !i.marked && fcsGood all
      let s0 := (s.rxAdd p 39 i.frags).rxAdd p 6 (b2n i.symErr)
      -- the data path
      let y : Frame := if x.trunc then x else { x with data := pathBytes mx all, trunc := cutNow, len := min mx all.length,
                                                       ended := i.ended || cutNow, bad := i.ended && !cutNow && !good }
      let s1 := s0.setFr f y
      if !i.ended then
        let s2 := s1.setPx p { s1.px p with rxAll := all }
        if ctrl then s2 else if cutNow then s2.frameEnds f else s2.expGrow f
      else
        let s2 := (s1.setPx p { s1.px p with rx := none, rxAll := [] }).rxEndStats p all good
        if ctrl then (if good && decide (all.length ≤ mx) then s2.macControl p all else s2).reap f
        else
          let s3 := if good then s2.rxGood f all.length else s2
          if x.trunc then s3.reap f else s3.frameEnds f)

end Sys2Proof.Machine
end

