-- ==== Sys2Proof/Machine/Slath.lean ====
section
/-! DEFINITION. The Slath matrix (R239 to R243), XOFF (R248), Creel's cache (R252), spill and read-back (R255 to R257) and loans
returned by register (R254, R378): the meanings of SLATH_CELL_TIME, CREEL_CACHE_MAINT, SPILL_INIT_DONE, SPILL_COPY_DONE,
READ_BACK_DONE, LOAN_RETURN and LOAN_RECLAIM. -/

namespace Sys2Proof.Machine

open Sys2Proof

/-! ### Cells -/

/-- Cell c of a frame is present: all its 256 bytes have come, or the frame has ended inside it. -/
def State.cellHere (s : State) (f c : Nat) : Bool :=
  let x := s.fr f
  if x.ended then decide (256 * c < x.len) else decide (256 * (c + 1) ≤ x.data.length)

/-- A frame that ends before cell c begins has no cell c. -/
def State.cellPast (s : State) (f c : Nat) : Bool := (s.fr f).ended && decide ((s.fr f).len ≤ 256 * c)

/-- The cells of a frame that are present. -/
def State.cellsHere (s : State) (f : Nat) : Nat := let x := s.fr f; if x.ended then ceilDiv x.len 256 else x.data.length / 256

/-- The first cell of a frame that input i has not written everywhere, if the frame still has cells to cross. -/
def State.inFirst (s : State) (i f : Nat) : Option Nat :=
  let x := s.sin i
  let u := x.uc.flatMap (fun e => (e.2.filter (fun c => c.1 == f)).map (·.2))
  let m := (x.mc.filter (fun c => c.f == f)).map (·.cell)
  let l := if i < 8 then ((sget (fun _ => []) s.slath.loc i).filter (fun c => c.1 == f)).map (·.2) else []
  match u ++ m ++ l with
  | [] => none
  | c :: r => some (r.foldl min c)

/-- The frames of an input with the number of its cells in flight before each, in the order they were handed over (R240). -/
def State.flight (s : State) (i : Nat) : List (Nat × Nat × Nat) :=
  ((s.sin i).order.foldl (fun (a : List (Nat × Nat × Nat) × Nat) f =>
    match s.inFirst i f with
    | some c => (a.1 ++ [(f, a.2, c)], a.2 + (s.cellsHere f - c))
    | none => a) ([], 0)).1

/-- The cells of a pipe that wait at its input, the held ones included. -/
def State.flightCells (s : State) (i : Nat) : Nat :=
  ((s.sin i).order.map (fun f => match s.inFirst i f with | some c => s.cellsHere f - c | none => 0)).sum

/-- Cell c of frame f has been handed over by input i: a pipe has at most 512 cells in flight. -/
def handed (fl : List (Nat × Nat × Nat)) (i f c : Nat) : Bool :=
  decide (8 ≤ i) || fl.any (fun e => e.1 == f && decide (e.2.1 + (c - e.2.2) < 512))

/-! ### Matching (R241) -/

/-- Output o can take a cell: its domain is on, and a Plait engine has room (R312). -/
def State.outOpen (s : State) (o : Nat) : Bool :=
  if o < 8 then s.domOn (16 + o)
  else s.domOn (19 + o) && decide (((sget (fun _ => []) s.plaitIn (o - 8)).map (·.cells)).sum < 512)

/-- The outputs that the unicast queues of input i request. -/
def State.ucReq (s : State) (fl : List (Nat × Nat × Nat)) (i : Nat) : List Nat :=
  (List.range 12).filter (fun o => s.outOpen o && (match sget (fun _ => []) (s.sin i).uc o with
    | (f, c) :: _ => s.cellHere f c && handed fl i f c
    | [] => false))

/-- The residue of the multicast head of input i. -/
def State.mcReq (s : State) (fl : List (Nat × Nat × Nat)) (i : Nat) : List Nat :=
  match (s.sin i).mc with
  | m :: _ => if s.cellHere m.f m.cell && handed fl i m.f m.cell then m.residue.filter s.outOpen else []
  | [] => []

/-- The progress of one cell time: grant pointers, accept pointers, matched outputs, and the inputs that send with the
multicast mark and their outputs. -/
structure Matching where
  gptr : Sparse Nat
  aptr : List (Nat × Nat)
  outs : List Nat
  sent : List (Nat × Bool × List Nat)
  deriving DecidableEq, Repr

/-- The first number of a list in the order p, p + 1, ... modulo 12. -/
def firstFrom (p : Nat) (l : List Nat) : Option Nat := ((List.range 12).map (fun k => (p + k) % 12)).find? (fun x => l.contains x)

/-- One request, grant and accept iteration. -/
def matchIter (reqs : List (Nat × List Nat × List Nat)) (turn : Nat → Bool) (first : Bool) (m : Matching) : Matching :=
  let free (i : Nat) : Bool := !m.sent.any (fun e => e.1 == i)
  let grants : List (Nat × Nat) := ((List.range 12).filter (fun o => !m.outs.contains o)).filterMap (fun o =>
    (firstFrom (sget (fun _ => 0) m.gptr o)
      ((reqs.filter (fun r => free r.1 && (r.2.1.contains o || r.2.2.contains o))).map (·.1))).map (fun i => (i, o)))
  reqs.foldl (fun (a : Matching) r =>
    let i := r.1
    let g := (grants.filter (fun e => e.1 == i)).map (·.2)
    let mm := g.filter (fun o => r.2.2.contains o)
    let u := g.filter (fun o => r.2.1.contains o)
    if g.isEmpty then a
    else
      let isMc := !mm.isEmpty && (turn i || u.isEmpty)
      let acc := if isMc then mm else (firstFrom (((a.aptr.find? (fun e => e.1 == i)).map (·.2)).getD 0) u).toList
      { gptr := if first then acc.foldl (fun t o => sset (fun _ => 0) t o ((i + 1) % 12)) a.gptr else a.gptr
        aptr := if first && !isMc then a.aptr.map (fun e => if e.1 == i then (i, (acc.headD 0 + 1) % 12) else e) else a.aptr
        outs := a.outs ++ acc
        sent := a.sent ++ [(i, isMc, acc)] }) m

/-! ### Cells that move -/

/-- A cell of frame f reaches output o from input i; `bad` is a CRC failure (R258). A Plait engine treats a frame that
lacks a cell as one whose FCS fails (DEDUCED, log entry 34). -/
def State.takeCell (s : State) (f i o : Nat) (bad : Bool) : State :=
  let s1 := s.cinc Reg.SLATH_XBAR_CNT 0 [0]
  let s2 := if bad then
      (let t := ((s1.cinc Reg.SLATH_CRC_LOC 0 [i, o]).cinc Reg.SLATH_XBAR_CNT 0 [6]).raise 880
       if t.ron Reg.SLATH_VALID_104 then t else ((t.rput Reg.SLATH_IN i).rput Reg.SLATH_OUT o).rput Reg.SLATH_VALID_104 1)
    else s1
  if o < 8 then
    let c := s2.copy f o
    let s3 := if c.refs == 0 then s2 else
      (let t := s2.setCopy f o { c with written := c.written + 1, bad := c.bad || bad }
       if c.written == 0 then t.firstCell f o else t)
    if bad then
      let g (t : Option Tx) : Option Tx := t.map (fun x => if x.kind == 0 && x.item.f == f && x.item.b == o then { x with bad := true, dataErr := true } else x)
      { s3 with ports := smap (fun _ => {}) (fun _ x => { x with tx := g x.tx, pre := g x.pre }) s3.ports }
    else s3
  else
    let k := o - 8
    let l := sget (fun _ => []) s2.plaitIn k
    let l1 := if l.any (fun e => e.f == f) then l.map (fun e => if e.f == f then { e with cells := e.cells + 1, bad := e.bad || bad } else e)
      else l ++ [⟨f, bits (s2.fr f).legend 59 52, 1, bad⟩]
    ({ s2 with plaitIn := sset (fun _ => []) s2.plaitIn k l1 } : State).setFate f true

/-- The unicast head of input i toward output o has been sent. -/
def State.ucSent (s : State) (i o : Nat) : State :=
  let x := s.sin i
  match sget (fun _ => []) x.uc o with
  | (f, c) :: r => s.setSin i { x with turn := true, uc := sset (fun _ => []) x.uc o (if s.cellPast f (c + 1) then r else (f, c + 1) :: r) }
  | [] => s

/-- The multicast head of input i has gone to the outputs `acc`: its residue shrinks, or its next cell heads the queue (R242). -/
def State.mcSent (s : State) (i : Nat) (acc : List Nat) : State :=
  let x := s.sin i
  let turn := s.rget Reg.SLATH_MC_PRIO == 1
  match x.mc with
  | m :: r =>
    let left := m.residue.filter (fun o => !acc.contains o)
    if left.isEmpty then
      let rest := if s.cellPast m.f (m.cell + 1) then r else { m with residue := m.fan, cell := m.cell + 1 } :: r
      (s.setSin i { x with turn := turn, mc := rest }).cinc Reg.SLATH_XBAR_CNT 0 [2]
    else (s.setSin i { x with turn := turn, mc := { m with residue := left } :: r }).cinc Reg.SLATH_XBAR_CNT 0 [3]
  | [] => s

/-- Frames that have no further cell leave the queues of the matrix and of the local ports. -/
def State.slathPrune (s : State) : State :=
  let uc (l : List (Nat × Nat)) : List (Nat × Nat) := l.filter (fun c => !s.cellPast c.1 c.2)
  let gone (i f : Nat) : Bool := (s.inFirst i f).isNone
  let ins := smap (fun _ => {}) (fun i (x : SlathIn) => { x with
    uc := smap (fun _ => []) (fun _ l => uc l) x.uc, mc := x.mc.filter (fun m => !s.cellPast m.f m.cell),
    order := x.order.filter (fun f => !gone i f) }) s.slath.ins
  { s with slath := { s.slath with ins := ins, loc := smap (fun _ => []) (fun _ l => uc l) s.slath.loc } }

/-- The local port of slice n writes one cell (R240). -/
def State.localCell (s : State) (n : Nat) : State :=
  match sget (fun _ => []) s.slath.loc n with
  | (f, c) :: r =>
    if s.domOn (16 + n) && s.cellHere f c && handed (s.flight n) n f c then
      let x := s.copy f n
      let s1 := { s with slath := { s.slath with loc := sset (fun _ => []) s.slath.loc n (if s.cellPast f (c + 1) then r else (f, c + 1) :: r) } }
      (if x.refs == 0 then s1 else
        (let t := s1.setCopy f n { x with written := x.written + 1 }
         if x.written == 0 then t.firstCell f n else t)).cinc Reg.SLATH_XBAR_CNT 0 [1]
    else s
  | [] => s

/-- The matrix in one cell time. -/
def State.matrixTime (s : State) (fails : List (Nat × Nat)) : State :=
  let reqs := (List.range 12).map (fun i => let fl := s.flight i; (i, s.ucReq fl i, s.mcReq fl i))
  let turn (i : Nat) : Bool := (s.sin i).turn
  let m0 : Matching := ⟨s.slath.gptr, (List.range 12).map (fun i => (i, (s.sin i).aptr)), [], []⟩
  let m := matchIter reqs turn false (matchIter reqs turn true m0)
  let s1 : State := { s with slath := { s.slath with gptr := m.gptr } }
  let s2 := m.aptr.foldl (fun (t : State) e => t.setSin e.1 { t.sin e.1 with aptr := e.2 }) s1
  m.sent.foldl (fun (t : State) e =>
    let i := e.1
    let f := if e.2.1 then ((t.sin i).mc.map (·.f)).headD 0
      else ((sget (fun _ => []) (t.sin i).uc (e.2.2.headD 0)).map (·.1)).headD 0
    let t1 := e.2.2.foldl (fun (u : State) o => u.takeCell f i o (fails.contains (i, o))) t
    if e.2.1 then t1.mcSent i e.2.2 else t1.ucSent i (e.2.2.headD 0)) s2

/-- SLATH_CELL_TIME (R239 to R242, R248, R258): one cell time. The cells whose CRC-32C fails are those that cross from input to
output as `fails` names. The XOFF units of every port are compared with their thresholds. -/
def execSlathCellTime (fails : List (Nat × Nat)) (s : State) : Out :=
  .next (
    let s0 := s.slathPrune
    let held := (List.range 8).any (fun i => decide (512 < s0.flightCells i))
    let heldP (k : Nat) : Bool := decide (512 ≤ ((sget (fun _ => []) s0.plaitIn k).map (·.cells)).sum) &&
      s0.slath.ins.any (fun e => !(sget (fun _ => []) e.2.uc (8 + k)).isEmpty || e.2.mc.any (fun m => m.residue.contains (8 + k)))
    let s1 := if held then s0.cadd Reg.SLATH_XBAR_CNT 2 0 [5] else s0
    let s2 := (List.range 4).foldl (fun (t : State) k => if heldP k then t.cadd Reg.PLAIT_CNT 2 0 [k, 19] else t) s1
    let s3 := if s2.domOn 24 then s2.matrixTime fails else s2
    let s4 := (List.range 8).foldl (fun (t : State) n => t.localCell n) s3
    (List.range 128).foldl (fun (t : State) p => t.pauseRequest p) s4.slathPrune)

/-! ### Creel's cache (R251, R252) -/

/-- The pointers in the free-store ring of a basket. -/
def State.ringCount (s : State) (b : Nat) : Nat := s.rget Reg.SLATH_SPILL_FREE b - s.rget Reg.SLATH_CACHE_FILL b

/-- CREEL_CACHE_MAINT (R252, R470): the cache of basket b is refilled or flushed in a burst of 64; pointers that wait for a
flush go with it. An uncorrectable error at address `ecc` of a pointer read drops that pointer. -/
def execCreelCacheMaint (b : Nat) (ecc : Option Nat) (s : State) : Out :=
  .next (
    if 8 ≤ b || s.rget Reg.SLATH_SPILL_STATE b != 2 || !s.domOn (16 + b) then s
    else
      let c := s.rget Reg.SLATH_CACHE_FILL b
      let n := min 64 (s.ringCount b)
      let s1 := if c < s.rget Reg.SLATH_REFILL_TH b && 0 < n then
          (let t := ((s.rput Reg.SLATH_CACHE_FILL (c + n) b).cinc Reg.SLATH_BASKET_CNT b [11]).lp4xUse false
           match ecc with
           | some a =>
             let u := ((t.lp4xEcc a).rsub Reg.SLATH_CACHE_FILL 1 b).rsub Reg.SLATH_SPILL_FREE 1 b
             u.raiseIf (u.rget Reg.SLATH_SPILL_FREE b == 0) (890 + 4 * b)
           | none => t)
        else s
      let c1 := s1.rget Reg.SLATH_CACHE_FILL b
      if s1.rget Reg.SLATH_FLUSH_TH b < c1 then
        let x := s1.crl b
        ((((s1.rput Reg.SLATH_CACHE_FILL (c1 - 64) b).radd Reg.SLATH_SPILL_FREE x.wait b).setCrl b { x with wait := 0 }).cinc
          Reg.SLATH_BASKET_CNT b [12]).lp4xUse true
      else s1)

/-- SPILL_INIT_DONE (R251): the free-store ring of basket b is written; every spill block is free. -/
def execSpillInitDone (b : Nat) (s : State) : Out :=
  .next (
    if b < 8 && s.rget Reg.SLATH_SPILL_STATE b == 1 && s.domOn (16 + b) then
      let n := s.rget Reg.SLATH_SPILL_BLOCKS b
      (((s.rput Reg.SLATH_SPILL_STATE 2 b).rput Reg.SLATH_SPILL_FREE (n - ceilDiv n 512) b).rput Reg.SLATH_CACHE_FILL 0 b).lp4xUse true
    else s)

/-! ### Spill and read-back (R256, R257) -/

/-- SPILL_COPY_DONE (R256): the spill engine of basket b has copied the oldest frame that queue q admitted for spilling.
Its cells, descriptor and ingress charge return; a copy spoilt by a CRC error is discarded and counted. -/
def execSpillCopyDone (b q : Nat) (s : State) : Out :=
  .next (
    let x := s.q q
    match x.pend with
    | it :: r =>
      let f := s.fr it.f
      let c := s.copy it.f b
      if it.b != b || !f.ended || !s.stored it.f b || !s.domOn (16 + b) || !s.lp4xReady then s
      else if c.bad then
        (((s.setQ q { x with pend := r }).dropItem it).cinc Reg.SLATH_BASKET_CNT b [16]).noteEmpty q
      else match s.spillTake b (ceilDiv f.len 2048) with
      | none => s
      | some s1 =>
        let s2 := ((s1.radd Reg.SLATH_CELLS_FREE c.k b).radd Reg.SLATH_DESC_FREE 1 b).chargeUnit c.unit false c.k
        let s3 := s2.setCopy it.f b { c with loc := 1, blocks := ceilDiv f.len 2048, unit := none }
        let s4 := (s3.setQ q { x with pend := r, lp := x.lp ++ [{ it with ptr := s3.freeNat % 2 ^ 23 }] }).useFree
        ((s4.cinc Reg.SLATH_BASKET_CNT b [7]).cadd Reg.SLATH_BASKET_CNT f.len b [9]).lp4xUse true
    | [] => s)

/-- The frames of a queue in LP4X are discarded after an uncorrectable error in their list or data (R470). -/
def State.dropSpilled (s : State) (b q : Nat) : State :=
  let x := s.q q
  let s1 := s.setQ q { x with lp := [], spilling := !x.pend.isEmpty, deq := (x.deq + x.lp.length) % 2 ^ 32 }
  -- the blocks of the list are not returned
  let s2 := x.lp.foldl (fun (t : State) i =>
    let c := t.copy i.f b
    (t.setCopy i.f b { c with blocks := 0 }).release i) s1
  (s2.cadd Reg.SLATH_BASKET_CNT x.lp.length b [16]).noteEmpty q

/-- READ_BACK_DONE (R257, R470): the oldest LP4X frame of queue q of basket b has been read into read-back cells, or its read
met an uncorrectable error at address `ecc`. -/
def execReadBackDone (b q : Nat) (ecc : Option Nat) (s : State) : Out :=
  .next (
    let x := s.q q
    match x.lp with
    | it :: r =>
      let c := s.copy it.f b
      let k := ceilDiv (s.fr it.f).len 256
      if it.b != b || 2 ≤ x.oc.length || (s.crl b).aside < s.rbUsed b + k || !s.domOn (16 + b) || !s.lp4xReady then s
      else match ecc with
      | some a => ((s.lp4xUse false).lp4xEcc a).dropSpilled b q
      | none =>
        let s1 := (s.unchargeItem it).spillGive b c.blocks
        let s2 := s1.setCopy it.f b { c with loc := 2, blocks := 0, k := k }
        let s3 := (s2.setQ q { x with lp := r, oc := x.oc ++ [{ it with chg := 0, ptr := s2.freeNat % 65536 }],
                                      spilling := !r.isEmpty || !x.pend.isEmpty }).useFree
        ((s3.cinc Reg.SLATH_BASKET_CNT b [8]).cadd Reg.SLATH_BASKET_CNT (s.fr it.f).len b [10]).lp4xUse false
    | [] => s)

/-! ### Loans returned by register -/

/-- LOAN_RETURN (R378, R253): a write of LOAN_RETURN. -/
def execLoanReturn (m : Master) (value : Word) (s : State) : Out :=
  .next (s.guardWrite m 5 0x300 value (fun t _ => t.loanReturn (bits value.toNat 14 12) (bits value.toNat 11 0) m.id))

/-- LOAN_RECLAIM (R254): a write of LOAN_RECLAIM; GO returns the loans of ID. -/
def execLoanReclaim (m : Master) (value : Word) (s : State) : Out :=
  .next (s.guardWrite m 9 0x300 value (fun t i => if bit value.toNat 31 then t.loanReclaim i (bits value.toNat 4 0) else t))

end Sys2Proof.Machine
end

