-- ==== Sys2Proof/Machine/Pager.lean ====
section
/-! DEFINITION. Queue contexts and paging (R265, R269 to R274) and the end of HOLD (R276): the meanings of PAGE_IN_START,
EVICTION, PAGE_IN_DONE, QPAGE_FAULT and HOLD_EXPIRY. -/

namespace Sys2Proof.Machine

open Sys2Proof

/-! ### Choices that the spec leaves to the block -/

/-- One element of a list, which one being a free value; none of an empty list. -/
def State.choose (s : State) (l : List Nat) : State × Option Nat :=
  match l with
  | [] => (s, none)
  | [a] => (s, some a)
  | _ => (s.useFree, l[s.freeNat % l.length]?)

/-! ### Contexts (R265) -/

/-- The bytes of a frame that a queue counts: its length, or what has come of it. -/
def State.frameBytes (s : State) (f : Nat) : Nat := let x := s.fr f; if x.ended then x.len else x.data.length

/-- The eight words of a queue's context. -/
def State.qctxWords (s : State) (q : Nat) : List Nat :=
  let x := s.q q
  let o := s.obj q
  let ptr (l : Option Item) : Nat := match l with | some i => i.ptr | none => 0
  let byt (l : List Item) : Nat := (l.map (fun i => s.frameBytes i.f)).sum
  [ptr x.oc.head? * 2 ^ 48 + ptr x.oc.getLast? * 2 ^ 32 + x.oc.length % 65536 * 65536 + s.ocCells q % 65536,
   byt x.oc % 2 ^ 32 * 2 ^ 32 + x.spillTh * 65536 + o.weight,
   ptr x.lp.head? * 2 ^ 32 + ptr x.lp.getLast?,
   x.lp.length % 2 ^ 24 * 2 ^ 40 + byt x.lp % 2 ^ 40,
   wrapInt 32 o.cirC * 2 ^ 32 + wrapInt 32 o.eirC,
   o.stime * 65536,
   wrapInt 24 o.deficit * 2 ^ 40 + o.band % 8 * 2 ^ 37 + o.parent % 8192 * 2 ^ 24,
   x.enq * 2 ^ 32 + x.deq]

/-- A queue's context takes its initial values (R265): credits at the bursts, every other shaper field 0. -/
def State.ctxInit (s : State) (q : Nat) : State :=
  let o := s.obj q
  let x := s.q q
  (s.setObj q { o with cirC := (o.cbs : Nat), eirC := (o.ebs : Nat), cTime := 0, eTime := 0, deficit := 0, wheel := none }).setQ q
    { x with enq := 0, deq := 0 }

/-- Byte address of a queue's home context in LP4X (R273). -/
def State.qctxHome (s : State) (q : Nat) : Nat := s.rget Reg.QUEUE_QCTX_BASE * 2048 + 64 * q

/-- Queue paging is READY with its controllers (R273). -/
def State.pagingReady (s : State) : Bool := s.rget Reg.QUEUE_PAGING_STATE == 1 && s.lp4xReady

/-! ### Slots -/

/-- The queues that hold a slot of basket b. -/
def State.slotHolders (s : State) (b : Nat) : List (Nat × Queue) :=
  s.queues.filter (fun e => (e.2.resident || e.2.paging) && !isFixed e.1 && pipeOfPort e.2.port == b)

/-- Free resident slots of a basket (R278). -/
def State.slotsFree (s : State) (b : Nat) : Nat := 2048 - (s.slotHolders b).length

/-- A free slot of basket b: which one is a free value. -/
def State.takeSlot (s : State) (b : Nat) : State × Nat :=
  let used := (s.slotHolders b).map (·.2.slot)
  let r := s.choose ((List.range 2048).filter (fun k => !used.contains k))
  (r.1, r.2.getD 0)

/-- A queue is evictable (R270). -/
def State.evictable (s : State) (q : Nat) : Bool :=
  let x := s.q q
  x.resident && !x.pinned && !x.paging && !isFixed q && s.queueEmpty q &&
  !(decide (x.port < 128) && s.rget Reg.QUEUE_HOLD_STATE 0 [x.port] == 1)

/-- The evictable queues of basket b whose last use is the oldest. -/
def State.lruQueues (s : State) (b : Nat) : List Nat :=
  let c := (s.slotHolders b).filter (fun e => s.evictable e.1)
  match c.map (·.2.lastUse) with
  | [] => []
  | t :: r => let m := r.foldl min t; (c.filter (fun e => e.2.lastUse == m)).map (·.1)

/-- Evicts a queue: its context is written home (64 bytes) and its slot is free. -/
def State.evictQueue (s : State) (b q : Nat) : State :=
  let s1 := (s.mwrite (lp4xKey (s.qctxHome q)) ((s.qctxWords q).flatMap (beBytes 8))).lp4xUse true
  (s1.setQ q { s1.q q with resident := false, slot := 0 }).cinc Reg.QUEUE_CNT 0 [b, 2]

/-- Evicts the least recently used evictable queue, if there is one and paging is ready; the Bool says whether one was. -/
def State.evictOne (s : State) (b : Nat) : State × Bool :=
  if !s.pagingReady then (s, false)
  else
    let r := s.choose (s.lruQueues b)
    match r.2 with
    | some q => (r.1.evictQueue b q, true)
    | none => (s, false)

/-- EVICTION (R269, R270): below `EVICT_LOW` free slots, the pager of basket b evicts one queue. -/
def execEviction (b : Nat) (s : State) : Out :=
  .next (if b < 8 && s.domOn (16 + b) && decide (s.slotsFree b < s.rget Reg.QUEUE_EVICT_LOW 0 [b]) then (s.evictOne b).1 else s)

/-! ### Page-ins -/

/-- The queue that the pager serves next: a pin request, else the queue of the oldest staged entry. -/
def State.nextPageIn (s : State) (b : Nat) : Option Nat :=
  let ok (q : Nat) : Bool := let x := s.q q; !x.resident && !x.paging && x.alloc && x.mapped
  match (s.pager b).pins.find? ok with
  | some q => some q
  | none => ((s.pager b).staged.map (·.queue)).find? ok

/-- The page-in of queue q waits (R272, R273). -/
def State.pageWait (s : State) (b q : Nat) : State :=
  let g := s.pager b
  if g.waitQ == some q then s else s.setPager b { g with waitQ := some q, waitAt := s.now, faulted := false }

/-- A page-in of basket b waits: the one that waited is still the next (R269, R272). -/
def State.pageWaiting (s : State) (b : Nat) : Bool :=
  match (s.pager b).waitQ with
  | some q => s.nextPageIn b == some q
  | none => false

/-- PAGE_IN_START (R269): the pager of basket b starts a page-in: at most four in flight, LP4X starts 256 cycles apart, one start
of a FRESH queue per cell time; with no free slot it evicts or waits. -/
def execPageInStart (b : Nat) (s : State) : Out :=
  .next (
    let g := s.pager b
    let inFlight := ((s.slotHolders b).filter (fun e => e.2.paging)).length
    match s.nextPageIn b with
    | none => if g.waitQ.isSome then s.setPager b { g with waitQ := none, faulted := false } else s
    | some q =>
      let fresh := (s.q q).fresh
      let spaced := match (if fresh then g.lastFresh else g.lastStart) with
        | some t => decide (t + (if fresh then 2 else 256) ≤ s.now)
        | none => true
      if 8 ≤ b || !s.domOn (16 + b) || 4 ≤ inFlight || !spaced then s
      else if !fresh && !s.pagingReady then s.pageWait b q
      else
        let r := if s.slotsFree b == 0 then s.evictOne b else (s, true)
        if !r.2 then s.pageWait b q
        else
          let sl := r.1.takeSlot b
          let s1 := sl.1.setQ q { sl.1.q q with paging := true, slot := sl.2, pageAt := s.now, pageRead := !fresh }
          let g1 := s1.pager b
          let s2 := s1.setPager b { g1 with lastStart := if fresh then g1.lastStart else some s.now, lastFresh := if fresh then some s.now else g1.lastFresh,
                                            pins := g1.pins.filter (· != q), waitQ := none, faulted := false }
          s2.cinc Reg.QUEUE_CNT 0 [b, if fresh then 1 else 0])

/-- The staged frames of a queue are enqueued in staging order (R269, R271). -/
def State.unstage (s : State) (b q : Nat) : State :=
  let g := s.pager b
  let mine := g.staged.filter (fun i => i.queue == q)
  let s1 := (s.setPager b { g with staged := g.staged.filter (fun i => i.queue != q) }).rsub Reg.QUEUE_STAGED mine.length 0 [b]
  mine.foldl (fun t i => t.enqueue i) s1

/-- PAGE_IN_DONE (R269, R274, R290): the page-in of queue q completes; with `ecc` its home context was uncorrectable and it takes
its initial values. A QPIN that waits for it completes (R79). -/
def execPageInDone (q : Nat) (ecc : Bool) (s : State) : Out :=
  .next (
    let x := s.q q
    let b := s.queueBasket q
    if !x.paging || !s.domOn (16 + b) || (x.pageRead && !s.pagingReady) || (!x.pageRead && decide (s.now < x.pageAt + 16)) then s
    else
      let s0 := if x.pageRead then s.lp4xUse false else s
      let s1 := if x.pageRead && ecc then
          (((s0.lp4xEcc (s.qctxHome q)).ctxInit q).cinc Reg.QUEUE_CNT 0 [b, 5]).raise (921 + 2 * b)
        else if x.fresh then s0.ctxInit q else s0
      let s2 := (s1.setQ q { s1.q q with resident := true, paging := false, fresh := false, pageRead := false }).refreshObj q
      let s3 := s2.unstage b q
      s3.waiters.foldl (fun t w => match w.2.kind with
        | .qpin k => if k == q then (t.setQ q { t.q q with pinned := true }).endWait w.1 stOK else t
        | _ => t) s3)

/-- QPAGE_FAULT (R272): a page-in of basket b has waited 10 µs for a slot. -/
def execQpageFault (b : Nat) (s : State) : Out :=
  .next (
    let g := s.pager b
    if b < 8 && s.pageWaiting b && !g.faulted && decide (g.waitAt + 10 * us ≤ s.now) then
      (s.setPager b { g with faulted := true }).raise (921 + 2 * b)
    else s)

/-! ### HOLD (R276) -/

/-- HOLD_EXPIRY (R276): the HOLD timer of port p expires: DOWN, and its queues are flushed. -/
def execHoldExpiry (p : Nat) (s : State) : Out :=
  .next (
    if p < 128 && s.rget Reg.QUEUE_HOLD_STATE 0 [p] == 1 && decide ((s.px p).holdEnd ≤ s.now) then
      (s.rput Reg.QUEUE_HOLD_STATE 0 0 [p]).flushPort p
    else s)

end Sys2Proof.Machine
end

