-- ==== Sys2Proof/Machine/Sched.lean ====
section
/-! DEFINITION. Selection (R281 to R287), the Graticule (R289), deadlines (R301) and recirculation (R223): the meanings of
SCHED_SELECT, GRATICULE_VISIT, DEADLINE_SLOT and RECIRC_REENTRY. -/

namespace Sys2Proof.Machine

open Sys2Proof

/-- The ports that a pipe's scheduler serves, in ascending order. -/
def portsOfPipe (n : Nat) : List Nat :=
  (List.range 16).map (fun i => 16 * n + i) ++
  (if n == 0 then (List.range 16).map (· + 128) else if n == 1 then (List.range 8).map (· + 144) else [])

/-- 38 core cycles in 1/8 ns (R285). -/
def projection : Nat := 190

/-- The projected start of a selection that begins now, in 1/8 ns. -/
def State.projected (s : State) : Nat := (s.t8 + projection) % 2 ^ 51

/-! ### Candidates (R285, R299, R300) -/

/-- The head frame of a queue makes the queue a candidate: it is on chip (its first cell is written) and due. -/
def State.headReady (s : State) (it : Item) : Bool :=
  let c := s.copy it.f it.b
  (decide (0 < c.written) || c.loc == 2) &&
  (match it.launch with | some t => decide (-((projection : Nat) : Int) ≤ diff8 s.t8 (8 * t)) | none => true)

/-- The candidate queues of port p and class c. A queue whose hierarchy leads to another port is never one (DESIGN CHOICE, log
entry 35). -/
def State.candidates (s : State) (p c : Nat) : List Nat :=
  (s.queues.filter (fun e =>
    let x := e.2
    x.alloc && x.mapped && x.resident && x.port == p && x.cls == c && !isFixed e.1 &&
    (match x.oc with | it :: _ => s.headReady it | [] => false) &&
    (s.obj (l1Key (s.obj (l2Key (s.obj e.1).parent)).parent)).parent == p)).map (·.1)

/-! ### Choice of a child (R285, R286) -/

/-- An object may be chosen under the committed (true) or the excess rate. -/
def Obj.okRate (x : Obj) (committed : Bool) : Bool :=
  if committed then decide (0 < x.cir) && decide (0 ≤ x.cirC) else decide (0 < x.eir) && decide (0 ≤ x.eirC)

/-- An object may be chosen under some rate. -/
def Obj.okAny (x : Obj) : Bool := x.okRate true || x.okRate false

/-- The first of a rising list at or after a key, going round. -/
def fromKey (l : List Nat) (k : Nat) : List Nat := l.filter (fun x => k ≤ x) ++ l.filter (fun x => x < k)

/-- `dwrr` (R286) among the children of object x in a band: the deficits after quanta were given, and the child chosen. -/
def State.dwrr (s : State) (x band : Nat) (ch : List Nat) : State × Option Nat :=
  match ch with
  | [] => (s, none)
  | c0 :: _ =>
    let ptr := sget (fun _ => 0) s.rounds (8 * x + band)
    let defc (t : State) (k : Nat) : Int := (t.obj k).deficit
    let quant (k : Nat) : Nat := 64 * max 1 (s.obj k).weight
    let s1 := if ch.any (fun k => decide (0 < defc s k)) then s
      else
        let need (k : Nat) : Nat := (-(defc s k)).toNat / quant k + 1
        let n := ch.foldl (fun a k => min a (need k)) (need c0)
        ch.foldl (fun t k => t.setObj k { t.obj k with deficit := (t.obj k).deficit + ((n * quant k : Nat) : Int) }) s
    (s1, (fromKey ch ptr).find? (fun k => decide (0 < defc s1 k)))

/-- `pick` (R285) among the children of x: the child and whether it is chosen under the committed rate. -/
def State.pick (s : State) (x : Nat) (ch : List Nat) : State × Option (Nat × Bool) :=
  match [true, false].find? (fun r => ch.any (fun k => (s.obj k).okRate r)) with
  | none => (s, none)
  | some r =>
    let ok := ch.filter (fun k => (s.obj k).okRate r)
    match [7, 6, 5, 4, 3, 2, 1, 0].find? (fun b => ok.any (fun k => (s.obj k).band == b)) with
    | none => (s, none)
    | some b =>
      let d := s.dwrr x b (ok.filter (fun k => (s.obj k).band == b))
      (d.1, d.2.map (fun k => (k, r)))

/-- A rising list without repeats. -/
def risingSet (l : List Nat) : List Nat := (l.foldl (fun (m : Sparse Bool) k => sins m k true) []).map (·.1)

/-- The selection path below port p for class c: level-1 node, level-2 node and queue, each with the rate under which its
parent chose it. A node counts as having a candidate only where one can be reached (DEDUCED, log entry 36). -/
def State.choosePath (s : State) (p c : Nat) : State × Option (List (Nat × Nat × Bool)) :=
  let q0 := (s.candidates p c).filter (fun q => (s.obj q).okAny)
  let l2of (q : Nat) : Nat := l2Key (s.obj q).parent
  let l1of (j : Nat) : Nat := l1Key (s.obj j).parent
  let q1 := q0.filter (fun q => (s.obj (l2of q)).okAny)
  let a := s.pick (portKey p) (risingSet (q1.map (fun q => l1of (l2of q))))
  match a.2 with
  | none => (s, none)
  | some (i, ri) =>
    let b := a.1.pick i (risingSet ((q1.map l2of).filter (fun j => l1of j == i)))
    match b.2 with
    | none => (s, none)
    | some (j, rj) =>
      let d := b.1.pick j (risingSet (q1.filter (fun q => l2of q == j)))
      match d.2 with
      | none => (s, none)
      | some (q, rq) => (d.1, some [(portKey p, i, ri), (i, j, rj), (j, q, rq)])

/-! ### Charging (R287) -/

/-- The credits after B bytes are debited on a rate. -/
def Obj.debit (x : Obj) (committed : Bool) (n : Nat) : Obj :=
  if committed then { x with cirC := x.cirC - (n : Nat) } else { x with eirC := x.eirC - (n : Nat) }

/-- Charges one step of the path: parent, child, rate. The pointer of the parent's band stays at the child while its deficit is
above 0. -/
def State.chargeStep (s : State) (n : Nat) (e : Nat × Nat × Bool) : State :=
  let x := (s.obj e.2.1).refresh s.short
  let y : Obj := { (x.debit e.2.2 n) with deficit := x.deficit - (n : Nat) }
  let ptr := if y.deficit ≤ 0 then e.2.1 + 1 else e.2.1
  let s1 := s.setObj e.2.1 (y.enter s.short)
  { s1 with rounds := sset (fun _ => 0) s1.rounds (8 * e.1 + x.band) ptr }

/-- Charges a path and its port. -/
def State.chargePath (s : State) (p n : Nat) (path : List (Nat × Nat × Bool)) : State :=
  let s1 := path.foldl (fun t e => t.chargeStep n e) s
  let x := (s1.obj (portKey p)).refresh s1.short
  let y := x.debit (decide (0 ≤ x.cirC) && decide (0 < x.cir)) n
  s1.setObj (portKey p) (y.enter s1.short)

/-! ### Selection (R285) -/

/-- A frame must start no later than this instant, in 1/8 ns (R301). -/
def State.deadline (s : State) (p t : Nat) : Nat := (t + s.rget Reg.SCHED_LAUNCH_WINDOW p) % 2 ^ 48 * 8

/-- The head frame of a queue is taken off it. -/
def State.takeHead (s : State) (q : Nat) : State :=
  let x := s.q q
  (s.setQ q { x with oc := x.oc.tail, deq := (x.deq + 1) % 2 ^ 32, lastUse := s.now }).noteEmpty q

/-- A selection at port p and class c; none where no frame can be selected. -/
def State.selectAt (s : State) (p c : Nat) : Option State :=
  let n := pipeOfPort p
  let r := s.choosePath p c
  match r.2 with
  | some [a, b, e] =>
    let q := e.2.1
    (match (s.q q).oc with
    | it :: _ =>
      let late := match it.launch with | some t => decide (0 < diff8 s.projected (s.deadline p t)) | none => false
      let len := s.schedLen it.f
      if late then
        some ((((s.takeHead q).release it).cinc Reg.SCHED_CNT 0 [n, 1]).schedCause n Reg.SCHED_DEADLINE)
      else if s.gateOversize p c len then
        some ((((s.takeHead q).release it).cinc Reg.SCHED_CNT 0 [n, 3]).schedCause n Reg.SCHED_GATE_OVERSIZE)
      else if (s.copy it.f it.b).bad then some (((s.takeHead q).release it).cinc Reg.SLATH_BASKET_CNT it.b [16])
      else if !s.fits p c s.projected len then none
      else
        let s1 := r.1.chargePath p (len + r.1.rget Reg.SCHED_SHAPER_OVH p) [a, b, e]
        let s2 := s1.takeHead q
        some ((s2.setPx p { s2.px p with ready := sins (s2.px p).ready c it }).cinc Reg.SCHED_CNT 0 [n, 0])
    | [] => none)
  | _ => none

/-- The first selection that can be made at a port: classes from 7 down whose ready slot is empty, while the port's own shaper
permits and the port is not in HOLD or DOWN. -/
def State.selectPort (s : State) (p : Nat) : Option State :=
  let open_ := if p < 128 then s.rget Reg.QUEUE_HOLD_STATE 0 [p] == 2 else true
  if open_ && (s.obj (portKey p)).okAny then
    [7, 6, 5, 4, 3, 2, 1, 0].findSome? (fun c => if (sfind (s.px p).ready c).isSome then none else s.selectAt p c)
  else none

/-- SCHED_SELECT (R285): the scheduler of pipe n makes one selection, going round its ports. -/
def execSchedSelect (n : Nat) (s : State) : Out :=
  .next (
    if 8 ≤ n || !s.domOn (8 + n) || !s.domOn (16 + n) then s
    else
      let ps := portsOfPipe n
      match (fromKey ps ((s.pipe n).rr)).findSome? (fun p => (s.selectPort p).map (fun t => (t, p))) with
      | some (t, p) => t.setPipe n { t.pipe n with rr := p + 1 }
      | none => s)

/-! ### The Graticule (R289) -/

/-- The pipe that owns an object. -/
def State.pipeOfObj (s : State) (k : Nat) : Nat :=
  if 2 ^ 19 ≤ k then pipeOfPort (k - 2 ^ 19) else if 2 ^ 18 ≤ k then (k - 2 ^ 18) / 128 else if 2 ^ 17 ≤ k then (k - 2 ^ 17) / 1024
  else pipeOfPort (s.q k).port

/-- The values of an SHSET are installed (R291): positive credits are clipped to the new bursts, a debt stays; a change of band or parent
clears the deficit. Queues and ports keep their parent, and a port has neither weight nor band (R80, R282). -/
def Obj.install (x : Obj) (v : ShSet) (k : Nat) : Obj :=
  let port := decide (2 ^ 19 ≤ k)
  let w := if port then x.weight else v.weight
  let b := if port then x.band else v.band
  let p := if port || decide (k < 2 ^ 17) then x.parent else v.parent
  { x with cir := v.cir, eir := v.eir, cbs := v.cbs, ebs := v.ebs, weight := w, band := b, parent := p,
           cirC := min x.cirC (v.cbs : Nat), eirC := min x.eirC (v.ebs : Nat),
           deficit := if b == x.band && p == x.parent then x.deficit else 0, set := none }

/-- GRATICULE_VISIT (R289, R292): the slot of object k comes. In the coarse ring the entry moves to the fine ring; in the fine ring
the object is refreshed and, where a rate still lacks credit, entered again. -/
def execGraticuleVisit (k : Nat) (s : State) : Out :=
  .next (
    let x := s.obj k
    let n := s.pipeOfObj k
    match x.set, x.wheel with
    | some v, _ =>
      if 2 ^ 20 ≤ k || s.frozen k || !s.domOn (8 + n) then s
      else s.setObj k (((x.refresh s.short).install v k).enter s.short)
    | none, none => s
    | none, some (t, coarse) =>
      let w := if coarse then 20480 else 5
      let start := if coarse then t / w * w else ceilDiv t w * w
      if 2 ^ 20 ≤ k || s.frozen k || !s.domOn (8 + n) || !s.reached (start % 2 ^ 48) then s
      else
        let s1 := if s.reached ((start + w) % 2 ^ 48) then (s.cinc Reg.SCHED_CNT 0 [n, 4]).schedCause n Reg.SCHED_GRAT_LATE else s
        if coarse then s1.setObj k { x with wheel := some (t, false) }
        else s1.setObj k ((x.refresh s.short).enter s.short))

/-- DEADLINE_SLOT (R301): the frame in ready slot c of port p has stayed there until T + W. -/
def execDeadlineSlot (p c : Nat) (s : State) : Out :=
  .next (match sfind (s.px p).ready c with
    | none => s
    | some it => match it.launch with
      | none => s
      | some t =>
        if decide (0 ≤ diff8 s.t8 (s.deadline p t)) then
          let s1 := (s.setPx p { s.px p with ready := sdel (s.px p).ready c }).release it
          (s1.cinc Reg.SCHED_CNT 0 [pipeOfPort p, 2]).schedCause (pipeOfPort p) Reg.SCHED_DEADLINE
        else s)

/-! ### Recirculation (R223, R24, R426) -/

/-- RECIRC_REENTRY (R223): the head of the recirculation queue of pipe n is dequeued, edited by its first-pass script, and
re-enters the pipe as port 168 + n with the rule set and version of its first pass. -/
def execRecircReentry (n : Nat) (s : State) : Out :=
  .next (
    let q := 65528 + n
    match (s.q q).oc with
    | it :: r =>
      let x := s.fr it.f
      let c := s.copy it.f it.b
      if 8 ≤ n || !s.works (8 + n) || !s.domOn (16 + n) || !x.ended || !s.stored it.f it.b then s
      else
        let ed := if bit x.legend 46 then some (bits x.legend 45 36) else none
        let s0 := s.setQ q { s.q q with oc := r, deq := ((s.q q).deq + 1) % 2 ^ 32, lastUse := s.now }
        if c.bad then (s0.release it).cinc Reg.SLATH_BASKET_CNT it.b [16]
        else if (match ed with | some i => s.poisoned tEDIT 0 i | none => false) then s0.release it
        else
          let e : EditSt := match ed with
            | some i => runEdit (s.tab tEDIT 0 i) x.body (recordBases x.record)
            | none => { data := x.body, bases := [] }
          let d := if e.data.length < 60 then slice e.data 0 60 else e.data
          let f := s.nextFrame
          let y : Frame := { inPort := 168 + n, origPort := x.origPort, pipe := n, data := d ++ leBytes 4 (crc32 d), ended := true,
                             len := d.length + 4, trunc := x.trunc, ts := x.ts, resid := x.resid, how := x.how, rset := x.rset, ver := x.ver,
                             counted := x.counted, pass := 1, launch := x.launch, host := x.host, direct := x.direct, tokened := true }
          let s1 := s0.cadd Reg.FWD_CNT e.errs n [11]
          let s2 := s1.setFr it.f { s1.fr it.f with counted := false }
          let s3 : State := { s2 with nextFrame := f + 1, frames := sins s2.frames f y }
          (((s3.release it).issueSlot n f).capture f (168 + n))
    | [] => s)

end Sys2Proof.Machine
end

