-- ==== Sys2Proof/Machine/Bridge.lean ====
section
/-! DEFINITION. The CPRI bridge (chapter 6): lane enable (R139), frame alignment (R141, R142), defects (R144 to R146), containers
(R147 to R149), mapper (R150, R151), de-mapper (R152 to R156), consequent actions (R157, R158), C&M frames (R159): the
meanings of START_PATTERN to CM_EXTRACT. -/

namespace Sys2Proof.Machine

open Sys2Proof

/-- A lane. -/
def State.lane (s : State) (l : Nat) : LaneX := sget (fun _ => {}) s.lanes l
/-- Replaces it. -/
def State.setLane (s : State) (l : Nat) (x : LaneX) : State := { s with lanes := sset (fun _ => {}) s.lanes l x }

/-! ### Options (R138) -/

/-- Bytes of a basic frame of an option. -/
def cpriBf : Nat → Nat
  | 2 => 32 | 3 => 64 | 4 => 80 | 5 => 128 | 6 => 160 | 7 => 256 | 8 => 256 | 9 => 320 | 10 => 384 | 11 => 768 | _ => 0

/-- Bytes of a hyperframe: 256 basic frames. -/
def cpriHf (o : Nat) : Nat := 256 * cpriBf o

/-- Options 2 to 7 use 8B/10B coding. -/
def cpri8b (o : Nat) : Bool := decide (o ≤ 7)

/-- The payload size of a lane. -/
def State.contSize (s : State) (l : Nat) : Nat := if s.ron Reg.BRIDGE_SIZE l then 2048 else 1024

/-- The options in use of a lane. -/
def State.laneOpt (s : State) (l : Nat) : Nat := s.rget Reg.BRIDGE_OPTION l

/-- The lane is in CPRI mode and its port group is on (R137, R162). -/
def State.laneOn (s : State) (l : Nat) : Bool := decide (l < 24) && s.ron Reg.BRIDGE_EN l && s.domOn (l / 16)

/-- Event `CONTAINER_L`, and `DEFECT_L` (R160). -/
def State.contEvent (s : State) (l : Nat) : State := s.raise (769 + 2 * l)
def State.defectEvent (s : State) (l : Nat) : State := s.raise (768 + 2 * l)

/-- Counts in a lane (R161). -/
def State.laneCnt (s : State) (l i n : Nat) : State := if n == 0 then s else s.cadd Reg.BRIDGE_CNT n l [i]

/-- Whether defect bit i (0 LOS, 1 LOF, 2 RAI, 3 SDI, 4 SD) is declared. -/
def State.defect (s : State) (l i : Nat) : Bool := bit (s.rget Reg.BRIDGE_DEFECTS l) i

/-! ### Enable (R139) -/

/-- An Ethernet port whose `ENABLE` is in use holds a quad. -/
def State.quadEthernet (s : State) (qd : Nat) : Bool :=
  (List.range 128).any (fun p => s.ron Reg.PORT_ENABLE p && decide (p / 4 ≤ qd) &&
    decide (qd ≤ (p + modeLanes (s.rget Reg.PORT_MODE p) - 1) / 4))

/-- The reason an enable of lane l fails, 0 when it succeeds: OPTION, TARGET, ETHERNET, QUAD_OPTION in this order. -/
def State.laneCheck (s : State) (l : Nat) : Nat :=
  let o := s.laneOpt l
  let sz := s.contSize l
  let mt := s.rget Reg.BRIDGE_MAP_TARGET l
  let pt := s.rget Reg.BRIDGE_PO_TARGET l
  if cpriBf o == 0 then 3
  else if mt < sz + 16 || 6144 < mt || pt < sz + 1 || 28672 < pt then 4
  else if s.quadEthernet (l / 4) then 1
  else if (List.range 4).any (fun i => let k := l / 4 * 4 + i; k != l && s.ron Reg.BRIDGE_EN k && s.laneOpt k != o) then 2 else 0

/-- `EN` of lane l goes from 0 to 1 in use (R139): the lane hunts and fills, or the reason of failure shows. -/
def State.laneEnable (s : State) (l : Nat) : State :=
  let c := s.laneCheck l
  if c != 0 then { ((s.rput Reg.BRIDGE_EN 0 l).rput Reg.BRIDGE_CFG_ERR c l) with failed := regKey 7 l 0x100 :: s.failed }
  else
    let s1 := ((s.rput Reg.BRIDGE_CFG_ERR 0 l).rput Reg.BRIDGE_ALIGN_STATE 1 l).rput Reg.BRIDGE_DEMAP_STATE 1 l
    (s1.setLane l { enAt := s.short }).rclkSettle

/-- `EN` of lane l goes from 1 to 0 in use: IDLE, defects CLEAR. -/
def State.laneDisable (s : State) (l : Nat) : State :=
  let z : List Row := [Reg.BRIDGE_RAI_TX, Reg.BRIDGE_RDI_TX, Reg.BRIDGE_AIS_TX, Reg.BRIDGE_CAND, Reg.BRIDGE_CLOSS_1000, Reg.BRIDGE_DEFECTS,
    Reg.BRIDGE_DEMAP_STATE, Reg.BRIDGE_ALIGN_STATE, Reg.BRIDGE_PO_FILL, Reg.BRIDGE_MAP_FILL]
  ((z.foldl (fun t r => t.rput r 0 l) s).setLane l {}).rclkSettle

/-! ### Reception (R141, R142, R146, R151) -/

/-- What a lane's bytes are judged by: bytes of a basic frame, coding, N, M, groups of an SD window, SD entry and exit. -/
structure LaneCfg where
  bf : Nat
  b10 : Bool
  n : Nat
  m : Nat
  sdLen : Nat
  sdEntry : Nat
  sdExit : Nat
  deriving DecidableEq, Repr

/-- A lane with what its bytes add to counters: candidates discarded and ignored, code errors, SD and its changes. -/
structure LaneAcc where
  x : LaneX
  disc : Nat := 0
  ign : Nat := 0
  code : Nat := 0
  sd : Bool
  sdEv : Nat := 0
  deriving DecidableEq, Repr

/-- One byte in HUNT (R141), `o` being its offset. -/
def LaneAcc.hunt (a : LaneAcc) (g : LaneCfg) (o : Nat) (v : Byte) (start : Bool) : LaneAcc :=
  let at0 (c : CpriCand) : Bool := c.next == o
  let due := a.x.cands.any at0
  let kept := if start then a.x.cands.map (fun c => if at0 c then { c with seen := true } else c) else a.x.cands.filter (fun c => !at0 c)
  let a1 : LaneAcc := { a with x := { a.x with cands := kept }, disc := a.disc + (a.x.cands.length - kept.length) }
  let a2 : LaneAcc := if start && !due then
      (if a1.x.cands.length < 4 then { a1 with x := { a1.x with cands := a1.x.cands ++ [⟨o, 0, 0, true⟩] } } else { a1 with ign := a1.ign + 1 })
    else a1
  let h := v.toNat
  a2.x.cands.foldl (fun (b : LaneAcc) c =>
    if b.x.sync || !c.seen || c.next + 64 * g.bf != o then b
    else if 149 < h || (decide (0 < c.m) && h != (c.hfn + 1) % 150) then
      { b with x := { b.x with cands := b.x.cands.filter (fun d => d.next != c.next) }, disc := b.disc + 1 }
    else
      let c1 : CpriCand := ⟨c.next + 256 * g.bf, c.m + 1, h, false⟩
      if c1.m == g.n then
        { b with x := { b.x with cands := [], sync := true, nxt := c1.next, hfn := (h + 1) % 150, misses := 0, seen := false, lastHfn := h } }
      else { b with x := { b.x with cands := b.x.cands.map (fun d => if d.next == c.next then c1 else d) } }) a2

/-- One byte in SYNC (R142), with the received bits of Z.130.0 (RAI in bit 1, SDI in bit 2) and the BFN of Z.128.0 and Z.192.0
(PRESUMED from the CPRI specification, log entry 39). -/
def LaneAcc.inSync (a : LaneAcc) (g : LaneCfg) (o : Nat) (v : Byte) (start : Bool) : LaneAcc :=
  let x := a.x
  let h := v.toNat
  if o == x.nxt then { a with x := { x with seen := start } }
  else if o == x.nxt + 64 * g.bf then
    let hit := x.seen && h == x.hfn
    let miss := if hit then 0 else x.misses + 1
    if miss == g.m then { a with x := { x with sync := false, cands := [], misses := 0, seen := false, lastHfn := h } }
    else { a with x := { x with nxt := x.nxt + 256 * g.bf, hfn := (x.hfn + 1) % 150, misses := miss, seen := false, lastHfn := h } }
  else if o + 128 * g.bf == x.nxt then { a with x := { x with bfn := x.bfn / 256 * 256 + h } }
  else if o + 126 * g.bf == x.nxt then { a with x := { x with rai := bit h 1, sdi := bit h 2 } }
  else if o + 64 * g.bf == x.nxt then { a with x := { x with bfn := x.bfn % 256 + h % 16 * 256 } }
  else a

/-- The SD window counts one group (R146). -/
def LaneAcc.sdGroup (a : LaneAcc) (g : LaneCfg) (err : Bool) : LaneAcc :=
  let e := a.x.sdErr + b2n err
  if a.x.sdGroups + 1 < g.sdLen then { a with x := { a.x with sdGroups := a.x.sdGroups + 1, sdErr := e } }
  else
    let bad := decide (10 ≤ e)
    let nb := if bad then a.x.sdBad + 1 else 0
    let ng := if bad then 0 else a.x.sdGood + 1
    let sd := if !a.sd && decide (g.sdEntry ≤ nb) then true else if a.sd && decide (g.sdExit ≤ ng) then false else a.sd
    { a with x := { a.x with sdGroups := 0, sdErr := 0, sdBad := nb, sdGood := ng }, sd := sd, sdEv := a.sdEv + b2n (sd != a.sd) }

/-- One received byte. -/
def LaneAcc.rx (a : LaneAcc) (g : LaneCfg) (v : Byte) (start viol : Bool) : LaneAcc :=
  let o := a.x.off
  let a0 : LaneAcc := { a with code := a.code + b2n viol, x := { a.x with off := o + 1, viol := a.x.viol + b2n viol } }
  let a1 := if g.b10 || o % 8 == 7 then a0.sdGroup g viol else a0
  let isHf := a1.x.sync && o == a1.x.nxt
  let w : Byte := if g.b10 && viol then 0xFF else if g.b10 && isHf && start then 0xBC else v
  let a2 := if a1.x.sync then a1.inSync g o v start else a1.hunt g o v start
  if a2.x.map.length < 8192 then { a2 with x := { a2.x with map := a2.x.map ++ [(w, if isHf then some a1.x.hfn else none)] } }
  else { a2 with x := { a2.x with overflow := true } }

/-- The configuration of a lane. -/
def State.laneCfg (s : State) (l : Nat) : LaneCfg :=
  let o := s.laneOpt l
  { bf := cpriBf o, b10 := cpri8b o, n := s.rget Reg.BRIDGE_N l, m := s.rget Reg.BRIDGE_M l, sdLen := 10 ^ (s.rget Reg.BRIDGE_SD_EXP l + 1),
    sdEntry := s.rget Reg.BRIDGE_SD_ENTRY l, sdExit := s.rget Reg.BRIDGE_SD_EXIT l }

/-- Declares or clears a defect. -/
def State.putDefect (s : State) (l i : Nat) (v : Bool) : State :=
  if s.defect l i == v then s
  else
    let s1 := ((s.rput Reg.BRIDGE_DEFECTS (setBit (s.rget Reg.BRIDGE_DEFECTS l) i v) l).defectEvent l).rclkSettle
    if v && i == 0 then s1.laneCnt l 16 1 else if v && i == 1 then s1.laneCnt l 15 1 else s1

/-- A lane receives bytes: alignment, defect windows and the map buffer follow. -/
def State.laneRx (s : State) (l : Nat) (r : LineRx) : State :=
  if !s.laneOn l then s
  else
    let g := s.laneCfg l
    let a0 : LaneAcc := { x := s.lane l, sd := s.defect l 4 }
    let a := (r.bytes.zip (List.range r.bytes.length)).foldl (fun (a : LaneAcc) b => a.rx g b.1 (r.starts.contains b.2) (r.viols.contains b.2)) a0
    let s1 := (((s.setLane l a.x).laneCnt l 12 a.disc).laneCnt l 13 a.ign).laneCnt l 14 a.code
    let s2 := ((s1.rput Reg.BRIDGE_ALIGN_STATE (if a.x.sync then 2 else 1) l).rput Reg.BRIDGE_CAND a.x.cands.length l).rput
      Reg.BRIDGE_MAP_FILL a.x.map.length l
    let s3 := (s2.rput Reg.BRIDGE_HFN a.x.lastHfn l).rput Reg.BRIDGE_BFN a.x.bfn l
    let s4 := s3.rput Reg.BRIDGE_DEFECTS (setBit (s3.rget Reg.BRIDGE_DEFECTS l) 4 a.sd) l
    (List.range a.sdEv).foldl (fun t _ => t.defectEvent l) s4

/-- START_PATTERN (R141): bytes that end with a start pattern are received; outside SYNC, at an offset that no candidate expects,
it opens a candidate or is counted as ignored. -/
def execStartPattern (l : Nat) (r : LineRx) (s : State) : Out := .next (s.laneRx l r)

/-- CANDIDATE_CHECK (R141): the bytes to a candidate's expected offset and its HFN are received, and it is confirmed, dropped or
takes SYNC. -/
def execCandidateCheck (l : Nat) (r : LineRx) (s : State) : Out := .next (s.laneRx l r)

/-- HYPERFRAME_CHECK (R142): the bytes to the next expected hyperframe start and its HFN are received: a hit, or a miss. -/
def execHyperframeCheck (l : Nat) (r : LineRx) (s : State) : Out := .next (s.laneRx l r)

/-- SD_WINDOW_END (R146): the bytes that end an SD window are received, and it is judged. -/
def execSdWindowEnd (l : Nat) (r : LineRx) (s : State) : Out := .next (s.laneRx l r)

/-- MAP_BUFFER_OVERFLOW (R151): bytes are received that find the map buffer full: they are discarded and mark it overflowed. -/
def execMapBufferOverflow (l : Nat) (r : LineRx) (s : State) : Out := .next (s.laneRx l r)

/-! ### Ticks (R144, R145, R153, R158) -/

/-- Ticks of a lane that Meridian time has reached: one every 200,000/3 ns from its enable. -/
def State.tickIndex (s : State) (l : Nat) : Nat := (diff48 s.short (s.lane l).enAt).toNat * 3 / 200000

/-- The persistence of defect i: entry and exit. -/
def State.persist (s : State) (l : Nat) : Nat → Nat × Nat
  | 0 => (s.rget Reg.BRIDGE_LOS_ENTRY l, s.rget Reg.BRIDGE_LOS_EXIT l)
  | 1 => (s.rget Reg.BRIDGE_LOF_ENTRY l, s.rget Reg.BRIDGE_LOF_EXIT l)
  | 2 => (s.rget Reg.BRIDGE_RAI_ENTRY l, s.rget Reg.BRIDGE_RAI_EXIT l)
  | _ => (s.rget Reg.BRIDGE_SDI_ENTRY l, s.rget Reg.BRIDGE_SDI_EXIT l)

/-- One defect at a tick (R145). -/
def State.defectStep (s : State) (l i : Nat) (raw : Bool) : State :=
  let x := s.lane l
  let was := s.defect l i
  let n := if raw == was then 0 else (x.runs[i]?.getD 0) + 1
  let p := s.persist l i
  let fire := decide ((if was then p.2 else p.1) < n)
  (s.setLane l { x with runs := x.runs.set i (if fire then 0 else n) }).putDefect l i (was != fire)

/-- A lane defect (R157, R158): on the CPRI side LOS, LOF, SDI or SD; on the container side CLOSS, received AIS, a gap, FILL or
STARVED. -/
def State.laneDefect (s : State) (l : Nat) : Bool :=
  s.defect l 0 || s.defect l 1 || s.defect l 3 || s.defect l 4 || s.ron Reg.BRIDGE_CLOSS_1000 l || s.ron Reg.BRIDGE_AIS_RX l || (s.lane l).gap ||
  s.rget Reg.BRIDGE_DEMAP_STATE l == 1 || s.rget Reg.BRIDGE_DEMAP_STATE l == 3

/-- DEFECT_TICK (R144, R145, R153, R158): a tick of lane l: bytes received since, signal detect, block lock, and the frequency offset
of the recovered clock in units of 10^-10, which a SLAVE lane shows (R156). -/
def execDefectTick (l : Nat) (r : LineRx) (signal locked : Bool) (offset : Int) (s : State) : Out :=
  .next (
    let k := s.tickIndex l
    if !s.laneOn l || k ≤ (s.lane l).tick then s.laneRx l r
    else
      let s0 := s.laneRx l r
      let x := s0.lane l
      let los := !signal || (if cpri8b (s0.laneOpt l) then decide (16 ≤ x.viol) else !locked)
      let t0 := match x.t0 with | some t => some t | none => some ((x.enAt + k * 200000 / 3) % 2 ^ 48)
      let none_ := if x.accepted then 0 else x.noneTicks + 1
      let s1 := s0.setLane l { x with tick := k, viol := 0, t0 := t0, accepted := false, noneTicks := none_ }
      let s2 := (s1.defectStep l 0 los).defectStep l 1 (!x.sync)
      let dead := s2.defect l 0 || s2.defect l 1
      let s3 := (s2.defectStep l 2 (x.rai && !dead)).defectStep l 3 (x.sdi && !dead)
      let s4 := if s3.rget Reg.BRIDGE_CLOSS_13C l ≤ none_ && !s3.ron Reg.BRIDGE_CLOSS_1000 l then
          (s3.rput Reg.BRIDGE_CLOSS_1000 1 l).contEvent l else s3
      let ld := s4.laneDefect l && s4.ron Reg.BRIDGE_PRIVILEGED l
      let s5 := (s4.rput Reg.BRIDGE_RAI_TX (b2n ld) l).rput Reg.BRIDGE_RDI_TX (b2n ld) l
      let s6 := s5.setLane l { s5.lane l with gap := false }
      if s6.ron Reg.BRIDGE_ROLE l && !s6.defect l 0 then s6.rput Reg.BRIDGE_NCO_OFFSET (wrapInt 32 offset) l else s6)

/-! ### Frames of the bridge -/

/-- A frame enters the pipe of bridge port 128 + l (R137, R159). Its ingress timestamp is the present time (DESIGN CHOICE, log entry 40). -/
def State.bridgeFrame (s : State) (l : Nat) (d : List Byte) (cm : Bool) : State :=
  let p := 128 + l
  let n := pipeOfPort p
  let f := s.nextFrame
  let x : Frame := { inPort := p, origPort := p, pipe := n, data := d ++ leBytes 4 (crc32 d), ended := true, len := d.length + 4,
                     ts := some (s.short * 65536 + s.frac16), resid := s.mer.resid / 65536, cm := cm, tokened := true }
  (({ s with nextFrame := f + 1, frames := sins s.frames f x } : State).issueSlot n f).capture f p

/-- CM_EXTRACT (R159): a C&M frame is extracted from the line of a lane in SYNC. -/
def execCmExtract (l : Nat) (_fast : Bool) (d : List Byte) (s : State) : Out :=
  .next (if s.laneOn l && s.ron Reg.BRIDGE_CM_TAP l && (s.lane l).sync then (s.laneCnt l 17 1).bridgeFrame l d true else s)

/-! ### Mapper (R147 to R151) -/

/-- A bridge header (R148). -/
def contHeader (size2 : Bool) (lane seq ptr just : Nat) (ais rdi ulof : Bool) (opt hfn : Nat) (nj : Byte) (t : Nat) : List Byte :=
  beBytes 2 (0x1000 + b2n size2 * 2048 + lane) ++ beBytes 2 seq ++ beBytes 2 ptr ++
  beBytes 1 (just * 64 + b2n ais * 32 + b2n rdi * 16 + b2n ulof * 8) ++ beBytes 1 opt ++ beBytes 1 hfn ++ [nj] ++ beBytes 6 t

/-- The Ethernet header of a lane's containers (R147). -/
def State.contEth (s : State) (l : Nat) : List Byte :=
  beBytes 2 (s.rget Reg.BRIDGE_CONT_DA_HI l) ++ beBytes 4 (s.rget Reg.BRIDGE_CONT_DA l) ++
  beBytes 2 (s.rget Reg.BRIDGE_CONT_SA_HI l) ++ beBytes 4 (s.rget Reg.BRIDGE_CONT_SA l) ++
  (if s.ron Reg.BRIDGE_VLAN_EN l then beBytes 2 0x8100 ++ beBytes 2 (s.rget Reg.BRIDGE_PCP l * 8192 + s.rget Reg.BRIDGE_VID l) else []) ++
  beBytes 2 (s.rget Reg.BRIDGE_CONT_ETYPE l)

/-- The container index that Meridian time has reached, and its emission instant (R150). -/
def State.contIndex (s : State) (l t0 : Nat) : Nat × Nat :=
  let k := cpriHf (s.laneOpt l) / s.contSize l
  let j := (diff48 s.short t0).toNat * (3 * k) / 200000
  (j, (t0 + j * 200000 / (3 * k)) % 2 ^ 48)

/-- MAPPER_EMIT (R150, R151): at an emission instant of lane l, with the bytes received up to it, the mapper builds a container and
sends it. -/
def execMapperEmit (l : Nat) (r : LineRx) (s : State) : Out :=
  .next (
    let s0 := s.laneRx l r
    let x := s0.lane l
    match x.t0 with
    | none => s0
    | some t0 =>
      let e := s0.contIndex l t0
      if !s0.laneOn l || !s0.reached t0 || e.1 < x.nextJ then s0
      else
        let size := s0.contSize l
        let tgt := s0.rget Reg.BRIDGE_MAP_TARGET l
        let f := x.map.length
        let slip := x.overflow || decide (f < size + 1)
        let just := if slip then 0 else if tgt + 2 ≤ f then 2 else if f + 2 ≤ tgt then 1 else 0
        let n := if just == 2 then size + 1 else if just == 1 then size - 1 else size
        let taken := if slip then [] else x.map.take n
        let rest := if slip then x.map.drop (f - tgt) else x.map.drop n
        let dead := s0.defect l 0 || s0.defect l 1 || s0.defect l 3 || (s0.defect l 4 && s0.ron Reg.BRIDGE_SD_AIS l)
        let ais := slip || dead
        let bytes := if ais then List.replicate n (0xFF : Byte) else taken.map (·.1)
        let at_ := if ais then none else (List.range n).find? (fun i => match taken[i]? with | some b => b.2.isSome | none => false)
        let hfn := match at_ with | some i => (match taken[i]? with | some b => b.2.getD 0xFF | none => 0xFF) | none => 0xFF
        let nj : Byte := if just == 2 then bytes.headD 0 else 0
        let pay := if just == 2 then bytes.drop 1 else if just == 1 then bytes ++ [0] else bytes
        let hd := contHeader (size == 2048) l x.seq (at_.getD 0xFFFF) just ais (s0.ron Reg.BRIDGE_RDI_TX l)
          (dead && (s0.defect l 0 || s0.defect l 1)) (s0.laneOpt l) hfn nj e.2
        let s1 := s0.setLane l { x with map := rest, overflow := false, nextJ := e.1 + 1, seq := (x.seq + 1) % 65536 }
        let s2 := (((s1.laneCnt l 0 1).laneCnt l 2 (b2n (just == 1))).laneCnt l 3 (b2n (just == 2))).laneCnt l 19 (b2n ais)
        let s3 := if slip then (s2.laneCnt l 11 1).contEvent l else s2
        let s4 := (s3.rput Reg.BRIDGE_AIS_TX (b2n ais) l).rput Reg.BRIDGE_MAP_FILL rest.length l
        s4.bridgeFrame l (s4.contEth l ++ hd ++ pay) false)

/-! ### De-mapper (R152 to R156) -/

/-- The line has transmitted `n` bytes in RUN: pointer-marked bytes re-align the flywheel (R155). -/
def State.playOut (s : State) (l n : Nat) : State :=
  let x := s.lane l
  if s.rget Reg.BRIDGE_DEMAP_STATE l != 2 then s
  else
    let hf := cpriHf (s.laneOpt l)
    let go := (x.po.take n).foldl (fun (a : Nat × Nat) b =>
      if b.start then (hf - 1, if a.1 == 0 then a.2 else a.2 + 1) else (if a.1 == 0 then hf - 1 else a.1 - 1, a.2)) (x.fw, 0)
    let s1 := (s.setLane l { x with po := x.po.drop n, fw := go.1 }).laneCnt l 20 go.2
    s1.rput Reg.BRIDGE_PO_FILL (s1.lane l).po.length l

/-- π × 10^20, for the filter (DESIGN CHOICE, log entry 41: fixed point with 10^-24 in place of double arithmetic). -/
def pi20 : Nat := 314159265358979323846

/-- The loop bandwidth in tenths of a hertz (R162). -/
def desyncBw : Nat → Nat
  | 0 => 1 | 1 => 3 | 2 => 10 | 3 => 30 | 4 => 100 | 5 => 300 | _ => 1000

/-- The desynchroniser at an accepted container (R156): `just` its justification (0 for lost containers). -/
def State.desync (s : State) (l : Nat) (just : Int) (fill : Nat) : State :=
  let x := s.lane l
  if s.ron Reg.BRIDGE_ROLE l || s.rget Reg.BRIDGE_DEMAP_STATE l != 2 then s
  else
    let one : Int := (10 ^ 24 : Nat)
    let size : Int := (s.contSize l : Nat)
    let k := cpriHf (s.laneOpt l) / s.contSize l
    let bw := desyncBw (s.rget Reg.BRIDGE_BW l)
    -- 2 π bw tc with tc = 200,000/(3 K) ns, and 2 π bw / r0 with r0 = 15,000 hyperframe bytes per second
    let a : Int := (2 * pi20 * bw * 200000 * 10 ^ 4 / (10 * 3 * k * 10 ^ 9) : Nat)
    let ff := x.ff + a * (just * one / size - x.ff) / one
    let c : Int := (2 * pi20 * bw * 10 ^ 4 / (10 * 15000 * cpriHf (s.laneOpt l)) : Nat)
    let d := ff + c * ((fill : Nat) - (s.rget Reg.BRIDGE_PO_TARGET l : Nat))
    let lim : Int := (s.rget Reg.BRIDGE_LIMIT l * 10 ^ 18 : Nat)
    let v := if lim < d then lim else if d < -lim then -lim else d
    (s.setLane l { x with ff := ff }).rput Reg.BRIDGE_NCO_OFFSET (wrapInt 32 (v / ((10 ^ 14 : Nat) : Int))) l

/-- FILL or STARVED ends when the fill reaches its target and a pointer was written (R154). -/
def State.demapRun (s : State) (l : Nat) : State :=
  let x := s.lane l
  let st := s.rget Reg.BRIDGE_DEMAP_STATE l
  if (st == 1 || st == 3) && decide (s.rget Reg.BRIDGE_PO_TARGET l ≤ x.po.length) && x.ptrSeen then
    let hf := cpriHf (s.laneOpt l)
    let i := ((List.range x.po.length).find? (fun i => match x.po[i]? with | some b => b.start | none => false)).getD 0
    (s.setLane l { x with fw := i % hf, ptrSeen := false }).rput Reg.BRIDGE_DEMAP_STATE 2 l
  else s

/-- Writes an accepted container's line bytes. -/
def State.contWrite (s : State) (l : Nat) (bytes : List Byte) (ptr : Nat) (ais : Bool) (seq : Nat) : State :=
  let x := s.lane l
  let po := x.po ++ (bytes.zip (List.range bytes.length)).map (fun b => ⟨b.1, b.2 == ptr, ais⟩)
  let s1 := s.setLane l { x with po := po, expected := some ((seq + 1) % 65536), ptrSeen := x.ptrSeen || ptr != 0xFFFF }
  (s1.rput Reg.BRIDGE_PO_FILL po.length l).demapRun l

/-- Flags received in containers are shown; a change raises `CONTAINER` (R158, R160). -/
def State.contFlags (s : State) (l : Nat) (ais rdi ulof : Bool) : State :=
  let ch := s.ron Reg.BRIDGE_AIS_RX l != ais || s.ron Reg.BRIDGE_RDI_RX l != rdi || s.ron Reg.BRIDGE_ULOF_RX l != ulof
  let s1 := ((s.rput Reg.BRIDGE_AIS_RX (b2n ais) l).rput Reg.BRIDGE_RDI_RX (b2n rdi) l).rput Reg.BRIDGE_ULOF_RX (b2n ulof) l
  if ch then s1.contEvent l else s1

/-- A container that passed the checks of R152 (R153 to R156): `h` is its bridge header, `pay` its payload. -/
def State.contAccept (s : State) (l : Nat) (h pay : List Byte) : State :=
  let seq := beNat (slice h 2 2)
  let ptr := beNat (slice h 4 2)
  let fl := beNat (slice h 6 1)
  let just := fl / 64
  let ais := bit fl 5
  let size := s.contSize l
  let bytes := if just == 1 then pay.take (size - 1) else if just == 2 then slice h 9 1 ++ pay else pay
  let dt := (diff48 s.short (beNat (slice h 10 6))).toNat
  let s1 := ((s.laneCnt l 1 1).laneCnt l 4 (b2n (just == 1))).laneCnt l 5 (b2n (just == 2))
  let s2 := (s1.rput Reg.BRIDGE_DELAY_MIN (min (s1.rget Reg.BRIDGE_DELAY_MIN l) dt) l).rput Reg.BRIDGE_DELAY_MAX
    (min 0xFFFFFFFF (max (s1.rget Reg.BRIDGE_DELAY_MAX l) dt)) l
  let s3 := s2.contFlags l ais (bit fl 4) (bit fl 3)
  let s4 := if s3.ron Reg.BRIDGE_CLOSS_1000 l then (s3.rput Reg.BRIDGE_CLOSS_1000 0 l).contEvent l else s3
  let x := s4.lane l
  let d : Int := match x.expected with | some e => signed 16 ((seq + 65536 - e) % 65536) | none => 0
  let s5 := s4.setLane l { x with accepted := true, noneTicks := 0 }
  let j : Int := if just == 2 then 1 else if just == 1 then -1 else 0
  if d < 0 then s5.laneCnt l 7 1
  else if (s5.rget Reg.BRIDGE_GAP_MAX l : Int) < d then
    let s6 := ((s5.setLane l { s5.lane l with po := [], ptrSeen := false }).laneCnt l 9 1).contEvent l
    (s6.rput Reg.BRIDGE_DEMAP_STATE 1 l).contWrite l bytes ptr ais seq
  else
    let s6 := if d == 0 then s5 else ((s5.setLane l { s5.lane l with gap := true }).laneCnt l 6 d.toNat).contEvent l
    let s7 := (List.range d.toNat).foldl (fun (u : State) _ =>
      (u.desync l 0 (u.lane l).po.length).contWrite l (List.replicate size 0xFF) 0xFFFF true seq) s6
    (s7.desync l j (s7.lane l).po.length).contWrite l bytes ptr ais seq

/-- The ready slot that a bridge port serves next (R284): the highest class whose gate is open, launch time reached. -/
def State.bridgeReady (s : State) (p : Nat) : Option Nat := s.readyClass p (fun _ => true)

/-- CONTAINER_DEQUEUE (R152): after the line has transmitted `sent` more bytes, the play-out buffer of lane l has room for 2,049
bytes and the bridge port hands a container to the de-mapper. -/
def execContainerDequeue (l sent : Nat) (s : State) : Out :=
  .next (
    let p := 128 + l
    let s0 := s.playOut l sent
    if !s0.laneOn l || 32768 < (s0.lane l).po.length + 2049 then s0
    else match s0.bridgeReady p with
    | none => s0
    | some c => match sfind (s0.px p).ready c with
      | none => s0
      | some it =>
        let x := s0.fr it.f
        let s1 := s0.setPx p { s0.px p with ready := sdel (s0.px p).ready c }
        let ed := if bit x.legend 46 then some (bits x.legend 45 36) else none
        if (s1.copy it.f it.b).bad then (s1.release it).cinc Reg.SLATH_BASKET_CNT it.b [16]
        else if (match ed with | some i => s1.poisoned tEDIT 0 i | none => false) then (s1.release it).laneCnt l 8 1
        else
          let e : EditSt := match ed with
            | some i => runEdit (s1.tab tEDIT 0 i) x.body (recordBases x.record)
            | none => { data := x.body, bases := [] }
          let d := e.data
          let o := if beNat (slice d 12 2) == 0x8100 then 18 else 14
          let h := slice d o 16
          let size := s1.contSize l
          let fl := beNat (slice h 6 1)
          let n := if fl / 64 == 1 then size - 1 else if fl / 64 == 2 then size + 1 else size
          let ptr := beNat (slice h 4 2)
          let w := beNat (slice h 0 2)
          let ok := bits w 15 12 == 1 && bit w 11 == (size == 2048) && bits (beNat (slice h 7 1)) 3 0 == s1.laneOpt l && fl / 64 != 3 &&
            (decide (ptr < n) || ptr == 0xFFFF) && d.length == o + 16 + size && !x.trunc
          let s2 := (s1.cadd Reg.FWD_CNT e.errs (pipeOfPort p) [11]).release it
          if ok then s2.contAccept l h (d.drop (o + 16)) else s2.laneCnt l 8 1)

/-- PO_UNDERRUN (R154): after `sent` more bytes the play-out buffer of lane l is empty when a byte is due. -/
def execPoUnderrun (l sent : Nat) (s : State) : Out :=
  .next (
    let s0 := s.playOut l sent
    if s0.laneOn l && s0.rget Reg.BRIDGE_DEMAP_STATE l == 2 && (s0.lane l).po.isEmpty then
      ((s0.rput Reg.BRIDGE_DEMAP_STATE 3 l).laneCnt l 10 1).contEvent l
    else s0)

end Sys2Proof.Machine
end

