-- ==== Sys2Proof/Machine/Clocks.lean ====
section
/-! DEFINITION. The reference clocks (R451 to R454): what the monitors hold, which reference the root PLL uses, and holdover. -/

namespace Sys2Proof.Machine

open Sys2Proof

/-- Reference r (1 A, 2 B) is OK (R451). -/
def State.refOk (s : State) (r : Nat) : Bool := if r == 1 then s.ron Reg.CLOCKS_A_OK else if r == 2 then s.ron Reg.CLOCKS_B_OK else false

/-- Reference r has been declared lost and has not been OK since. -/
def State.refGone (s : State) (r : Nat) : Bool := if r == 1 then s.boot.lostA else s.boot.lostB

/-- The OK state of a reference takes a value; a change raises REF_A or REF_B. -/
def State.setRefOk (s : State) (r : Nat) (v : Bool) : State :=
  if s.refOk r == v then s
  else (if r == 1 then s.rput Reg.CLOCKS_A_OK (b2n v) else s.rput Reg.CLOCKS_B_OK (b2n v)).raise (1139 + r)

/-- The reference that the straps name. -/
def State.strapped (s : State) : Nat := if s.boot.strapRef then 2 else 1

/-- The reference in use, as both registers show it. -/
def State.showRef (s : State) (r : Nat) : State := (s.rput Reg.CLOCKS_IN_USE r).rput Reg.GLOBAL_REF_IN_USE r

/-- A reference is usable under SEL (R452). -/
def State.refUsable (s : State) (r : Nat) : Bool :=
  let x := s.rget Reg.CLOCKS_SEL
  x == 0 || x == r

/-- The reference that R452 has the PLL follow, none in holdover (R453). The one in use stays until it is declared lost. -/
def State.refWanted (s : State) : Option Nat :=
  let use := s.boot.lockRef
  let stay := s.refUsable use && !s.refGone use && (!s.ron Reg.CLOCKS_HOLDOVER || s.refOk use)
  if s.rget Reg.CLOCKS_SEL == 0 && s.ron Reg.CLOCKS_REVERTIVE && s.refOk s.strapped then some s.strapped
  else if stay then some use
  else if s.refUsable (3 - use) && s.refOk (3 - use) then some (3 - use)
  else none

/-- The PLL switches, enters or leaves holdover as R452 and R453 state. The lock sequence is not concerned. -/
def State.settleRef (s : State) : State :=
  if !s.ron Reg.CLOCKS_PLL_LOCKED then s
  else match s.refWanted with
    | none =>
      if s.ron Reg.CLOCKS_HOLDOVER then s
      else (((s.rput Reg.CLOCKS_HOLDOVER 1).showRef 0).sinc Reg.CLOCKS_HOLDOVERS).raise 1143
    | some r =>
      let s1 := if s.ron Reg.CLOCKS_HOLDOVER then ((s.rput Reg.CLOCKS_HOLDOVER 0).showRef r).raise 1143 else s
      if r == s.boot.lockRef then s1
      else
        let s2 : State := { s1 with boot := { s1.boot with lockRef := r } }
        ((s2.showRef r).sinc Reg.CLOCKS_REF_SWITCHES).raise 1142

end Sys2Proof.Machine
end

