-- ==== Sys2Proof/Machine/Mailbox.lean ====
section
/-! DEFINITION. Mailboxes and doorbells (R379 to R389): GO, CANCEL, ATT_NEW, ATT_RETURN, LOCK_READ, LOCK_RELEASE,
RX_WORD_0_READ, MBX_TIMEOUT, DOORBELL_WRITE, DB_IN_READ, and the reset of an identity (R385). -/

namespace Sys2Proof.Machine

open Sys2Proof

/-! ### Sides -/

/-- The side an identity's access is made as (R379): true for A, false for B; none when neither binding admits it. -/
def State.sideOf (s : State) (c id : Nat) : Option Bool :=
  if s.admits (s.rget Reg.BIND_SIDE_A 0 [c]) id then some true
  else if s.admits (s.rget Reg.BIND_SIDE_B 0 [c]) id then some false else none

/-- A side of a channel. -/
def MbxX.side (x : MbxX) (a : Bool) : MbxSide := if a then x.a else x.b
/-- A channel with a side replaced. -/
def MbxX.setSide (x : MbxX) (a : Bool) (y : MbxSide) : MbxX := if a then { x with a := y } else { x with b := y }

/-- Identities that have a path to BAR2 (R103). -/
def hasBar2 (m : Master) : Bool := (decide (1 ≤ m.id) && decide (m.id ≤ 18)) || m.id == 21

/-- The side an access to BAR2 page c is made as; none while the device is CLOCKLESS (R97), in reset, or where the master has no
path to BAR2 (R103). -/
def State.mbxSide (s : State) (m : Master) (c : Nat) : Option Bool :=
  if s.clockless || s.boot.porst || !hasBar2 m || 64 ≤ c then none else s.sideOf c m.id

/-- A write to BAR2 address `a` of page c: refused with DOMAIN while the device is CLOCKLESS (R97), discarded where neither side
admits the writer, else acted on for its side. -/
def State.sideWrite (s : State) (m : Master) (c a : Nat) (act : State → Bool → State) : State :=
  if s.boot.porst || !hasBar2 m || 64 ≤ c then s
  else if s.clockless then s.refuseWrite m.id a 4
  else match s.sideOf c m.id with
    | some side => act s side
    | none => s

/-- Replaces one side of a channel. -/
def State.setSide (s : State) (c : Nat) (a : Bool) (y : MbxSide) : State := s.setChan c ((s.chan c).setSide a y)

/-- Sets a status flag of a side; a flag that changes from 0 to 1 raises the channel's event (R389), `POST_REFUSED`
excepted. -/
def State.setFlag (s : State) (c : Nat) (a : Bool) (i : Nat) : State :=
  let y := (s.chan c).side a
  (s.setSide c a { y with flags := setBit y.flags i true }).raiseIf (!bit y.flags i && i != 13) (1016 + c)

/-- The time-out of a channel in core cycles (R383, R390). -/
def State.mbxTimeout (s : State) (c : Nat) : Nat :=
  s.rget Reg.HOST_COUNT 0 [c] * (if s.rget Reg.HOST_UNIT 0 [c] == 0 then us else ms)

/-- STATUS of a side (R379). -/
def State.mbxStatus (s : State) (c : Nat) (a : Bool) : Nat :=
  let o := (s.chan c).side a
  let i := (s.chan c).side (!a)
  o.flags + b2n i.waits * 8 + b2n o.waits * 4 + b2n i.full * 2 + b2n o.full

/-! ### Posts (R380, R383, R384, R387) -/

/-- A post of side a by a master (R380): copied, stamped and its timer started, or refused. -/
def State.mbxPost (s : State) (m : Master) (c : Nat) (a : Bool) (v : Nat) : State :=
  let y := (s.chan c).side a
  let z := (s.chan c).side (!a)
  let attb := bits v 30 28
  let atti := bits v 27 16
  let badAtt := bit v 3 && s.loanOwner attb atti != some m.id
  let low := (m.id == 17 || m.id == 18) && !s.isHigher m.id
  if y.full || badAtt || low then
    ((s.setFlag c a 13).cinc Reg.HOST_CNT 0 [8]).raiseIf low (1131 + 5 * (m.id - 17))
  else
    let y' := { y with slot := y.stage, full := true, waits := bit v 1, sndEpoch := y.epoch, rxEpoch := z.epoch,
                       sender := m.id, att := if bit v 3 then some (attb, atti) else none,
                       timer := some (s.now + s.mbxTimeout c) }
    let s1 := ((s.setSide c a y').cinc Reg.HOST_CNT 0 [5]).setFlag c (!a) 9
    if bit v 1 && z.full && z.waits then ((s1.setFlag c a 10).setFlag c (!a) 10).cinc Reg.HOST_CNT 0 [7] else s1

/-- The outbound slot of a side is emptied. -/
def MbxSide.emptied (y : MbxSide) : MbxSide := { y with full := false, waits := false, timer := none, att := none }

/-- CANCEL empties the writer's side's outbound slot if it is still full (R383). -/
def State.mbxCancel (s : State) (c : Nat) (a : Bool) : State :=
  let y := (s.chan c).side a
  if y.full then s.setSide c a y.emptied else s

/-- A write of POST: its attachment fields are kept, then CANCEL and GO act (CANCEL first, log entry 45). -/
def State.postWrite (s : State) (m : Master) (c : Nat) (a : Bool) (v : Nat) : State :=
  let s0 := s.setSide c a { (s.chan c).side a with post := bits v 30 16 * 2 ^ 16 }
  let s1 := if bit v 2 then s0.mbxCancel c a else s0
  if bit v 0 then s1.mbxPost m c a v else s1

/-- GO (R380): a write of POST with GO. -/
def execGo (m : Master) (c : Nat) (value : Word) (s : State) : Out :=
  .next (s.sideWrite m c (0x1000 * c + 0x80) (fun t a => t.postWrite m c a (setBit value.toNat 0 true)))

/-- CANCEL (R383): a write of POST with CANCEL. -/
def execCancel (m : Master) (c : Nat) (s : State) : Out :=
  .next (s.sideWrite m c (0x1000 * c + 0x80) (fun t a => t.postWrite m c a 4))

/-- MBX_TIMEOUT (R383): the timer of an unread message expires; TIMEOUT is set once and the message stays posted. -/
def execMbxTimeout (c : Nat) (sideA : Bool) (s : State) : Out :=
  .next (
    let y := (s.chan c).side sideA
    match y.timer with
    | some t =>
      if c < 64 && y.full && decide (t ≤ s.now) then
        ((s.setSide c sideA { y with timer := none }).setFlag c sideA 11).cinc Reg.HOST_CNT 0 [6]
      else s
    | none => s)

/-! ### Reading a message (R382, R386) -/

/-- Bank slot of the mailbox latch: words 0 to 15, then RX_META and LATCH_INFO. -/
def latchSlot (w : Nat) : Nat := selSlot 16 w

/-- A read of RX_WORD_0 (R382, R386, R387): latches the message and its stamp in the reader's bank, empties the slot and
sets the sender's EMPTIED; an attached loan passes to the reading identity. -/
def State.rxWord0 (s : State) (m : Master) (c : Nat) (a : Bool) : State :=
  let b := bankOf m
  let x := (s.chan c).side (!a)
  if !x.full then s.answer (s.bank b (latchSlot 0))
  else
    let pre := x.rxEpoch != ((s.chan c).side a).epoch
    let stale := x.sndEpoch != x.epoch
    let att := match x.att with | some p => 2 ^ 28 + p.1 * 2 ^ 24 + p.2 | none => 0
    let info := 2 ^ 31 + b2n pre * 2 ^ 30 + b2n stale * 2 ^ 29 + att + x.sender * 2 ^ 16
    let s1 := (List.range 16).foldl (fun t w => t.setBank b (latchSlot w) (sget (fun _ => 0) x.slot w).toNat) s
    let s2 := (s1.setBank b (latchSlot 16) (x.sndEpoch * 2 ^ 16 + x.rxEpoch)).setBank b (latchSlot 17) info
    let s3 := match x.att with | some p => s2.loanPass p.1 p.2 m.id | none => s2
    ((s3.setSide c (!a) x.emptied).setFlag c (!a) 8).answer (sget (fun _ => 0) x.slot 0).toNat

/-- RX_WORD_0_READ. -/
def execRxWord0Read (m : Master) (c : Nat) (s : State) : Out :=
  .next (match s.mbxSide m c with
    | some a => s.rxWord0 m c a
    | none => s.answer 0)

/-! ### The lock (R381) -/

/-- A read of LOCK. -/
def State.lockRead (s : State) (m : Master) (c : Nat) : State :=
  if (m.id == 17 || m.id == 18) && !s.isHigher m.id then (s.raise (1131 + 5 * (m.id - 17))).answer 0x1F
  else
    let x := s.chan c
    if x.lock == 0 then (s.setChan c { x with lock := m.id }).answer 0 else s.answer x.lock

/-- LOCK_READ. -/
def execLockRead (m : Master) (c : Nat) (s : State) : Out :=
  .next (match s.mbxSide m c with
    | some _ => s.lockRead m c
    | none => s.answer 0)

/-- A write of LOCK: a write of the owner's own identity releases the lock; any other write is ignored. -/
def State.lockWrite (s : State) (m : Master) (c v : Nat) : State :=
  let x := s.chan c
  if x.lock != 0 && x.lock == m.id && v % 32 == m.id then s.setChan c { x with lock := 0 } else s

/-- LOCK_RELEASE. -/
def execLockRelease (m : Master) (c : Nat) (value : Word) (s : State) : Out :=
  .next (s.sideWrite m c (0x1000 * c + 0x90) (fun t _ => t.lockWrite m c value.toNat))

/-! ### Mailbox loans (R387) -/

/-- Puts an outcome into ATT_STATUS of the writer's bank. -/
def State.attStatus (s : State) (m : Master) (res basket idx : Nat) : State :=
  s.setBank (bankOf m) (latchSlot 18) (2 ^ 31 + res * 2 ^ 28 + basket * 2 ^ 24 + idx)

/-- OP 1: a chain of 8 cells is loaned to the writer, or FULL. -/
def State.attNew (s : State) (m : Master) (basket : Nat) : State :=
  match s.loanNew basket 3 m.id 8 with
  | (s1, some i) => s1.attStatus m 0 basket i
  | (_, none) => s.attStatus m 1 basket 0

/-- OP 2: a return request. -/
def State.attReturn (s : State) (m : Master) (basket idx : Nat) : State :=
  match s.loanOwner basket idx with
  | none => s.attStatus m 3 basket idx
  | some o => if o == m.id then (s.loanReturn basket idx m.id).attStatus m 0 basket idx
    else (s.loanReturn basket idx m.id).attStatus m 2 basket idx

/-- ATT_NEW. -/
def execAttNew (m : Master) (c basket : Nat) (s : State) : Out :=
  .next (s.sideWrite m c (0x1000 * c + 0xA0) (fun t _ => t.attNew m (basket % 8)))

/-- ATT_RETURN. -/
def execAttReturn (m : Master) (c basket idx : Nat) (s : State) : Out :=
  .next (s.sideWrite m c (0x1000 * c + 0xA0) (fun t _ => t.attReturn m (basket % 8) (idx % 4096)))

/-- A write of ATT_CTL. -/
def State.attWrite (s : State) (m : Master) (v : Nat) : State :=
  match bits v 31 30 with
  | 1 => s.attNew m (bits v 26 24)
  | 2 => s.attReturn m (bits v 26 24) (bits v 11 0)
  | _ => s

/-! ### Doorbells (R388, R389) -/

/-- A doorbell write: bits are ORed toward the other side; a bit that was 0 raises the channel's event. -/
def State.bellWrite (s : State) (d : Nat) (a : Bool) (v : Nat) : State :=
  let y := (s.chan d).side a
  (s.setSide d a { y with bells := y.bells ||| v }).raiseIf (y.bells ||| v != y.bells) (1016 + d)

/-- DOORBELL_WRITE. -/
def execDoorbellWrite (m : Master) (d : Nat) (value : Word) (s : State) : Out :=
  .next (s.sideWrite m d (0x40000 + 0x1000 * d) (fun t a => t.bellWrite d a value.toNat))

/-- A read of DB_IN: the bits toward the reader, then cleared. -/
def State.bellRead (s : State) (d : Nat) (a : Bool) : State :=
  let y := (s.chan d).side (!a)
  (s.setSide d (!a) { y with bells := 0 }).answer y.bells

/-- DB_IN_READ. -/
def execDbInRead (m : Master) (d : Nat) (s : State) : Out :=
  .next (match s.mbxSide m d with
    | some a => s.bellRead d a
    | none => s.answer 0)

/-! ### The reset of an identity (R385) -/

/-- One channel at the reset of identity i: the epochs of the sides that admit it, and its lock. -/
def State.resetChan (s : State) (i c : Nat) : State :=
  let bump (t : State) (a : Bool) : State :=
    let tgt := t.rget (if a then Reg.BIND_SIDE_A else Reg.BIND_SIDE_B) 0 [c]
    if t.admits tgt i then
      let y := (t.chan c).side a
      t.setSide c a { y with epoch := (y.epoch + 1) % 65536 }
    else t
  let s1 := bump (bump s true) false
  if (s1.chan c).lock == i then
    (((s1.setChan c { s1.chan c with lock := 0 }).setFlag c true 12).setFlag c false 12).cinc Reg.HOST_CNT 0 [9]
  else s1

/-- The mailbox effects of the reset of identity i: epochs, locks, and the latches of its bank. -/
def State.resetIdentity (s : State) (i : Nat) : State :=
  let s1 := (List.range 64).foldl (fun t c => t.resetChan i c) s
  (List.range 18).foldl (fun t w => t.setBank i (latchSlot w) 0) s1

end Sys2Proof.Machine
end

