-- ==== Sys2Proof/Machine/SlowPath.lean ====
section
/-! DEFINITION. The slow path (R365 to R378, R407): receive rings, transmit rings, host injection, delivery to the control complex,
and loan data; the meanings of SLOWPATH_RX_DELIVER, BUF_TAIL_WRITE, TX_TAIL_WRITE, SLOWPATH_TX, HOST_INJECT, HEAD_WRITEBACK,
CRX_POP and LOAN_DATA_ACCESS. -/

namespace Sys2Proof.Machine

open Sys2Proof

/-! ### Rings -/

/-- The array index of slow-path ring r (R390). -/
def spIx (r : Nat) : List Nat := [r / 64, r % 64]

/-- A receive ring stops with an error (R368, R370). -/
def State.rxRingError (s : State) (r code : Nat) : State :=
  ((s.rput Reg.HOST_ERR 1 0 (spIx r)).rput Reg.HOST_ERR_CODE code 0 (spIx r)).rputBoth Reg.HOST_EN 0 0 (spIx r)

/-- A transmit ring stops with an error (R371, R373). -/
def State.txRingError (s : State) (r code : Nat) : State :=
  ((s.rput Reg.HOST_TX_ERR 1 0 (spIx r)).rput Reg.HOST_TX_ERR_CODE code 0 (spIx r)).rputBoth Reg.HOST_TX_EN 0 0 (spIx r)

/-- The vector check of a receive ring (R370): with IRQ_EN, VEC must be bound to PF0. -/
def State.rxVecOk (s : State) (r : Nat) : Bool :=
  !s.ron Reg.HOST_IRQ_EN 0 (spIx r) || s.vecFunc (s.rget Reg.HOST_VEC 0 (spIx r)) == 1

/-- The vector check of a transmit ring (R373). -/
def State.txVecOk (s : State) (r : Nat) : Bool :=
  !s.ron Reg.HOST_TX_IRQ_EN 0 (spIx r) || s.vecFunc (s.rget Reg.HOST_TX_VEC 0 (spIx r)) == 1

/-- A receive ring has a posted buffer, is enabled and not stopped (R365). -/
def State.rxCan (s : State) (r : Nat) : Bool :=
  s.ron Reg.HOST_EN 0 (spIx r) && !s.ron Reg.HOST_ERR 0 (spIx r) &&
  s.rget Reg.HOST_HEAD 0 (spIx r) != s.rget Reg.HOST_BUF_TAIL 0 (spIx r)

/-- Every slow-path ring is disabled and its indices are 0 (R374). -/
def State.slowRingsOff (s : State) : State :=
  (List.range 256).foldl (fun t r =>
    ((((t.rputBoth Reg.HOST_EN 0 0 (spIx r)).rputBoth Reg.HOST_BUF_TAIL 0 0 (spIx r)).rput Reg.HOST_HEAD 0 0 (spIx r)).rputBoth
      Reg.HOST_TX_EN 0 0 (spIx r)).rputBoth Reg.HOST_TX_TAIL 0 0 (spIx r) |>.rput Reg.HOST_TX_HEAD 0 0 (spIx r)) s

/-! ### Tails (R368, R371) -/

/-- BUF_TAIL comes into use; a tail that posts more buffers than the ring has stops it with OVERFLOW. -/
def State.bufTail (s : State) (r v : Nat) : State :=
  let s1 := s.rputBoth Reg.HOST_BUF_TAIL (v % 65536) 0 (spIx r)
  if 2 ^ s1.rget Reg.HOST_SIZE_LOG2 0 (spIx r) < (v % 65536 + 65536 - s1.rget Reg.HOST_HEAD 0 (spIx r)) % 65536
  then s1.rxRingError r 3 else s1

/-- TAIL of a transmit ring comes into use (R371, R373). -/
def State.txTail (s : State) (r v : Nat) : State :=
  let s1 := s.rputBoth Reg.HOST_TX_TAIL (v % 65536) 0 (spIx r)
  if 2 ^ s1.rget Reg.HOST_TX_SIZE_LOG2 0 (spIx r) < (v % 65536 + 65536 - s1.rget Reg.HOST_TX_HEAD 0 (spIx r)) % 65536
  then s1.txRingError r 3 else s1

/-- The BAR0 offset of a ring's tail register within block 5 (R390). -/
def tailOff (tx : Bool) (r : Nat) : Nat := 0x1014 + (if tx then 0x4000 else 0) + 0x1000 * (r / 64) + 0x20 * (r % 64)

/-- BUF_TAIL_WRITE (R368). -/
def execBufTailWrite (m : Master) (ring : Nat) (value : Word) (stores : List HostStore) (s : State) : Out :=
  .next (if 256 ≤ ring then s
    else (s.applyStores stores).guardWrite m 5 (tailOff false ring) value (fun t _ => t.bufTail ring value.toNat))

/-- TX_TAIL_WRITE (R371). -/
def execTxTailWrite (m : Master) (ring : Nat) (value : Word) (stores : List HostStore) (s : State) : Out :=
  .next (if 256 ≤ ring then s
    else (s.applyStores stores).guardWrite m 5 (tailOff true ring) value (fun t _ => t.txTail ring value.toNat))

/-! ### Receive (R365 to R370, R375) -/

/-- Words 0 (without PHASE), 1 and 2 of a receive record (R369): `len` bytes written. -/
def State.rxRecord (s : State) (n spq : Nat) (it : Item) (len : Nat) (trunc : Bool) : Nat × Nat × Nat :=
  let x := s.fr it.f
  let exc := lgEXC x.legend
  let by1 (i : Nat) : Nat := beNat (slice x.record i 1)
  let reason := if exc == excLENGTH then by1 6 % 16 else 0
  (len * 2 ^ 48 + x.origPort * 2 ^ 40 + exc * 2 ^ 34 + reason * 2 ^ 30 + spq * 2 ^ 27 + n * 2 ^ 24 + b2n x.trunc * 2 ^ 23 +
     b2n trunc * 2 ^ 22 + b2n x.cm * 2 ^ 21 + b2n x.ts.isSome * 2 ^ 20 + b2n it.copyExc * 2 ^ 19,
   x.ts.getD 0 % 2 ^ 64,
   lgRULE x.legend * 2 ^ 48 + beNat (slice x.record 0 2) * 2 ^ 32 + by1 13 * 2 ^ 24 + by1 9 * 2 ^ 16 + by1 8 * 2 ^ 8)

/-- The head frame leaves its slow-path queue. -/
def State.slowPop (s : State) (q : Nat) : State :=
  let x := s.q q
  s.setQ q { x with oc := x.oc.drop 1, deq := (x.deq + 1) % 2 ^ 32, lastUse := s.now }

/-- The head frame is written to the host ring r (R368 to R370). -/
def State.rxToHost (s : State) (n spq r : Nat) (it : Item) (busOk : Bool) : State :=
  let s0 := s.slowPop it.queue
  if !s.mayIssue 0 || !busOk then ((s0.rxRingError r 1).cinc Reg.HOST_CNT 0 [0]).release it
  else
    let h := s.rget Reg.HOST_HEAD 0 (spIx r)
    let lg := s.rget Reg.HOST_SIZE_LOG2 0 (spIx r)
    let slot := h % 2 ^ lg
    let base (lo hi : Row) : Nat := s.rget lo 0 (spIx r) * 4096 + s.rget hi 0 (spIx r) * 2 ^ 32
    let e := hostKey 0 (base Reg.HOST_BUF_BASE_LO Reg.HOST_BUF_BASE_HI + 16 * slot)
    let lim := 64 * s.rget Reg.HOST_BUF_LEN 0 (spIx r)
    let d := (s.fr it.f).body
    let trunc := decide (lim < d.length)
    let w := s.rxRecord n spq it (min lim d.length) trunc
    let cookie := s.m64 (e + 8) / 2 ^ 32
    let k := hostKey 0 (base Reg.HOST_CQ_BASE_LO Reg.HOST_CQ_BASE_HI + 32 * slot)
    let s1 := (s0.mwrite (hostKey 0 (s.m64 e)) (d.take lim))
    let s2 := ((s1.mset64 (k + 8) w.2.1).mset64 (k + 16) w.2.2).mset64 (k + 24) (cookie * 2 ^ 32)
    let s3 := (s2.mset64 k (w.1 + (1 - h / 2 ^ lg % 2))).rput Reg.HOST_HEAD ((h + 1) % 65536) 0 (spIx r)
    let s4 := if trunc then s3.cinc Reg.HOST_CNT 0 [1] else s3
    let s5 := (s4.cinc Reg.HOST_RX_FRAMES 0 [r]).release it
    if s5.ron Reg.HOST_IRQ_EN 0 (spIx r) then s5.signalVec (s5.rget Reg.HOST_VEC 0 (spIx r)) else s5

/-- The head frame is loaned to the higher-claim complex x (R375); nothing happens while its receive list or the loan table of
the basket is full. -/
def State.rxToComplex (s : State) (n x : Nat) (it : Item) : State :=
  match s.loanFree n with
  | none => s
  | some i =>
    if 1024 ≤ (s.cx x).receive.length then s
    else
      let fr := s.fr it.f
      let d := fr.data.map some
      let k := (s.copy it.f it.b).k
      let l : Loan := { kind := 1, owner := 17 + x, data := d ++ List.replicate (256 * k - d.length) none, seed := s.fresh, item := some it }
      let s1 := (({ s with fresh := s.fresh + 256 * k } : State).slowPop it.queue).loanPut n i l
      (s1.setCx x { s1.cx x with receive := (s1.cx x).receive ++ [n * 4096 + i] }).cinc Reg.HOST_CNT 0 [3]

/-- SLOWPATH_RX_DELIVER (R365): the DMA engine serves slow-path queue `spq` of basket n. A head copy marked bad is discarded
(R258). `busOk` says that the PCIe accesses succeed. -/
def execSlowpathRxDeliver (n spq : Nat) (busOk : Bool) (s : State) : Out :=
  .next (
    let q := 65464 + 8 * n + spq
    match (s.q q).oc with
    | [] => s
    | it :: _ =>
      let x := s.fr it.f
      if 8 ≤ n || 8 ≤ spq || !s.domOn (16 + n) || !x.ended || !s.stored it.f it.b then s
      else if x.bad || (s.copy it.f it.b).bad then ((s.slowPop q).release it).cinc Reg.SLATH_BASKET_CNT n [16]
      else if it.toCplx then (match s.higher with
        | some c => if s.rget Reg.CC_STATE_100 0 [c] == 4 then s.rxToComplex n c it else s
        | none => s)
      else
        let ix := [8 * n + spq]
        let r := (s.rget Reg.HOST_RING_BASE 0 ix + x.origPort % 2 ^ s.rget Reg.HOST_SPREAD_LOG2 0 ix) % 256
        if s.domOn 42 && s.rxCan r then s.rxToHost n spq r it busOk else s)

/-! ### Transmit (R371 to R373) -/

/-- A transmit descriptor keeps its layout (R371): words 1 to 3. -/
def txDescOk (w1 w2 w3 : Nat) : Bool :=
  decide (60 ≤ bits w1 63 48) && decide (bits w1 63 48 ≤ 9724) && bits w1 16 0 == 0 && bits w2 15 0 == 0 && bits w3 31 0 == 0 &&
  (!bit w1 17 || decide (bits w1 47 40 < 152))

/-- The bytes in the inject buffer of a pipe. -/
def State.injectUsed (s : State) (n : Nat) : Nat := ((s.pipe n).inject.map (fun f => (s.fr f).data.length)).sum

/-- SLOWPATH_TX (R372, R373): the next descriptor of transmit ring `ring` is fetched, and its frame is read whole into the
inject buffer of its pipe, or the ring waits for room. -/
def execSlowpathTx (ring : Nat) (busOk : Bool) (s : State) : Out :=
  .next (
    let ix := spIx ring
    let h := s.rget Reg.HOST_TX_HEAD 0 ix
    if 256 ≤ ring || !s.domOn 42 || !s.ron Reg.HOST_TX_EN 0 ix || s.ron Reg.HOST_TX_ERR 0 ix || h == s.rget Reg.HOST_TX_TAIL 0 ix then s
    else if !s.mayIssue 0 || !busOk then s.txRingError ring 1
    else
      let base := s.rget Reg.HOST_TX_BASE_LO 0 ix * 4096 + s.rget Reg.HOST_TX_BASE_HI 0 ix * 2 ^ 32
      let k := hostKey 0 (base + 32 * (h % 2 ^ s.rget Reg.HOST_TX_SIZE_LOG2 0 ix))
      let w0 := s.m64 k
      let w1 := s.m64 (k + 8)
      let w2 := s.m64 (k + 16)
      let w3 := s.m64 (k + 24)
      let n := bits w1 20 18
      let len := bits w1 63 48
      if !txDescOk w1 w2 w3 then s.txRingError ring 4
      else if 65536 < s.injectUsed n + len + 4 then s
      else
        let d := s.mread (hostKey 0 w0) len
        let f := s.nextFrame
        let x : Frame := { inPort := 152, origPort := 152, pipe := n, data := d ++ leBytes 4 (crc32 d), ended := true, len := len + 4,
                           launch := if bit w1 21 then some (bits w2 63 16) else none,
                           host := some ⟨ring, bit w1 23, bit w1 22, bits w3 63 32⟩, tokened := true, stage := 4,
                           direct := if bit w1 17 then some (bits w1 47 40, bits w1 39 24) else none }
        let s1 : State := { s with nextFrame := f + 1, frames := sins s.frames f x }
        let s2 := s1.setPipe n { s1.pipe n with inject := (s1.pipe n).inject ++ [f] }
        (s2.rput Reg.HOST_TX_HEAD ((h + 1) % 65536) 0 ix).cinc Reg.HOST_TX_FRAMES 0 [ring])

/-- HOST_INJECT (R372, R24): the oldest frame of the inject buffer of pipe n enters the pipe as port 152, when no recirculated
frame waits. -/
def execHostInject (n : Nat) (s : State) : Out :=
  .next (match (s.pipe n).inject with
    | f :: r =>
      if 8 ≤ n || !s.works (8 + n) || !(s.q (65528 + n)).oc.isEmpty then s
      else ((s.setPipe n { s.pipe n with inject := r }).issueSlot n f).capture f 152
    | [] => s)

/-- HEAD_WRITEBACK (R373): HEAD of transmit ring `ring` is written to WB_ADDR, and with IRQ_EN its vector is signalled. -/
def execHeadWriteback (ring : Nat) (busOk : Bool) (s : State) : Out :=
  .next (
    let ix := spIx ring
    if 256 ≤ ring || !s.domOn 42 || !s.ron Reg.HOST_TX_EN 0 ix || s.ron Reg.HOST_TX_ERR 0 ix then s
    else if !s.mayIssue 0 || !busOk then s.txRingError ring 1
    else
      let a := s.rget Reg.HOST_WB_LO 0 ix * 8 + s.rget Reg.HOST_WB_HI 0 ix * 2 ^ 32
      let s1 := s.mset64 (hostKey 0 a) (s.rget Reg.HOST_TX_HEAD 0 ix)
      if s1.ron Reg.HOST_TX_IRQ_EN 0 ix then s1.signalVec (s1.rget Reg.HOST_TX_VEC 0 ix) else s1)

/-! ### Delivery to the control complex (R376) -/

/-- Bank slot of CRX_W1 to CRX_W7. -/
def crxSlot (w : Nat) : Nat := selSlot 5 (0x400 + 4 * w)

/-- A read of CRX_POP (R376). -/
def State.crxPop (s : State) (m : Master) : State :=
  match s.higher with
  | some x =>
    if m.id != 17 + x then s.answer 0
    else match (s.cx x).receive with
    | [] => s.answer 0
    | h :: r =>
      let s0 := s.setCx x { s.cx x with receive := r }
      match sfind (s.crl (h / 4096)).loans (h % 4096) with
      | some l => (match l.item with
        | some it =>
          let w := s.rxRecord it.b (it.queue % 8) it ((s.fr it.f).body.length) false
          let ws := [w.1, w.1 / 2 ^ 32, w.2.1, w.2.1 / 2 ^ 32, w.2.2, w.2.2 / 2 ^ 32, 0, h]
          ((List.range 7).foldl (fun t i => t.setBank (bankOf m) (crxSlot (i + 1)) ((ws.getD (i + 1) 0) % 2 ^ 32)) s0).answer w.1
        | none => s0.answer 0)
      | none => s0.answer 0
  | none => s.answer 0

/-- CRX_POP. -/
def execCrxPop (m : Master) (s : State) : Out := .next (if hasBar0 m && !s.clockless then s.crxPop m else s.answer 0)

/-! ### Loan data (R377) -/

/-- The loan that a value of LOAN_SEL or ATT_SEL names, when the master owns it and the cell lies in its chain: basket, index,
first byte of the word. -/
def State.loanAt (s : State) (m : Master) (v w : Nat) : Option (Nat × Nat × Nat × Loan) :=
  let b := bits v 14 12
  let i := bits v 11 0
  let c := bits v 21 16
  match sfind (s.crl b).loans i with
  | some l => if l.owner == m.id && 256 * c < l.data.length then some (b, i, 256 * c + 4 * w, l) else none
  | none => none

/-- Four bytes of a loan written at an offset. -/
def Loan.put (l : Loan) (o : Nat) (d : List Byte) : Loan :=
  { l with data := l.data.take o ++ d.map some ++ l.data.drop (o + d.length) }

/-- A read of LOAN_DATA_w, or of ATT_DATA_w, under the select value v. -/
def State.loanRead (s : State) (m : Master) (v w : Nat) : State :=
  match s.loanAt m v w with
  | some (_, _, o, l) => s.answer (beNat ((List.range 4).map (fun j => l.byte (o + j))))
  | none => (s.cinc Reg.HOST_CNT 0 [4]).answer 0

/-- A write of LOAN_DATA_w, or of ATT_DATA_w, under the select value v. -/
def State.loanWrite (s : State) (m : Master) (v w x : Nat) : State :=
  match s.loanAt m v w with
  | some (b, i, o, l) => s.setCrl b { s.crl b with loans := sins (s.crl b).loans i (l.put o (beBytes 4 x)) }
  | none => s.cinc Reg.HOST_CNT 0 [4]

/-- LOAN_DATA_ACCESS (R377): a read, or a write of `wr`, of LOAN_DATA_w. -/
def execLoanDataAccess (m : Master) (w : Nat) (wr : Option Word) (s : State) : Out :=
  .next (
    let sel := s.sel (bankOf m) 5 0x440
    if 64 ≤ w || s.boot.porst || !hasBar0 m then s
    else match wr with
    | none => if s.clockless then s.answer 0 else s.loanRead m sel w
    | some v =>
      let c := s.writeCause m.id (bankOf m) ⟨5, 0x500 + 4 * w, false⟩ 0 none v.toNat 0xFFFFFFFF
      if c != 0 then s.refuseWrite m.id (5 * 2 ^ 20 + 0x500 + 4 * w) c else s.loanWrite m sel w v.toNat)

end Sys2Proof.Machine
end

