-- ==== Sys2Proof/Machine/Cplx.lean ====
section
/-! DEFINITION. Control complexes (R392 to R411): states and claims, faults, self-tests, the image store, checkpoints; the
meanings of SELFTEST_DONE to IMAGE_LOAD_DONE. -/

namespace Sys2Proof.Machine

open Sys2Proof

/-! ### States and claims (R394 to R397, R406, R411) -/

/-- The state of complex x: 0 OFF, 1 SELFTEST, 2 STANDBY, 3 BOOTING, 4 ACTIVE, 5 FAULTED. -/
def State.cstate (s : State) (x : Nat) : Nat := s.rget Reg.CC_STATE_100 0 [x]

/-- The claim number of a state (R394). -/
def claimOf : Nat → Nat
  | 2 => 0x40
  | 3 => 0x80
  | 4 => 0xC0
  | _ => 0

/-- No complex is in BOOTING or ACTIVE, the image is verified (R396). -/
def State.startFree (s : State) : Bool :=
  (List.range 2).all (fun x => s.cstate x != 3 && s.cstate x != 4) && s.rget Reg.CC_STATE_3C == 2

/-- The start condition of complex x (R396). -/
def State.startOk (s : State) (x : Nat) : Bool :=
  s.cstate x == 2 && s.startFree && (s.ron Reg.CC_AUTO_START || (s.cx x).startMem)

/-- A complex in STANDBY would start but for AUTO_START (R406). -/
def State.startBlocked (s : State) : Bool :=
  !s.ron Reg.CC_AUTO_START && (List.range 2).any (fun x => s.cstate x == 2 && s.startFree && !(s.cx x).startMem)

/-- Marks the pending descriptors of the privileged rings after a claim was lost (R57): those with FENCE_BEFORE will end with
CLAIM when they come to the head. -/
def State.doomRings (s : State) : State :=
  (List.range 64).foldl (fun t n =>
    let pend := (t.rget Reg.DB_TAIL n + 65536 - t.rget Reg.DB_HEAD n) % 65536
    if t.privileged n && pend != 0 then t.setRingx n { t.ringx n with doomed := pend } else t) s

/-- Complex x enters a state: its claim, READY_MAP bits 39 + x and 46, event STATE_x, NO_ACTIVE (R406), and the privileged rings
when the higher-claim complex lost its claim (R57). -/
def State.enterState (s : State) (x st : Nat) : State :=
  let old := s.cstate x
  let was := s.higher == some x
  let s1 := ((s.rput Reg.CC_STATE_100 st 0 [x]).rput Reg.CC_CLAIM (claimOf st) 0 [x]).setCx x { s.cx x with since := s.now }
  let s2 := s1.setReady (39 + x) (st == 2 || st == 3 || st == 4)
  let s3 := s2.setReady 46 (s2.cstate 0 == 4 || s2.cstate 1 == 4)
  let s4 := s3.raise (1129 + 5 * x)
  let left := (old == 3 || old == 4) && st != 3 && st != 4 && !s4.startOk 0 && !s4.startOk 1
  let s5 := s4.raiseIf (left || (!s.startBlocked && s4.startBlocked)) 1139
  if was && s5.higher != some x then s5.doomRings else s5

/-- A fault of complex x is declared (R399). -/
def State.declareFault (s : State) (x cause : Nat) : State :=
  let s1 := ((s.enterState x 5).rput Reg.CC_CAUSE cause 0 [x]).pput Reg.CC_FAULT_TIME s.short 0 [x]
  let s2 := s1.setCx x { s1.cx x with startMem := false, restartOffered := false, testing := false, imageChecked := false }
  ((s2.resetIdentity (17 + x)).raise (1128 + 5 * x)).cinc Reg.CC_CNT 0 [x, 0]

/-- PD_CC_x reaches on (R395). -/
def State.cplxOn (s : State) (x : Nat) : State := if s.cstate x == 0 then s.enterState x 1 else s

/-- PD_CC_x leaves on (R395). -/
def State.cplxOff (s : State) (x : Nat) : State :=
  if s.cstate x == 0 then s
  else
    let s1 := s.enterState x 0
    s1.setCx x { s1.cx x with startMem := false, restartOffered := false, testing := false, imageChecked := false }

/-! ### Self-test (R402) -/

/-- SELFTEST_DONE (R402): the test of a complex in SELFTEST, or the periodic test of one in STANDBY, completes. `item` is the
failing item. -/
def execSelftestDone (x : Nat) (pass : Bool) (item : Nat) (s : State) : Out :=
  .next (
    let st := s.cstate x
    if 2 ≤ x || !(st == 1 || (st == 2 && (s.cx x).testing)) then s
    else
      let s0 := s.setCx x { s.cx x with testing := false }
      let s1 := ((s0.rput Reg.CC_PASS (b2n pass) 0 [x]).rput Reg.CC_FAIL_ITEM (if pass then 0 else item % 32) 0 [x]).winc Reg.CC_TESTS 0 [x]
      let s2 := (s1.pput Reg.CC_HEALTH_TIME s.short 0 [x]).cinc Reg.CC_CNT 0 [x, 5]
      if pass then (if st == 1 then s2.enterState x 2 else s2)
      else ((s2.cinc Reg.CC_CNT 0 [x, 6]).raise (1130 + 5 * x)).declareFault x 6)

/-- SELFTEST_PERIODIC (R402): 60 s in STANDBY have passed since the last test, and the test starts again. -/
def execSelftestPeriodic (x : Nat) (s : State) : Out :=
  .next (
    let c := s.cx x
    if x < 2 && s.cstate x == 2 && !c.testing && decide (c.since + 60000 * ms ≤ s.now)
    then s.setCx x { c with testing := true, since := s.now } else s)

/-! ### Start, promotion, faults -/

/-- COMPLEX_START (R395, R396, R404): a complex that meets the start condition enters BOOTING; its receive list is emptied, a
test in progress is abandoned, and its identity is reset with the start of its firmware (R385). Complex A goes first. -/
def execComplexStart (x : Nat) (s : State) : Out :=
  .next (
    if x < 2 && s.startOk x && !(x == 1 && s.startOk 0) then
      let s1 := s.enterState x 3
      (s1.setCx x { s1.cx x with startMem := false, testing := false, imageChecked := false, restored := false, receive := [] }).resetIdentity (17 + x)
    else s)

/-- IMAGE_COPY_CHECK (R401): the image was copied into the private memory of a BOOTING complex and its signature checked. -/
def execImageCopyCheck (x : Nat) (good : Bool) (s : State) : Out :=
  .next (
    if x < 2 && s.cstate x == 3 && !(s.cx x).imageChecked then
      (if good then s.setCx x { s.cx x with imageChecked := true } else s.declareFault x 8)
    else s)

/-- A write of SELF of complex x (R395, R398, R400). -/
def State.selfWrite (s : State) (x v : Nat) : State :=
  let s1 := if bit v 0 && s.cstate x == 4 then s.setCx x { s.cx x with kickAt := s.now } else s
  let s2 := if bit v 1 && (s1.cstate x == 3 || s1.cstate x == 4) then s1.declareFault x 4 else s1
  if bit v 2 && s2.cstate x == 3 then
    let s3 := s2.enterState x 4
    ((s3.setCx x { s3.cx x with kickAt := s.now, lastCommit := s.now }).cinc Reg.CC_CNT 0 [x, 7])
  else s2

/-- A write of CTL of complex x (R395, R396). -/
def State.ctlWrite (s : State) (x v : Nat) : State :=
  let st := s.cstate x
  let s1 := if bit v 0 && decide (1 ≤ st) && decide (st ≤ 4) then s.declareFault x 5 else s
  let s2 := if bit v 1 && s.cstate x == 5 then s1.enterState x 1 else s1
  if bit v 2 && s2.cstate x == 2 then s2.setCx x { s2.cx x with startMem := true } else s2

/-- The offset of a per-complex register. -/
def cplxOff (x o : Nat) : Nat := 0x100 + 0x40 * x + o

/-- PROMOTE (R395): a BOOTING complex writes PROMOTE and becomes ACTIVE. -/
def execPromote (m : Master) (x : Nat) (s : State) : Out :=
  .next (if x < 2 then s.guardWrite m 14 (cplxOff x 8) 4 (fun t _ => t.selfWrite x 4) else s)

/-- KICK (R400): the ACTIVE complex restarts its watchdog. -/
def execKick (m : Master) (x : Nat) (s : State) : Out :=
  .next (if x < 2 then s.guardWrite m 14 (cplxOff x 8) 1 (fun t _ => t.selfWrite x 1) else s)

/-- SELF_FAULT (R398): a complex declares its own fault. -/
def execSelfFault (m : Master) (x : Nat) (s : State) : Out :=
  .next (if x < 2 then s.guardWrite m 14 (cplxOff x 8) 2 (fun t _ => t.selfWrite x 2) else s)

/-- FORCE_FAULT (R398): PF0 or debug declares a fault. -/
def execForceFault (m : Master) (x : Nat) (s : State) : Out :=
  .next (if x < 2 then s.guardWrite m 14 (cplxOff x 4) 1 (fun t _ => t.ctlWrite x 1) else s)

/-- RESTART (R395): a FAULTED complex enters SELFTEST. -/
def execRestart (m : Master) (x : Nat) (s : State) : Out :=
  .next (if x < 2 then s.guardWrite m 14 (cplxOff x 4) 2 (fun t _ => t.ctlWrite x 2) else s)

/-- START (R396): a start is remembered for a complex in STANDBY. -/
def execStart (m : Master) (x : Nat) (s : State) : Out :=
  .next (if x < 2 then s.guardWrite m 14 (cplxOff x 4) 4 (fun t _ => t.ctlWrite x 4) else s)

/-- BOOT_TIMEOUT (R395): 199 ms in BOOTING without PROMOTE. -/
def execBootTimeout (x : Nat) (s : State) : Out :=
  .next (if x < 2 && s.cstate x == 3 && decide ((s.cx x).since + 199 * ms ≤ s.now) then s.declareFault x 7 else s)

/-- LOCKSTEP (R398): the outputs of the two cores of a BOOTING or ACTIVE complex differ. -/
def execLockstep (x : Nat) (s : State) : Out :=
  .next (if x < 2 && (s.cstate x == 3 || s.cstate x == 4) then (s.declareFault x 1).cinc Reg.CC_CNT 0 [x, 1] else s)

/-- COMPLEX_ECC (R398): an error in a private memory; a correctable one is counted and raises ECC_CORR_x. -/
def execComplexEcc (x : Nat) (correctable : Bool) (s : State) : Out :=
  .next (
    if 2 ≤ x || s.cstate x == 0 then s
    else if correctable then (s.cinc Reg.CC_CNT 0 [x, 3]).raise (1132 + 5 * x)
    else if s.cstate x == 3 || s.cstate x == 4 then (s.declareFault x 2).cinc Reg.CC_CNT 0 [x, 2] else s)

/-- WATCHDOG (R398, R400): no KICK of the ACTIVE complex for WDOG_MS. -/
def execWatchdog (x : Nat) (s : State) : Out :=
  .next (if x < 2 && s.cstate x == 4 && decide ((s.cx x).kickAt + s.rget Reg.CC_WDOG_MS 0 [x] * ms ≤ s.now)
    then (s.declareFault x 3).cinc Reg.CC_CNT 0 [x, 4] else s)

/-- AUTO_RESTART (R395): the second after a declaration ends; the complex restarts when AUTO_RESTART is 1, else it stays FAULTED
until RESTART. -/
def execAutoRestart (x : Nat) (s : State) : Out :=
  .next (
    let c := s.cx x
    if x < 2 && s.cstate x == 5 && !c.restartOffered && decide (c.since + 1000 * ms ≤ s.now) then
      (if s.ron Reg.CC_AUTO_RESTART then s.enterState x 1 else s.setCx x { c with restartOffered := true })
    else s)

/-! ### Checkpoints (R403, R404) -/

/-- A checkpoint is committed: GO of CKPT_CTL with `len` pages of the staging buffer's bytes. -/
def State.ckptGo (s : State) (len : Nat) (data : List Byte) : State :=
  let d := slice data 0 (4096 * len)
  let q := (s.rget Reg.CC_CKPT_SEQ + 1) % 2 ^ 32
  ({ s with store := { s.store with pendingCkpt := some ⟨q, crc32c d, d⟩, ckptPhase := 1 } } : State).rput Reg.CC_BUSY 1

/-- CKPT_GO (R403): the ACTIVE complex writes CKPT_CTL with GO; `data` is its staging buffer. -/
def execCkptGo (m : Master) (len : Nat) (data : List Byte) (s : State) : Out :=
  .next (s.guardWrite m 14 0x14 (BitVec.ofNat 32 (2 ^ 31 + len % 128)) (fun t _ => t.ckptGo (len % 128) data))

/-- CKPT_RETAINED (R403): the new checkpoint becomes the current retained copy. -/
def execCkptRetained (s : State) : Out :=
  .next (match s.store.ckptPhase, s.store.pendingCkpt with
    | 1, some c =>
      let s1 : State := { s with store := { s.store with retained := some c, ckptPhase := 2, staleRaised := false } }
      let s2 := (s1.rput Reg.CC_CKPT_SEQ c.seq).cinc Reg.CC_CKPT_CNT 0 [0]
      (List.range 2).foldl (fun t x => if t.cstate x == 4 then t.setCx x { t.cx x with lastCommit := t.now } else t) s2
    | _, _ => s)

/-- The LP4X address of checkpoint slot k (R403). -/
def State.ckptSlot (s : State) (k : Nat) : Nat := s.rget Reg.CC_CKPT_BASE * 2048 + 262144 * k

/-- CKPT_LP4X_DONE (R403): the checkpoint is written to its LP4X slot, or the write is skipped while LP4X is not ready. -/
def execCkptLp4xDone (s : State) : Out :=
  .next (match s.store.ckptPhase, s.store.pendingCkpt with
    | 2, some c =>
      let s0 := ({ s with store := { s.store with pendingCkpt := none, ckptPhase := 0 } } : State).rput Reg.CC_BUSY 0
      if s.lp4xReady then
        let k := c.seq % 2
        let s1 : State := { s0 with store := { s0.store with slots := sins s0.store.slots k (c.seq, c.crc, c.data.length) } }
        ((s1.mwrite (lp4xKey (s.ckptSlot k)) c.data).lp4xUse true).rput Reg.CC_LP4X_SEQ c.seq
      else s0.cinc Reg.CC_CKPT_CNT 0 [1]
    | _, _ => s)

/-- CKPT_STALE (R403): an ACTIVE complex has committed nothing for 30 ms. -/
def execCkptStale (s : State) : Out :=
  .next (
    if !s.store.staleRaised && (List.range 2).any (fun x => s.cstate x == 4 && decide ((s.cx x).lastCommit + 30 * ms ≤ s.now)) then
      ({ s with store := { s.store with staleRaised := true } } : State).raise 1138
    else s)

/-- The LP4X slot with the higher sequence: slot, sequence, CRC and length. -/
def State.bestSlot (s : State) : Option (Nat × Nat × Nat × Nat) :=
  match sfind s.store.slots 0, sfind s.store.slots 1 with
  | some a, some b => if a.1 < b.1 then some (1, b) else some (0, a)
  | some a, none => some (0, a)
  | none, some b => some (1, b)
  | none, none => none

/-- CHECKPOINT_RESTORE (R404): the newest checkpoint whose CRC checks becomes available to BOOTING complex x: the retained copy,
else the LP4X slot with the higher sequence. `ecc` says that the LP4X read is uncorrectable (R470). -/
def execCheckpointRestore (x : Nat) (ecc : Bool) (s : State) : Out :=
  .next (
    if 2 ≤ x || s.cstate x != 3 || (s.cx x).restored then s
    else
      let s0 := s.setCx x { s.cx x with restored := true }
      let from1 : Option Nat := match s.store.retained with
        | some c => if crc32c c.data == c.crc then some c.seq else none
        | none => none
      let none0 (t : State) : State := (t.rput Reg.CC_SRC 0).rput Reg.CC_RESTORE_SEQ 0
      match from1 with
      | some q => (s0.rput Reg.CC_SRC 1).rput Reg.CC_RESTORE_SEQ q
      | none =>
        match s.bestSlot with
        | some (k, q, c, n) =>
          if !s.lp4xReady then none0 s0
          else if ecc then none0 ((s0.lp4xUse false).lp4xEcc (s.ckptSlot k))
          else if crc32c (s.mread (lp4xKey (s.ckptSlot k)) n) == c then ((s0.lp4xUse false).rput Reg.CC_SRC 2).rput Reg.CC_RESTORE_SEQ q
          else none0 (s0.lp4xUse false)
        | none => none0 s0)

/-! ### The image store (R401) -/

/-- A load of `pages` pages from source 1 (SPI NOR) or 2 (PCIe) begins. -/
def State.imgBegin (s : State) (src pages : Nat) : State :=
  (({ s with store := { s.store with loadPages := pages, loadSrc := src } } : State).rput Reg.CC_STATE_3C 1).rput Reg.GLOBAL_FW_SRC src

/-- A load ends: VERIFIED with the version, or FAILED; the start condition may come to be blocked by AUTO_START (R406). -/
def State.imgEnd (s : State) (good : Bool) (version : Nat) : State :=
  let s0 : State := { s with store := { s.store with loadPages := 0, loadSrc := 0 } }
  let s1 := if good then (s0.rput Reg.CC_STATE_3C 2).rput Reg.CC_IMG_VERSION version else s0.rput Reg.CC_STATE_3C 3
  s1.raiseIf (!s.startBlocked && s1.startBlocked) 1139

/-- IMG_GO (R401): PF0 writes IMG_CTL with GO. -/
def execImgGo (m : Master) (pages : Nat) (s : State) : Out :=
  .next (s.guardWrite m 14 0x38 (BitVec.ofNat 32 (2 ^ 31 + pages % 2048)) (fun t _ => t.imgBegin 2 (pages % 2048)))

/-- IMAGE_LOAD_DONE (R401): the load from PF0's memory ends: `busOk` says that its reads succeeded, `good` is the verdict of the
signature check, `version` the image's version field. -/
def execImageLoadDone (busOk good : Bool) (version : Word) (s : State) : Out :=
  .next (
    if s.store.loadSrc != 2 then s
    else if !busOk || !s.mayIssue 0 then s.imgEnd false 0
    else
      let d := s.mread (hostKey 0 (s.pget Reg.CC_IMG_ADDR)) (4096 * s.store.loadPages)
      ({ s with store := { s.store with image := d } } : State).imgEnd good version.toNat)

end Sys2Proof.Machine
end

