-- ==== Sys2Proof/Machine/Boundary.lean ====
section
/-! DEFINITION. Buffered values coming into use (R99 to R101): what moves at a boundary, what is held (R40, R113, R139, R466), and
what a field does in the core cycle in which it comes into use. -/

namespace Sys2Proof.Machine

open Sys2Proof

/-! ### What is held -/

/-- The enables of a block instance are free to come into use (R466). -/
def State.enablesFree (s : State) (blk inst off : Nat) : Bool :=
  match blk with
  | 4 => s.ready 43
  | 6 => s.ready (inst / 16)
  | 7 => s.ready 44 && (decide (inst < 16) || s.ready 1)
  | 8 => s.ready (8 + inst)
  | 9 => s.ready (16 + inst)
  | 10 =>
    if off == 0x400 then s.ready (8 + pipeOfPort inst) else s.ready (8 + (off - 0x3000) / 0x100)
  | 12 => s.ready 41
  | _ => true

/-- The bits of a register that must stay as they are in use: enables before readiness, an enable whose check failed and which
nothing has written since, and EN of a ring that is bound to identity 0 (R40). -/
def State.holdBits (s : State) (blk inst off : Nat) : Nat :=
  let e := enableBits blk off
  if e == 0 then 0
  else if !s.enablesFree blk inst off || s.failed.contains (regKey blk inst off) then e
  else if blk == 4 && off != 0 && s.ringTarget ((off - 0x1000) / 0x40) % 64 == 0 then e
  else 0

/-! ### "disable" fields -/

/-- The bits of a register that apply at "disable". -/
def disableMask (blk off : Nat) : Nat := maskOf (fun r => r.app == .disable) (regRows blk off)

/-- The "disable" fields of one instance, given as a range of offsets, come into use (R101). -/
def State.takeDisabled (s : State) (blk inst lo hi : Nat) : State :=
  s.moveBits blk inst (fun o => if lo ≤ o ∧ o < hi then disableMask blk o else 0)

/-! ### Rings (R38, R40, R531) -/

/-- The vector of a command ring is bound to its function, or needs no check (R531). -/
def State.seqVecOk (s : State) (n : Nat) : Bool :=
  !s.ron Reg.SEQ_IRQ_EN 0 [n] || (match s.ringFunc n with
    | some f => s.vecFunc (s.rget Reg.SEQ_VEC 0 [n]) == f + 1
    | none => false)

/-- EN of a command ring comes into use with 1. -/
def State.ringEnable (s : State) (n : Nat) : State :=
  let s1 := s.takeDisabled 4 0 (0x1000 + 0x40 * n) (0x1040 + 0x40 * n)
  if !s1.ron Reg.SEQ_RING_LOC 0 [n] && (s1.ringFunc n).isNone then s1.ringError n 2
  else if !s1.seqVecOk n then s1.ringError n 5 else s1

/-- A field of one row changed in use between two states. -/
def State.changed (s t : State) (r : Row) (inst : Nat := 0) (ix : List Nat := []) : Bool := s.rget r inst ix != t.rget r inst ix

/-- A one-bit field rose, or fell, in use. -/
def State.rose (s t : State) (r : Row) (inst : Nat := 0) (ix : List Nat := []) : Bool := !s.ron r inst ix && t.ron r inst ix
def State.fell (s t : State) (r : Row) (inst : Nat := 0) (ix : List Nat := []) : Bool := s.ron r inst ix && !t.ron r inst ix

/-- What the sequencer block does with values newly in use. -/
def State.useSeq (s t : State) : State :=
  (List.range 64).foldl (fun u n =>
    if s.rose t Reg.SEQ_EN 0 [n] then u.ringEnable n
    else if u.ron Reg.SEQ_EN 0 [n] && (s.changed t Reg.SEQ_VEC 0 [n] || s.changed t Reg.SEQ_IRQ_EN 0 [n]) && !u.seqVecOk n then u.ringError n 5
    else u) t

/-- What the host block does: EN, VEC and IRQ_EN of the slow-path rings (R370). -/
def State.useHost (s t : State) : State :=
  let rx (u : State) (r : Nat) : State :=
    let up := s.rose t Reg.HOST_EN 0 (spIx r)
    let u1 := if up then u.takeDisabled 5 0 (0x1000 * (1 + r / 64) + 0x20 * (r % 64)) (0x1000 * (1 + r / 64) + 0x20 * (r % 64) + 0x20) else u
    if u1.ron Reg.HOST_EN 0 (spIx r) && (up || s.changed t Reg.HOST_VEC 0 (spIx r) || s.changed t Reg.HOST_IRQ_EN 0 (spIx r)) && !u1.rxVecOk r
    then u1.rxRingError r 2 else u1
  let tx (u : State) (r : Nat) : State :=
    let up := s.rose t Reg.HOST_TX_EN 0 (spIx r)
    let u1 := if up then u.takeDisabled 5 0 (0x1000 * (5 + r / 64) + 0x20 * (r % 64)) (0x1000 * (5 + r / 64) + 0x20 * (r % 64) + 0x20) else u
    if u1.ron Reg.HOST_TX_EN 0 (spIx r) && (up || s.changed t Reg.HOST_TX_VEC 0 (spIx r) || s.changed t Reg.HOST_TX_IRQ_EN 0 (spIx r)) && !u1.txVecOk r
    then u1.txRingError r 2 else u1
  (List.range 256).foldl tx ((List.range 256).foldl rx t)

/-! ### Ports and lanes (R111 to R113, R139) -/

/-- The FEC that a mode permits (R111). -/
def fecOk (mode fec : Nat) : Bool :=
  match mode with
  | 1 => fec == 0
  | 2 => fec == 0 || fec == 1
  | 4 => fec == 0 || fec == 1
  | _ => fec == 2

/-- The signalling of a mode: 0 10.3125 GBd, 1 25.78125 GBd, 2 26.5625 GBd. -/
def signalling (mode : Nat) : Nat := if mode == 1 then 0 else if mode == 2 || mode == 4 then 1 else 2

/-- Ports p and q lie on one quad at different signalling rates (R112). -/
def State.rateClash (s : State) (p q : Nat) : Bool :=
  let m := s.rget Reg.PORT_MODE p
  let n := s.rget Reg.PORT_MODE q
  decide (q / 4 ≤ (p + modeLanes m - 1) / 4) && decide (p / 4 ≤ (q + modeLanes n - 1) / 4) && signalling n != signalling m

/-- The first reason for which port p may not be enabled, in the order of R113; 0 when it may. -/
def State.portCheck (s : State) (p : Nat) : Nat :=
  let md := s.rget Reg.PORT_MODE p
  let n := modeLanes md
  let others := (List.range 128).filter (fun q => q != p && s.ron Reg.PORT_ENABLE q)
  let width (q : Nat) : Nat := modeLanes (s.rget Reg.PORT_MODE q)
  if md == 0 || 8 ≤ md then 6
  else if !fecOk md (s.rget Reg.PORT_FEC p) then 5
  else if p % n != 0 then 2
  else if (List.range 24).any (fun l => s.ron Reg.BRIDGE_EN l && decide (p / 4 ≤ l / 4) && decide (l / 4 ≤ (p + n - 1) / 4)) then 4
  else if others.any (fun q => decide (q < p + n) && decide (p < q + width q)) then 1
  else if others.any (s.rateClash p) then 3
  else 0

/-- ENABLE of port p goes from 0 to 1 in use (R113, R116). `was` is the state before the core cycle: a conflict of either kind with
a port of a lower ID enabled in the same cycle is recorded as 1 (DEDUCED, log entry 148). -/
def State.portEnable (s : State) (was : State) (p : Nat) : State :=
  let s1 := s.takeDisabled 6 p 0x100 0x130
  let e := s1.portCheck p
  let twin := (List.range p).any (fun q => was.rose s1 Reg.PORT_ENABLE q && s1.rateClash p q)
  let c := if e == 3 && twin then 1 else e
  if c != 0 then { ((s1.rput Reg.PORT_ENABLE 0 p).rput Reg.PORT_CFG_ERR c p) with failed := regKey 6 p 0x100 :: s1.failed }
  else
    let s2 := (s1.rput Reg.PORT_CFG_ERR 0 p).setPx p { s1.px p with closing := false, fecStart := s1.now, fecCount := 0, fecRaised := false }
    s2.linkTo p (if s2.ron Reg.PORT_AN p then 1 else if s2.ron Reg.PORT_LT p then 2 else 3)

/-- What the port block does with values of port p newly in use (R113, R128, R129). -/
def State.usePort (s t : State) (p : Nat) : State :=
  let t1 := if s.rose t Reg.PORT_ENABLE p then t.portEnable s p
    else if s.fell t Reg.PORT_ENABLE p then t.setPx p { t.px p with closing := true } else t
  if s.rget Reg.PORT_WDOG_TIME p == 0 && t1.rget Reg.PORT_WDOG_TIME p != 0 then
    t1.setPx p { t1.px p with pause := smap (fun _ => {}) (fun _ u => { u with since := t1.now }) (t1.px p).pause } else t1

/-- What the bridge does with values of lane l newly in use (R137, R139, R146). -/
def State.useLane (s t : State) (l : Nat) : State :=
  let t1 := if s.rose t Reg.BRIDGE_EN l then (t.takeDisabled 7 l 0x100 0x140).laneEnable l
    else if s.fell t Reg.BRIDGE_EN l then t.laneDisable l else t
  if (s.cell (regKey 7 l 0x108)).e.toNat % 2 ^ 16 != (t1.cell (regKey 7 l 0x108)).e.toNat % 2 ^ 16 then
    t1.setLane l { t1.lane l with sdGroups := 0, sdErr := 0 } else t1

/-! ### Spill, paging, extension regions (R250, R251, R273, R469) -/

/-- Two regions of 2 KiB units overlap. -/
def overlaps (a n b m : Nat) : Bool := decide (a < b + m) && decide (b < a + n)

/-- A region overlaps an enabled spill region, that of basket `but` excepted. -/
def State.spillClash (s : State) (base n but : Nat) : Bool :=
  (List.range 8).any (fun b => b != but && s.ron Reg.SLATH_SPILL_EN b &&
    overlaps base n (s.rget Reg.SLATH_SPILL_BASE b) (s.rget Reg.SLATH_SPILL_BLOCKS b))

/-- SPILL_EN of basket b changes in use (R250, R251). -/
def State.useSpill (s t : State) (b : Nat) : State :=
  if s.rose t Reg.SLATH_SPILL_EN b then
    let t1 := t.takeDisabled 9 b 0x200 0x220
    let base := t1.rget Reg.SLATH_SPILL_BASE b
    let n := t1.rget Reg.SLATH_SPILL_BLOCKS b
    let ok := decide (base + n ≤ t1.lp4xUsable) && !t1.spillClash base n b
    let a := min (t1.rget Reg.SLATH_RB_CELLS b) (t1.rget Reg.SLATH_CELLS_FREE b)
    ((t1.rput Reg.SLATH_SPILL_STATE (if ok then 1 else 3) b).rsub Reg.SLATH_CELLS_FREE a b).setCrl b { t1.crl b with aside := a, wait := 0 }
  else if s.fell t Reg.SLATH_SPILL_EN b then
    let c := t.crl b
    let t1 := (t.radd Reg.SLATH_CELLS_FREE c.aside b).setCrl b { c with aside := 0, wait := 0 }
    ((t1.rput Reg.SLATH_SPILL_STATE 0 b).rput Reg.SLATH_SPILL_FREE 0 b).rput Reg.SLATH_CACHE_FILL 0 b
  else t

/-- PAGING_EN changes in use (R273): the region of 4 MiB at QCTX_BASE. -/
def State.usePaging (s t : State) : State :=
  if s.rose t Reg.QUEUE_PAGING_EN then
    let t1 := t.takeDisabled 10 0 0x20 0x28
    let base := t1.rget Reg.QUEUE_QCTX_BASE
    t1.rput Reg.QUEUE_PAGING_STATE (if base + 2048 ≤ t1.lp4xUsable ∧ t1.spillClash base 2048 8 = false then 1 else 2)
  else if s.fell t Reg.QUEUE_PAGING_EN then t.rput Reg.QUEUE_PAGING_STATE 0 else t

/-- EN of EXT_CFG changes in use (R469): the region of 256 MiB at EXT_BASE. -/
def State.useExt (s t : State) : State :=
  if s.rose t Reg.CLOCKS_EN then
    let t1 := t.takeDisabled 1 0 0x210 0x214
    let base := t1.rget Reg.CLOCKS_EXT_BASE
    let pg := t1.ron Reg.QUEUE_PAGING_EN && overlaps base 131072 (t1.rget Reg.QUEUE_QCTX_BASE) 2048
    t1.rput Reg.CLOCKS_EXT_STATE (if base + 131072 ≤ t1.lp4xUsable ∧ t1.spillClash base 131072 8 = false ∧ pg = false then 1 else 2)
  else if s.fell t Reg.CLOCKS_EN then t.rput Reg.CLOCKS_EXT_STATE 0 else t

/-! ### Meridian, events, Tally, complexes, power -/

/-- What Meridian does with values newly in use (R351, R356). -/
def State.useMerid (s t : State) : State :=
  (if s.changed t Reg.MERID_OUT_EN then t.ppsEnable else t).rclkSettle

/-- EN of event routes: a source whose status is 1 becomes active and signals its vector (R415). -/
def State.useEvents (s t : State) : State :=
  (t.setSources.filter (fun x => s.rose t Reg.EVENT_EN 0 (evIx x) && t.ron Reg.EVENT_VEC_EN 0 (evIx x))).foldl
    (fun u x => u.signalVec (u.rget Reg.EVENT_VEC 0 (evIx x))) t

/-- What Tally does with EN and PERIOD_US newly in use (R423, R430); a period that changes while EN is 1 starts anew. -/
def State.useTally (s t : State) : State :=
  let up := s.rose t Reg.TALLY_EN
  let t1 := if up then t.takeDisabled 15 0 0x10 0x28 else t
  if up || s.changed t Reg.TALLY_PERIOD_US then
    let p := t1.rget Reg.TALLY_PERIOD_US
    let n := if t1.ron Reg.TALLY_EN && p != 0 then some ((t1.short + 1000 * p) % 2 ^ 48) else none
    { t1 with tally := { t1.tally with nextAt := n } }
  else if s.fell t Reg.TALLY_EN then { t1 with tally := { t1.tally with nextAt := none } } else t1

/-- What the complexes do with WDOG_MS and AUTO_START newly in use (R396, R400). -/
def State.useCplx (s t : State) : State :=
  let wd (u : State) (x : Nat) : State :=
    if s.changed t Reg.CC_WDOG_MS 0 [x] then u.setCx x { u.cx x with kickAt := u.now } else u
  let t1 := wd (wd t 0) 1
  t1.raiseIf (s.changed t Reg.CC_AUTO_START && !s.startBlocked && t1.startBlocked) 1139

/-- The target of a rail (R487): the largest requirement of the domains that are on or in a transition to on, `plus` included,
and on rail 1 those in retention. -/
def State.railTarget (s : State) (rail : Nat) (plus : Option Nat) : Nat :=
  (List.range 44).foldl (fun a d =>
    if s.dom d == 2 || plus == some d || (s.ron Reg.POWER_BUSY d && s.rget Reg.POWER_IN_TARGET d == 2 && (s.domx d).avsDone)
    then max a (Config.fusedOn d rail)
    else if s.dom d == 1 && rail == 1 then max a (Config.fusedRetention d) else a) 0

/-- AVS_EN changes in use (R487, R492): the commanded voltages start at the present targets and count as reached, or read 0, and
every step that waits for the regulator is skipped. -/
def State.useAvs (s t : State) : State :=
  let at0 (u : State) (r v : Nat) : State := u.setRail r { mv := v }
  if s.rose t Reg.POWER_AVS_EN then
    let c := t.railTarget 0 none
    let r := t.railTarget 1 none
    at0 (at0 ((t.rput Reg.POWER_VOLT_CORE c).rput Reg.POWER_VOLT_SRAM r) 0 c) 1 r
  else if s.fell t Reg.POWER_AVS_EN then
    let t1 := at0 (at0 ((t.rput Reg.POWER_VOLT_CORE 0).rput Reg.POWER_VOLT_SRAM 0) 0 0) 1 0
    (List.range 44).foldl (fun u d =>
      let x := u.domx d
      if x.phase == .avs then u.setDomx d { x with phase := .switch, since := u.now, avsDone := true } else u) t1
  else t

/-- EN of rings that waited for a binding comes into use once their target names an identity (R40). -/
def State.ringsFreed (s t : State) : State :=
  let l := (List.range 64).filter (fun n => s.ringTarget n % 64 == 0 && t.ringTarget n % 64 != 0)
  if l.isEmpty then t
  else
    let t1 := t.moveBits 4 0 (fun o => if l.any (fun n => o == 0x1010 + 0x40 * n) then 1 &&& (0xFFFFFFFF - t.holdBits 4 0 o) else 0)
    t.useSeq t1

/-! ### A boundary -/

/-- What a block does in the core cycle in which values of one of its instances come into use; `s` is the state before. -/
def State.afterUse (s t : State) (blk inst : Nat) : State :=
  match blk with
  | 1 => (s.useExt t).settleRef.dropUnready
  | 2 => s.useAvs t
  | 3 => s.useEvents t
  | 4 => s.useSeq t
  | 5 => s.useHost t
  | 6 => s.usePort t inst
  | 7 => s.useLane t inst
  | 8 => if s.rose t Reg.FWD_EXP_EN inst then t.takeDisabled 8 inst 0x740 0x780 else t
  | 9 => (s.useSpill t inst).dropUnready
  | 10 => (s.usePaging t).dropUnready
  | 12 => s.useMerid t
  | 14 => s.ringsFreed (s.useCplx t)
  | 15 => (s.useTally t).dropUnready
  | _ => t

/-- The bits of a register that move at a boundary of unit u, those held excepted. -/
def State.boundaryBits (s : State) (bd : Boundary) (blk inst u off : Nat) : Nat :=
  boundaryMask bd u blk off &&& (0xFFFFFFFF - s.holdBits blk inst off)

/-- A boundary of one block instance (R100, R101). "disable" is not a boundary of its own: it falls with the enable's rise. -/
def State.boundary (s : State) (bd : Boundary) (blk inst u : Nat) : State :=
  if bd == .none || bd == .disable then s
  else s.afterUse (s.moveBits blk inst (s.boundaryBits bd blk inst u)) blk inst

/-- The power domain of a register cell, none for the always-on domain; a cell's own instance stands for the selection. -/
def State.cellDomain (blk inst off : Nat) : Option Nat :=
  match blk with
  | 4 => some 43
  | 6 => some (if decide (0x3000 ≤ off) && decide (off < 0x3300) then inst else inst / 16)
  | 7 => some (if inst < 16 then 0 else 1)
  | 8 => if pipeShared off then none else some (8 + inst)
  | 9 => some (if slathShared off then 24 else 16 + inst)
  | 10 =>
    if off ≤ 0x30 then none
    else if decide (0x100 ≤ off) && decide (off < 0x200) then some (8 + (off - 0x100) / 0x20 % 8)
    else if decide (0x300 ≤ off) && decide (off < 0x440) then some (8 + pipeOfNode inst)
    else if decide (0x1000 ≤ off) && decide (off < 0x1400) then some (8 + pipeOfPort ((off - 0x1000) / 4))
    else if decide (0x1400 ≤ off) && decide (off < 0x1600) then some (8 + pipeOfPort ((off - 0x1400) / 4))
    else if decide (0x2000 ≤ off) && decide (off < 0x2800) then some (8 + (off - 0x2000) / 0x100)
    else if decide (0x3000 ≤ off) && decide (off < 0x3800) then some (8 + (off - 0x3000) / 0x100)
    else if decide (0x5000 ≤ off) && decide (off < 0x5800) then some (8 + (off - 0x5000) / 0x100)
    else none
  | 11 => some (27 + off / 0x4000)
  | 12 => some 41
  | 13 => some (31 + inst)
  | 18 => some 43
  | _ => none

/-- The enables of a block instance come into use when they are freed (R466); `s` is the state before the READY_MAP bit was set. The
pools of a basket whose Creel kept them are not set up again (DEDUCED, log entry 46). -/
def State.enablesIn (s t : State) (blk inst : Nat) : State :=
  let m (o : Nat) : Nat := if t.enablesFree blk inst o && !s.enablesFree blk inst o then enableBits blk o &&& (0xFFFFFFFF - t.holdBits blk inst o) else 0
  let u := t.moveBits blk inst m
  if blk == 6 then s.usePort u inst
  else if blk != 9 then t.afterUse u blk inst
  else if u.rget Reg.SLATH_SPILL_STATE inst == 0 then t.afterUse u blk inst
  else if u.ron Reg.SLATH_SPILL_EN inst then u
  else (u.rputBoth Reg.SLATH_SPILL_EN 1 inst).afterUse u blk inst

/-- The enables of a block instance are held at 0 again (R466); `s` is the state before the READY_MAP bit cleared. A basket's Creel
keeps its pools. -/
def State.enablesOut (s t : State) (blk inst : Nat) : State :=
  let m (o : Nat) : Nat := if s.enablesFree blk inst o && !t.enablesFree blk inst o then enableBits blk o else 0
  let u : State := { t with regs := smap regReset (fun k c =>
      if keyBlk k == blk && keyInst k == inst then { c with e := BitVec.ofNat 32 (c.e.toNat &&& (0xFFFFFFFF - m (keyOff k))) } else c) t.regs }
  if blk == 9 then u else t.afterUse u blk inst

/-- A boundary of one block instance as far as the governing domains of its registers are on (R97). -/
def State.boundaryOn (s : State) (bd : Boundary) (blk inst unit : Nat) : State :=
  let held (o : Nat) : Bool := match State.cellDomain blk inst o with | some d => !s.domOn d | none => false
  if bd == .none || bd == .disable then s
  else s.afterUse (s.moveBits blk inst (fun o => if held o then 0 else s.boundaryBits bd blk inst unit o)) blk inst

/-- BOUNDARY_APPLY (R100, R101): boundary `b` of unit `unit` of a block instance occurs. While the governing domain of the
instance is not on, nothing comes into use (R97). -/
def execBoundaryApply (b : Boundary) (blk inst unit : Nat) (s : State) : Out :=
  .next (if s.boot.porst || s.clockless && blk != 0 then s else s.boundaryOn b blk inst unit)

end Sys2Proof.Machine
end

