-- ==== Sys2Proof/Machine/Rings.lean ====
section
/-! DEFINITION. Command rings and threads (R31 to R46, R57): doorbells, program start, completion-ring stalls, thread halt, budget and
time-outs, and the reset of the rings of an identity (R45). -/

namespace Sys2Proof.Machine

open Sys2Proof

/-! ### Doorbell pages (R32, R37, R42) -/

/-- The BAR2 address of an offset of ring n's doorbell page. -/
def ringPage (n o : Nat) : Nat := 0x80000 + 0x1000 * n + o

/-- A write to a ring's doorbell page by a master: refused with DOMAIN while the sequencer cannot answer (R97), discarded when the
ring is not bound to the writer (R37), refused on a privileged ring that is bound to the writer unless the writer is the higher-claim complex (R42; DEDUCED, log entry 26). -/
def State.ringDoor (s : State) (m : Master) (n o : Nat) (act : State → State) : State :=
  if s.clockless || !s.domOn 43 then s.refuseWrite m.id (ringPage n o) 4
  else if !s.admits (s.ringTarget n) m.id then (s.sinc Reg.SEQ_DB_REFUSED).raise 993
  else if s.privileged n && !s.isHigher m.id then
    ((s.sinc Reg.SEQ_PRIV_REFUSED).raise 994).raiseIf (m.id == 17 || m.id == 18) (1131 + 5 * (m.id - 17))
  else act s

/-- TAIL comes into use; a tail that makes more descriptors pending than the ring has stops it with OVERFLOW (R32). -/
def State.ringTail (s : State) (n v : Nat) : State :=
  let s1 := s.rputBoth Reg.DB_TAIL (v % 65536) n
  if s1.ringSize n < (v % 65536 + 65536 - s1.rget Reg.DB_HEAD n) % 65536 then s1.ringError n 1 else s1

/-- CQ_HEAD comes into use and frees entries (R33). -/
def State.ringCqHead (s : State) (n v : Nat) : State := (s.rputBoth Reg.DB_CQ_HEAD (v % 65536) n).noteCq n

/-- TAIL_WRITE (R32, R37): `stores` is what software stored into its memory before it rang. -/
def execTailWrite (m : Master) (ring : Nat) (value : Word) (stores : List HostStore) (s : State) : Out :=
  .next (if 64 ≤ ring || s.boot.porst || !hasBar2 m then s
    else (s.applyStores stores).ringDoor m ring 0 (fun t => t.ringTail ring value.toNat))

/-- CQ_HEAD_WRITE (R33, R37). -/
def execCqHeadWrite (m : Master) (ring : Nat) (value : Word) (s : State) : Out :=
  .next (if 64 ≤ ring || s.boot.porst || !hasBar2 m then s else s.ringDoor m ring 4 (fun t => t.ringCqHead ring value.toNat))

/-- ERR of a ring is cleared; EN stays 0 (R38). -/
def State.ringErrClear (s : State) (n : Nat) : State := (s.rput Reg.SEQ_ERR 0 0 [n]).rput Reg.SEQ_ERR_CODE 0 0 [n]

/-- RING_ERR_CLEAR (R38): a write of 1 to ERR. -/
def execRingErrClear (m : Master) (ring : Nat) (s : State) : Out :=
  .next (if ring < 64 then s.guardWrite m 4 (0x1018 + 0x40 * ring) (0x80000000#32) (fun t _ => t.ringErrClear ring) else s)

/-! ### Program start (R35, R44, R57) -/

/-- The number of pending descriptors of a ring (R32). -/
def State.ringPending (s : State) (n : Nat) : Nat := (s.rget Reg.DB_TAIL n + 65536 - s.rget Reg.DB_HEAD n) % 65536

/-- The key of the head descriptor, where the device may fetch it. -/
def State.headKey (s : State) (n : Nat) : Option Nat :=
  s.ringKey n (s.crBase n) (32 * (s.rget Reg.DB_HEAD n % s.ringSize n))

/-- Word 1 of the head descriptor; 0 where it cannot be fetched. -/
def State.headWord1 (s : State) (n : Nat) : Nat := match s.headKey n with | some k => s.m64 (k + 8) | none => 0

/-- The head descriptor ends with CLAIM instead of starting (R57). -/
def State.headDoomed (s : State) (n : Nat) : Bool := (s.ringx n).doomed != 0 && bit (s.headWord1 n) 25

/-- The threads of a ring's mask that are idle: no program, not halted (R44, R45). -/
def State.idleFor (s : State) (n : Nat) : List Nat :=
  (List.range 8).filter (fun t => !(s.thr t).running && !bit (s.rget Reg.SEQ_THREAD_HALT) t &&
    bit (s.rget Reg.SEQ_THREAD_MASK 0 [n]) t)

/-- Ring n is eligible (R44). A descriptor that will end with CLAIM needs no thread and waits for no earlier program. -/
def State.ringEligible (s : State) (n : Nat) : Bool :=
  s.ron Reg.SEQ_EN 0 [n] && !s.ron Reg.SEQ_ERR 0 [n] && s.ringPending n != 0 && s.cqFree n &&
  (s.headDoomed n ||
    (!(s.idleFor n).isEmpty &&
     decide (s.ringRunning n < (if s.ron Reg.SEQ_PAR 0 [n] then s.rget Reg.SEQ_MAXTHR 0 [n] + 1 else 1)) &&
     !(bit (s.headWord1 n) 25 && decide (0 < s.ringRunning n))))

/-- The first eligible ring of priority p after the ring that last started at p, wrapping (R44); before any start, from ring 0. -/
def State.pickRing (s : State) (p : Nat) : Option Nat :=
  let last := sget (fun _ => 63) s.lastStarted p
  ((List.range 64).map (fun i => (last + 1 + i) % 64)).find? (fun n => s.rget Reg.SEQ_PRIO 0 [n] == p && s.ringEligible n)

/-- The ring to serve: priorities 3 down to 0. -/
def State.nextRing (s : State) : Option (Nat × Nat) :=
  [3, 2, 1, 0].findSome? (fun p => (s.pickRing p).map (fun n => (p, n)))

/-- The "fetch" boundary of every ring with a pending descriptor (R101), with the vector check of R531. -/
def State.fetchBoundary (s : State) : State :=
  (List.range 64).foldl (fun t n => if t.ringPending n == 0 then t else t.boundary .fetch 4 0 n) s

/-- The reserved fields of a descriptor's word 1 are zero (R35). -/
def descOk (w1 : Nat) : Bool := bits w1 30 28 == 0 && !bit w1 26 && bits w1 23 16 == 0

/-- Starts the program of a fetched descriptor on thread t (R43, R44, R48). -/
def State.startProgram (s : State) (n t w0 w1 a0 a1 : Nat) : State :=
  let bud := if bits w1 15 0 == 0 then s.rget Reg.SEQ_CR_BUDGET 0 [n] else bits w1 15 0
  let g : Sparse DWord := sset (fun _ => 0) (sset (fun _ => 0) [] 14 (BitVec.ofNat 64 a0)) 15 (BitVec.ofNat 64 a1)
  let x : Thread := { running := true, ring := n, tag := bits w1 63 48, len := bits w1 47 32, addr := w0, loc := bit w1 24,
                      irq := bit w1 27, nocompl := bit w1 31, budget := bud * 65536, g := g }
  let s1 := ((s.setThr t x).winc Reg.SEQ_STARTED 0 [n]).noteCq n
  if !x.loc && (s1.ringFunc n).isNone then s1.endProg t stPERM 0 0
  else if w0 % 8 != 0 then s1.endProg t stALIGN 0 0 else s1

/-- Fetches the head descriptor of ring n and starts it, or stops the ring (R35, R38, R48). -/
def State.fetchStart (s : State) (p n : Nat) (fault : AxFault) : State :=
  let loc := s.ron Reg.SEQ_RING_LOC 0 [n]
  match s.headKey n with
  | none => s.ringError n 3
  | some k =>
    if fault == .fetchEcc && loc then s.ringError n 4
    else if fault == .fetchBus && !loc then s.ringError n 3
    else
      let w1 := s.m64 (k + 8)
      let x := s.ringx n
      let s1 := (s.winc Reg.DB_HEAD n).setRingx n { x with doomed := x.doomed - 1 }
      if !descOk w1 then s1.ringError n 2
      else if s.headDoomed n then
        (s1.writeRecord n (bits w1 63 48) stCLAIM 0 0 0 0 0 (bit w1 27)).noteCq n
      else match s.idleFor n with
        | [] => s
        | t :: _ =>
          ({ s1 with lastStarted := sset (fun _ => 63) s1.lastStarted p n } : State).startProgram n t (s.m64 k) w1 (s.m64 (k + 16)) (s.m64 (k + 24))

/-- PROGRAM_START (R44): one control cycle in which the sequencer is enabled and a thread is idle. `fault` is how the descriptor
fetch ends. -/
def execProgramStart (fault : AxFault) (s : State) : Out :=
  .next (
    let s1 := s.fetchBoundary
    if s.ron Reg.SEQ_SEQ_EN && s.domOn 43 && (List.range 8).any (fun t => !(s.thr t).running) then
      (match s1.nextRing with
       | some (p, n) => s1.fetchStart p n fault
       | none => s1)
    else s)

/-- CQ_STALL (R33): a completion ring has stayed full for longer than 1 ms (log entry 145). -/
def execCqStall (ring : Nat) (s : State) : Out :=
  .next (
    let x := s.ringx ring
    match x.fullSince with
    | some t => if ring < 64 && !x.stalled && decide (t + ms < s.now) && !s.cqFree ring
        then (s.setRingx ring { x with stalled := true }).raise 1006 else s
    | none => s)

/-! ### Threads (R45, R53) -/

/-- The control cycles that a thread's wait has lasted. -/
def State.waited (s : State) (t : Nat) : Nat := match (s.thr t).wait with | some w => (s.now - w.since) / 2 | none => 0

/-- A program ends at its present instruction with a status; a wait is abandoned and its duration charged. -/
def State.stopProg (s : State) (t st : Nat) : State :=
  let x := s.thr t
  (s.setThr t { x with charged := x.charged + s.waited t, wait := none }).endProg t st x.pc 0

/-- THREAD_HALT (R45): the thread's bit is set; its program ends with ABORTED. -/
def execThreadHalt (thread : Nat) (s : State) : Out :=
  .next (if thread < 8 && bit (s.rget Reg.SEQ_THREAD_HALT) thread && (s.thr thread).running then s.stopProg thread stABORTED else s)

/-- BUDGET_EXPIRY (R53): the budget runs out during a wait. -/
def execBudgetExpiry (thread : Nat) (s : State) : Out :=
  .next (
    let x := s.thr thread
    if thread < 8 && x.running && x.wait.isSome && x.budget != 0 && decide (x.budget ≤ x.charged + s.waited thread)
    then s.stopProg thread stBUDGET else s)

/-- WAIT_TIMEOUT (R53, R61): the time-out of a wait expires. -/
def execWaitTimeout (thread : Nat) (s : State) : Out :=
  .next (match (s.thr thread).wait with
    | some w => (match w.deadline with
      | some d => if thread < 8 && (s.thr thread).running && decide (d ≤ s.now) then s.endWait thread stTIMEOUT else s
      | none => s)
    | none => s)

/-! ### Resets of identities (R45) -/

/-- One command ring whose binding admits a reset identity: its programs end without record, it is disabled, its indices become 0. -/
def State.resetRing (s : State) (n : Nat) : State :=
  let s1 := (List.range 8).foldl (fun t k => if (t.thr k).running && (t.thr k).ring == n then t.killProg k else t) s
  let s2 := ((s1.rputBoth Reg.SEQ_EN 0 0 [n]).rputBoth Reg.DB_TAIL 0 n).rputBoth Reg.DB_CQ_HEAD 0 n
  ((s2.rput Reg.DB_HEAD 0 n).rput Reg.DB_CQ_TAIL 0 n).setRingx n {}

/-- The command rings whose binding admits identity i at this moment. -/
def State.resetRingsOf (s : State) (i : Nat) : State :=
  (List.range 64).foldl (fun t n => if s.admits (s.ringTarget n) i then t.resetRing n else t) s

end Sys2Proof.Machine
end

