-- ==== Sys2Proof/Machine/Views.lean ====
section
/-! DEFINITION. What registers read (R93, R100): values that the device computes from the state it keeps elsewhere. Every other
hardware-maintained field is kept in its register cell. -/

namespace Sys2Proof.Machine

open Sys2Proof

/-! ### Events and pins (R416 to R418, R454, R461, R471) -/

/-- The lowest of a list of sources as `V` and `SRC` show it; 0 when there is none. -/
def firstSource (l : List Nat) : Nat := match l with | [] => 0 | x :: _ => 2 ^ 31 + x

/-- An active source is routed to line x: 0 complex A, 1 complex B, 2 FAULT_N (R416, R417). -/
def State.onLine (s : State) (x src : Nat) : Bool :=
  match x with
  | 0 => s.ron Reg.EVENT_CC_A 0 (evIx src) || (s.ron Reg.EVENT_CC_ACT 0 (evIx src) && s.higher == some 0)
  | 1 => s.ron Reg.EVENT_CC_B 0 (evIx src) || (s.ron Reg.EVENT_CC_ACT 0 (evIx src) && s.higher == some 1)
  | _ => s.ron Reg.EVENT_FAULT 0 (evIx src)

/-- The pin FAULT_N is driven asserted. -/
def State.faultAsserted (s : State) : Bool :=
  s.activeSources.any (fun src => s.onLine 2 src) || s.ron Reg.EVENT_FORCE || s.clockless || s.boot.pllUnlocked || s.boot.critical

/-! ### Rings and threads (R38, R390) -/

/-- STATE of a ring: 0 disabled, 1 idle, 2 active, 3 stopped by error (DEDUCED, log entry 44: active while it has work). -/
def ringState (err en work : Bool) : Nat := if err then 3 else if !en then 0 else if work then 2 else 1

/-- CR_STATUS of command ring n. -/
def State.crStatus (s : State) (n : Nat) : Nat :=
  let run := s.ringRunning n
  let err := s.ron Reg.SEQ_ERR 0 [n]
  b2n err * 2 ^ 31 + run * 2 ^ 16 + s.rget Reg.SEQ_ERR_CODE 0 [n] * 16 +
    ringState err (s.ron Reg.SEQ_EN 0 [n]) (s.ringPending n != 0 || decide (0 < run))

/-- STATE of thread t: 0 idle, 1 running, 2 waiting, 3 halted (R38). -/
def State.threadState (s : State) (t : Nat) : Nat :=
  let x := s.thr t
  if x.running then (if x.wait.isSome then 2 else 1) else if bit (s.rget Reg.SEQ_THREAD_HALT) t then 3 else 0

/-- The registers of thread t at offset o of its 16 bytes. -/
def State.threadReg (s : State) (t o : Nat) : Nat :=
  let x := s.thr t
  if o == 0 then x.tag * 2 ^ 16 + x.ring * 8 + s.threadState t else x.pc % 2 ^ 32

/-! ### Queues and nodes (R278, R305) -/

/-- The key of the object that a NODE_SEL value names. -/
def nodeKey (sel : Nat) : Nat :=
  match bits sel 14 13 with
  | 0 => portKey (bits sel 12 0)
  | 1 => l1Key (bits sel 12 0)
  | _ => l2Key (bits sel 12 0)

/-- An object lies at or above a queue. -/
def State.isAbove (s : State) (k q : Nat) : Bool :=
  let j := l2Key (s.obj q).parent
  let i := l1Key (s.obj j).parent
  k == j || k == i || k == portKey (s.obj i).parent

/-- The classes with a candidate below the object a NODE_SEL value names. -/
def State.activeClasses (s : State) (sel : Nat) : Nat :=
  let k := nodeKey sel
  match s.portAbove k with
  | some p => (List.range 8).foldl (fun a c => a + b2n ((s.candidates p c).any (s.isAbove k)) * 2 ^ c) 0
  | none => 0

/-- Offsets 0x300 to 0x31C of the object of NODE_SEL. -/
def State.nodeReg (s : State) (sel off : Nat) : Nat :=
  let k := nodeKey sel
  let x := s.obj k
  match off with
  | 0x300 => x.cir
  | 0x304 => x.eir
  | 0x308 => x.cbs
  | 0x30C => x.ebs
  | 0x310 => wrapInt 32 x.cirC
  | 0x314 => wrapInt 32 x.eirC
  | 0x318 => x.weight * 2 ^ 16 + x.parent % 8192 * 8 + x.band
  | _ => b2n (x.cir == 0 && x.eir == 0) * 2 ^ 31 + b2n x.wheel.isSome * 2 ^ 30 + b2n (s.frozen k) * 2 ^ 29 + s.activeClasses sel

/-- Offsets 0x330 to 0x33C of the queue of Q_SEL; 0 for an unmapped queue. -/
def State.queueRate (s : State) (q off : Nat) : Nat :=
  let x := s.obj q
  if !(s.q q).mapped then 0
  else match off with
    | 0x330 => x.cir
    | 0x334 => x.eir
    | 0x338 => x.cbs
    | _ => x.ebs

/-- QCTX_w of queue q (R278): the resident context, the initial one of a FRESH queue, else the home copy while paging is READY. -/
def State.qctxReg (s : State) (q w : Nat) : Nat :=
  let x := s.q q
  let word (t : State) : Nat := bits ((t.qctxWords q).getD (w / 2) 0) (if w % 2 == 0 then 63 else 31) (if w % 2 == 0 then 32 else 0)
  if x.resident || x.paging then word s
  else if x.fresh then word (s.ctxInit q)
  else if s.pagingReady then beNat (s.mread (lp4xKey (s.qctxHome q + 4 * w)) 4)
  else 0

/-- The gate registers of port p, 0x408 to 0x43C. -/
def State.gateReg (s : State) (p off : Nat) : Nat :=
  let g := s.gate p
  let half (v : Nat) (hi : Bool) : Nat := if hi then v / 2 ^ 32 % 2 ^ 32 else v % 2 ^ 32
  let rd := (s.cell (regKey 10 p 0x430)).e.toNat
  let ent := (sget (fun _ => (0 : DWord)) (if bit rd 31 then g.pend else g.oper) (bits rd 9 0)).toNat
  match off with
  | 0x408 => g.gates * 2 ^ 24 + b2n g.operV * 2 ^ 23 + b2n g.armed * 2 ^ 22 + b2n g.hold * 2 ^ 21 + g.entry % 1024
  | 0x40C => g.operLen
  | 0x410 => g.operCycle
  | 0x414 => g.pendLen
  | 0x418 => half (g.anchor / 8) false
  | 0x41C => half (g.anchor / 8) true
  | 0x420 => half (g.switchAt / 8) false
  | 0x424 => half (g.switchAt / 8) true
  | 0x428 => g.pendCycle
  | 0x438 => half ent false
  | 0x43C => half ent true
  | _ => 0

/-! ### Rule sets and Plait contexts (R208, R329) -/

/-- RSET_STATE of rule set r. -/
def State.rsetState (s : State) (r : Nat) : Nat :=
  let v := (s.leg).ver r
  let a := v.active.getD 0
  b2n (s.draftOf r != 0) * 2 ^ 31 + b2n v.active.isSome * 2 ^ 30 + a * 2 ^ 24 + v.live * 2 ^ 20 + sget (fun _ => 0) v.roots a

/-- The contexts of engine k, after what the passing of time has made of them. -/
def State.engineCtxs (s : State) (k : Nat) : List PlaitCtx := (List.range 64).map (fun i => (s.plaitSettle (64 * k + i)).pc (64 * k + i))

/-- The windows of an image that opened not later than t and are open at `now`, those before `nb` excepted; at most n are counted. -/
def windowsOpen (img now : Nat) (nb : Option Nat) : Nat → Nat → Nat
  | 0, _ => 0
  | n + 1, t =>
    let w := plLastOpen img t
    if diff48 now w < plSpan img then
      (match nb with | some b => b2n (!laterThan b w) | none => 1) + windowsOpen img now nb n (wrapInt 48 ((w : Int) - 1))
    else 0

/-- The windows of a context that are open now. -/
def State.openWins (s : State) (c : PlaitCtx) : Nat :=
  match c.img with
  | none => 0
  | some i => windowsOpen i s.short c.noBefore 15 s.short

/-- CTX_STATE of stream st of engine k, the two fields of the last window excepted. -/
def State.ctxState (s : State) (k st : Nat) : Nat :=
  let x := 64 * k + st
  let c := (s.plaitSettle x).pc x
  b2n c.img.isSome * 2 ^ 31 + b2n c.draining * 2 ^ 30 + s.openWins c % 16 * 2 ^ 26 + b2n c.eccBad * 2 ^ 25 +
    s.rget Reg.PLAIT_LAST_PRESENT 0 [k, st] * 2 ^ 16 + s.rget Reg.PLAIT_LAST_MASK 0 [k, st]

/-- Registers of the Plait block that are computed. -/
def State.plaitView (s : State) (off : Nat) : Option Nat :=
  let k := off / 0x4000
  let o := off % 0x4000
  if o == 0 then some ((s.engineCtxs k).filter (fun c => c.img.isSome)).length
  else if o == 4 then some ((s.engineCtxs k).map PlaitCtx.foot).sum
  else if 0x100 ≤ o ∧ o < 0x200 then some (s.ctxState k ((o - 0x100) / 4)) else none

/-! ### Domains and Tally (R430, R492) -/

/-- A map of domains as a 64-bit number. -/
def domMap (p : Nat → Bool) : Nat := (List.range 44).foldl (fun a d => a + b2n (p d) * 2 ^ d) 0

/-- STATE of Tally: 0 OFF, 1 WAITING, 2 READY. -/
def State.tallyState (s : State) : Nat := if !s.ron Reg.TALLY_EN then 0 else if s.tallyPath then 2 else 1

/-- STATE of a slow-path ring (R390). -/
def State.slowStatus (s : State) (off : Nat) : Nat :=
  let tx := decide (0x5000 ≤ off)
  let ix := [(off - (if tx then 0x5000 else 0x1000)) / 0x1000, off % 0x1000 / 0x20]
  let err := s.ron (if tx then Reg.HOST_TX_ERR else Reg.HOST_ERR) 0 ix
  let en := s.ron (if tx then Reg.HOST_TX_EN else Reg.HOST_EN) 0 ix
  let work := if tx then s.rget Reg.HOST_TX_HEAD 0 ix != s.rget Reg.HOST_TX_TAIL 0 ix
    else s.rget Reg.HOST_HEAD 0 ix != s.rget Reg.HOST_BUF_TAIL 0 ix
  b2n err * 2 ^ 31 + s.rget (if tx then Reg.HOST_TX_ERR_CODE else Reg.HOST_ERR_CODE) 0 ix * 16 + ringState err en work

/-! ### The computed registers -/

/-- The hardware-maintained bits of a register that the device computes; none where the cell holds them. `id` reads. -/
def State.view (s : State) (id blk inst off : Nat) : Option Nat :=
  let e := (s.cell (regKey blk inst off)).e.toNat
  let half (v : Nat) : Nat := if off % 8 == 0 then v % 2 ^ 32 else v / 2 ^ 32
  match blk with
  | 0 =>
    if off == 4 then some id
    else if off == 8 && s.rget Reg.GLOBAL_STATE == 3 && (s.cstate 0 == 4 || s.cstate 1 == 4) then some (setBits e 3 0 5) else none
  | 1 =>
    if off == 0x18 then some (b2n s.boot.strapRef * 2 + b2n s.boot.strapSpi)
    else if off == 0x204 then some s.lp4xUsable else none
  | 2 =>
    if off == 0x200 || off == 0x204 then some (half (domMap (fun d => s.dom d == 2)))
    else if off == 0x208 || off == 0x20C then some (half (domMap (fun d => s.dom d == 1)))
    else if off == 0x210 || off == 0x214 then some (half (domMap s.domBusy)) else none
  | 3 =>
    if off == 0x10 then some (b2n s.faultAsserted)
    else if 0x300 ≤ off ∧ off < 0x400 then some (firstSource (s.activeSources.filter (fun x => s.evToVec x ((off - 0x300) / 4))))
    else if 0x400 ≤ off ∧ off < 0x40C then some (firstSource (s.activeSources.filter (fun x => s.onLine ((off - 0x400) / 4) x)))
    else none
  | 4 =>
    if 0x100 ≤ off ∧ off < 0x180 then some (s.threadReg ((off - 0x100) / 16) (off % 16))
    else if 0x1000 ≤ off ∧ off < 0x2000 ∧ off % 0x40 = 0x18 then some (s.crStatus ((off - 0x1000) / 0x40)) else none
  | 5 => if 0x1000 ≤ off ∧ off < 0x9000 ∧ off % 0x20 = 0x1C then some (s.slowStatus off) else none
  | 8 =>
    if off == 0x600 then some (s.leg).linesFree
    else if off == 0x604 then some (s.leg).blocksFree
    else if 0x3000 ≤ off ∧ off < 0x3800 then
      (let r := (off - 0x3000) / 0x20
       let o := off % 0x20
       if o == 0 then some (s.rsetState r) else if 4 ≤ o ∧ o < 0x14 then some (s.inflight r ((o - 4) / 4)) else none)
    else none
  | 10 =>
    if off == 0x2C then some (s.queues.filter (fun x => x.2.pinned && !isFixed x.1)).length
    else if off == 0x30 then some (72 + (s.queues.filter (fun x => x.2.alloc && !isFixed x.1)).length)
    else if 0x100 ≤ off ∧ off < 0x200 ∧ off % 0x20 = 4 then
      (let b := (off - 0x100) / 0x20
       some (s.slotsFree b * 2 ^ 16 + s.rget Reg.QUEUE_STAGED 0 [b]))
    else if 0x100 ≤ off ∧ off < 0x200 ∧ off % 0x20 = 8 then
      -- STAGE_PEAK: the highest STAGED since the last read is at least the present one (DEDUCED, log entry 141).
      (let b := (off - 0x100) / 0x20
       some (max (s.rget Reg.QUEUE_STAGE_PEAK 0 [b]) (s.rget Reg.QUEUE_STAGED 0 [b])))
    else if off == 0x200 then some (s.q inst).dir
    else if 0x240 ≤ off ∧ off < 0x280 then some (s.qctxReg inst ((off - 0x240) / 4))
    else if 0x300 ≤ off ∧ off < 0x320 then some (s.nodeReg inst off)
    else if 0x330 ≤ off ∧ off < 0x340 then some (s.queueRate inst off)
    else if 0x408 ≤ off ∧ off < 0x440 ∧ off ≠ 0x430 then some (s.gateReg inst off) else none
  | 11 => s.plaitView off
  | 14 => if off == 4 then some (match s.higher with | some x => x + 1 | none => 0) else none
  | 15 => if off == 0x30 then some s.tallyState else none
  | 18 => if off == 0x10 then some (s.crStatus inst) else none
  | _ => none

end Sys2Proof.Machine
end

