-- ==== Sys2Proof/Machine/Registers.lean ====
section
/-! DEFINITION. Register accesses of every master (R89 to R103): the actions of W1C and W1P fields, a write, a read with its side
effects, the pages of BAR2 and BAR4; the meanings of REGISTER_WRITE, RC_READ, PAIR_LOW_READ, BIND_LOCK and BOOT_RETRY. -/

namespace Sys2Proof.Machine

open Sys2Proof

/-! ### Starts that a register write causes -/

/-- The lock sequence starts from the strap reference (R460). -/
def State.startLock (s : State) : State :=
  let s1 := ((s.rput Reg.GLOBAL_STATE 1).rput Reg.GLOBAL_CAUSE_8 0).rput Reg.GLOBAL_REF_IN_USE 0
  { s1 with boot := { s1.boot with attempt := 0, lockRef := if s.boot.strapRef then 2 else 1 } }

/-- A set of training attempts of controller n starts (R468). -/
def State.trainStart (s : State) (n : Nat) : State :=
  (((s.rput Reg.LP4X_STATE 1 n).rput Reg.LP4X_ATTEMPTS 1 n).rput Reg.LP4X_FAIL_STEP 0 n).cinc Reg.LP4X_CNT n [4]

/-! ### Actions (R93) -/

/-- The bits written 1 of W1C fields clear. -/
def State.w1cClear (s : State) (blk inst off v : Nat) : State :=
  let k := regKey blk inst off
  let c := s.cell k
  let w := maskOf (fun r => r.acc == .w1c) (regRows blk off) &&& v
  if w == 0 then s else s.setCell k { c with e := BitVec.ofNat 32 (c.e.toNat &&& (0xFFFFFFFF - w)) }

/-- What an accepted write of a register does besides the merge; `id` writes, v holds the written bits. -/
def State.regAction (s : State) (id blk inst off v : Nat) : State :=
  let g := s.w1cClear blk inst off v
  match blk with
  | 0 => if off == 0xC && bit v 0 && s.clockless then s.startLock.rput Reg.GLOBAL_LAST_RESET 3 else g
  | 2 => if off == 0x100 && bit v 31 then s.pdRequest inst (bits v 1 0) 0 else g
  | 3 => if 0x100 ≤ off ∧ off < 0x190 then s.clearStatus ((off - 0x100) / 4) v else g
  | 4 => if 0x1000 ≤ off ∧ off < 0x2000 ∧ off % 0x40 = 0x18 ∧ bit v 31 = true then s.ringErrClear ((off - 0x1000) / 0x40) else g
  | 5 =>
    if off == 0x300 then s.loanReturn (bits v 14 12) (bits v 11 0) id
    else if 0x1000 ≤ off ∧ off < 0x9000 then
      (let tx := decide (0x5000 ≤ off)
       let r := 64 * ((off - (if tx then 0x5000 else 0x1000)) / 0x1000) + off % 0x1000 / 0x20
       if off % 0x20 == 0x14 then (if tx then s.txTail r (s.rbuf Reg.HOST_TX_TAIL 0 (spIx r)) else s.bufTail r (s.rbuf Reg.HOST_BUF_TAIL 0 (spIx r)))
       else if off % 0x20 == 0x1C && bit v 31 then g.rput (if tx then Reg.HOST_TX_ERR_CODE else Reg.HOST_ERR_CODE) 0 0 (spIx r)
       else g)
    else g
  | 6 => if off == 0x120 && bit v 0 then s.portSnap inst else g
  | 8 => if off == 0x210 && bit v 31 then (s.setSv inst { s.sv inst with armed := true }).rput Reg.SURVEY_DONE 0 inst else g
  | 9 => if off == 0x300 && bit v 31 then s.loanReclaim inst (bits v 4 0) else g
  | 10 => if 0x3000 ≤ off ∧ off < 0x3800 then g.unpoison 20 ((off - 0x3000) / 0x100) (off % 0x100 / 0x10) else g
  | 12 => if off == 0x3E0 && bit v 31 then s.todArm else g
  | 13 => if off == 0x100 && bit v 0 && s.rget Reg.LP4X_STATE inst == 3 then s.trainStart inst else g
  | 14 =>
    if off == 0x38 && bit v 31 then s.imgBegin 2 (bits v 10 0)
    else if off == 0x104 || off == 0x144 then s.ctlWrite ((off - 0x100) / 0x40) v
    else if off == 0x108 || off == 0x148 then s.selfWrite ((off - 0x100) / 0x40) v
    else if off == 0x2300 && bit v 0 then s.rput Reg.BIND_BIND_LOCK 1 else g
  | _ => g

/-- Actions held while a domain was in retention are performed when it reaches on (R97); each with the register's present value. -/
def State.heldDone (s : State) (h : HeldWrite) : State :=
  let m := rwMask (regRows h.blk h.off)
  let b := (s.cell (regKey h.blk h.inst h.off)).b.toNat
  s.regAction 21 h.blk h.inst h.off ((b &&& m) ||| (h.v.toNat &&& (0xFFFFFFFF - m)))

/-! ### Writes (R96 to R99) -/

/-- A write of master m to BAR0 address `addr` with value v and mask k is checked, then merged or refused; the number is the cause, 0
for a write that was accepted. -/
def State.regWrite (s : State) (m : Master) (addr v k : Nat) : State × Nat :=
  let b := bankOf m
  let p := placeOf addr
  let inst := s.instOf b p.blk p.off
  let qp := s.queuePipe (s.sel b 10 0x10)
  let c := s.writeCause m.id b p inst qp v k
  if c != 0 then (s.refuseWrite m.id addr c, c)
  else if p.blk == 5 && decide (0x500 ≤ p.off) && decide (p.off < 0x600) then
    (s.loanWrite m (s.sel b 5 0x440) ((p.off - 0x500) / 4) (v &&& k), 0)
  else
    let s1 := s.mergeWrite b p inst v k
    match s.govern b p.blk p.off qp with
    | some d => (if s.dom d == 1 then s1.holdAction d p.blk inst p.off addr (v &&& k) else s1.regAction m.id p.blk inst p.off (v &&& k), 0)
    | none => (s1.regAction m.id p.blk inst p.off (v &&& k), 0)

/-! ### BAR2 (R37, R89, R364, R379, R388) -/

/-- Doubleword j of entry v of a function's MSI-X table; only the mask bit of the last one is kept. -/
def State.msixWrite (s : State) (f v j x : Nat) : State :=
  if s.vecFunc v != f + 1 then s
  else
    let e := setBits (s.msixEntry f v) (32 * j + 31) (32 * j) (if j == 3 then x % 2 else x)
    { s with msix := sset (fun _ => 2 ^ 96) s.msix (f * 64 + v) e }

/-- A doubleword of the MSI-X table or of the PBA of a function; an entry of a vector bound elsewhere reads 0. -/
def State.msixRead (s : State) (f o : Nat) : Nat :=
  if o < 0xC00 then
    (let v := (o - 0x800) / 16
     if s.vecFunc v == f + 1 then bits (s.msixEntry f v) (8 * (o % 16) + 31) (8 * (o % 16)) else 0)
  else if o < 0xC08 then
    (List.range 32).foldl (fun a i =>
      let v := (o - 0xC00) * 8 + i
      a + b2n ((s.vec v).pend && s.vecFunc v == f + 1) * 2 ^ i) 0
  else 0

/-- One doubleword written to a mailbox page by side a. -/
def State.mbxWrite (s : State) (m : Master) (c : Nat) (a : Bool) (o v : Nat) : State :=
  let y := (s.chan c).side a
  if o < 0x40 then s.setSide c a { y with stage := sset (fun _ => 0) y.stage (o / 4) (BitVec.ofNat 32 v) }
  else if o == 0x80 then s.postWrite m c a v
  else if o == 0x84 then s.setSide c a { y with flags := y.flags &&& (0x3F00 - (v &&& 0x3F00)) }
  else if o == 0x90 then s.lockWrite m c v
  else if o == 0xA0 then s.attWrite m v
  else if o == 0xA8 then s.setBank (bankOf m) (selSlot 16 0xA8) (v &&& 0x3F7FFF)
  else if 0x100 ≤ o ∧ o < 0x200 then s.loanWrite m (s.bank (bankOf m) (selSlot 16 0xA8)) ((o - 0x100) / 4) v
  else s

/-- One doubleword written to BAR2. -/
def State.bar2Write (s : State) (m : Master) (addr v : Nat) : State :=
  let a := addr % 2 ^ 20 / 4 * 4
  let i := a / 0x1000 % 64
  let o := a % 0x1000
  if a < 0x40000 then s.sideWrite m i a (fun t side => t.mbxWrite m i side o v)
  else if a < 0x80000 then
    (if 0x40800 ≤ a ∧ a < 0x40C00 then
      (if s.clockless then s.refuseWrite m.id a 4
       else if m.id ≤ 16 then s.msixWrite (m.id - 1) ((o - 0x800) / 16) (o % 16 / 4) v else s)
     else s.sideWrite m i a (fun t side => if o == 0 then t.bellWrite i side v else t))
  else if a < 0xC0000 then
    s.ringDoor m i o (fun t => if o == 0 then t.ringTail i v else if o == 4 then t.ringCqHead i v else t)
  else s

/-- REGISTER_WRITE (R91, R96, R99): a write of a master as it reaches the device. -/
def execRegisterWrite (m : Master) (w : BusWrite) (s : State) : Out :=
  .next (
    if s.boot.porst then s
    else match w.bar with
    | 0 =>
      if !hasBar0 m || m.id == 19 then s
      else (match w.dws, w.full with
        | [v], true => (s.regWrite m (w.addr % 2 ^ 26) v.toNat 0xFFFFFFFF).1
        | _, _ => s.refuseWrite m.id (w.addr % 2 ^ 26) 7)
    | 2 =>
      if !hasBar2 m then s
      else (match w.dws, w.full with
        | [v], true => s.bar2Write m w.addr v.toNat
        | [v, u], true => if w.addr % 8 == 0 then (s.bar2Write m w.addr v.toNat).bar2Write m (w.addr + 4) u.toNat
            else s.refuseWrite m.id (w.addr % 2 ^ 20) 7
        | _, _ => s.refuseWrite m.id (w.addr % 2 ^ 20) 7)
    | _ => s)

/-- BIND_LOCK (R108). -/
def execBindLock (m : Master) (s : State) : Out :=
  .next (s.guardWrite m 14 0x2300 (1#32) (fun t i => t.regAction m.id 14 i 0x2300 1))

/-- BOOT_RETRY (R109, R460). -/
def execBootRetry (m : Master) (s : State) : Out :=
  .next (s.guardWrite m 0 0xC (1#32) (fun t i => t.regAction m.id 0 i 0xC 1))

/-! ### Reads (R92, R93, R97, R100, R102) -/

/-- The value a register reads: the buffered value (or, in the EFFECTIVE view, the value in use) of written fields, the hardware's
value of the others; W1P fields read 0, BIND_LOCK excepted (R106). -/
def State.regValue (s : State) (id blk inst off : Nat) (view : Bool) : Nat :=
  let rs := regRows blk off
  let c := s.cell (regKey blk inst off)
  let w := rwMask rs
  let h := maskOf (fun r => r.acc == .ro || r.acc == .rc || r.acc == .w1c) rs ||| (if blk == 14 && off == 0x2300 then 1 else 0)
  ((if view then c.e else c.b).toNat &&& w) ||| ((s.view id blk inst off).getD c.e.toNat &&& h)

/-- The bank slot of a pair's holding register (R92): it holds the latched value plus 1 until it is read. -/
def holdSlot (blk off : Nat) : Nat := selSlot (32 + blk) off

/-- What the reading of a register clears besides (R352, R353). -/
def State.readSide (s : State) (blk off : Nat) : State :=
  if blk == 12 && off == 0x310 then s.rput Reg.MERID_NEW_318 0
  else if blk == 12 && decide (0x348 ≤ off) && decide (off < 0x380) && off % 0x10 == 8 then s.rput Reg.MERID_NEW_344 0 0 [(off - 0x348) / 0x10]
  else s

/-- RC fields of one register return to their reset value. -/
def State.rcClear (s : State) (blk inst off : Nat) : State :=
  let k := regKey blk inst off
  let c := s.cell k
  let m := maskOf (fun r => r.acc == .rc) (regRows blk off)
  if m == 0 then s else s.setCell k { c with e := BitVec.ofNat 32 (mergeBits c.e.toNat (resetOf k) m) }

/-- A read of a register's own address: pairs latch, RC fields clear. -/
def State.cellRead (s : State) (m : Master) (blk inst off : Nat) : State :=
  let b := bankOf m
  let v := s.regValue m.id blk inst off false
  let pair := (regRows blk off).any (fun r => r.pair)
  if pair && off % 8 == 0 then
    let hi := s.regValue m.id blk inst (off + 4) false
    ((((s.setBank b (holdSlot blk (off + 4)) (hi + 1)).rcClear blk inst off).rcClear blk inst (off + 4)).readSide blk off).answer v
  else if pair then
    let l := s.bank b (holdSlot blk off)
    if l == 0 then s.answer v else (s.setBank b (holdSlot blk off) 0).answer (l - 1)
  else ((s.rcClear blk inst off).readSide blk off).answer v

/-- A read of a register place by a master whose domain answers. -/
def State.placeRead (s : State) (m : Master) (blk inst off : Nat) : State :=
  let b := bankOf m
  if isSelect blk off then s.answer (s.sel b blk off)
  else if blk == 12 && off == 0x100 then s.nowFracRead m
  else if blk == 12 && off == 0x200 then s.tsPop m
  else if blk == 12 && ((decide (0x104 ≤ off) && decide (off ≤ 0x114)) || (decide (0x204 ≤ off) && decide (off ≤ 0x214))) then
    s.answer (s.bank b (selSlot 12 off))
  else if blk == 5 && off == 0x400 then s.crxPop m
  else if blk == 5 && decide (0x404 ≤ off) && decide (off ≤ 0x41C) then s.answer (s.bank b (selSlot 5 off))
  else if blk == 5 && decide (0x500 ≤ off) && decide (off < 0x600) then s.loanRead m (s.sel b 5 0x440) ((off - 0x500) / 4)
  else s.cellRead m blk inst off

/-- A read of BAR0 address `addr` by a master: 0 from a reserved offset, from a block whose domain is off, and from every block but
the global one while the device is CLOCKLESS. -/
def State.regRead (s : State) (m : Master) (addr : Nat) : State :=
  let b := bankOf m
  let p := placeOf addr
  let inst := s.instOf b p.blk p.off
  let off := match s.govern b p.blk p.off (s.queuePipe (s.sel b 10 0x10)) with | some d => s.dom d == 0 | none => false
  if !regListed p.blk p.off || (s.clockless && p.blk != 0) || (off && !isSelect p.blk p.off) then s.answer 0
  else if !p.view then s.placeRead m p.blk inst p.off
  else if rwMask (regRows p.blk p.off) != 0 then s.answer (s.regValue m.id p.blk inst p.off true)
  else { s with rdata := (s.placeRead m p.blk inst p.off).rdata }

/-- A read of a mailbox page by side a. -/
def State.mbxRead (s : State) (m : Master) (c : Nat) (a : Bool) (o : Nat) : State :=
  let y := (s.chan c).side a
  let b := bankOf m
  if o < 0x40 then s.answer (sget (fun _ => 0) y.stage (o / 4)).toNat
  else if o == 0x40 then s.rxWord0 m c a
  else if o < 0x80 then s.answer (s.bank b (latchSlot ((o - 0x40) / 4)))
  else match o with
    | 0x80 => s.answer y.post
    | 0x84 => s.answer (s.mbxStatus c a)
    | 0x88 => s.answer (s.bank b (latchSlot 16))
    | 0x8C => s.answer (s.bank b (latchSlot 17))
    | 0x90 => s.lockRead m c
    | 0x94 => s.answer y.epoch
    | 0xA4 => s.answer (s.bank b (latchSlot 18))
    | 0xA8 => s.answer (s.bank b (selSlot 16 0xA8))
    | _ => if 0x100 ≤ o ∧ o < 0x200 then s.loanRead m (s.bank b (selSlot 16 0xA8)) ((o - 0x100) / 4) else s.answer 0

/-- A read of BAR2: pages that admit the reader, the MSI-X table and PBA of its function; 0 elsewhere and while CLOCKLESS. -/
def State.bar2Read (s : State) (m : Master) (addr : Nat) : State :=
  let a := addr % 2 ^ 20 / 4 * 4
  let i := a / 0x1000 % 64
  let o := a % 0x1000
  if s.clockless then s.answer 0
  else if a < 0x40000 then (match s.sideOf i m.id with | some side => s.mbxRead m i side o | none => s.answer 0)
  else if a < 0x80000 then
    (if 0x40800 ≤ a ∧ a < 0x40C08 then s.answer (if m.id ≤ 16 then s.msixRead (m.id - 1) o else 0)
     else match s.sideOf i m.id with
       | some side => if o == 4 then s.bellRead i side else if o == 8 then s.answer ((s.chan i).side side).bells else s.answer 0
       | none => s.answer 0)
  else if a < 0xC0000 then
    s.answer (if s.admits (s.ringTarget i) m.id && s.domOn 43 && decide (o < 0x14) then s.regValue m.id 18 i o false else 0)
  else s.answer 0

/-- A read of the BAR4 page of function f (R431): no side effect. -/
def State.bar4Read (s : State) (f addr : Nat) : State :=
  let o := addr % 2 ^ 16 / 4 * 4
  s.answer (
    if s.clockless || !bit (s.rget Reg.EVENT_PERF_USER) f then 0
    else if o == 0 then s.short % 2 ^ 32
    else if o == 4 then s.short / 2 ^ 32
    else if (decide (0x1000 ≤ o) && decide (o < 0x1800)) || (decide (0x2000 ≤ o) && decide (o < 0x2200)) then
      (if regListed 15 o then (s.cell (regKey 15 0 o)).e.toNat else 0)
    else 0)

/-- One doubleword read by a master through a BAR it has a path to (R103). -/
def State.busRead (s : State) (m : Master) (bar addr : Nat) : State :=
  if s.boot.porst then s
  else match bar with
  | 0 => if hasBar0 m && m.id != 19 then s.regRead m addr else s
  | 2 => if hasBar2 m then s.bar2Read m addr else s
  | 4 => if 1 ≤ m.id ∧ m.id ≤ 16 then s.bar4Read (m.id - 1) addr else s
  | _ => s

/-- RC_READ (R93): a read; RC fields of the register read clear. -/
def execRcRead (m : Master) (bar addr : Nat) (s : State) : Out := .next (s.busRead m bar addr)

/-- PAIR_LOW_READ (R92): a read; the low half of a pair latches the high half in the reader's bank. -/
def execPairLowRead (m : Master) (bar addr : Nat) (s : State) : Out := .next (s.busRead m bar addr)

end Sys2Proof.Machine
end

