-- ==== Sys2Proof/Machine/AxBase.lean ====
section
/-! DEFINITION. What every Axsel instruction goes through: fetch (R47, R48, R58), its fields (R58 to R62), permission (R41), data in memory
(R48, R73), register addresses (R70), and waits with a time-out (R61). -/

namespace Sys2Proof.Machine

open Sys2Proof

/-! ### Instruction words (R58 to R62) -/

/-- An instruction that a thread executes: its word, extension words, length in words, the actual duration of its accesses outside the
sequencer, and how they end. -/
structure Ax where
  t : Nat
  w : Nat
  e : List Nat
  delay : Nat
  fault : AxFault
  deriving DecidableEq, Repr

/-- The length in words. -/
def Ax.len (a : Ax) : Nat := 1 + a.e.length
/-- Register fields. -/
def Ax.ra (a : Ax) : Nat := bits a.w 51 48
def Ax.rb (a : Ax) : Nat := bits a.w 47 44
def Ax.rc (a : Ax) : Nat := bits a.w 43 40
/-- The SEL, ADDR or COUNT field. -/
def Ax.sel (a : Ax) : Nat := bits a.w 23 0
/-- The TO field. -/
def Ax.tmo (a : Ax) : Nat := bits a.w 39 24
/-- IMM or OFFSET. -/
def Ax.imm (a : Ax) : Int := signed 32 (bits a.w 31 0)
/-- A flag bit. -/
def Ax.fl (a : Ax) (i : Nat) : Bool := bit a.w i
/-- SOFT (R59). -/
def Ax.soft (a : Ax) : Bool := bit a.w 52
/-- Extension word i. -/
def Ax.ext (a : Ax) (i : Nat) : Nat := a.e.getD i 0

/-- Masks of the fields of an instruction word. -/
def mA : Nat := 0xF * 2 ^ 48
def mB : Nat := 0xF * 2 ^ 44
def mC : Nat := 0xF * 2 ^ 40
def mTO : Nat := 0xFFFF * 2 ^ 24
def mIMM : Nat := 0xFFFFFFFF
def mSEL : Nat := 0xFFFFFF
def m53 : Nat := 2 ^ 53
def m54 : Nat := 2 ^ 54
def m55 : Nat := 2 ^ 55

/-- Every bit outside the opcode, SOFT and the fields used is 0 (R59, R62). -/
def okBits (w used : Nat) : Bool := w &&& (2 ^ 64 - 1 - (0xFF * 2 ^ 56 + 2 ^ 52) &&& (2 ^ 64 - 1 - used)) == 0

/-- A TO field is legal (R61). -/
def toOk (w : Nat) : Bool := bits w 39 38 != 3 || bits w 37 24 == 0

/-- The general registers. -/
def State.rg (s : State) (a : Ax) (i : Nat) : Nat := ((s.thr a.t).reg i).toNat

/-- Writes a general register. -/
def State.wg (s : State) (a : Ax) (i v : Nat) : State := s.setG a.t i (BitVec.ofNat 64 v)

/-! ### Ends of an instruction -/

/-- The instruction ends with a status (R54). -/
def State.axDone (s : State) (a : Ax) (st cost : Nat) : State := s.result a.t st a.len (cost + a.delay) a.soft

/-- The instruction ends its program. -/
def State.axEnd (s : State) (a : Ax) (st cost trap : Nat) : State :=
  let x := s.thr a.t
  (s.setThr a.t { x with charged := x.charged + cost + a.delay }).endProg a.t st x.pc trap

/-- A data access or fetch failed: event 996 for BUS, 995 for ECC (R47, R48). -/
def State.axFail (s : State) (t st : Nat) : State :=
  (if st == stBUS then s.raise 996 else if st == stECC then s.raise 995 else s).endProg t st (s.thr t).pc 0

/-- A time-out in core cycles (R61), none for NONE. -/
def toCycles (w : Nat) : Option Nat :=
  match w / 2 ^ 14 with
  | 0 => some (w % 2 ^ 14 * us)
  | 1 => some (w % 2 ^ 14 * ms)
  | 2 => some (w % 2 ^ 14 * (1000 * ms))
  | _ => none

/-- A wait whose condition does not hold at once (R53, R61): with a COUNT of 0 it ends with TIMEOUT. -/
def State.axWait (s : State) (a : Ax) (k : WaitKind) (cost : Nat) : State :=
  match toCycles a.tmo with
  | none => s.startWait a.t k none a.soft a.len (cost + a.delay)
  | some 0 => s.axDone a stTIMEOUT cost
  | some n => s.startWait a.t k (some (s.now + n)) a.soft a.len (cost + a.delay)

/-- A wait that no time-out bounds. -/
def State.axHold (s : State) (a : Ax) (k : WaitKind) (cost : Nat) : State :=
  s.startWait a.t k none a.soft a.len (cost + a.delay)

/-! ### Fetch (R35, R47, R48, R58) -/

/-- Bytes of a ring's store window (R40). -/
def State.inWindow (s : State) (n addr len : Nat) : Bool :=
  let lo := s.rget Reg.BIND_STORE_BASE 0 [n] * 4096
  decide (lo ≤ addr) && decide (addr + len ≤ min 0x40000 (lo + s.rget Reg.BIND_STORE_PAGES 0 [n] * 4096))

/-- Word i of a thread's program, or the status that its fetch ends with. -/
def State.fetchWord (s : State) (t i : Nat) (f : AxFault) : Except Nat Nat :=
  let x := s.thr t
  let a := x.addr + 8 * i
  if x.loc then
    (if !s.inWindow x.ring a 8 then .error stPERM else if f == .fetchEcc then .error stECC else .ok (s.m64 (storeKey a)))
  else match s.ringFunc x.ring with
    | none => .error stPERM
    | some fn => if !s.hostPath fn || f == .fetchBus then .error stBUS else .ok (s.m64 (hostKey fn a))

/-- The words i to i + n − 1. -/
def State.fetchWords (s : State) (t i : Nat) (f : AxFault) : Nat → Except Nat (List Nat)
  | 0 => .ok []
  | n + 1 => match s.fetchWord t i f, s.fetchWords t (i + 1) f n with
    | .ok w, .ok r => .ok (w :: r)
    | .error e, _ => .error e
    | _, .error e => .error e

/-- Thread t can execute its next instruction: it runs a program, does not wait and is not halted. -/
def State.canRun (s : State) (t : Nat) : Bool :=
  decide (t < 8) && (s.thr t).running && (s.thr t).wait.isNone && !bit (s.rget Reg.SEQ_THREAD_HALT) t && s.domOn 43

/-- One instruction of the thread that `o` names, if the word it fetches has an opcode that `opc` accepts: extension words beyond LEN end
the program with END (R58), a word or extension that is not `legal` with ILLEGAL (R62), and otherwise `body` is its effect. -/
def State.axRun (s : State) (o : AxOp) (opc : Nat → Bool) (ext : Nat → Nat) (legal : Nat → List Nat → Bool) (body : State → Ax → State) : State :=
  let t := o.thread
  let x := s.thr t
  if !s.canRun t then s
  else match s.fetchWord t x.pc o.fault with
  | .error st => s.axFail t st
  | .ok w =>
    if !opc (bits w 63 56) then s
    else if x.len != 0 && decide (x.len < x.pc + 1 + ext w) then s.endProg t stEND x.len 0
    else match s.fetchWords t (x.pc + 1) o.fault (ext w) with
    | .error st => s.axFail t st
    | .ok e => if !legal w e then s.endProg t stILLEGAL x.pc 0 else body s ⟨t, w, e, o.delay, o.fault⟩

/-! ### Permission (R40, R41) -/

/-- The ring of the program. -/
def State.axRing (s : State) (a : Ax) : Nat := (s.thr a.t).ring

/-- An instruction class is granted to the program's ring. -/
def State.granted (s : State) (a : Ax) (c : Nat) : Bool := bit (s.rget Reg.BIND_CLASS 0 [s.axRing a]) c

/-- One instruction of a class: PERM where the ring does not hold it. -/
def State.axClass (s : State) (o : AxOp) (op cls : Nat) (ext : Nat → Nat) (legal : Nat → List Nat → Bool) (body : State → Ax → State) : State :=
  s.axRun o (· == op) ext legal (fun u a => if u.granted a cls then body u a else u.axEnd a stPERM 0 0)

/-! ### Memory (R48, R73) -/

/-- The key of n bytes at an address of the store window or of the ring's host memory, or the status that the access ends with. -/
def State.axMem (s : State) (a : Ax) (loc : Bool) (addr n : Nat) : Except Nat Nat :=
  let r := s.axRing a
  if loc then (if s.inWindow r addr n then .ok (storeKey addr) else .error stPERM)
  else match s.ringFunc r with
    | none => .error stPERM
    | some f => if !s.hostPath f || a.fault == .dataBus || 2 ^ 64 < addr + n then .error stBUS else .ok (hostKey f addr)

/-- An access that fails ends the program, after the cost of the instruction. -/
def State.axMemFail (s : State) (a : Ax) (st cost : Nat) : State := (if st == stBUS then s.raise 996 else s).axEnd a st cost 0

/-- n bytes at an 8-byte-aligned address are read and passed on. -/
def State.axRead (s : State) (a : Ax) (loc : Bool) (addr n cost : Nat) (k : State → List Byte → State) : State :=
  if addr % 8 != 0 then s.axEnd a stALIGN cost 0
  else match s.axMem a loc addr n with
    | .error st => s.axMemFail a st cost
    | .ok key => k s (s.mread key n)

/-- Bytes are written at an 8-byte-aligned address; writing the program store needs STORE_WR (R47), and writing host memory the class
`host` where one is given. -/
def State.axWrite (s : State) (a : Ax) (loc : Bool) (addr : Nat) (d : List Byte) (host : Option Nat) (cost : Nat) (k : State → State) : State :=
  let need := if loc then some 10 else host
  if addr % 8 != 0 then s.axEnd a stALIGN cost 0
  else if (match need with | some c => !s.granted a c | none => false) then s.axEnd a stPERM cost 0
  else match s.axMem a loc addr d.length with
    | .error st => s.axMemFail a st cost
    | .ok key => k (s.mwrite key d)

/-! ### Register addresses (R70) -/

/-- The sequencer's master of a thread. -/
def Ax.master (a : Ax) : Master := ⟨19, a.t⟩

/-- The address of an RRD, RWM or RPOLL, or the status that it ends with; `blocks` is the permission field. -/
def State.axAddr (s : State) (a : Ax) (ind : Bool) (blocks : Row) : Except Nat Nat :=
  let sum := (if ind then s.rg a a.rb else 0) + a.sel
  if 0x1000000 ≤ sum then .error stRANGE
  else if sum % 4 != 0 then .error stALIGN
  else if !bit (s.rget blocks 0 [s.axRing a]) (sum / 2 ^ 20) then .error stPERM
  else .ok sum

/-- A register read of the sequencer: the state and the value. -/
def State.seqRead (s : State) (m : Master) (addr : Nat) : State × Nat :=
  let s1 := s.regRead m addr
  ({ s1 with rdata := s.rdata }, s1.rdata.toNat)

/-- The writes that R41 refuses whatever the permission set holds: the claims and binding block, and THREAD_HALT. -/
def seqForbidden (addr m : Nat) : Bool :=
  let p := placeOf addr
  p.blk == 14 || (p.blk == 4 && p.off == 0 && m % 256 != 0)

/-- Adds an accepted register write to those of the thread (R50). -/
def State.noteWrite (s : State) (t blk inst off m : Nat) : State :=
  let k := m &&& rwMask (regRows blk off)
  if k == 0 || isSelect blk off then s
  else s.setThr t { s.thr t with writes := (s.thr t).writes ++ [(regKey blk inst off, BitVec.ofNat 32 k)] }

/-- A register write of a thread, accepted or refused; the Bool says whether it was accepted. -/
def State.seqWrite (s : State) (t addr v m : Nat) : State × Bool :=
  let p := placeOf addr
  let inst := s.instOf (32 + t) p.blk p.off
  let r := s.regWrite ⟨19, t⟩ addr v m
  if r.2 == 0 then (r.1.noteWrite t p.blk inst p.off (effMask (regRows p.blk p.off) v m).2, true) else (r.1, false)

/-! ### Banks (R51, R70) -/

/-- The entries of a bank. -/
def State.bankOut (s : State) (b : Nat) : List (Nat × Nat) := s.banks.filter (fun e => e.1 % 64 == b)

/-- A bank with its entries replaced. -/
def State.bankIn (s : State) (b : Nat) (l : List (Nat × Nat)) : State :=
  { s with banks := l.foldl (fun m e => sset (fun _ => 0) m e.1 e.2) (sfilter (fun k => k % 64 != b) s.banks) }

end Sys2Proof.Machine
end

