-- ==== Sys2Proof/Machine/AxAlu.lean ====
section
/-! DEFINITION. Arithmetic, moves and control (R65 to R69): the meanings of LDI to TRAP and of an undefined opcode. -/

namespace Sys2Proof.Machine

open Sys2Proof

/-- The opcodes of R65. -/
def opcodes : List Nat :=
  [0x01, 0x02, 0x03, 0x04, 0x05, 0x06, 0x07, 0x08, 0x09, 0x0A, 0x10, 0x11, 0x12, 0x13, 0x14, 0x15, 0x20, 0x21, 0x22, 0x28, 0x29, 0x2A,
   0x30, 0x31, 0x32, 0x33, 0x38, 0x39, 0x3A, 0x3B, 0x3C] ++
  [0x40, 0x41, 0x42, 0x43, 0x44, 0x45, 0x48, 0x49, 0x4A, 0x50, 0x51, 0x52, 0x53, 0x58, 0x60, 0x61, 0x62, 0x63, 0x64, 0x68, 0x70, 0x78]

/-- UNDEFINED_OPCODE (R65): every other opcode ends the program with ILLEGAL. -/
def execUndefinedOpcode (o : AxOp) (s : State) : Out :=
  .next (s.axRun o (fun c => !opcodes.contains c) (fun _ => 0) (fun _ _ => false) (fun u _ => u))

/-! ### Arithmetic (R66, R67) -/

/-- The legal words of the ALU class: op is IMM with flag 53, C without. -/
def legalAlu (used w : Nat) : Bool := okBits w (used + mB + m53 + (if bit w 53 then mIMM else mC))

/-- The second operand (R66). -/
def State.op2 (s : State) (a : Ax) : DWord := if a.fl 53 then BitVec.ofInt 64 a.imm else (s.thr a.t).reg a.rc

/-- The flags Z, N, C and V from a result (R66). -/
def Thread.setFlags (x : Thread) (r : DWord) (c v : Bool) : Thread := { x with z := r == 0, n := r.msb, c := c, v := v }

/-- A result goes to A with its flags. -/
def State.aluDone (s : State) (a : Ax) (r : DWord) (c v : Bool) (cost : Nat) : State :=
  (s.setThr a.t (((s.thr a.t).setReg a.ra r).setFlags r c v)).axDone a stOK cost

/-- The operand B. -/
def State.opB (s : State) (a : Ax) : DWord := (s.thr a.t).reg a.rb

/-- LDI (R66). -/
def execLdi (o : AxOp) (s : State) : Out :=
  .next (s.axRun o (· == 0x01) (fun w => b2n (bit w 53)) (fun w _ => okBits w (mA + m53 + (if bit w 53 then 0 else mIMM))) (fun u a =>
    if a.fl 53 then u.aluDone a (BitVec.ofNat 64 (a.ext 0)) false false 2 else u.aluDone a (BitVec.ofInt 64 a.imm) false false 1))

/-- MOV with LSTAT (R67): LSTAT in [7:0], then Z, N, C, V, T, E. -/
def Thread.statusWord (x : Thread) : Nat :=
  x.lstat % 256 + 2 ^ 8 * b2n x.z + 2 ^ 9 * b2n x.n + 2 ^ 10 * b2n x.c + 2 ^ 11 * b2n x.v + 2 ^ 12 * b2n x.t + 2 ^ 13 * b2n x.e

/-- MOV (R66, R67). -/
def execMov (o : AxOp) (s : State) : Out :=
  .next (s.axRun o (· == 0x02) (fun _ => 0) (fun w _ => okBits w (mA + m54 + (if bit w 54 then 0 else mB))) (fun u a =>
    u.aluDone a (if a.fl 54 then BitVec.ofNat 64 (u.thr a.t).statusWord else u.opB a) false false 1))

/-- ADD (R66). -/
def execAdd (o : AxOp) (s : State) : Out :=
  .next (s.axRun o (· == 0x03) (fun _ => 0) (fun w _ => legalAlu mA w) (fun u a =>
    let b := u.opB a
    let y := u.op2 a
    u.aluDone a (b + y) (decide (2 ^ 64 ≤ b.toNat + y.toNat)) (b.msb == y.msb && (b + y).msb != b.msb) 1))

/-- A signed overflow of a difference. -/
def subOv (b y : DWord) : Bool := b.msb != y.msb && (b - y).msb != b.msb

/-- SUB (R66). -/
def execSub (o : AxOp) (s : State) : Out :=
  .next (s.axRun o (· == 0x04) (fun _ => 0) (fun w _ => legalAlu mA w) (fun u a =>
    let b := u.opB a
    let y := u.op2 a
    u.aluDone a (b - y) (decide (b.toNat < y.toNat)) (subOv b y) 1))

/-- AND (R66). -/
def execAnd (o : AxOp) (s : State) : Out :=
  .next (s.axRun o (· == 0x05) (fun _ => 0) (fun w _ => legalAlu mA w) (fun u a => u.aluDone a (u.opB a &&& u.op2 a) false false 1))

/-- OR (R66). -/
def execOr (o : AxOp) (s : State) : Out :=
  .next (s.axRun o (· == 0x06) (fun _ => 0) (fun w _ => legalAlu mA w) (fun u a => u.aluDone a (u.opB a ||| u.op2 a) false false 1))

/-- XOR (R66). -/
def execXor (o : AxOp) (s : State) : Out :=
  .next (s.axRun o (· == 0x07) (fun _ => 0) (fun w _ => legalAlu mA w) (fun u a => u.aluDone a (u.opB a ^^^ u.op2 a) false false 1))

/-- The shift count: op[5:0]. -/
def State.shiftBy (s : State) (a : Ax) : Nat := (s.op2 a).toNat % 64

/-- SHL (R66): C is the last bit shifted out, 0 for a shift of 0. -/
def execShl (o : AxOp) (s : State) : Out :=
  .next (s.axRun o (· == 0x08) (fun _ => 0) (fun w _ => legalAlu mA w) (fun u a =>
    let n := u.shiftBy a
    u.aluDone a (u.opB a <<< n) (n != 0 && (u.opB a).getLsbD (64 - n)) false 1))

/-- SHR (R66): logical, arithmetic with ARITH. -/
def execShr (o : AxOp) (s : State) : Out :=
  .next (s.axRun o (· == 0x09) (fun _ => 0) (fun w _ => legalAlu (mA + m54) w) (fun u a =>
    let n := u.shiftBy a
    let b := u.opB a
    u.aluDone a (if a.fl 54 then b.sshiftRight n else b >>> n) (n != 0 && b.getLsbD (n - 1)) false 1))

/-- CMP (R66): the flags of B − op; no register changes. -/
def execCmp (o : AxOp) (s : State) : Out :=
  .next (s.axRun o (· == 0x0A) (fun _ => 0) (fun w _ => legalAlu 0 w) (fun u a =>
    let b := u.opB a
    let y := u.op2 a
    (u.setThr a.t ((u.thr a.t).setFlags (b - y) (decide (b.toNat < y.toNat)) (subOv b y))).axDone a stOK 1))

/-! ### Control (R68, R69) -/

/-- A branch target is inside the program (R68). -/
def Thread.targetOk (x : Thread) (p : Int) : Bool := decide (0 ≤ p) && decide (p < 2 ^ 32) && (x.len == 0 || decide (p < x.len))

/-- The target of a branch. -/
def State.target (s : State) (a : Ax) : Int := ((s.thr a.t).pc : Int) + a.imm

/-- A taken branch, or RANGE. -/
def State.branchTo (s : State) (a : Ax) : State :=
  if (s.thr a.t).targetOk (s.target a) then s.finishAt a.t (s.target a).toNat (2 + a.delay) else s.axEnd a stRANGE 2 0

/-- BR (R68). -/
def execBr (o : AxOp) (s : State) : Out :=
  .next (s.axRun o (· == 0x10) (fun _ => 0) (fun w _ => okBits w mIMM) (fun u a => u.branchTo a))

/-- The conditions of R69. -/
def Thread.cond (x : Thread) : Nat → Bool
  | 0x0 => x.z
  | 0x1 => !x.z
  | 0x2 => x.c
  | 0x3 => !x.c
  | 0x4 => x.n != x.v
  | 0x5 => x.n == x.v
  | 0x6 => !x.z && x.n == x.v
  | 0x7 => x.z || x.n != x.v
  | 0x8 => !x.c && !x.z
  | 0x9 => x.c || x.z
  | 0xA => x.e
  | 0xB => !x.e
  | 0xC => x.t
  | 0xD => !x.t
  | 0xE => x.v
  | _ => false

/-- BCC (R68, R69): with CLR it clears E, T and LSTAT after the test. -/
def execBcc (o : AxOp) (s : State) : Out :=
  .next (s.axRun o (· == 0x11) (fun _ => 0) (fun w _ => okBits w (mA + mIMM + m53) && bits w 51 48 != 0xF) (fun u a =>
    let x := u.thr a.t
    let u1 := if a.fl 53 then u.setThr a.t { x with e := false, t := false, lstat := 0 } else u
    if x.cond a.ra then u1.branchTo a else u1.axDone a stOK 1))

/-- CALL (R43, R68): pushes pc + 1; a ninth nested call ends with STACK. -/
def execCall (o : AxOp) (s : State) : Out :=
  .next (s.axRun o (· == 0x12) (fun _ => 0) (fun w _ => okBits w mIMM) (fun u a =>
    let x := u.thr a.t
    if !x.targetOk (u.target a) then u.axEnd a stRANGE 2 0
    else if 8 ≤ x.stack.length then u.axEnd a stSTACK 2 0
    else (u.setThr a.t { x with stack := (x.pc + 1) :: x.stack }).branchTo a))

/-- RET (R43): an empty stack ends with STACK. -/
def execRet (o : AxOp) (s : State) : Out :=
  .next (s.axRun o (· == 0x13) (fun _ => 0) (fun w _ => okBits w 0) (fun u a =>
    let x := u.thr a.t
    match x.stack with
    | [] => u.axEnd a stSTACK 2 0
    | p :: r => (u.setThr a.t { x with stack := r }).finishAt a.t p (2 + a.delay)))

/-- HALT (R50, R52): the program ends with OK. -/
def execHalt (o : AxOp) (s : State) : Out :=
  .next (s.axRun o (· == 0x14) (fun _ => 0) (fun w _ => okBits w 0) (fun u a => u.axEnd a stOK 1 0))

/-- TRAP: the program ends with TRAP and its code. -/
def execTrap (o : AxOp) (s : State) : Out :=
  .next (s.axRun o (· == 0x15) (fun _ => 0) (fun w _ => okBits w 0xFF) (fun u a => u.axEnd a stTRAP 1 (bits a.w 7 0)))

end Sys2Proof.Machine
end

