-- ==== Sys2Proof/Machine/AxMem.lean ====
section
/-! DEFINITION. Register access and memory (R70 to R73): the meanings of RRD, RWM, RPOLL, RPOLL_READ, LD, ST and COPY. -/

namespace Sys2Proof.Machine

open Sys2Proof

/-! ### Register access -/

/-- RRD (R70): A ← the register, zero-extended. -/
def execRrd (o : AxOp) (s : State) : Out :=
  .next (s.axRun o (· == 0x20) (fun _ => 0) (fun w _ => okBits w (mA + (if bit w 53 then mB else 0) + m53 + mSEL)) (fun u a =>
    match u.axAddr a (a.fl 53) Reg.BIND_RD_BLOCKS with
    | .error st => u.axEnd a st 12 0
    | .ok addr =>
      let r := u.seqRead a.master addr
      (r.1.wg a a.ra r.2).axDone a stOK 12))

/-- The mask and value of an RWM (R71). -/
def State.rwmArgs (s : State) (a : Ax) (addr : Nat) : Nat × Nat :=
  let x := if a.fl 54 then s.rg a a.rc else a.ext 0
  let p := placeOf addr
  let m := bits x 63 32
  (if m == 0 || (regRows p.blk p.off).any (fun r => r.acc == .rwm) then 0xFFFFFFFF else m, bits x 31 0)

/-- Holds a write in the open batch (R51, R52): a 257th ends the program with BATCH. -/
def State.holdBatch (s : State) (a : Ax) (l : List HeldWrite) (addr v m : Nat) : State :=
  let p := placeOf addr
  let b := 32 + a.t
  if 256 ≤ l.length then (s.raise 997).axEnd a stBATCH 2 0
  else
    let h : HeldWrite := ⟨p.blk, s.instOf b p.blk p.off, p.off, addr, BitVec.ofNat 32 v, BitVec.ofNat 32 m, s.bankOut b⟩
    (s.setThr a.t { s.thr a.t with batch := some (l ++ [h]) }).axDone a stOK 2

/-- RWM (R70, R71): into the write buffer of the block, or held while a batch is open; select registers are never held (R52). -/
def execRwm (o : AxOp) (s : State) : Out :=
  .next (s.axRun o (· == 0x21) (fun w => b2n (!bit w 54))
    (fun w _ => okBits w ((if bit w 53 then mB else 0) + (if bit w 54 then mC else 0) + m53 + m54 + mSEL)) (fun u a =>
    match u.axAddr a (a.fl 53) Reg.BIND_WR_BLOCKS with
    | .error st => u.axEnd a st 2 0
    | .ok addr =>
      let p := placeOf addr
      let x := u.rwmArgs a addr
      if seqForbidden addr x.1 then u.axEnd a stPERM 2 0
      else match (if isSelect p.blk p.off && !p.view then none else (u.thr a.t).batch) with
      | some l => u.holdBatch a l addr x.2 x.1
      | none =>
        let r := u.seqWrite a.t addr x.2 x.1
        if r.2 then r.1.axDone a stOK 2 else r.1.axEnd a stPERM 2 0))

/-- The condition of an RPOLL (R72). -/
def pollOk (v : Nat) (mask expect : Word) (ne : Bool) : Bool := ((BitVec.ofNat 32 v &&& mask) == expect) != ne

/-- RPOLL (R72): reads at once, and waits where the condition does not hold. -/
def execRpoll (o : AxOp) (s : State) : Out :=
  .next (s.axRun o (· == 0x22) (fun _ => 1) (fun w _ => okBits w (mA + mTO + mSEL + m53) && toOk w) (fun u a =>
    match u.axAddr a false Reg.BIND_RD_BLOCKS with
    | .error st => u.axEnd a st 12 0
    | .ok addr =>
      let r := u.seqRead a.master addr
      let u1 := r.1.wg a a.ra r.2
      let mask := BitVec.ofNat 32 (bits (a.ext 0) 63 32)
      let expect := BitVec.ofNat 32 (bits (a.ext 0) 31 0)
      if pollOk r.2 mask expect (a.fl 53) then u1.axDone a stOK 12
      else u1.axWait a (.rpoll a.ra addr mask expect (a.fl 53) (u.now + 128)) 12))

/-- RPOLL_READ (R72): 64 control cycles after the last read, a polling thread reads again. -/
def execRpollRead (thread : Nat) (s : State) : Out :=
  .next (
    match (s.thr thread).wait with
    | some ⟨.rpoll ra addr mask expect ne nextRead, since, dl, soft, len⟩ =>
      if thread < 8 && decide (nextRead ≤ s.now) then
        let r := s.seqRead ⟨19, thread⟩ addr
        let s1 := r.1.setG thread ra (BitVec.ofNat 64 r.2)
        if pollOk r.2 mask expect ne then s1.endWait thread stOK
        else s1.setThr thread { s1.thr thread with wait := some ⟨.rpoll ra addr mask expect ne (nextRead + 128), since, dl, soft, len⟩ }
      else s
    | _ => s)

/-! ### Memory -/

/-- The address B + IMM. -/
def State.memAddr (s : State) (a : Ax) : Nat := (BitVec.ofNat 64 (s.rg a a.rb) + BitVec.ofInt 64 a.imm).toNat

/-- The cost of a store or a host access. -/
def memCost (loc : Bool) : Nat := if loc then 2 else 4

/-- LD (R41, R73): A ← mem64[B + IMM]; host memory needs HOST_MEM. -/
def execLd (o : AxOp) (s : State) : Out :=
  .next (s.axRun o (· == 0x28) (fun _ => 0) (fun w _ => okBits w (mA + mB + mIMM + m53)) (fun u a =>
    let addr := u.memAddr a
    let c := memCost (a.fl 53)
    if addr % 8 != 0 then u.axEnd a stALIGN c 0
    else if !a.fl 53 && !u.granted a 11 then u.axEnd a stPERM c 0
    else u.axRead a (a.fl 53) addr 8 c (fun v d => (v.wg a a.ra (leNat d)).axDone a stOK c)))

/-- ST (R41, R73): mem64[B + IMM] ← C; the program store needs STORE_WR, host memory HOST_MEM. -/
def execSt (o : AxOp) (s : State) : Out :=
  .next (s.axRun o (· == 0x29) (fun _ => 0) (fun w _ => okBits w (mB + mC + mIMM + m53)) (fun u a =>
    let c := memCost (a.fl 53)
    u.axWrite a (a.fl 53) (u.memAddr a) (leBytes 8 (u.rg a a.rc)) (some 11) c (fun v => v.axDone a stOK c)))

/-- COPY (R73): C bytes from B to A, as through an intermediate buffer. -/
def execCopy (o : AxOp) (s : State) : Out :=
  .next (s.axRun o (· == 0x2A) (fun _ => 0) (fun w _ => okBits w (mA + mB + mC + m53 + m54)) (fun u a =>
    let dst := u.rg a a.ra
    let src := u.rg a a.rb
    let n := u.rg a a.rc
    if dst % 8 != 0 || src % 8 != 0 then u.axEnd a stALIGN 6 0
    else if n % 8 != 0 || n == 0 || 65536 < n then u.axEnd a stRANGE 6 0
    else if (!a.fl 54 && !u.granted a 11) || !u.granted a (if a.fl 53 then 10 else 11) then u.axEnd a stPERM 6 0
    else match u.axMem a (a.fl 54) src n, u.axMem a (a.fl 53) dst n with
    | .ok k, .ok d => (u.mwrite d (u.mread k n)).axDone a stOK (6 + ceilDiv n 64)
    | .error st, _ => u.axMemFail a st 6
    | _, .error st => u.axMemFail a st 6))

end Sys2Proof.Machine
end

