-- ==== Sys2Proof/Machine/AxVer.lean ====
section
/-! DEFINITION. Versions (R77, R78, R190 to R204): the meanings of VOPEN, VPUT, VCOMMIT, VCOMMIT_SLOT_FREE, VWAIT and VABORT. -/

namespace Sys2Proof.Machine

open Sys2Proof

/-- The rule set that SEL names. -/
def Ax.rset (a : Ax) : Nat := a.sel % 64

/-- SEL[5:0]. -/
def mRS : Nat := 0x3F

/-- The draft of a rule set is this program's (R77). -/
def State.ownDraft (s : State) (a : Ax) : Bool := s.draftOf a.rset == a.t + 1

/-- VOPEN. -/
def execVopen (o : AxOp) (s : State) : Out :=
  .next (s.axClass o 0x38 1 (fun _ => 0) (fun w _ => okBits w mRS) (fun u a =>
    if u.draftOf a.rset != 0 then u.axDone a stBUSY 4 else (u.setDraft a.rset (a.t + 1)).axDone a stOK 4))

/-- The big-endian numbers of n images of sz bytes each. -/
def imagesOf (sz : Nat) : Nat → List Byte → List Nat
  | 0, _ => []
  | n + 1, d => beNat (d.take sz) :: imagesOf sz n (d.drop sz)

/-- VPUT of images into the draft (R189, R193): nothing is written unless every image is accepted. -/
def State.vputImages (s : State) (a : Ax) (imgs : List Nat) (cost : Nat) : State :=
  match s.leg.vput a.rset imgs with
  | .error st => s.axDone a st cost
  | .ok _ => (s.legApply (fun m => match m.vput a.rset imgs with | .ok n => n | .error _ => m)).axDone a stOK cost

/-- VPUT (R77, R193). -/
def execVput (o : AxOp) (s : State) : Out :=
  .next (s.axClass o 0x39 1 (fun _ => 0) (fun w _ => okBits w (mB + mC + mRS + m53)) (fun u a =>
    let n := u.rg a a.rc
    if !u.ownDraft a then u.axDone a stNOTFOUND 6
    else if !u.treeOn then u.axDone a stREFUSED 6
    else if n == 0 || 1024 < n then u.axEnd a stRANGE 6 0
    else u.axRead a (a.fl 53) (u.rg a a.rb) (64 * n) 6 (fun v d => v.vputImages a (imagesOf 64 n d) (6 + 4 * n))))

/-- A line is a ROOT line that carries the draft mark of the rule set's draft (R202). -/
def State.draftRoot (s : State) (rs i : Nat) : Bool :=
  let x := s.leg.line i
  x.owner == rs + 1 && x.draft && nodeKind x.img == 1

/-- VCOMMIT (R78, R202): waits while no slot is free. -/
def execVcommit (o : AxOp) (s : State) : Out :=
  .next (s.axClass o 0x3A 1 (fun _ => 0) (fun w _ => okBits w (mA + mB + mTO + mRS) && toOk w) (fun u a =>
    let root := u.rg a a.rb
    if !u.ownDraft a then u.axDone a stNOTFOUND 8
    else if !u.treeOn then u.axDone a stREFUSED 8
    else if !u.draftRoot a.rset root then u.axDone a stNOTFOUND 8
    else match u.freeSlot a.rset with
    | some k => ((u.vcommit a.rset k root).wg a a.ra k).axDone a stOK 8
    | none => u.axWait a (.vcommit a.ra a.rset root) 8))

/-- VCOMMIT_SLOT_FREE (R202): a waiting VCOMMIT finds a free slot. -/
def execVcommitSlotFree (thread : Nat) (s : State) : Out :=
  .next (
    match (s.thr thread).wait with
    | some ⟨.vcommit ra rs root, _, _, _, _⟩ =>
      (match (if thread < 8 && s.treeOn then s.freeSlot rs else none) with
      | some k => ((s.vcommit rs k root).setG thread ra (BitVec.ofNat 64 k)).endWait thread stOK
      | none => s)
    | _ => s)

/-- VWAIT (R78): for slot B[1:0] to retire, or for any free slot. -/
def execVwait (o : AxOp) (s : State) : Out :=
  .next (s.axClass o 0x3B 1 (fun _ => 0) (fun w _ => okBits w (mTO + mRS + m53 + (if bit w 53 then 0 else mB)) && toOk w) (fun u a =>
    let k := u.rg a a.rb % 4
    let any := a.fl 53
    if !any && ((u.leg).ver a.rset).active == some k then u.axDone a stREFUSED 2
    else if (if any then (u.freeSlot a.rset).isSome else u.inflight a.rset k == 0) then u.axDone a stOK 2
    else u.axWait a (.vwait a.rset k any) 2))

/-- VABORT (R77, R204). -/
def execVabort (o : AxOp) (s : State) : Out :=
  .next (s.axClass o 0x3C 1 (fun _ => 0) (fun w _ => okBits w mRS) (fun u a =>
    if !u.ownDraft a then u.axDone a stNOTFOUND 4 else (u.vabort a.rset).axDone a stOK 4))

end Sys2Proof.Machine
end

