-- ==== Sys2Proof/Machine/AxMisc.lean ====
section
/-! DEFINITION. Counters, Plait contexts and parse programs (R86 to R88, R309 to R311, R421, R423): the meanings of CSNAP, PLCTX and
LOADP. -/

namespace Sys2Proof.Machine

open Sys2Proof

/-! ### CSNAP -/

/-- A Tally snapshot for a thread (R86, R423): now, or at a later short time; FULL where it is discarded. -/
def State.csnapTally (s : State) (a : Ax) : State :=
  let t := s.rg a a.rb % 2 ^ 48
  if s.rg a a.rb == 0 then let r := s.tallySnap; r.1.axDone a (if r.2 then stOK else stFULL) 4
  else if s.reached t then s.axDone a stLATE 4
  else s.axWait a (.csnap t a.ra) 4

/-- A counter group is copied as one snapshot behind the instant, and cleared in it (R86). -/
def State.csnapGroup (s : State) (a : Ax) (g : Nat) (refs : List CtrRef) : State :=
  let ws := s.short :: refs.map s.ctr
  let cost := 8 + ws.length
  s.axWrite a (a.fl 53) (s.rg a a.rb) (ws.flatMap (leBytes 8)) none cost (fun v =>
    ((if groupClears g then refs.foldl State.ctrClear v else v).wg a a.ra ws.length).axDone a stOK cost)

/-- CSNAP (R86, R421). -/
def execCsnap (o : AxOp) (s : State) : Out :=
  .next (s.axClass o 0x68 7 (fun _ => 0)
    (fun w _ => okBits w (mB + m53 + m54 + mTO + (if bit w 54 then 0 else mA + 0xFFFF)) && toOk w) (fun u a =>
    if a.fl 54 then u.csnapTally a
    else match groupRefs a.sel with
    | none => u.axEnd a stRANGE 8 0
    | some refs => u.csnapGroup a a.sel refs))

/-! ### PLCTX -/

/-- A context with a new image (R311): a first enable; the change in place; a geometry change, or any change of a context that drains,
which waits for the end of the drain. -/
def PlaitCtx.load (c : PlaitCtx) (img now : Nat) : PlaitCtx :=
  match c.img with
  | none => { img := some img, earlyBefore := some now, seq := c.seq }
  | some old =>
    if c.draining then { c with next := some img, disabling := false }
    else if plSameGeometry old img then { c with img := some img, prevs := c.prevs ++ [(old, (now + 1) % 2 ^ 48)] }
    else { c with next := some img, drainFrom := now }

/-- A context that is disabled drains (R311). -/
def PlaitCtx.stop (c : PlaitCtx) (now : Nat) : PlaitCtx :=
  if c.img.isNone then c else { c with next := none, disabling := true, drainFrom := if c.draining then c.drainFrom else now }

/-- The footprints on an engine, one context excepted (R310). -/
def State.plaitFoot (s : State) (k but : Nat) : Nat :=
  ((s.plait.filter (fun e => e.1 / 64 == k && e.1 != but)).map (fun e => e.2.foot)).sum

/-- Drains of an engine that have ended. -/
def State.plaitSettleAll (s : State) (k : Nat) : State :=
  ((s.plait.map (·.1)).filter (fun x => x / 64 == k)).foldl State.plaitSettle s

/-- A context image is written (R309 to R311). -/
def State.plctxLoad (s : State) (a : Ax) (x img : Nat) : State :=
  let s1 := s.plaitSettleAll (x / 64)
  let c := (s1.pc x).load img s.short
  if !plOk img then s.axEnd a stRANGE 12 0
  else if !s.domOn (27 + x / 64) then s.axDone a stOK 12
  else if 6291456 < s1.plaitFoot (x / 64) x + c.foot then s.axDone a stFULL 12
  else (s1.setPc x c).axDone a stOK 12

/-- PLCTX (R87, R311). -/
def execPlctx (o : AxOp) (s : State) : Out :=
  .next (s.axClass o 0x70 8 (fun _ => 0) (fun w _ => okBits w (0xFF + m53 + m54 + (if bit w 54 then 0 else mB))) (fun u a =>
    let x := a.sel
    if a.fl 54 then
      (let u1 := u.plaitSettle x
       (if u.domOn (27 + x / 64) then u1.setPc x ((u1.pc x).stop u.short) else u).axDone a stOK 12)
    else u.axRead a (a.fl 53) (u.rg a a.rb) 128 12 (fun v d => v.plctxLoad a x (beNat d))))

/-! ### LOADP -/

/-- A parse program is written to the shadow banks of pipes, or waits for earlier loads of theirs (R88, R182). -/
def State.loadp (s : State) (a : Ax) (ps : List Nat) (p : List Nat) (cost : Nat) : State :=
  if ps.isEmpty then s.axDone a stOK cost
  else if ps.any (fun n => s.ron Reg.SURVEY_LOADING n) then s.axHold a (.loadp ps (some p)) cost
  else (ps.foldl (fun u n => u.loadShadow n p) s).axHold a (.loadp ps none) cost

/-- LOADP (R88): it completes when every named pipe has switched. -/
def execLoadp (o : AxOp) (s : State) : Out :=
  .next (s.axClass o 0x78 9 (fun _ => 0) (fun w _ => okBits w (mB + mC + 0xFF + m53)) (fun u a =>
    let n := u.rg a a.rc
    let ps := (List.range 8).filter (fun k => bit a.sel k)
    let cost := 16 + 2 * n
    if n == 0 || 4097 < n then u.axEnd a stRANGE 16 0
    else u.axRead a (a.fl 53) (u.rg a a.rb) (8 * n) cost (fun v d =>
      let p := imagesOf 8 n d
      if !progOk p then v.axEnd a stRANGE cost 0
      else if ps.any (fun k => !v.domOn (8 + k)) then v.axDone a stREFUSED cost
      else v.loadp a ps p cost)))

end Sys2Proof.Machine
end

