-- ==== Sys2Proof/Machine/AxQueue.lean ====
section
/-! DEFINITION. Queue instructions (R79, R266, R267): the meanings of QNEW, QMAP, QPIN, QUNPIN, QFLUSH and QFREE. -/

namespace Sys2Proof.Machine

open Sys2Proof

/-- The lowest queue from q on that is not allocated, in a map of queues (R266). -/
def firstFree : Nat → Sparse Queue → Nat
  | q, [] => q
  | q, (k, x) :: r => if q < k then q else if k < q then firstFree q r else if x.alloc then firstFree (q + 1) r else q

/-- A queue leaves the pool: allocated and FRESH, every other flag clear, its shaper at the values of R282. -/
def State.qnew (s : State) (q : Nat) : State := (s.setQ q { alloc := true, fresh := true }).setObj q (objDflt q)

/-- QNEW (R79, R266). -/
def execQnew (o : AxOp) (s : State) : Out :=
  .next (s.axClass o 0x40 2 (fun _ => 0) (fun w _ => okBits w (mA + m53 + (if bit w 53 then mB else 0))) (fun u a =>
    let q := if a.fl 53 then u.rg a a.rb else firstFree 0 u.queues
    if a.fl 53 && decide (65535 < q) then u.axEnd a stRANGE 6 0
    else if a.fl 53 && (u.q q).alloc then u.axDone a stBUSY 6
    else if 65464 ≤ q then u.axDone a stFULL 6
    else ((u.qnew q).wg a a.ra q).axDone a stOK 6))

/-- An instruction that names queue B: RANGE, then what a fixed queue gives, then NOT_FOUND for a queue that is not allocated. -/
def State.onQueue (s : State) (a : Ax) (cost : Nat) (fixed : Option Nat) (body : State → Nat → State) : State :=
  let q := s.rg a a.rb
  if 65535 < q then s.axEnd a stRANGE cost 0
  else match (if isFixed q then fixed else none) with
  | some st => s.axDone a st cost
  | none => if !(s.q q).alloc then s.axDone a stNOTFOUND cost else body s q

/-! ### QMAP -/

/-- The pager of basket b forgets queue q. -/
def State.dropPin (s : State) (q b : Nat) : State :=
  let g := s.pager b
  s.setPager b { g with pins := g.pins.filter (· != q), waitQ := if g.waitQ == some q then none else g.waitQ }

/-- A pin that waits for the page-in of a queue moves to the pager of its new basket. -/
def State.movePins (s : State) (q ob nb : Nat) : State :=
  let s1 := s.dropPin q ob
  if s.waiters.any (fun w => w.2.kind == .qpin q) then s1.setPager nb { s1.pager nb with pins := (s1.pager nb).pins ++ [q] } else s1

/-- A resident queue arrives in basket nb without a slot (R267): it takes a free slot, or its context is written home, or it takes its
initial values and is FRESH. -/
def State.rehome (s : State) (q nb : Nat) : State :=
  if s.domOn (16 + nb) && s.slotsFree nb != 0 then
    let r := s.takeSlot nb
    r.1.setQ q { r.1.q q with resident := true, slot := r.2 }
  else if s.domOn (16 + nb) && s.pagingReady then (s.mwrite (lp4xKey (s.qctxHome q)) ((s.qctxWords q).flatMap (beBytes 8))).lp4xUse true
  else (s.ctxInit q).setQ q { (s.ctxInit q).q q with fresh := true }

/-- Maps queue q (R79, R266, R267). -/
def State.qmap (s : State) (q port cls ext : Nat) : State :=
  let x := s.q q
  let o := s.obj q
  let w := bits ext 47 32
  let b := bits ext 26 24
  let p := bits ext 12 0
  let move := x.mapped && pipeOfPort x.port != pipeOfPort port
  let o1 : Obj := { o with weight := w, band := b, parent := p, deficit := if b == o.band && p == o.parent then o.deficit else 0,
                           set := o.set.map (fun v => { v with weight := w, band := b }) }
  let x1 : Queue := { x with mapped := true, port := port, cls := cls, spillTh := bits ext 63 48 }
  let x2 : Queue := if move then { x1 with resident := false, paging := false, pageRead := false, slot := 0 } else x1
  let s1 := (s.setObj q o1).setQ q x2
  if move then
    (if x.resident then s1.rehome q (pipeOfPort port) else s1).movePins q (pipeOfPort x.port) (pipeOfPort port)
  else s1

/-- QMAP (R79, R266). -/
def execQmap (o : AxOp) (s : State) : Out :=
  .next (s.axClass o 0x41 2 (fun _ => 1)
    (fun w e => okBits w (mB + 0xFF07) && bits (e.getD 0 0) 31 27 == 0 && bits (e.getD 0 0) 23 13 == 0) (fun u a =>
    let q := u.rg a a.rb
    let port := bits a.w 15 8
    let x := a.ext 0
    let p := u.q q
    let basket := pipeOfPort port
    if 65535 < q || 151 < port || bits x 12 0 / 1024 != basket || bits x 47 32 == 0 then u.axEnd a stRANGE 8 0
    else u.onQueue a 8 (some stBUSY) (fun v q =>
      if p.mapped && ((p.port != port && !v.queueEmpty q) || (p.pinned && pipeOfPort p.port != basket)) then v.axDone a stBUSY 8
      else (v.qmap q port (bits a.w 2 0) x).axDone a stOK 8)))

/-! ### QPIN, QUNPIN -/

/-- The queues pinned (R79). -/
def State.pinnedCount (s : State) : Nat := (s.queues.filter (fun e => e.2.pinned)).length

/-- QPIN (R79, R266): a queue that is not resident is paged in first, ahead of staged page-ins (R269). -/
def execQpin (o : AxOp) (s : State) : Out :=
  .next (s.axClass o 0x42 2 (fun _ => 0) (fun w _ => okBits w mB) (fun u a =>
    u.onQueue a 6 (some stOK) (fun v q =>
      let x := v.q q
      let b := v.queueBasket q
      if x.pinned then v.axDone a stOK 6
      else if !x.mapped || !v.domOn (16 + b) then v.axDone a stREFUSED 6
      else if 8192 ≤ v.pinnedCount then v.axDone a stFULL 6
      else if x.resident then (v.setQ q { x with pinned := true }).axDone a stOK 6
      else
        let g := v.pager b
        (if x.paging || g.pins.contains q then v else v.setPager b { g with pins := g.pins ++ [q] }).axHold a (.qpin q) 6)))

/-- QUNPIN (R266). -/
def execQunpin (o : AxOp) (s : State) : Out :=
  .next (s.axClass o 0x43 2 (fun _ => 0) (fun w _ => okBits w mB) (fun u a =>
    u.onQueue a 4 (some stOK) (fun v q => (v.setQ q { v.q q with pinned := false }).axDone a stOK 4)))

/-! ### QFLUSH, QFREE -/

/-- QFLUSH (R79, R266): A ← frames discarded, which count in `QFLUSH_FRAMES`. -/
def execQflush (o : AxOp) (s : State) : Out :=
  .next (s.axClass o 0x44 2 (fun _ => 0) (fun w _ => okBits w (mA + mB)) (fun u a =>
    u.onQueue a 8 none (fun v q =>
      let b := v.queueBasket q
      let v1 := v.flushQueue q 9
      let n := (v1.pget Reg.QUEUE_CNT 0 [b, 9] + 2 ^ 64 - v.pget Reg.QUEUE_CNT 0 [b, 9]) % 2 ^ 64
      (v1.wg a a.ra n).axDone a stOK (8 + ceilDiv n 4))))

/-- A queue returns to the pool: every flag is clear, its context is discarded, its slot is free; a QPIN that waits for it ends with
NOT_FOUND. -/
def State.qfree (s : State) (q : Nat) : State :=
  let b := s.queueBasket q
  let s2 := ((s.dropPin q b).setQ q {}).setObj q (objDflt q)
  s2.waiters.foldl (fun t w => if w.2.kind == .qpin q then t.endWait w.1 stNOTFOUND else t) s2

/-- QFREE (R79, R266). -/
def execQfree (o : AxOp) (s : State) : Out :=
  .next (s.axClass o 0x45 2 (fun _ => 0) (fun w _ => okBits w mB) (fun u a =>
    u.onQueue a 6 (some stREFUSED) (fun v q =>
      if !v.queueEmpty q then v.axDone a stBUSY 6
      else if (v.q q).pinned then v.axDone a stREFUSED 6
      else (v.qfree q).axDone a stOK 6)))

end Sys2Proof.Machine
end

