-- ==== Sys2Proof/Machine/AxTab.lean ====
section
/-! DEFINITION. Table instructions (R74 to R76) and the layouts of table images: the meanings of TWR, TDEL, TFIND and TAGE. -/

namespace Sys2Proof.Machine

open Sys2Proof

/-! ### Layouts (R75) -/

/-- A bit rate in kb/s is 0 or from 1,000 to 400,000,000. -/
def rateOk (r : Nat) : Bool := r == 0 || (decide (1000 ≤ r) && decide (r ≤ 400000000))

/-- An address image (R215). -/
def addrOk (i : Nat) : Bool :=
  imgF 32 i 0 63 60 == 0 && aDTYPE i != 3 && imgF 32 i 1 61 60 == 0 && (aDTYPE i != 0 || decide (aDEST i ≤ 151)) &&
  imgF 32 i 1 47 0 == 0 && imgF 32 i 2 63 0 == 0 && imgF 32 i 3 59 0 == 0

/-- An express image for pipe n (R230, R231). -/
def State.expressOk (s : State) (n i : Nat) : Bool :=
  let mask := beNat ((List.range 16).flatMap (fun w => beBytes 4 (s.rget Reg.FWD_EXP_MASK n [w])))
  let key := imgBytes 128 i 0 64
  let len := imgBytes 128 i 81 1 / 8
  let cf := imgBytes 128 i 84 1
  let uck := imgBytes 128 i 85 1
  key &&& mask == key && imgBytes 128 i 81 1 % 8 == 0 && decide (len ≤ 16) && decide (imgBytes 128 i 80 1 + len ≤ 64) &&
  decide (imgBytes 128 i 82 1 ≤ 127) && imgBytes 128 i 83 1 % 4 == 0 && decide (14 ≤ cf) && decide (cf ≤ 240) &&
  (uck == 0 || (decide (20 ≤ uck) && decide (uck ≤ 254))) && imgBytes 128 i 86 34 == 0 && imgF 128 i 15 62 0 == 0

/-- A flow image (R195, R197). -/
def flowOk (i : Nat) : Bool := imgF 64 i 7 60 54 == 0 && imgF 64 i 7 47 0 == 0 && actionOk (imgBytes 64 i 40 16)

/-- A policer image (R302). -/
def policerOk (i : Nat) : Bool :=
  let cir := imgF 32 i 0 63 32
  let pir := imgF 32 i 0 31 0
  rateOk cir && rateOk pir && imgF 32 i 1 63 56 == 0 && imgF 32 i 1 31 24 == 0 && imgF 32 i 3 59 48 == 0 &&
  (if imgF 32 i 3 62 62 == 1 then pir == 0 else decide (cir ≤ pir))

/-- A multicast group image (R221). -/
def groupOk (i : Nat) : Bool :=
  imgF 64 i 2 38 0 == 0 && imgBytes 64 i 24 32 == 0 && imgF 64 i 7 62 0 == 0

/-- One step of an edit script (R224): unused fields are 0. -/
def editStepOk (w : Nat) : Bool :=
  let base := bits w 27 25 != 7
  let data := bits w 4 0 == 0 && decide (bits w 10 5 + bits w 16 11 + 1 ≤ 64)
  match bits w 31 28 with
  | 0 => bits w 27 0 == 0
  | 1 | 3 | 4 => base && data
  | 2 => base && bits w 10 0 == 0
  | 5 => base && bits w 16 0 == 0
  | 6 => base && bits w 16 5 == 0 && decide (bits w 4 0 ≤ 1)
  | _ => false

/-- An edit image (R224). -/
def editImgOk (i : Nat) : Bool := (List.range 16).all (fun k => editStepOk (editStep i k))

/-- A mirror image (R227). -/
def mirrorOk (i : Nat) : Bool :=
  let sz := imgF 32 i 1 63 59
  let fn := imgF 32 i 1 57 53
  imgF 32 i 0 11 0 == 0 && decide (4 ≤ sz) && decide (sz ≤ 20) && (imgF 32 i 1 58 58 == 1 || (decide (1 ≤ fn) && decide (fn ≤ 16))) &&
  imgF 32 i 1 52 32 == 0 && imgF 32 i 1 31 0 != 0 && imgF 32 i 2 63 0 == 0 && imgF 32 i 3 62 0 == 0

/-- A rule image (R197). -/
def ruleOk (i : Nat) : Bool := imgF 192 i 22 62 0 == 0 && imgF 192 i 23 63 0 == 0 && actionOk (ruleAction i)

/-- An image agrees with the layout of its table (R75). -/
def State.layoutOk (s : State) (t inst i : Nat) : Bool :=
  match t with
  | 0 => addrOk i
  | 1 => s.expressOk inst i
  | 2 => flowOk i
  | 3 => policerOk i
  | 4 => groupOk i
  | 5 => editImgOk i
  | 6 => mirrorOk i
  | 7 => bits i 52 1 == 0
  | _ => ruleOk i

/-! ### Entries -/

/-- The image of an entry; a RULE slot is in Legend memory. -/
def State.entry (s : State) (t inst i : Nat) : Nat := if t == tRULE then (s.leg).rule i else s.tab t inst i

/-- An image is valid (R76: EDIT by its first step). -/
def imgValid (t i : Nat) : Bool :=
  match t with
  | 0 => aVALID i
  | 1 => imgF 128 i 15 63 63 == 1
  | 5 => bits (editStep i 0) 31 28 != 0
  | 7 => bit i 0
  | 8 => ruleValid i
  | _ => imgF (tabSize t) i (tabSize t / 8 - 1) 63 63 == 1

/-- An entry is poisoned (R518); a rule slot by the record of its Legend memory. -/
def State.entryBad (s : State) (t inst i : Nat) : Bool := if t == tRULE then (s.leg).badRules.contains i else s.poisoned t inst i

/-- Writes an entry: it is no longer poisoned (R518). -/
def State.setEntry (s : State) (t inst i img : Nat) : State :=
  match t with
  | 0 => (if addrChip ≤ i then s.lp4xUse true else s).setAddr i img
  | 8 => s.legApply (fun m => { m.setRule i img with badRules := m.badRules.filter (· != i) })
  | _ => (s.setTab t inst i img).unpoison t inst i

/-! ### Keys (R195, R214, R230) -/

/-- Two images of a keyed table have the same key. -/
def sameKey (t x y : Nat) : Bool :=
  match t with
  | 0 => aDOMAIN x == aDOMAIN y && aMAC x == aMAC y
  | 1 => imgBytes 128 x 0 64 == imgBytes 128 y 0 64
  | _ => imgF 64 x 7 53 48 == imgF 64 y 7 53 48 && imgBytes 64 x 0 40 == imgBytes 64 y 0 40

/-- n indices from i on. -/
def waysFrom (i n : Nat) : List Nat := (List.range n).map (fun w => i + w)

/-- The indices at which the key of an image can stand; `ext` says whether the extension bucket of an address counts. -/
def keyWays (t img : Nat) (ext : Bool) : List Nat :=
  match t with
  | 0 => waysFrom (chipIx (aDOMAIN img) (aMAC img)) 8 ++ (if ext then waysFrom (extIx (aDOMAIN img) (aMAC img)) 8 else [])
  | 1 => waysFrom (4 * (crc32 (beBytes 64 (imgBytes 128 img 0 64)) % 1024)) 4
  | _ => waysFrom (4 * flowBucket (imgF 64 img 7 53 48) (beBytes 40 (imgBytes 64 img 0 40))) 4

/-- A lookup of an address key reads the extension bucket (R216). -/
def State.keyExt (s : State) (img : Nat) : Bool := s.overflow (chipIx (aDOMAIN img) (aMAC img) / 8) != 0 && s.extReady

/-- The entry with the key of an image; `bad` says whether poisoned entries count. -/
def State.keyFind (s : State) (t inst img : Nat) (bad : Bool) : Option Nat :=
  (keyWays t img (s.keyExt img)).find? (fun i => imgValid t (s.tab t inst i) && sameKey t (s.tab t inst i) img && (bad || !s.poisoned t inst i))

/-- The entry with the key of an image, else the lowest free way for it (R75). -/
def State.keySlot (s : State) (t inst img : Nat) : Option Nat :=
  match s.keyFind t inst img false with
  | some i => some i
  | none => (keyWays t img s.extReady).find? (fun i => !imgValid t (s.tab t inst i) || s.poisoned t inst i)

/-! ### Fields and reach -/

def mTAB : Nat := 0x3F * 2 ^ 32
def mINST : Nat := 7 * 2 ^ 24
/-- TABLE and INST. -/
def Ax.tbl (a : Ax) : Nat := bits a.w 37 32
def Ax.inst (a : Ax) : Nat := bits a.w 26 24

/-- TABLE names a table, and INST an instance of it (R74). -/
def Ax.tblOk (a : Ax) : Bool := decide (a.tbl ≤ 8) && (tabPerPipe a.tbl || a.inst == 0)

/-- Whether a table can be written: a RULE slot while a tree domain is on (R190), an entry of a pipe's own table while the pipe's
domain is. -/
def State.tabReach (s : State) (t inst : Nat) : Bool :=
  if t == tRULE then s.treeOn else if tabPerPipe t then s.domOn (8 + inst) else true

/-- The leaf of a rule slot's block is held by the active version of its rule set (R75, R206). -/
def State.leafActive (s : State) (slot : Nat) : Bool :=
  let m := s.leg
  let c := m.claimOf (slot / 8)
  let x := m.line (c - 1)
  c != 0 && x.owner != 0 && (match (m.ver (x.owner - 1)).active with | some v => bit x.holds v | none => false)

/-- The image that is stored for a written one: HIT is 0 (R75); a policer's LAST is the present time and its buckets are clipped (R302). -/
def State.storedImg (s : State) (t img : Nat) : Nat :=
  match t with
  | 0 => imgSet 32 img 3 62 62 0
  | 2 => imgSet 64 img 7 61 61 0
  | 3 =>
    let tc := min (signed 32 (imgF 32 img 2 63 32)) (imgF 32 img 1 55 32 : Nat)
    let tp := min (signed 32 (imgF 32 img 2 31 0)) (imgF 32 img 1 23 0 : Nat)
    imgSet 32 (imgSet 32 (imgSet 32 img 2 63 32 (wrapInt 32 tc)) 2 31 0 (wrapInt 32 tp)) 3 47 0 s.short
  | _ => img

/-- What a TWR does besides the entry: a policer's fractions are 0; a changed mirror ring starts empty (R227). -/
def State.twrBeside (s : State) (t i old img : Nat) : State :=
  match t with
  | 3 => { s with fwd := { s.fwd with polFrac := sset (fun _ => (0, 0)) s.fwd.polFrac i (0, 0) } }
  | 6 => if imgF 32 old 0 63 0 == imgF 32 img 0 63 0 && imgF 32 old 1 63 53 == imgF 32 img 1 63 53 then s
    else (s.rput Reg.FWD_MIRROR_PROD 0 0 [i]).rputBoth Reg.FWD_MIRROR_CONS 0 0 [i]
  | _ => s

/-! ### TWR -/

/-- TWR once the slot is known (R75). -/
def State.twrAt (s : State) (a : Ax) (slot img cost : Nat) : State :=
  let t := a.tbl
  let old := s.entry t a.inst slot
  let v := imgValid t old && !s.entryBad t a.inst slot
  if a.fl 55 && v then s.axDone a stBUSY cost
  else if a.fl 54 && !v then s.axDone a stNOTFOUND cost
  else if !s.layoutOk t a.inst img then s.axEnd a stRANGE cost 0
  else if t == tRULE && !s.leafActive slot then s.axDone a stREFUSED cost
  else
    let s1 := (s.setEntry t a.inst slot (s.storedImg t img)).twrBeside t slot old img
    (if tabKeyed t then s1.wg a a.ra slot else s1).axDone a stOK cost

/-- TWR (R75). -/
def execTwr (o : AxOp) (s : State) : Out :=
  .next (s.axClass o 0x30 0 (fun _ => 0) (fun w _ => okBits w (mA + mB + mTAB + mINST + m53 + m54 + m55) && !(bit w 54 && bit w 55)) (fun u a =>
    let t := a.tbl
    let cost := 6 + tabSize t / 32
    if !a.tblOk then u.axEnd a stRANGE 6 0
    else u.axRead a (a.fl 53) (u.rg a a.rb) (tabSize t) cost (fun v d =>
      let img := beNat d
      if !tabKeyed t && (decide (tabEntries t ≤ v.rg a a.ra) || (t == tEXCEPT && v.rg a a.ra == 0)) then v.axEnd a stRANGE cost 0
      else if !v.tabReach t a.inst then v.axDone a stREFUSED cost
      else match (if tabKeyed t then v.keySlot t a.inst img else some (v.rg a a.ra)) with
      | none => v.axDone a stFULL cost
      | some i => v.twrAt a i img cost)))

/-! ### TDEL -/

/-- Deletes entry i, if it is valid or poisoned (R76, R518). -/
def State.tdelAt (s : State) (a : Ax) (i : Option Nat) : State :=
  match i with
  | none => s.axDone a stNOTFOUND 4
  | some i =>
    if imgValid a.tbl (s.entry a.tbl a.inst i) || s.entryBad a.tbl a.inst i then (s.setEntry a.tbl a.inst i 0).axDone a stOK 4
    else s.axDone a stNOTFOUND 4

/-- TDEL (R76): keyed by the image at B, or indexed by A. -/
def execTdel (o : AxOp) (s : State) : Out :=
  .next (s.axClass o 0x31 0 (fun _ => 0) (fun w _ => okBits w (mTAB + mINST + m53 + (if bits w 37 32 < 3 then mB else mA))) (fun u a =>
    let t := a.tbl
    if !a.tblOk then u.axEnd a stRANGE 4 0
    else if tabKeyed t then u.axRead a (a.fl 53) (u.rg a a.rb) (tabSize t) 4 (fun v d =>
      if !v.tabReach t a.inst then v.axDone a stREFUSED 4 else v.tdelAt a (v.keyFind t a.inst (beNat d) true))
    else if tabEntries t ≤ u.rg a a.ra then u.axEnd a stRANGE 4 0
    else if !u.tabReach t a.inst then u.axDone a stREFUSED 4
    else u.tdelAt a (some (u.rg a a.ra))))

/-! ### TFIND -/

/-- Copies a found entry to B. -/
def State.tfindOut (s : State) (a : Ax) (i : Nat) : State :=
  s.axWrite a (a.fl 53) (s.rg a a.rb) (beBytes (tabSize a.tbl) (s.entry a.tbl a.inst i)) (some 11) 8 (fun v =>
    let v1 := if a.tbl == tADDR && decide (addrChip ≤ i) then v.lp4xUse false else v
    (if tabKeyed a.tbl then v1.wg a a.ra i else v1).axDone a stOK 8)

/-- TFIND (R76): a valid entry that is not poisoned, by the key at B or by index A, is copied to B. -/
def execTfind (o : AxOp) (s : State) : Out :=
  .next (s.axClass o 0x32 0 (fun _ => 0) (fun w _ => okBits w (mA + mB + mTAB + mINST + m53)) (fun u a =>
    let t := a.tbl
    if !a.tblOk then u.axEnd a stRANGE 8 0
    else if u.rg a a.rb % 8 != 0 then u.axEnd a stALIGN 8 0
    else if !u.granted a (if a.fl 53 then 10 else 11) then u.axEnd a stPERM 8 0
    else if tabKeyed t then u.axRead a (a.fl 53) (u.rg a a.rb) (tabSize t) 8 (fun v d =>
      match (if v.tabReach t a.inst then v.keyFind t a.inst (beNat d) false else none) with
      | some i => v.tfindOut a i
      | none => v.axDone a stNOTFOUND 8)
    else
      let i := u.rg a a.ra
      if tabEntries t ≤ i then u.axEnd a stRANGE 8 0
      else if u.tabReach t a.inst && imgValid t (u.entry t a.inst i) && !u.entryBad t a.inst i then u.tfindOut a i
      else u.axDone a stNOTFOUND 8))

/-! ### TAGE -/

/-- The LOCK bit and the hit bit of an image of ADDR or FLOW, and the image with the hit bit 0. -/
def ageLock (t i : Nat) : Bool := if t == 0 then aLOCK i else imgF 64 i 7 62 62 == 1
def ageHit (t i : Nat) : Bool := if t == 0 then aHIT i else imgF 64 i 7 61 61 == 1
def ageKeep (t i : Nat) : Nat := if t == 0 then imgSet 32 i 3 62 62 0 else imgSet 64 i 7 61 61 0

/-- One listed entry of an ageing pass (R76): deleted and counted, or kept with its hit bit 0. -/
def ageOne (t inst : Nat) (p : State × Nat) (i : Nat) : State × Nat :=
  let e := p.1.tab t inst i
  if !imgValid t e || p.1.poisoned t inst i then p
  else if !ageLock t e && !ageHit t e then (p.1.setEntry t inst i 0, p.2 + 1)
  else (p.1.setEntry t inst i (ageKeep t e), p.2)

/-- The listed indices of a table instance from i to i + n − 1. -/
def State.listed (s : State) (t inst i n : Nat) : List Nat :=
  ((s.tabs.map (·.1)).filter (fun k => decide (tabKey t inst i ≤ k) && decide (k < tabKey t inst i + n))).map (· - tabKey t inst 0)

/-- TAGE (R76): C ← the number of entries deleted. -/
def execTage (o : AxOp) (s : State) : Out :=
  .next (s.axClass o 0x33 0 (fun _ => 0) (fun w _ => okBits w (mA + mC + mTAB + mINST + mSEL)) (fun u a =>
    let t := a.tbl
    let i := u.rg a a.ra
    let cost := 4 + ceilDiv a.sel 16
    if !a.tblOk || !(t == tADDR || t == tFLOW) || tabEntries t < i + a.sel then u.axEnd a stRANGE 4 0
    else
      let r := if u.tabReach t a.inst then (u.listed t a.inst i a.sel).foldl (ageOne t a.inst) (u, 0) else (u, 0)
      (r.1.wg a a.rc r.2).axDone a stOK cost))

end Sys2Proof.Machine
end

