-- ==== Sys2Proof/Machine/AxSched.lean ====
section
/-! DEFINITION. Scheduling instructions (R80, R81, R291, R293, R294): the meanings of SHSET, GCL and GSWAP. -/

namespace Sys2Proof.Machine

open Sys2Proof

/-! ### SHSET -/

/-- The object of a level at an index, where the index exists (R80). -/
def objKey (level i : Nat) : Option Nat :=
  match level with
  | 0 => if i ≤ 65535 then some i else none
  | 1 => if i ≤ 8191 then some (l2Key i) else none
  | 2 => if i ≤ 1023 then some (l1Key i) else none
  | _ => if i ≤ 151 then some (portKey i) else none

/-- PARENT of a node belongs to its pipe; it is ignored for levels 0 and 3 (R80, R281). -/
def parentOk (level i p : Nat) : Bool :=
  match level with
  | 1 => decide (p ≤ 1023) && p / 128 == i / 1024
  | 2 => decide (p ≤ 151) && pipeOfPort p == i / 128
  | _ => true

/-- A burst is from 64 to 16,777,216 bytes (R80). -/
def burstOk (b : Nat) : Bool := decide (64 ≤ b) && decide (b ≤ 16777216)

/-- The values of the extension words (R80). -/
def Ax.shset (a : Ax) : ShSet :=
  ⟨bits (a.ext 0) 63 32, bits (a.ext 0) 31 0, bits (a.ext 1) 63 32, bits (a.ext 1) 31 0, bits (a.ext 2) 31 16, bits (a.ext 2) 2 0,
   bits (a.ext 2) 63 32⟩

/-- The values are in range; a port has no weight. -/
def ShSet.ok (v : ShSet) (level i : Nat) : Bool :=
  rateOk v.cir && rateOk v.eir && burstOk v.cbs && burstOk v.ebs && parentOk level i v.parent && (level == 3 || v.weight != 0)

/-- Gives an object new values (R291): they wait for its visit; a queue that is mapped to no port takes them at once. -/
def State.shset (s : State) (k : Nat) (v : ShSet) : State :=
  if k < 2 ^ 17 && !(s.q k).mapped then s.setObj k (((s.obj k).refresh s.short).install v k)
  else if s.domOn (8 + s.pipeOfObj k) then s.setObj k { s.obj k with set := some v }
  else s

/-- SHSET (R80, R281, R291). -/
def execShset (o : AxOp) (s : State) : Out :=
  .next (s.axClass o 0x48 3 (fun _ => 3) (fun w e => okBits w (mB + 3) && bits (e.getD 2 0) 15 3 == 0) (fun u a =>
    match objKey a.sel (u.rg a a.rb) with
    | none => u.axEnd a stRANGE 10 0
    | some k => if !a.shset.ok a.sel (u.rg a a.rb) then u.axEnd a stRANGE 10 0 else (u.shset k a.shset).axDone a stOK 10))

/-! ### GCL -/

/-- A gate-control entry agrees with its layout (R293). -/
def gclOk (x : Nat) : Bool :=
  bits x 55 54 != 3 && bits x 53 32 == 0 && decide (16 ≤ bits x 31 0) && decide (bits x 31 0 ≤ 1600000000)

/-- Lists entries from index i on. -/
def putEntries (m : Sparse DWord) : Nat → List Nat → Sparse DWord
  | _, [] => m
  | i, x :: r => putEntries (sset (fun _ => 0) m i (BitVec.ofNat 64 x)) (i + 1) r

/-- Entries are written to the pending bank of a port, which they disarm (R293, R294). -/
def State.gclWrite (s : State) (p i : Nat) (l : List Nat) : State :=
  let g := s.gate p
  if s.domOn (8 + pipeOfPort p) then s.setGate p { g with pend := putEntries g.pend i l, armed := false } else s

/-- GCL (R81, R293). -/
def execGcl (o : AxOp) (s : State) : Out :=
  .next (s.axClass o 0x49 3 (fun _ => 0) (fun w _ => okBits w (mB + mC + 0xFF07FF + m53)) (fun u a =>
    let n := a.sel % 2048
    let p := a.sel / 2 ^ 16
    let i := u.rg a a.rc % 1024
    let cost := 4 + 2 * n
    if 151 < p || 1024 < i + n then u.axEnd a stRANGE 4 0
    else u.axRead a (a.fl 53) (u.rg a a.rb) (8 * n) cost (fun v d =>
      let l := imagesOf 8 n d
      if l.all gclOk then (v.gclWrite p i l).axDone a stOK cost else v.axEnd a stRANGE cost 0)))

/-! ### GSWAP -/

/-- The first cycle start of R81, in 1/8 ns: base time A, or the first whole number of cycles after it that is not earlier than now. -/
def State.swapAt (s : State) (base cycle : Nat) : Nat :=
  let d := diff8 s.t8 (base * 8)
  if d ≤ 0 then base * 8 % 2 ^ 51 else (base * 8 + ceilDiv d.toNat (5 * cycle) * (5 * cycle)) % 2 ^ 51

/-- Arms the pending list of a port; a second arming replaces the first (R81). -/
def State.gswap (s : State) (p len base cycle : Nat) : State :=
  if s.domOn (8 + pipeOfPort p) then
    s.setGate p { s.gate p with armed := true, pendLen := len, pendCycle := cycle, pendBase := base, switchAt := s.swapAt base cycle }
  else s

/-- GSWAP (R81, R294): with WAIT it completes at the switch. -/
def execGswap (o : AxOp) (s : State) : Out :=
  .next (s.axClass o 0x4A 3 (fun _ => 0) (fun w _ => okBits w (mA + mB + 0xFF07FF + m53 + mTO) && toOk w)
    (fun u a =>
    let n := a.sel % 2048
    let p := a.sel / 2 ^ 16
    let c := u.rg a a.rb
    if 151 < p || n == 0 || 1024 < n || c < 16 || 1600000000 < c then u.axEnd a stRANGE 8 0
    else
      let u1 := u.gswap p n (u.rg a a.ra % 2 ^ 48) c
      if a.fl 53 then u1.axWait a (.gswap p) 8 else u1.axDone a stOK 8))

end Sys2Proof.Machine
end

