-- ==== Sys2Proof/Machine/AxSync.lean ====
section
/-! DEFINITION. Synchronisation (R50 to R53, R85): the meanings of WAITEV, WAITEV_WAKE, SIGNAL, FENCE, FENCE_DONE, BATCH, ENDBATCH,
ENDBATCH_RELEASE and ENDBATCH_DONE. -/

namespace Sys2Proof.Machine

open Sys2Proof

/-! ### WAITEV (R85) -/

/-- The side of a mailbox channel that the identity of thread t's ring holds; a ring that is bound to a group has no identity. -/
def State.ringSide (s : State) (t c : Nat) : Option Bool :=
  let i := s.ringTarget (s.thr t).ring
  if bit i 5 then none else s.sideOf c i

/-- The bits that a WAITEV reports: EMPTIED, ARRIVED and CROSSED of a mailbox side, or the status bits of its mask. -/
def State.evBits (s : State) (t sel : Nat) (mask : DWord) (mbx : Bool) : Nat :=
  if mbx then (match s.ringSide t sel with
    | some side => ((s.chan sel).side side).flags / 256 % 8
    | none => 0)
  else (s.rget Reg.EVENT_STATUS 0 [2 * sel] + 2 ^ 32 * s.rget Reg.EVENT_STATUS 0 [2 * sel + 1]) &&& mask.toNat

/-- Clears the bits that a WAITEV with CLR reports. -/
def State.evClear (s : State) (t sel v : Nat) (mbx : Bool) : State :=
  if mbx then (match s.ringSide t sel with
    | some side => let y := (s.chan sel).side side; s.setSide sel side { y with flags := y.flags &&& (0x3F00 - 256 * v) }
    | none => s)
  else (s.clearStatus (2 * sel) (v % 2 ^ 32)).clearStatus (2 * sel + 1) (v / 2 ^ 32)

/-- WAITEV's result: A ← the matching bits, cleared with CLR. -/
def State.evTake (s : State) (t ra sel v : Nat) (mbx clr : Bool) : State :=
  (if clr then s.evClear t sel v mbx else s).setG t ra (BitVec.ofNat 64 v)

/-- WAITEV (R85). -/
def execWaitev (o : AxOp) (s : State) : Out :=
  .next (s.axRun o (· == 0x60) (fun _ => 0) (fun w _ => okBits w (mA + mB + mTO + (if bit w 53 then 0 else 0x1F) + m53 + m54) && toOk w) (fun u a =>
    let mbx := a.fl 53
    let clr := a.fl 54
    let b := u.rg a a.rb
    let sel := if mbx then b % 64 else a.sel
    if !mbx && decide (17 < sel) then u.axEnd a stRANGE 2 0
    else if (mbx && (u.ringSide a.t sel).isNone) || (clr && !bit (u.rget Reg.BIND_WR_BLOCKS 0 [u.axRing a]) 3) then u.axEnd a stPERM 2 0
    else
      let v := u.evBits a.t sel (BitVec.ofNat 64 b) mbx
      if v != 0 then (u.evTake a.t a.ra sel v mbx clr).axDone a stOK 2
      else u.axWait a (.waitev a.ra sel (BitVec.ofNat 64 b) mbx clr) 2))

/-- WAITEV_WAKE (R85): a bit that a waiting WAITEV names is set. -/
def execWaitevWake (thread : Nat) (s : State) : Out :=
  .next (
    match (s.thr thread).wait with
    | some ⟨.waitev ra sel mask mbx clr, _, _, _, _⟩ =>
      let v := s.evBits thread sel mask mbx
      if thread < 8 && v != 0 then (s.evTake thread ra sel v mbx clr).endWait thread stOK else s
    | _ => s)

/-- SIGNAL (R50). -/
def execSignal (o : AxOp) (s : State) : Out :=
  .next (s.axClass o 0x61 12 (fun _ => 0) (fun w _ => okBits w 7) (fun u a => (u.raise (998 + a.sel)).axDone a stOK 1))

/-! ### FENCE (R50) -/

/-- The register writes of thread t all show in the EFFECTIVE view. -/
def State.fenced (s : State) (t : Nat) : Bool := s.allEffective (s.thr t).writes

/-- The writes of a thread that have come into use need no further watching. -/
def State.dropWrites (s : State) (t : Nat) : State := s.setThr t { s.thr t with writes := [] }

/-- FENCE (R50): every write of the thread is accepted as it is issued, so only E waits. -/
def execFence (o : AxOp) (s : State) : Out :=
  .next (s.axRun o (· == 0x62) (fun _ => 0) (fun w _ => okBits w (mTO + m53) && toOk w) (fun u a =>
    if !a.fl 53 then u.axDone a stOK 2
    else if u.fenced a.t then (u.dropWrites a.t).axDone a stOK 2
    else u.axWait a (.fence true) 2))

/-- FENCE_DONE (R50). -/
def execFenceDone (thread : Nat) (s : State) : Out :=
  .next (
    match (s.thr thread).wait with
    | some ⟨.fence _, _, _, _, _⟩ => if thread < 8 && s.fenced thread then (s.dropWrites thread).endWait thread stOK else s
    | _ => s)

/-! ### Batches (R51 to R53) -/

/-- BATCH (R51, R52): a nested one ends the program. -/
def execBatch (o : AxOp) (s : State) : Out :=
  .next (s.axRun o (· == 0x63) (fun _ => 0) (fun w _ => okBits w 0) (fun u a =>
    if (u.thr a.t).batch.isSome then (u.raise 997).axEnd a stBATCH 1 0
    else (u.setThr a.t { u.thr a.t with batch := some [] }).axDone a stOK 1))

/-- One released write, against the select registers of its issue; the Bool tells whether any write was refused. -/
def releaseOne (t : Nat) (p : State × Bool) (h : HeldWrite) : State × Bool :=
  let r := (p.1.bankIn (32 + t) h.sels).seqWrite t h.addr h.v.toNat h.m.toNat
  (r.1, p.2 || !r.2)

/-- Releases the held writes of thread t, which closes its batch (R51). -/
def State.releaseBatch (s : State) (t : Nat) : State × Bool :=
  let sels := s.bankOut (32 + t)
  let r := ((s.thr t).batch.getD []).foldl (releaseOne t) (s.setThr t { s.thr t with batch := none }, false)
  (r.1.bankIn (32 + t) sels, r.2)

/-- ENDBATCH (R51 to R53): releases at once, or at short time A with TIME; a time already past releases at once, with LATE. -/
def execEndbatch (o : AxOp) (s : State) : Out :=
  .next (s.axRun o (· == 0x64) (fun _ => 0) (fun w _ => okBits w (m53 + (if bit w 53 then mA else 0))) (fun u a =>
    let time := u.rg a a.ra % 2 ^ 48
    let late := a.fl 53 && u.reached time
    match (u.thr a.t).batch with
    | none => u.axEnd a stBATCH 2 0
    | some l =>
      if a.fl 53 && !late then u.axHold a (.endbatch (some time) false false false) 2
      else if l.isEmpty then (u.setThr a.t { u.thr a.t with batch := none }).axDone a (if late then stLATE else stOK) 2
      else
        let r := u.releaseBatch a.t
        r.1.axHold a (.endbatch none true late r.2) 2))

/-- ENDBATCH_RELEASE (R51): the release instant of a timed ENDBATCH is reached. -/
def execEndbatchRelease (thread : Nat) (s : State) : Out :=
  .next (
    match (s.thr thread).wait with
    | some ⟨.endbatch (some time) false _ _, since, dl, soft, len⟩ =>
      if thread < 8 && s.reached time then
        let r := s.releaseBatch thread
        r.1.setThr thread { r.1.thr thread with wait := some ⟨.endbatch none true false r.2, since, dl, soft, len⟩ }
      else s
    | _ => s)

/-- ENDBATCH_DONE (R51, R52): every released write has been accepted or refused: PERM where one was refused, else LATE or OK. -/
def execEndbatchDone (thread : Nat) (s : State) : Out :=
  .next (
    match (s.thr thread).wait with
    | some ⟨.endbatch _ true late refused, _, _, _, _⟩ =>
      if thread < 8 then s.endWait thread (if refused then stPERM else if late then stLATE else stOK) else s
    | _ => s)

end Sys2Proof.Machine
end

