-- ==== Sys2Proof/Machine/AxTime.lean ====
section
/-! DEFINITION. Time and power instructions (R82 to R84, R335, R354, R481): the meanings of TMSET, TMADJ, TMWAIT, TMWAIT_DONE, TMARM
and PDREQ. -/

namespace Sys2Proof.Machine

open Sys2Proof

/-- A change of time waits for a core cycle of its own (R335); while PD_MERIDIAN is off there is no counter to change. -/
def State.askChange (s : State) (a : Ax) (c : TimeChange) (cost : Nat) : State :=
  if s.domOn 41 then ({ s with mer := { s.mer with changes := s.mer.changes ++ [c] } } : State).axHold a .timeChange cost
  else s.axDone a stOK cost

/-- TMSET (R82, R336). -/
def execTmset (o : AxOp) (s : State) : Out :=
  .next (s.axClass o 0x50 4 (fun _ => 0) (fun w _ => okBits w (mA + mB + m53)) (fun u a =>
    let b := u.rg a a.rb
    let ns := bits b 47 16
    if 1000000000 ≤ ns then u.axEnd a stRANGE 12 0
    else u.askChange a ⟨a.t, u.now, 0, a.fl 53, u.rg a a.ra % 2 ^ 48, ns, b % 2 ^ 16, 0⟩ 12))

/-- TMADJ (R82, R337). -/
def execTmadj (o : AxOp) (s : State) : Out :=
  .next (s.axClass o 0x51 4 (fun _ => 0) (fun w _ => okBits w (mA + m53)) (fun u a =>
    let x := u.rg a a.ra
    let step := signed 64 x
    if a.fl 53 then
      (if x < 0x9FD70A3D || 0xA028F5C3 < x then u.axEnd a stRANGE 8 0 else u.askChange a ⟨a.t, u.now, 2, false, 0, x, 0, 0⟩ 8)
    else if 65536000000 < step.natAbs then u.axEnd a stRANGE 8 0
    else u.askChange a ⟨a.t, u.now, 1, false, 0, 0, 0, step⟩ 8))

/-- TMWAIT (R53): a time not later than now completes at once. -/
def execTmwait (o : AxOp) (s : State) : Out :=
  .next (s.axRun o (· == 0x52) (fun _ => 0) (fun w _ => okBits w (mA + mTO) && toOk w) (fun u a =>
    let t := u.rg a a.ra % 2 ^ 48
    if u.reached t then u.axDone a stOK 2 else u.axWait a (.tmwait t) 2))

/-- TMWAIT_DONE (R357): the awaited instant is reached. -/
def execTmwaitDone (thread : Nat) (s : State) : Out :=
  .next (
    match (s.thr thread).wait with
    | some ⟨.tmwait t, _, _, _, _⟩ => if thread < 8 && s.reached t then s.endWait thread stOK else s
    | _ => s)

/-- TMARM (R82, R354): SEL names the output; with DISARM the output stops, and the fields A and B are 0. -/
def execTmarm (o : AxOp) (s : State) : Out :=
  .next (s.axClass o 0x53 5 (fun _ => 0) (fun w _ => okBits w (3 + m53 + (if bit w 53 then 0 else mA + mB))) (fun u a =>
    let first := u.rg a a.ra % 2 ^ 48
    if a.fl 53 then (u.trigDisarm a.sel).axDone a stOK 6
    else if u.reached first then u.axDone a stLATE 6
    else (u.trigArm a.sel first (u.rg a a.rb)).axDone a stOK 6))

/-- What refuses a PDREQ at once (R84): FIXED, CLAIM, or PD_PCIE asked for by a ring in host memory. -/
def State.pdreqRefuser (s : State) (a : Ax) (d target : Nat) : Option Nat :=
  if d == 42 && target != 2 && !s.ron Reg.SEQ_RING_LOC 0 [s.axRing a] then some 7 else s.pdImmediate d target

/-- PDREQ (R84, R481, R482). -/
def execPdreq (o : AxOp) (s : State) : Out :=
  .next (s.axClass o 0x58 6 (fun _ => 0) (fun w _ => okBits w (0x3F03 + m53 + mTO) && toOk w) (fun u a =>
    let d := bits a.w 13 8
    let target := bits a.w 1 0
    if 44 ≤ d || target == 3 then u.axEnd a stRANGE 4 0
    else match u.pdreqRefuser a d target with
    | some r => (u.pdRefuse d r 0 0).axDone a stREFUSED 4
    | none =>
      if u.dom d == target && !u.domBusy d then (u.pdResult d 0).axDone a stOK 4
      else if a.fl 53 then (u.pdRequest d target 0).axDone a stOK 4
      else
        let req := u.nextReq + 1
        ((({ u with nextReq := req } : State).axWait a (.pdreq d req) 4).pdRequest d target req)))

end Sys2Proof.Machine
end

