-- ==== Sys2Proof/Machine/Cart.lean ====
section
/-! DEFINITION. The accounting tap and the cartouche (R432 to R450): COALESCER_SEND, TAP_UP, TAP_DOWN, CART_SEND_PROCESS,
INTERVAL_END, the requests of R444 and R445, and the cartouche's supply. -/

namespace Sys2Proof.Machine

open Sys2Proof

/-- Replaces the cartouche. -/
def State.setCart (s : State) (c : CartX) : State := { s with cart := c }

/-! ### The tap link (R434, R435) -/

/-- The link goes down: its bit and READY_MAP bit 52 clear, CART_DOWN is raised, and every coalescer discards. -/
def State.tapLinkDown (s : State) : State :=
  if s.tapUp then
    let s1 := ((s.rput Reg.TAP_LINK_UP 0).setReady 52 false).raise 1148
    let s2 := s1.setCart { s1.cart with ready := false, gap := true }
    (List.range 8).foldl (fun t n => t.tapDiscard n) s2
  else s

/-- Every coalescer sends its entries, since a main-die reset is asserted (R434). -/
def State.tapFlushAll (s : State) : State :=
  (List.range 8).foldl (fun t n =>
    if t.tapAccepts then
      let t1 := (t.tap n).entries.foldl (fun u e => u.tapSend n e) t
      t1.setTap n { t1.tap n with entries := [] }
    else t) s

/-- COALESCER_SEND (R434): the oldest entry of pipe n, if it is 100 µs old, is sent and freed; `lineHigh` is the ready line. -/
def execCoalescerSend (n : Nat) (lineHigh : Bool) (s : State) : Out :=
  .next (
    let s0 := s.setCart { s.cart with ready := lineHigh && s.cart.power && s.tapUp }
    match (s0.tap n).entries.find? (fun e => decide (e.born + 100 * us ≤ s.now)) with
    | some e =>
      if n < 8 && s0.tapAccepts then
        let s1 := s0.tapSend n e
        s1.setTap n { s1.tap n with entries := (s1.tap n).entries.filter (fun x => x.key != e.key) }
      else s0
    | none => s0)

/-- TAP_UP (R435): the cartouche raises the ready line, and the handshake completes; not in CLOCKLESS (R461). -/
def execTapUp (s : State) : Out :=
  .next (
    if s.cart.power && !s.tapUp && !s.boot.porst && !s.clockless then
      ((s.setCart { s.cart with ready := true }).rput Reg.TAP_LINK_UP 1).setReady 52 true |>.raise 1149
    else s)

/-- TAP_DOWN (R435). -/
def execTapDown (s : State) : Out := .next s.tapLinkDown

/-! ### The tenant map and the meters (R436 to R438) -/

/-- The generation in force, and its number (R439). -/
def CartX.gen (c : CartX) : Gen := c.gens.getLast?.getD {}

/-- A map entry matches a key (R437). -/
def mapHits (e : Nat) (k : TokKey) : Bool :=
  bit e 31 && bits e 28 21 == k.port &&
  (bit e 30 || (if bit e 29 then k.tag == 0 else k.tag == 1 + bits e 20 9))

/-- The tenant of a send's key: that of the lowest-indexed matching entry whose tenant is enabled (DEDUCED, log entry 42). -/
def Gen.tenantOf (g : Gen) (k : TokKey) : Option Nat :=
  (g.map.find? (fun e => mapHits e.2 k && bit g.tenantEn (bits e.2 8 5))).map (fun e => bits e.2 8 5)

/-- Adds to a meter. -/
def addTo (m : Sparse Nat) (k n w : Nat) : Sparse Nat := sset (fun _ => 0) m k ((sget (fun _ => 0) m k + n) % 2 ^ w)

/-- Adds a send to the meters (R438): 16 × tenant + row, the device meters being tenant 16. -/
def CartX.account (c : CartX) (x : Send) : CartX :=
  let who : Nat × Nat := match x.key with
    | none => (16, 8 * x.dir)
    | some k => match c.gen.tenantOf k with
      | some t => (t, 8 * k.dir + k.cls)
      | none => (16, 8 * k.dir + 1)
  if x.carried then { c with bytes := addTo c.bytes (16 * who.1 + who.2) x.bytes 80, frames := addTo c.frames (16 * who.1 + who.2) x.frames 64 }
  else { c with uncarried := addTo c.uncarried (2 * who.1 + x.dir) x.frames 64 }

/-- CART_SEND_PROCESS (R436): the oldest received send is processed. -/
def execCartSendProcess (s : State) : Out :=
  .next (match s.cart.sends with
    | x :: r => if s.cart.power then s.setCart (({ s.cart with sends := r } : CartX).account x) else s
    | [] => s)

/-! ### Records (R442, R443) -/

/-- Bytes 40 to 343 of a record of tenant t, 16 being the device (R443). -/
def CartX.meterBytes (c : CartX) (t : Nat) : List Byte :=
  (List.range 16).flatMap (fun r => beBytes 10 (sget (fun _ => 0) c.bytes (16 * t + r)) ++ beBytes 8 (sget (fun _ => 0) c.frames (16 * t + r))) ++
  beBytes 8 (sget (fun _ => 0) c.uncarried (2 * t)) ++ beBytes 8 (sget (fun _ => 0) c.uncarried (2 * t + 1))

/-- Bytes 0 to 351 of a record. -/
def CartX.recordBody (c : CartX) (t endT : Nat) : List Byte :=
  let flags := b2n c.start + 2 * b2n (bit c.lossFor t) + 4 * b2n c.gap + 8 * b2n c.paramNew
  [if t == 16 then 2#8 else 1#8, BitVec.ofNat 8 ((if t == 16 then 0 else t) * 16 + flags), BitVec.ofNat 8 c.gens.length, 0#8] ++
  beBytes 4 c.seq ++ beBytes 8 Config.meterId ++ beBytes 4 Config.romId ++ beBytes 4 c.audit ++ beBytes 6 endT ++
  beBytes 2 c.gen.interval ++ beBytes 8 c.hostTag ++ c.meterBytes t ++ List.replicate 8 0#8

/-- Produces the record of tenant t. Without a key the MAC is a free value. -/
def State.cartRecord (s : State) (t endT : Nat) : State :=
  let c := s.cart
  let body := c.recordBody t endT
  let free := (List.range 4).flatMap (fun i => beBytes 8 (Config.freeWord (s.fresh + i)).toNat)
  let mac := match c.key with | some k => hmac256 k body | none => free
  let s1 : State := if c.key.isSome then s else { s with fresh := s.fresh + 4 }
  s1.setCart { c with records := sins c.records (c.seq % 1024) (body ++ mac), seq := (c.seq + 1) % 2 ^ 32, lossFor := setBit c.lossFor t false }

/-- An interval ends at operating time t (R442): the records of the enabled tenants, then the device record. -/
def State.cartInterval (s : State) (t : Nat) : State :=
  let ts := (List.range 16).filter (fun i => bit s.cart.gen.tenantEn i) ++ [16]
  let s1 := ts.foldl (fun u i => u.cartRecord i t) s
  s1.setCart { s1.cart with start := false, gap := !s.tapUp, paramNew := false, lastEnd := t }

/-- The operating time advances. -/
def State.cartClock (s : State) (op : Nat) : State := s.setCart { s.cart with opTime := max s.cart.opTime (op % 2 ^ 48) }

/-- The operating time at which the current interval ends. -/
def CartX.nextEnd (c : CartX) : Nat :=
  let i := 60 * c.gen.interval
  c.gen.origin + ((c.lastEnd - c.gen.origin) / i + 1) * i

/-- INTERVAL_END (R442): the operating time, now `op`, has reached the end of the interval. -/
def execIntervalEnd (op : Nat) (s : State) : Out :=
  .next (
    let s1 := s.cartClock op
    if s.cart.power && decide (s1.cart.nextEnd ≤ s1.cart.opTime) then s1.cartInterval s1.cart.nextEnd
    else if s.cart.power then s1 else s)

/-! ### Requests (R444 to R447) -/

/-- The header and payload of a request as bytes: a METER frame with a good CRC, or the message on channel 63. -/
def State.cartReq (s : State) (r : CartReq) : Option (List Byte) :=
  if !s.cart.power then none
  else match r with
  | .meter f =>
    let d := f.take (f.length - 2)
    if 6 ≤ f.length ∧ crc16 d = beNat (f.drop (f.length - 2)) then some d else none
  | .mailbox =>
    let y := (s.chan 63).a
    if y.full then
      let w (i : Nat) : List Byte := beBytes 4 (sget (fun _ => 0) y.slot i).toNat
      some (w 0 ++ ((List.range 15).flatMap (fun i => w (i + 1))).take (beNat (slice (w 0) 3 1)))
    else none

/-- The reply (R444, R446, R447): a header with the status, and the part of the result that CHUNK names; a METER frame with its
CRC, or a post of side B without WAIT. -/
def State.cartReply (s : State) (r : CartReq) (cmd status chunk : Nat) (result : List Byte) : State :=
  let part := (result.drop (60 * chunk)).take 60
  let d := [BitVec.ofNat 8 cmd, BitVec.ofNat 8 status, BitVec.ofNat 8 chunk, BitVec.ofNat 8 part.length] ++ part
  match r with
  | .meter _ => s.setCart { s.cart with reply := d ++ beBytes 2 (crc16 d) }
  | .mailbox =>
    let ws := (List.range 16).foldl (fun m i => sset (fun _ => (0 : Word)) m i (BitVec.ofNat 32 (beNat (slice d (4 * i) 4)))) []
    let y := (s.chan 63).b
    (s.setSide 63 false { y with stage := ws }).mbxPost ⟨20, 0⟩ 63 false 1

/-- Status values (R444). -/
def csOK : Nat := 0
def csNOT_FOUND : Nat := 1
def csREFUSED : Nat := 2
def csFORMAT : Nat := 3

/-- Serves a request of command `cmd`: FORMAT where STATUS, LEN or CHUNK break the layout (R445), else what `act` answers:
status, result, cartouche. A message on channel 63 is read before the reply. -/
def State.cartServe (s : State) (r : CartReq) (cmd : Nat) (lenOk : List Byte → Bool) (size : List Byte → Nat)
    (act : State → List Byte → Nat × List Byte × State) : State :=
  match s.cartReq r with
  | none => s
  | some d =>
    if beNat (slice d 0 1) != cmd then s
    else
      let s0 := match r with | .mailbox => s.rxWord0 ⟨20, 0⟩ 63 false | .meter _ => s
      let chunk := beNat (slice d 2 1)
      let p := d.drop 4
      let ok := beNat (slice d 1 1) == 0 && beNat (slice d 3 1) == p.length && lenOk p &&
        (if size p == 0 then chunk == 0 else decide (60 * chunk < size p))
      if !ok then s0.cartReply r cmd csFORMAT chunk []
      else
        let a := act s0 p
        if a.1 == csOK then a.2.2.cartReply r cmd csOK chunk a.2.1 else s0.cartReply r cmd a.1 chunk []

/-- Field of a payload. -/
def pf (p : List Byte) (i n : Nat) : Nat := beNat (slice p i n)

/-- The key check value of a key (R444). -/
def kcvOf (k : List Byte) : Nat := beNat ((hmac256 k (List.replicate 32 0#8)).take 4)

/-- The level of CART_PROG; going low ends the session (R440). -/
def State.cartPin (s : State) (high : Bool) : State :=
  s.setCart { s.cart with prog := high, session := if high then s.cart.session else none }

/-- The oldest and newest record numbers in the store. -/
def CartX.range (c : CartX) : Nat × Nat :=
  if c.records.isEmpty then (0xFFFFFFFF, 0xFFFFFFFF)
  else ((c.seq + 2 ^ 32 - c.records.length) % 2 ^ 32, (c.seq + 2 ^ 32 - 1) % 2 ^ 32)

/-- IDENT (R444, R445): `op` is the operating time, `prog` the level of CART_PROG. -/
def execIdent (r : CartReq) (op : Nat) (prog : Bool) (s : State) : Out :=
  .next (if !s.cart.power then s else
    ((s.cartClock op).cartPin prog).cartServe r 0x01 (·.isEmpty) (fun _ => 40) (fun t _ =>
    let c := t.cart
    (csOK, beBytes 8 Config.meterId ++ beBytes 4 Config.romId ++ [BitVec.ofNat 8 c.gens.length,
      BitVec.ofNat 8 (b2n c.prog + 2 * b2n c.session.isSome + 4 * b2n c.key.isSome), 0#8, 0#8] ++ beBytes 4 c.audit ++
      beBytes 4 (match c.key with | some k => kcvOf k | none => 0) ++ beBytes 4 c.range.1 ++ beBytes 4 c.range.2 ++ beBytes 6 c.opTime ++
      [0#8, 0#8], t)))

/-- The record of a sequence number, while the store still holds it (R441). -/
def CartX.findRecord (c : CartX) (q : Nat) : Option (List Byte) :=
  let back := (c.seq + 2 ^ 32 - q) % 2 ^ 32
  if 1 ≤ back ∧ back ≤ c.records.length then some (sget (fun _ => []) c.records (q % 1024)) else none

/-- The answer to READ_RECORD. -/
def recordAnswer (o : Option (List Byte)) (t : State) : Nat × List Byte × State :=
  (if o.isSome then csOK else csNOT_FOUND, o.getD [], t)

/-- READ_RECORD (R444). -/
def execReadRecord (r : CartReq) (s : State) : Out :=
  .next (s.cartServe r 0x02 (·.length == 4) (fun _ => 384) (fun t p =>
    recordAnswer (t.cart.findRecord (pf p 0 4)) t))

/-- READ_METERS (R444). -/
def execReadMeters (r : CartReq) (s : State) : Out :=
  .next (s.cartServe r 0x03 (fun p => p.length == 1 && decide (pf p 0 1 ≤ 16)) (fun _ => 304) (fun t p => (csOK, t.cart.meterBytes (pf p 0 1), t)))

/-- TIME_TAG (R443, R444). -/
def execTimeTag (r : CartReq) (s : State) : Out :=
  .next (s.cartServe r 0x04 (·.length == 8) (fun _ => 0) (fun t p => (csOK, [], t.setCart { t.cart with hostTag := pf p 0 8 })))

/-- READ_PARAMS (R445). -/
def execReadParams (r : CartReq) (s : State) : Out :=
  .next (s.cartServe r 0x05 (fun p => p.length == 4 && pf p 1 1 == 0 && decide (pf p 2 2 ≤ 4095)) (fun p => 12 + 4 * min 12 (4096 - pf p 2 2)) (fun t p =>
    if t.cart.gens.length < pf p 0 1 then (csNOT_FOUND, [], t)
    else
      let g := if pf p 0 1 == 0 then {} else t.cart.gens.getD (pf p 0 1 - 1) {}
      let n := min 12 (4096 - pf p 2 2)
      (csOK, beBytes 1 g.meterIf ++ beBytes 1 g.interval ++ beBytes 2 g.tenantEn ++ beBytes 6 g.origin ++ beBytes 2 (pf p 2 2) ++
        (List.range n).flatMap (fun i => beBytes 4 (sget (fun _ => 0) g.map (pf p 2 2 + i))), t)))

/-- A programming command other than PROG_OPEN: REFUSED on channel 63 and where no session is open (R440, R445). -/
def progDo (r : CartReq) (t : State) (f : Session → Nat × State) : Nat × List Byte × State :=
  match r, t.cart.session with
  | .meter _, some x => let a := f x; (a.1, [], a.2)
  | _, _ => (csREFUSED, [], t)

/-- PROG_OPEN (R440, R441): `prog` is the level of CART_PROG. -/
def execProgOpen (r : CartReq) (prog : Bool) (s : State) : Out :=
  .next (if !s.cart.power then s else
    (s.cartPin prog).cartServe r 0x10 (·.isEmpty) (fun _ => 0) (fun t _ =>
    let c := t.cart
    if r == .mailbox || !c.prog || c.session.isSome || 256 ≤ c.audit then (csREFUSED, [], t)
    else (csOK, [], t.setCart { c with session := some { img := c.gen }, audit := c.audit + 1 })))

/-- A map entry keeps its layout (R437, R445). -/
def mapEntryOk (e : Nat) : Bool :=
  bits e 4 0 == 0 && decide (bits e 28 21 ≤ 127) && !((bit e 30 || bit e 29) && bits e 20 9 != 0)

/-- PROG_MAP (R445). -/
def execProgMap (r : CartReq) (s : State) : Out :=
  .next (s.cartServe r 0x11 (fun p =>
      let n := pf p 2 1
      decide (4 ≤ p.length) && decide (1 ≤ n) && decide (n ≤ 14) && p.length == 4 + 4 * n && pf p 3 1 == 0 && decide (pf p 0 2 + n ≤ 4096) &&
      (List.range n).all (fun i => mapEntryOk (pf p (4 + 4 * i) 4))) (fun _ => 0) (fun t p =>
    progDo r t (fun x =>
      let m := (List.range (pf p 2 1)).foldl (fun m i => sset (fun _ => 0) m (pf p 0 2 + i) (pf p (4 + 4 * i) 4)) x.img.map
      (csOK, t.setCart { t.cart with session := some { x with img := { x.img with map := m } } }))))

/-- PROG_PARAM (R445). -/
def execProgParam (r : CartReq) (s : State) : Out :=
  .next (s.cartServe r 0x12 (fun p => p.length == 4 && decide (pf p 0 1 ≤ 1) && decide (1 ≤ pf p 1 1) && decide (pf p 1 1 ≤ 60)) (fun _ => 0) (fun t p =>
    progDo r t (fun x =>
      let g : Gen := { x.img with meterIf := pf p 0 1, interval := pf p 1 1, tenantEn := pf p 2 2 }
      (csOK, t.setCart { t.cart with session := some { x with img := g } }))))

/-- PROG_KEY (R440, R445). -/
def execProgKey (r : CartReq) (s : State) : Out :=
  .next (s.cartServe r 0x13 (fun p => p.length == 36 && pf p 32 4 == kcvOf (p.take 32)) (fun _ => 0) (fun t p =>
    progDo r t (fun x =>
      if t.cart.key.isSome || x.key.isSome then (csREFUSED, t)
      else (csOK, t.setCart { t.cart with session := some { x with key := some (p.take 32) } }))))

/-- PROG_COMMIT (R440): `op` is the operating time. -/
def execProgCommit (r : CartReq) (op : Nat) (s : State) : Out :=
  .next (if !s.cart.power then s else
    (s.cartClock op).cartServe r 0x14 (·.isEmpty) (fun _ => 0) (fun t _ =>
    progDo r t (fun x =>
      if 16 ≤ t.cart.gens.length then (csREFUSED, t)
      else
        let t1 := t.cartInterval t.cart.opTime
        (csOK, t1.setCart { t1.cart with
          gens := t1.cart.gens ++ [{ x.img with origin := t.cart.opTime }], key := if x.key.isSome then x.key else t1.cart.key,
          audit := min 256 (t1.cart.audit + 1), paramNew := true, session := some { x with key := none } }))))

/-- PROG_CLOSE (R440). -/
def execProgClose (r : CartReq) (s : State) : Out :=
  .next (s.cartServe r 0x15 (·.isEmpty) (fun _ => 0) (fun t _ =>
    progDo r t (fun _ => (csOK, t.setCart { t.cart with session := none }))))

/-- CART_PROG_LOW (R440): CART_PROG goes low, which ends any session. -/
def execCartProgLow (s : State) : Out := .next (s.cartPin false)

/-! ### Supply (R448) -/

/-- VDD_CART_LOSS (R448, R440): meters, sends and any session are lost; the tap link goes down. -/
def execVddCartLoss (s : State) : Out :=
  .next (
    if !s.cart.power then s
    else
      let s1 := s.tapLinkDown
      s1.setCart { s1.cart with power := false, ready := false, sends := [], bytes := [], frames := [], uncarried := [], session := none,
                                hostTag := 0, reply := [] })

/-- The newest record of tenant t (16: the device) in the store, looking back over n records. -/
def CartX.newest (c : CartX) (t : Nat) : Nat → Nat → Option (List Byte)
  | 0, _ => none
  | n + 1, q =>
    let d := sget (fun _ => []) c.records (q % 1024)
    if (t == 16 && pf d 0 1 == 2) || (t != 16 && pf d 0 1 == 1 && pf d 1 1 / 16 == t) then some d else c.newest t n ((q + 2 ^ 32 - 1) % 2 ^ 32)

/-- The meters of tenant t restored from a record. -/
def CartX.restore (c : CartX) (t : Nat) (d : List Byte) : CartX :=
  let c1 := (List.range 16).foldl (fun x r => { x with bytes := addTo x.bytes (16 * t + r) (pf d (40 + 18 * r) 10) 80,
                                                         frames := addTo x.frames (16 * t + r) (pf d (50 + 18 * r) 8) 64 }) c
  { c1 with uncarried := addTo (addTo c1.uncarried (2 * t) (pf d 328 8) 64) (2 * t + 1) (pf d 336 8) 64 }

/-- VDD_CART_RISE (R448, R447): meters and operating time come back from the newest records, the next records carry START and
SUPPLY_LOSS, and the cartouche's identity is reset. -/
def execVddCartRise (s : State) : Out :=
  .next (
    if s.cart.power then s
    else
      let c := s.cart
      let last := (c.seq + 2 ^ 32 - 1) % 2 ^ 32
      let e := if c.records.isEmpty then 0 else pf (sget (fun _ => []) c.records (last % 1024)) 24 6
      let c1 := (List.range 17).foldl (fun x t => match c.newest t c.records.length last with
        | some d => x.restore t d
        | none => x) { c with power := true, opTime := e, lastEnd := e, start := true, lossFor := 2 ^ 17 - 1, gap := true, paramNew := false }
      (s.setCart c1).resetIdentity 20)

end Sys2Proof.Machine
end

