-- ==== Sys2Proof/Machine/Power.lean ====
section
/-! DEFINITION. Power domains (chapter 20): what a domain loses and resumes, the power controller, the regulator; the meanings of
PD_REQ_GO to AVS_LOWER_ACK. -/

namespace Sys2Proof.Machine

open Sys2Proof

/-! ### The registers of a domain -/

/-- The order in which rises start (R483). -/
def startOrder : List Nat :=
  [41, 31, 32, 33, 34, 35, 36, 37, 38, 25, 26, 24] ++ (List.range 8).map (· + 16) ++ (List.range 8).map (· + 8) ++ List.range 8 ++
  [27, 28, 29, 30, 39, 40, 42, 43]

/-- The block instances with written registers that domain d governs (R90). -/
def domInsts (d : Nat) : List (Nat × Nat) :=
  if d < 8 then
    (List.range 16).map (fun i => (6, 16 * d + i)) ++ (if d == 0 then [] else [(6, d)]) ++
    (if d == 0 then (List.range 16).map (fun i => (7, i)) else if d == 1 then (List.range 8).map (fun i => (7, 16 + i)) else [])
  else if d < 16 then (8, d - 8) :: (if d == 8 then [] else [(10, 0)]) ++ (portsOfPipe (d - 8)).map (fun p => (10, p))
  else if d < 24 then [(9, d - 16)]
  else if d == 24 then [(9, 0)]
  else if 27 ≤ d ∧ d < 31 then [(11, 0)]
  else if 31 ≤ d ∧ d < 39 then [(13, d - 31)]
  else if d == 41 then [(12, 0)] else []

/-! ### Off: what a domain loses (R275, R358, R476, R477) -/

/-- Basket b loses its frames, loans and contexts; allocation, mapping and pins stay (R275). -/
def State.basketOff (s : State) (b : Nat) : State :=
  let mine := s.queues.filter (fun e => s.queueBasket e.1 == b)
  let items := mine.flatMap (fun e => e.2.oc ++ e.2.pend ++ e.2.lp) ++ (s.pager b).staged ++
    (s.ports.flatMap (fun e => (e.2.ready.map (·.2)).filter (fun i => i.b == b)))
  let s1 := mine.foldl (fun t e =>
    if isFixed e.1 then t.setQ e.1 (queueDflt e.1)
    else
      let x := t.q e.1
      t.setQ e.1 { x with resident := false, paging := false, fresh := true, spilling := false, slot := 0, oc := [], pend := [], lp := [], enq := 0, deq := 0 }) s
  let gone := (s1.copies.filter (fun e => e.1 % 8 == b)).map (fun e => e.1 / 8)
  let s2 : State := { s1 with
    copies := sfilter (fun k => k % 8 != b) s1.copies
    creel := sdel s1.creel b
    pagers := sdel s1.pagers b
    ports := smap (fun _ => {}) (fun _ x => { x with ready := x.ready.filter (fun e => e.2.b != b) }) s1.ports }
  ((gone ++ items.map (·.f)).eraseDups).foldl (fun t f => t.reap f) s2

/-- The structures of pipe n are lost (R477). -/
def State.pipeOff (s : State) (n : Nat) : State :=
  let ownObj (k : Nat) : Bool :=
    if 2 ^ 19 ≤ k then pipeOfPort (k - 2 ^ 19) == n
    else if 2 ^ 18 ≤ k then (k - 2 ^ 18) / 128 == n else if 2 ^ 17 ≤ k then (k - 2 ^ 17) / 1024 == n else false
  let ownTab (k : Nat) : Bool := (k / 2 ^ 40 == tEXPRESS || k / 2 ^ 40 == tFLOW || k / 2 ^ 40 == 20) && k / 2 ^ 32 % 256 == n
  { s with
    surveys := sdel s.surveys n
    pipes := sdel s.pipes n
    taps := sdel s.taps n
    gates := sfilter (fun p => pipeOfPort p != n) s.gates
    objs := sfilter (fun k => !ownObj k) s.objs
    rounds := sfilter (fun k => !ownObj (k / 8)) s.rounds
    tabs := sfilter (fun k => !ownTab k) s.tabs
    poison := s.poison.filter (fun k => !ownTab k)
    ruleCnt := sfilter (fun k => k / 2 ^ 16 != n) s.ruleCnt
    fwd := { s.fwd with tokens := sdel s.fwd.tokens n } }

/-- The bytes of controller n's DRAM are lost (R467: usable address a lies in controller (a ÷ 256) mod W). -/
def State.dramOff (s : State) (n : Nat) : State :=
  let w := s.lp4xWays
  { s with mem := sfilter (fun k => !(decide (lp4xKey 0 ≤ k) && w != 0 && (k - lp4xKey 0) / 256 % w == n)) s.mem }

/-- The registers of domain d take their reset values. -/
def State.loseRegs (s : State) (d : Nat) : State :=
  { s with
    regs := sfilter (fun k => State.cellDomain (keyBlk k) (keyInst k) (keyOff k) != some d || keyBlk k == 18) s.regs
    failed := s.failed.filter (fun k => State.cellDomain (keyBlk k) (keyInst k) (keyOff k) != some d) }

/-- Domain d goes off: its registers take their reset values and its structures are lost. -/
def State.loseDomain (s : State) (d : Nat) : State :=
  let s0 := s.loseRegs d
  if d < 8 then { s0 with
    ports := sfilter (fun p => p / 16 != d) s0.ports
    lanes := sfilter (fun l => (if l < 16 then 0 else 1) != d) s0.lanes }
  else if d < 16 then s0.pipeOff (d - 8)
  else if d < 24 then s0.basketOff (d - 16)
  else if d == 24 then { s0 with slath := {} }
  else if d == 25 || d == 26 then
    let l := s0.legend
    let l1 : LegendX := if d == 25 then { l with m0 := {} } else { l with m1 := {} }
    { s0 with legend := if s0.dom (51 - d) == 0 then { l1 with m0 := {}, m1 := {}, drafts := [] } else l1 }
  else if 27 ≤ d ∧ d < 31 then { s0 with plait := sfilter (fun x => x / 64 != d - 27) s0.plait, plaitIn := sdel s0.plaitIn (d - 27) }
  else if 31 ≤ d ∧ d < 39 then s0.dramOff (d - 31)
  else if d == 41 then { s0 with mer := {} }
  else s0

/-! ### Reaching on (R97, R189, R327, R358, R395, R468) -/

/-- What a domain does besides when it reaches on; `ret` says that it comes from retention. -/
def State.resumeDomain (s : State) (d : Nat) (ret : Bool) : State :=
  if d == 25 then (if s.domOn 26 then { s with legend := { s.legend with m0 := s.legend.m1 } } else s)
  else if d == 26 then (if s.domOn 25 then { s with legend := { s.legend with m1 := s.legend.m0 } } else s)
  else if 8 ≤ d ∧ d < 16 then (if ret then s else s.loadSupplied (d - 8))
  else if 27 ≤ d ∧ d < 31 then
    if ret then { s with plait := smap (fun _ => {}) (fun x c =>
        if x / 64 == d - 27 then { c with wins := [], busy := [], earlyBefore := some s.short } else c) s.plait }
    else s
  else if 31 ≤ d ∧ d < 39 then
    (let n := d - 31
     if ret then s else if n < s.lp4xWays then s.trainStart n else s)
  else if d == 39 || d == 40 then s.cplxOn (d - 39)
  else if d == 41 then (if ret then s.rput Reg.MERID_TIME_VALID 0 else s)
  else s

/-- Domain d is on: fields that apply at "write" come into use, held actions are performed (R97), and the domain resumes. -/
def State.arriveOn (s : State) (d : Nat) (ret : Bool) : State :=
  let s1 := s.rput Reg.POWER_STATE 2 d
  let s2 := if ret then (domInsts d).foldl (fun t e => t.boundaryOn .write e.1 e.2 0) s1 else s1
  let h := (s2.domx d).heldActions
  let s3 := h.foldl (fun t x => t.heldDone x) (s2.setDomx d { s2.domx d with heldActions := [] })
  s3.resumeDomain d ret

/-- Domain d leaves on for state t: READY_MAP bits whose condition ends clear, enables are held, ports and complexes follow. -/
def State.leaveOn (s : State) (d t : Nat) : State :=
  let s1 := s.rput Reg.POWER_STATE t d
  let s2 := s1.dropUnready
  let s3 := (domInsts d).foldl (fun u e => s.enablesOut u e.1 e.2) s2
  let s4 := if d < 8 then (List.range 16).foldl (fun u i =>
      let p := 16 * d + i
      (u.linkTo p 0).setPx p { (u.linkTo p 0).px p with closing := false }) s3 else s3
  let s5 := if d == 39 || d == 40 then s4.cplxOff (d - 39) else s4
  if 8 ≤ d ∧ d < 16 then s5.setPipe (d - 8) { s5.pipe (d - 8) with inject := [] }
  else if 27 ≤ d ∧ d < 31 then
    let l := sget (fun _ => []) s5.plaitIn (d - 27)
    l.foldl (fun u x => u.reap x.f) { s5 with plaitIn := sdel s5.plaitIn (d - 27) }
  else s5

/-! ### The regulator (R487) -/

/-- The commanded voltage of a rail. -/
def State.volt (s : State) (r : Nat) : Nat := if r == 0 then s.rget Reg.POWER_VOLT_CORE else s.rget Reg.POWER_VOLT_SRAM

/-- A voltage request is sent for rail r. -/
def State.askVolt (s : State) (r v : Nat) : State :=
  (if r == 0 then s.rput Reg.POWER_VOLT_CORE v else s.rput Reg.POWER_VOLT_SRAM v).cinc Reg.POWER_CNT 0 [0]

/-- A rise of d still needs rail r to be raised. -/
def State.needsRail (s : State) (d r : Nat) : Bool := decide ((s.rail r).mv < Config.fusedOn d r)

/-- A rise that needs no voltage any more closes its switch (R484). -/
def State.railsMet (s : State) (d : Nat) : State :=
  let x := s.domx d
  if x.phase == .avs && !s.needsRail d 0 && !s.needsRail d 1 then s.setDomx d { x with phase := .switch, since := s.now, avsDone := true } else s

/-- A rail without an outstanding request serves the first rise that needs it, else lowers the voltage to a lower target. -/
def State.serveRail (s : State) (r : Nat) : State :=
  if !s.ron Reg.POWER_AVS_EN || (s.rail r).busy then s
  else match startOrder.find? (fun d => (s.domx d).phase == .avs && s.needsRail d r) with
    | some d =>
      let s1 := (s.askVolt r (s.railTarget r (some d))).setRail r { s.rail r with busy := true, forDom := some d, lowering := false }
      s1.setDomx d { s1.domx d with since := s1.now }
    | none =>
      let v := s.railTarget r none
      if v < s.volt r then (s.askVolt r v).setRail r { busy := true, lowering := true, mv := v } else s

/-- Both rails. -/
def State.serveRails (s : State) : State := (s.serveRail 0).serveRail 1

/-- AVS_ACK (R484, R487): the regulator reports the commanded voltage reached, or (`good` false) a fault, which counts as no
acknowledgement. -/
def execAvsAck (rail : Nat) (good : Bool) (s : State) : Out :=
  .next (
    let x := s.rail rail
    match x.forDom with
    | some _ =>
      if rail < 2 && x.busy && good then
        let s1 := s.setRail rail { x with busy := false, forDom := none, mv := s.volt rail }
        (startOrder.foldl (fun t d => t.railsMet d) s1).serveRails
      else s
    | none => s)

/-- AVS_LOWER_ACK (R487): the acknowledgement of a lowered voltage arrives, or does not. -/
def execAvsLowerAck (rail : Nat) (good : Bool) (s : State) : Out :=
  .next (
    let x := s.rail rail
    if rail < 2 && x.busy && x.lowering then
      let s1 := s.setRail rail { x with busy := false, lowering := false }
      let s2 := if good then s1 else (s1.raise 1084).cinc Reg.POWER_CNT 0 [1]
      s2.serveRails
    else s)

/-! ### Starts (R478, R483 to R485) -/

/-- A transition of d to t is in progress. -/
def State.inProgress (s : State) (d t : Nat) (ph : DomPhase) (waits : List Nat) : State :=
  let q := (s.domx d).qReq
  let s1 := (s.pdUnqueue d).setDomx d { (s.pdUnqueue d).domx d with
    phase := ph, since := s.now, source := s.dom d, avsDone := false, waitsFor := waits, iReq := q }
  (s1.rput Reg.POWER_BUSY 1 d).rput Reg.POWER_IN_TARGET t d

/-- A rise starts (R484 step 2). -/
def State.startRise (s : State) (d : Nat) : State :=
  if s.ron Reg.POWER_AVS_EN then ((s.inProgress d 2 .avs []).railsMet d).serveRails
  else
    let s1 := s.inProgress d 2 .switch []
    s1.setDomx d { s1.domx d with avsDone := true }

/-- A fall starts (R485 step 1): the ports of a port group leave UP. -/
def State.startFall (s : State) (d t : Nat) : State :=
  let s1 := s.inProgress d t .drain ((dependents d).filter s.falling)
  if d < 8 then (List.range 16).foldl (fun u i => if u.portUp (16 * d + i) then u.linkTo (16 * d + i) (u.anOrLock (16 * d + i)) else u) s1 else s1

/-- A queued target that the state already meets is complete. -/
def State.pdComplete (s : State) (d : Nat) : State :=
  let q := (s.domx d).qReq
  ((s.pdUnqueue d).pdResult d 0).endPdreq q stOK

/-- A queued target is refused. -/
def State.pdRefuseQueued (s : State) (d refuser dom : Nat) : State :=
  let q := (s.domx d).qReq
  (s.pdUnqueue d).pdRefuse d refuser dom q

/-- One queued target below on (R476, R478). -/
def State.tryFall (s : State) (d : Nat) : State :=
  let t := s.rget Reg.POWER_QUEUED d
  if !s.ron Reg.POWER_QUEUED_V d || s.domBusy d || 2 ≤ t then s
  else if s.dom d == t then s.pdComplete d
  else if s.dom d == 0 then s.pdRefuseQueued d 10 0
  else match s.fallRefuser d with
    | some (r, x) => s.pdRefuseQueued d r x
    | none => s.startFall d t

/-- One queued target of on (R478, R479): refused for a missing prerequisite, started when all are on, else it waits. -/
def State.tryRise (s : State) (d : Nat) : State :=
  if !s.ron Reg.POWER_QUEUED_V d || s.domBusy d || s.rget Reg.POWER_QUEUED d != 2 then s
  else if s.dom d == 2 then s.pdComplete d
  else match (prereqs d).filter (fun x => !s.onOrRising x) with
    | x :: r => s.pdRefuseQueued d 1 (r.foldl min x)
    | [] => if (prereqs d).all (fun x => s.domOn x && !s.falling x) then s.startRise d else s

/-- POWER_CONTROLLER_CYCLE (R483): falls in reverse start order, then rises in start order. -/
def execPowerControllerCycle (s : State) : Out :=
  .next (if s.boot.porst || s.clockless then s
    else startOrder.foldl (fun t d => t.tryRise d) (startOrder.reverse.foldl (fun t d => t.tryFall d) s))

/-! ### Steps of a transition (R484 to R486) -/

/-- The work in flight of a domain is complete (R485). -/
def State.domIdle (s : State) (d : Nat) : Bool :=
  if s.dom d != 2 then true
  else if d < 8 then (List.range 16).all (fun i => let x := s.px (16 * d + i); x.rx.isNone && x.tx.isNone && x.pre.isNone)
  else if d < 16 then
    (s.pipe (d - 8)).toIssue.isEmpty && s.frames.all (fun e => e.2.pipe != d - 8 || !(e.2.stage == 0 || e.2.stage == 1 || e.2.stage == 3))
  else if d < 24 then
    s.copies.all (fun e => e.1 % 8 != d - 16 || e.2.k ≤ e.2.written || e.2.loc != 0) &&
    s.ports.all (fun e => match e.2.tx with | some t => t.kind != 0 || t.item.b != d - 16 | none => true)
  else if d == 24 then s.slath.ins.all (fun e => e.2.mc.isEmpty && e.2.uc.all (fun q => q.2.isEmpty))
  else true

/-- FALL_DRAIN_DONE (R485): the function is idle and every fall it waits for is complete: the switch opens. -/
def execFallDrainDone (d : Nat) (s : State) : Out :=
  .next (
    let x := s.domx d
    if d < 44 && x.phase == .drain && x.waitsFor.isEmpty && s.domIdle d then s.setDomx d { x with phase := .fallSwitch } else s)

/-- A transition of d ends in state t (R482, R489, R491). -/
def State.pdEnd (s : State) (d t : Nat) : State :=
  let x := s.domx d
  let s1 := s.setDomx d { x with phase := .idle, waitsFor := [], iReq := 0, avsDone := false }
  let s2 := ((s1.rput Reg.POWER_BUSY 0 d).rput Reg.POWER_IN_TARGET 0 d).cinc Reg.POWER_DOM_CNT 0 [d, 0]
  let s3 := (s2.pput Reg.POWER_DELTA_MAP (setBit (s2.pget Reg.POWER_DELTA_MAP) d true)).raise 1080
  let s4 := (s3.pdResult d 0).endPdreq x.iReq stOK
  if s4.ron Reg.POWER_QUEUED_V d && s4.rget Reg.POWER_QUEUED d == t then s4.pdComplete d else s4

/-- SWITCH_READY (R484, R485): the switch reports ready; the rise or the fall completes. -/
def execSwitchReady (d : Nat) (s : State) : Out :=
  .next (
    let x := s.domx d
    let t := s.rget Reg.POWER_IN_TARGET d
    if 44 ≤ d then s
    else if x.phase == .switch then (s.arriveOn d (x.source == 1)).pdEnd d 2
    else if x.phase == .fallSwitch then
      let s1 := if x.source == 2 then s.leaveOn d t else s.rput Reg.POWER_STATE t d
      let s2 := if t == 0 then (s1.loseDomain d).setDomx d { s1.domx d with heldActions := [] } else s1
      let s3 := s2.pdEnd d t
      let free (u : State) (e : Nat) : State := u.setDomx e { u.domx e with waitsFor := (u.domx e).waitsFor.filter (· != d) }
      ((List.range 44).foldl free s3).serveRails
    else s)

/-- A transition is aborted (R486): counted as a refusal, event ABORTED, the previous state stays. -/
def State.pdAbort (s : State) (d refuser dom : Nat) : State :=
  let x := s.domx d
  let s1 := s.setDomx d { x with phase := .idle, waitsFor := [], iReq := 0, avsDone := false }
  let s2 := ((s1.rput Reg.POWER_BUSY 0 d).rput Reg.POWER_IN_TARGET 0 d).cinc Reg.POWER_DOM_CNT 0 [d, 1]
  let s3 := ((s2.rput Reg.POWER_LAST_REFUSER refuser d).rput Reg.POWER_REFUSER_DOM dom d).pdResult d 2
  (s3.raise 1082).endPdreq x.iReq stREFUSED

/-- The falls that wait for an aborted fall abort too (R478). -/
def State.abortWaiting : Nat → State → Nat → State
  | 0, s, _ => s
  | n + 1, s, d =>
    ((List.range 44).filter (fun e => (s.domx e).waitsFor.contains d)).foldl (fun t e => abortWaiting n (t.pdAbort e 1 d) e) s

/-- After an abort the previous voltages are requested without waiting for the outcome (R486). -/
def State.restoreRail (s : State) (d r : Nat) : State :=
  let x := s.rail r
  let mine := x.busy && x.forDom == some d
  let v := s.railTarget r none
  if !s.ron Reg.POWER_AVS_EN || (!mine && x.busy) then s
  else if mine || v < s.volt r then (s.askVolt r v).setRail r { mv := v } else s

/-- TRANSITION_ABORT (R486): AVS_TIMEOUT or SWITCH_TIMEOUT has expired for the transition of d. -/
def execTransitionAbort (d : Nat) (s : State) : Out :=
  .next (
    let x := s.domx d
    let avs := x.phase == .avs && (List.range 2).any (fun r => (s.rail r).busy && (s.rail r).forDom == some d) &&
      decide (x.since + s.rget Reg.POWER_AVS_TIMEOUT * us ≤ s.now)
    let sw := (x.phase == .switch || x.phase == .drain || x.phase == .fallSwitch) && decide (x.since + s.rget Reg.POWER_SWITCH_TIMEOUT * us ≤ s.now)
    if 44 ≤ d || !(avs || sw) then s
    else
      let s1 := State.abortWaiting 6 (s.pdAbort d (if avs then 2 else 3) 0) d
      ((s1.restoreRail d 0).restoreRail d 1).serveRails)

/-! ### Requests (R481, R488) -/

/-- PD_REQ_GO (R481): a write of PD_REQ with GO for the domain in the writer's PD_SEL. -/
def execPdReqGo (m : Master) (target : Nat) (s : State) : Out :=
  .next (s.guardWrite m 2 0x100 (BitVec.ofNat 32 (2 ^ 31 + target % 4)) (fun t d => t.pdRequest d (target % 4) 0))

/-- WAKE (R488): wake pin w has held its level for 1 µs (w below 16), or PG_(w − 16) makes its wake request. -/
def execWake (w : Nat) (s : State) : Out :=
  .next (
    let en := if w < 16 then bit (s.rget Reg.POWER_WAKE_EN) w else bit (s.rget Reg.POWER_WAKE_PG_EN) (w - 16)
    if w < 24 && en && !s.boot.porst && !s.clockless then s.wakeFire w else s)

end Sys2Proof.Machine
end

