-- ==== Sys2Proof/Machine/Boot.lean ====
section
/-! DEFINITION. Clocks, resets, boot, readiness, LP4X training and temperature (chapter 19, R45, R358, R374, R385); the meanings of
FUNCTION_LEVEL_RESET and of REF_LOST to TEMP_SAMPLE. -/

namespace Sys2Proof.Machine

open Sys2Proof

/-! ### Function resets (R45, R374, R385) -/

/-- PCI Express function f is reset: Bus Master Enable, its MSI-X table and its pending vectors are cleared (PRESUMED, log entry 47),
and its identity is reset with the command rings whose binding admits it. -/
def State.resetFunc (s : State) (f : Nat) : State :=
  let s1 : State := { s with
    boot := { s.boot with bme := sset (fun _ => false) s.boot.bme f false }
    msix := sfilter (fun k => k / 64 != f) s.msix
    vecs := smap (fun _ => {}) (fun v x => if s.vecFunc v == f + 1 then { x with pend := false } else x) s.vecs }
  (s1.resetRingsOf (f + 1)).resetIdentity (f + 1)

/-- Functions are reset, PF0 among them or not; a reset of PF0 disables the slow-path rings (R374) and clears VF Enable. -/
def State.resetFuncs (s : State) (fs : List Nat) : State :=
  let s1 := fs.foldl (fun t f => t.resetFunc f) s
  let s2 := if fs.contains 0 then s1.slowRingsOff else s1
  let s3 : State := if fs.contains 0 then { s2 with boot := { s2.boot with vfe := false } } else s2
  s3.dropUnready

/-- FUNCTION_LEVEL_RESET (R45, R385): kind 0 a function-level reset of function `func`, which for PF0 resets every VF too; kind 1 VF
Enable cleared; kind 2 a reload of the function's driver, which acts on its command rings alone. -/
def execFunctionLevelReset (func kind : Nat) (s : State) : Out :=
  .next (
    if s.boot.porst then s
    else match kind with
    | 0 => s.resetFuncs (if func == 0 then List.range 16 else [func])
    | 1 =>
      let s1 := s.resetFuncs ((List.range 15).map (· + 1))
      { s1 with boot := { s1.boot with vfe := false } }
    | _ => s.resetRingsOf (func + 1))

/-! ### Reset pins (R456, R457) -/

/-- Everything outside the cartouche at its reset value (R456); host memory is not the device's. The tap link goes down. -/
def State.porstAll (s : State) : State :=
  let c := s.tapFlushAll.cart
  { State.reset with
    pending := s.pending
    now := s.now
    fresh := s.fresh
    rdata := s.rdata
    mem := sfilter (fun k => decide (k < 32 * 2 ^ 64)) s.mem
    cart := { c with ready := false, gap := c.gap || s.tapUp }
    boot := { porst := true, perst := s.boot.perst, warm := s.boot.warm } }

/-- PORST_N (R456 to R459): asserted, everything is reset; deasserted, the straps are sampled and the lock sequence starts. -/
def execPorstN (asserted strapSpi strapRef : Bool) (s : State) : Out :=
  .next (
    if asserted then s.porstAll
    else if !s.boot.porst then s
    else
      let s1 : State := { s with boot := { s.boot with porst := false, strapSpi := strapSpi, strapRef := strapRef } }
      let s2 := (s1.rput Reg.CLOCKS_STRAP_SPI (b2n strapSpi)).rput Reg.CLOCKS_STRAP_REF (b2n strapRef)
      (s2.rput Reg.GLOBAL_LAST_RESET 0).startLock)

/-- PERST_N (R456, R457): asserted, the link goes down and every function is reset; its deassertion is recorded. -/
def execPerstN (asserted : Bool) (s : State) : Out :=
  .next (
    let s1 : State := { s with boot := { s.boot with perst := asserted } }
    if s.boot.porst || s.boot.perst == asserted then s1
    else if asserted then s1.tapFlushAll.resetFuncs (List.range 16)
    else
      let s2 : State := { s1 with boot := { s1.boot with perstCycle := some (s.now / 4) } }
      s2.rput Reg.GLOBAL_LAST_RESET 1)

/-- The counters that WARM_RST_N clears (R134, R161, R185, R205, R237, R261, R279, R306, R330, R360, R391, R430, R449, R474, R490). -/
def warmClears (blk off : Nat) : Bool :=
  if blk == 15 then (decide (0x40 ≤ off) && decide (off < 0x60)) || (decide (0x3000 ≤ off) && decide (off < 0x3018))
  else if blk == 14 then false
  else if blk == 11 then (regRows blk off).any (fun r => r.acc == .rc)
  else (regRows blk off).any (fun r => r.acc == .rc && r.pair)

/-- The counters, the timestamp FIFO and the capture sequence are cleared (R346, R358, R422). -/
def State.warmClear (s : State) : State :=
  ({ s with
    regs := sfilter (fun k => !warmClears (keyBlk k) (keyOff k)) s.regs
    ruleCnt := []
    mer := { s.mer with fifo := [], capSeq := 0 } } : State).rput Reg.MERID_TS_LEVEL 0

/-- WARM_RST_N (R456, R457): asserted, every function is reset and the counters are cleared; its deassertion is recorded, unless
PERST_N deasserts in the same management cycle. -/
def execWarmRstN (asserted : Bool) (s : State) : Out :=
  .next (
    let s1 : State := { s with boot := { s.boot with warm := asserted } }
    if s.boot.porst || s.boot.warm == asserted then s1
    else if asserted then (s1.tapFlushAll.resetFuncs (List.range 16)).warmClear
    else if s1.boot.perstCycle == some (s.now / 4) then s1
    else s1.rput Reg.GLOBAL_LAST_RESET 2)

/-! ### References and the lock sequence (R451 to R462) -/

/-- The monitor of reference r (1 A, 2 B): windows passed in a row, and whether it has been declared lost. -/
def State.setRefWin (s : State) (r n : Nat) (gone : Bool) : State :=
  { s with boot := if r == 1 then { s.boot with winA := n, lostA := gone } else { s.boot with winB := n, lostB := gone } }

/-- A reference is declared lost. -/
def State.refLoss (s : State) (r : Nat) : State := ((s.setRefWin r 0 true).setRefOk r false).settleRef

/-- REF_LOST (R451): reference `ref` (0 A, 1 B) shows no edge for 100 ns. -/
def execRefLost (ref : Nat) (s : State) : Out := .next (if ref < 2 && !s.boot.porst then s.refLoss (ref + 1) else s)

/-- REF_FREQ_WINDOW (R451): a 1 ms window ends with a difference of `ppm`; after 10 passed in a row the reference is OK. -/
def execRefFreqWindow (ref ppm : Nat) (s : State) : Out :=
  .next (
    if 2 ≤ ref || s.boot.porst then s
    else if s.rget Reg.CLOCKS_PPM_TH < ppm then s.refLoss (ref + 1)
    else
      let n := (if ref == 0 then s.boot.winA else s.boot.winB) + 1
      if n < 10 then s.setRefWin (ref + 1) n (s.refGone (ref + 1))
      else ((s.setRefWin (ref + 1) 10 false).setRefOk (ref + 1) true).settleRef)

/-- PLL_UNLOCK (R454): the root PLL loses lock outside the lock sequence. -/
def execPllUnlock (s : State) : Out :=
  .next (
    if s.ron Reg.CLOCKS_PLL_LOCKED then
      (let s1 := ((s.rput Reg.CLOCKS_PLL_LOCKED 0).setReady 45 false).raise 1144
       { s1 with boot := { s1.boot with pllUnlocked := true } })
    else s)

/-- Lock exit (R462): PD_PCIE, PD_SEQ and PD_MERIDIAN, and with STRAP_SPI the complexes' domains, are brought on without a transition. -/
def State.lockExit (s : State) : State :=
  let s1 := (if s.boot.strapSpi then [42, 43, 41, 39, 40] else [42, 43, 41]).foldl (fun t d => t.arriveOn d false) s
  (s1.rput Reg.GLOBAL_STATE (if s.boot.strapSpi then 4 else 3)).settleRef

/-- PLL_LOCK_ATTEMPT (R460, R461): the attempt on the current reference locks, or fails. -/
def execPllLockAttempt (locked : Bool) (s : State) : Out :=
  .next (
    if s.rget Reg.GLOBAL_STATE != 1 then s
    else if locked then
      (let s1 := if s.boot.attempt == 1 then s.rput Reg.GLOBAL_CAUSE_8 1 else s
       (((s1.showRef s.boot.lockRef).rput Reg.CLOCKS_PLL_LOCKED 1).setReady 45 true).lockExit)
    else if s.boot.attempt == 0 then { s with boot := { s.boot with attempt := 1, lockRef := 3 - s.boot.lockRef } }
    else (s.rput Reg.GLOBAL_CAUSE_8 2).rput Reg.GLOBAL_STATE 2)

/-! ### SPI NOR boot (R463, R464) -/

/-- The cause with which the loader stops before it writes the image; 0 where it goes on. -/
def spiCause (f : SpiFlash) : Nat :=
  let len := beNat (slice f.header 4 4)
  if f.jedec == 0 || f.jedec == 0xFFFFFF || crc32c (slice f.header 0 28) != beNat (slice f.header 28 4) ||
      len % 4096 != 0 || len < 4096 || 4194304 < len then 5
  else if beNat (slice f.header 0 4) != 0x44585646 then 3 else 0

/-- SPI_LOAD_DONE (R463, R464): the boot loader has read flash f, or stops at the first failure. -/
def execSpiLoadDone (f : SpiFlash) (s : State) : Out :=
  .next (
    if s.rget Reg.GLOBAL_STATE != 4 then s
    else if spiCause f != 0 then (s.rput Reg.GLOBAL_CAUSE_8 (spiCause f)).rput Reg.GLOBAL_STATE 3
    else
      let s1 := s.imgBegin 1 (beNat (slice f.header 4 4) / 4096)
      let s2 : State := { s1 with store := { s1.store with image := slice f.image 0 (beNat (slice f.header 4 4)) } }
      let s3 := s2.imgEnd f.good f.version.toNat
      (if f.good then s3 else s3.rput Reg.GLOBAL_CAUSE_8 4).rput Reg.GLOBAL_STATE 3)

/-! ### Readiness (R465, R466) -/

/-- The block instances whose enables a READY_MAP bit frees. -/
def readyInsts (i : Nat) : List (Nat × Nat) :=
  if i == 43 then [(4, 0)] else if i == 44 then (List.range 24).map (fun l => (7, l)) else domInsts i

/-- READY_SET (R465, R466): a function whose condition holds becomes usable; the enables written meanwhile come into use. -/
def execReadySet (bit : Nat) (s : State) : Out :=
  .next (
    if s.boot.porst || s.ready bit || !s.readyCond bit then s
    else (readyInsts bit).foldl (fun t e => s.enablesIn t e.1 e.2) (s.setReady bit true))

/-! ### LP4X training (R468) -/

/-- TRAINING_DONE (R468): an attempt of controller n ends, failing at step `failStep`. -/
def execTrainingDone (n : Nat) (passed : Bool) (failStep : Nat) (s : State) : Out :=
  .next (
    if 8 ≤ n || s.rget Reg.LP4X_STATE n != 1 || !s.domOn (31 + n) then s
    else if passed then (s.dramOff n |>.rput Reg.LP4X_STATE 2 n).raise (1104 + 3 * n)
    else if s.rget Reg.LP4X_ATTEMPTS n < 3 then (s.radd Reg.LP4X_ATTEMPTS 1 n).cinc Reg.LP4X_CNT n [4]
    else ((s.rput Reg.LP4X_STATE 3 n).rput Reg.LP4X_FAIL_STEP failStep n).raise (1105 + 3 * n))

/-- RETRAIN (R468): a write of RETRAIN for the controller in the writer's MEM_SEL. -/
def execRetrain (m : Master) (s : State) : Out :=
  .next (s.guardWrite m 13 0x100 (1#32) (fun t n => t.regAction m.id 13 n 0x100 1))

/-- PERIODIC_CAL (R468): a trained controller repeats ZQ calibration and DQS tracking. -/
def execPeriodicCal (n : Nat) (s : State) : Out :=
  .next (if n < 8 && s.rget Reg.LP4X_STATE n == 2 && s.domOn (31 + n) then s.cinc Reg.LP4X_CNT n [5] else s)

/-! ### Temperature (R471) -/

/-- TEMP_SAMPLE (R471): the sensors report t, in 0.25 °C. -/
def execTempSample (t : Int) (s : State) : Out :=
  .next (
    if s.boot.porst then s
    else
      let s1 := s.rput Reg.CLOCKS_TEMP (wrapInt 16 t)
      let s2 := if signed 16 (s1.rget Reg.CLOCKS_TEMP_MAX) < t then s1.rput Reg.CLOCKS_TEMP_MAX (wrapInt 16 t) else s1
      let w : Int := ((4 * s.rget Reg.CLOCKS_WARN_TH : Nat) : Int)
      let s3 := s2.raiseIf (s.boot.warnArmed && decide (w ≤ t)) 1146
      let s4 := s3.raiseIf (!s.boot.critical && decide (460 ≤ t)) 1147
      { s4 with boot := { s4.boot with
        warnArmed := if w ≤ t then false else s.boot.warnArmed || decide (t ≤ w - 8)
        critical := if 460 ≤ t then true else s.boot.critical && decide (452 ≤ t) } })

end Sys2Proof.Machine
end

