-- ==== Sys2Proof/Machine/Ras.lean ====
section
/-! DEFINITION. Reliability (R515 to R525): what an error found in a store does, the RAS counters and capture, and Creel's audit: the
meanings of SCRUB_READ and CREEL_AUDIT. -/

namespace Sys2Proof.Machine

open Sys2Proof

/-! ### Counting (R515, R525) -/

/-- A corrected error of structure n. -/
def State.rasCorr (s : State) (n : Nat) : State := s.cinc Reg.RAS_RAS_CORR 0 [n]

/-- An uncorrectable error of structure n is counted, and captured if it is the first (R525). -/
def State.rasUncorr (s : State) (n inst index : Nat) : State :=
  let s1 := s.cinc Reg.RAS_RAS_UNCORR 0 [n]
  if s1.ron Reg.RAS_VALID then s1
  else ((((s1.rput Reg.RAS_STRUCT n).rput Reg.RAS_INSTANCE inst).rput Reg.RAS_SCRUB 1).rput Reg.RAS_INDEX (index % 2 ^ 20)).rput Reg.RAS_VALID 1

/-! ### Structures 0 to 11 -/

/-- A table entry is poisoned (R518, R519). -/
def State.poisonEntry (s : State) (t inst i : Nat) : State := { s with poison := (s.poison ++ [tabKey t inst i]).eraseDups }

/-- A gate-control entry keeps every gate closed until it is written again (R519); index is 2048 × port of the pipe + 1024 × pending
bank + entry. -/
def State.closeEntry (s : State) (n index : Nat) : State :=
  match (portsOfPipe n)[index / 2048]? with
  | none => s
  | some p =>
    let g := s.gate p
    let i := index % 1024
    let shut (m : Sparse DWord) : Sparse DWord := sset (fun _ => 0) m i (BitVec.ofNat 64 (bits (sget (fun _ => 0) m i).toNat 55 0))
    if index / 1024 % 2 == 1 then s.setGate p { g with pend := shut g.pend }
    else s.setGate p { g with oper := shut g.oper, gates := if g.operV && g.entry == i then 0 else g.gates }

/-- Errors of structure 11 (R520): a Graticule entry (part 0) whose object is visited next, credits (part 1), a deficit (part 2) of object k. -/
def State.pipeError (s : State) (k part : Nat) : State :=
  let x := s.obj k
  match part with
  | 0 => if x.wheel.isSome then s.setObj k { x with wheel := some (s.short, false) } else s
  | 1 => s.setObj k { x with cirC := (x.cbs : Nat), eirC := (x.ebs : Nat) }
  | _ => s.setObj k { x with deficit := 0 }

/-! ### Queues (R521, R522) -/

/-- The frames of a queue can no longer be reached: Creel's audit returns them, the blocks of the LP4X list excepted. -/
def State.loseFrames (s : State) (q : Nat) : State :=
  let b := s.queueBasket q
  let x := s.q q
  let g := s.pager b
  let stg := g.staged.filter (fun i => i.queue == q)
  let s1 := x.lp.foldl (fun t i => t.setCopy i.f b { t.copy i.f b with blocks := 0 }) s
  let s2 := s1.setQ q { x with oc := [], pend := [], lp := [], spilling := false }
  let s3 := (s2.setPager b { g with staged := g.staged.filter (fun i => i.queue != q), lost := g.lost ++ x.oc ++ x.pend ++ x.lp ++ stg }).rsub Reg.QUEUE_STAGED stg.length 0 [b]
  s3.nodesIdle q

/-- A resident context is lost (R521): initial values, frames lost, `SPILLING` clear, still resident. -/
def State.loseContext (s : State) (b q : Nat) : State :=
  if (s.q q).resident && !isFixed q && s.queueBasket q == b then (s.loseFrames q).ctxInit q else s

/-- A directory entry takes its reset value (R522); a QPIN that waits for the queue ends. -/
def State.loseQueue (s : State) (q : Nat) : State :=
  let b := s.queueBasket q
  let s1 := ((s.loseFrames q).dropPin q b).setQ q (queueDflt q)
  s1.waiters.foldl (fun t w => if w.2.kind == .qpin q then t.endWait w.1 stNOTFOUND else t) s1

/-! ### Always-on structures (R522) -/

/-- The mailbox RAM of side `a` of channel c takes its reset value: slot empty, flags 0, epoch 0. -/
def State.loseMbx (s : State) (c : Nat) (a : Bool) : State :=
  s.setSide c a { (s.chan c).side a with stage := [], slot := [], full := false, waits := false, att := none, flags := 0, epoch := 0, timer := none }

/-- A binding register takes its reset value; a command ring that is unbound by it stops, as an unbound ring would. -/
def State.loseBinding (s : State) (off : Nat) : State :=
  let k := regKey 14 0 off
  let s1 := s.setCell k (regReset k)
  if off < 0x1400 then
    (let n := (off - 0x1000) / 16
     let e := regKey 4 0 (0x1010 + 0x40 * n)
     let s2 := if s1.ringTarget n == 0 then s1.setCell e { s1.cell e with e := BitVec.ofNat 32 (setBit (s1.cell e).e.toNat 0 false) } else s1
     s2.raise 992)
  else if decide (0x2000 ≤ off) && decide (off < 0x2100) then s1.raise (1016 + (off - 0x2000) / 4)
  else s1

/-- Structure n, 13 to 17, has lost a word in every copy. -/
def State.loseTriple (s : State) (n inst index : Nat) : State :=
  match n with
  | 13 => (s.loseQueue index).raise (921 + 2 * s.queueBasket index)
  | 14 => (s.loseMbx inst (index % 2 == 0)).raise (1016 + inst)
  | 15 => s.loseBinding (0x1000 + 4 * index)
  | 16 => s.setCell (regKey 3 0 (4 * index)) (regReset (regKey 3 0 (4 * index)))
  | _ => s.rput Reg.CC_STATE_3C 3

/-! ### Stores that their own blocks count (R259, R207, R183, R47, R326, R470) -/

/-- A basket cell of frame f holds an uncorrectable error: its copies end or are discarded (R258, R259). -/
def State.cellBad (s : State) (f b bank : Nat) : State :=
  let s1 := ((s.cinc Reg.SLATH_BASKET_CNT b [15]).cinc Reg.SLATH_ECC_BANK b [bank]).raise (888 + 4 * b)
  let c := s1.copy f b
  if c.refs == 0 || c.loc == 1 then s1
  else
    let g (t : Option Tx) : Option Tx := t.map (fun x => if x.kind == 0 && x.item.f == f && x.item.b == b then { x with bad := true, dataErr := true } else x)
    let s2 := s1.setCopy f b { c with bad := true }
    { s2 with ports := smap (fun _ => {}) (fun _ x => { x with tx := g x.tx, pre := g x.pre }) s2.ports }

/-- A Legend line or rule slot is uncorrectable in a replica of pipe p, and `lost` in every one (R207). -/
def State.legBad (s : State) (p : Nat) (slot : Bool) (i : Nat) (lost : Bool) : State :=
  let s1 := (s.cinc Reg.LEGEND_CNT p [5]).raise (818 + 8 * p)
  let s2 := if s1.ron Reg.LEGEND_VALID then s1
    else ((s1.rput Reg.LEGEND_KIND (b2n slot)).rput Reg.LEGEND_ADDR i).rput Reg.LEGEND_VALID 1
  if !lost then s2
  else
    (s2.cinc Reg.LEGEND_CNT p [6]).legApply (fun m =>
      if slot then { m with badRules := (m.badRules ++ [i]).eraseDups } else m.setLine i { m.line i with poisoned := true })

/-- A word of the active parse bank is uncorrectable in one copy, or `lost` in both (R183). -/
def State.parseBad (s : State) (n i : Nat) (lost : Bool) : State :=
  let s1 := (s.cinc Reg.SURVEY_CNT n [12]).raise (817 + 8 * n)
  if lost then s1.setSv n { s1.sv n with lost := ((s1.sv n).lost ++ [i]).eraseDups } else s1

/-- An uncorrectable error in engine k (R326): index below 64 is the context image of that stream; from 64 on, index − 64 is
(16 × stream + buffer) × 512 + PRB of the accumulation memory. -/
def State.plaitBad (s : State) (k index : Nat) : State :=
  let s1 := s.plaitCnt k 18 1
  if index < 64 then
    (let x := 64 * k + index
     (s1.setPc x { seq := (s1.pc x).seq, eccBad := true }).plaitCause k Reg.PLAIT_CTX_ECC)
  else
    let i := index - 64
    let st := i / 8192
    let x := 64 * k + st
    let c := s1.pc x
    let s2 := s1.setPc x { c with wins := c.wins.map (fun w => if w.buf == i / 512 % 16 then { w with badPrb := (w.badPrb ++ [i % 512]).eraseDups } else w) }
    let s3 := if s2.ron Reg.PLAIT_VALID 0 [k] then s2
      else ((s2.rput Reg.PLAIT_CTX st 0 [k]).rput Reg.PLAIT_PRB (i % 512) 0 [k]).rput Reg.PLAIT_VALID 1 0 [k]
    s3.plaitCause k Reg.PLAIT_ECC_UNCORR

/-! ### SCRUB_READ -/

/-- The domain of a store; none for one that is always on. -/
def storeDomain (t inst : Nat) : Option Nat :=
  match t with
  | 1 | 2 | 8 | 9 | 10 | 11 | 21 => some (8 + inst)
  | 12 | 18 => some (16 + inst)
  | 19 | 20 => some (treeDom inst)
  | 22 => some 43
  | 23 => some (27 + inst)
  | 24 => some (31 + inst)
  | _ => none

/-- The number of instances of a store. -/
def storeInsts (t : Nat) : Nat :=
  match t with
  | 1 | 2 | 8 | 9 | 10 | 11 | 12 | 18 | 19 | 20 | 21 | 24 => 8
  | 14 => 64
  | 23 => 4
  | _ => 1

/-- A corrected error. -/
def State.scrubCorr (s : State) (x : ScrubFind) : State :=
  match x.target with
  | 18 => s.cinc Reg.SLATH_BASKET_CNT x.inst [14]
  | 19 | 20 => s.cinc Reg.LEGEND_CNT x.inst [4]
  | 21 => s.cinc Reg.SURVEY_CNT x.inst [11]
  | 22 => s
  | 23 => s.plaitCnt x.inst 17 1
  | 24 => s.cinc Reg.LP4X_CNT x.inst [2]
  | n => s.rasCorr n

/-- An uncorrectable error: in every copy, or (not `lost`) in one of several. -/
def State.scrubUncorr (s : State) (x : ScrubFind) (lost : Bool) : State :=
  let n := x.target
  let s1 := s.rasUncorr n x.inst x.index
  if n < 8 then (s1.poisonEntry n x.inst x.index).raise (818 + 8 * x.inst)
  else if n == 8 then (if lost then s1.closeEntry x.inst x.index else s1).raise (818 + 8 * x.inst)
  else if n == 9 then (if lost then s1.poisonEntry 20 x.inst x.index else s1).raise (818 + 8 * x.inst)
  else if n == 10 then
    (if lost then s1.setObj x.index { s1.obj x.index with cir := 0, eir := 0, wheel := none } else s1).raise (818 + 8 * x.inst)
  else if n == 11 then (s1.pipeError (x.index % 2 ^ 20) (x.index / 2 ^ 20)).raise (818 + 8 * x.inst)
  else if n == 12 then ((if lost then s1.loseContext x.inst x.index else s1).cinc Reg.QUEUE_CNT 0 [x.inst, 5]).raise (921 + 2 * x.inst)
  else if n < 18 then (if lost then s1.loseTriple n x.inst x.index else s1)
  else match n with
  | 18 => s.cellBad (x.index / 16) x.inst (x.index % 16)
  | 19 => s.legBad x.inst false x.index lost
  | 20 => s.legBad x.inst true x.index lost
  | 21 => s.parseBad x.inst x.index lost
  | 22 => s.raise 995
  | 23 => s.plaitBad x.inst x.index
  | _ => if s.lp4xWays != 0 && x.index % s.lp4xWays == x.inst then s.lp4xEcc (256 * x.index) else s

/-- What a scrub read addresses exists: the index of a table entry, a queue, a word of a register store. -/
def scrubOk (x : ScrubFind) : Bool :=
  decide (x.inst < storeInsts x.target) &&
  (match x.target with
  | 0 => decide (x.index < addrChip)
  | 1 | 2 | 3 | 4 | 5 | 6 | 7 => decide (x.index < tabEntries x.target)
  | 8 => decide (x.index < 2048 * 32)
  | 9 => decide (x.index < 16)
  | 10 | 11 => decide (x.index % 2 ^ 20 < 2 ^ 19 + 152)
  | 12 | 13 => decide (x.index < 65536)
  | 15 => regListed 14 (0x1000 + 4 * x.index)
  | 16 => regListed 3 (4 * x.index)
  | 19 => decide (x.index < 131072)
  | 20 => decide (x.index < 65536)
  | t => decide (t ≤ 24))

/-- SCRUB_READ (R523): a location of a store in a domain that is on; `passEnd` completes a pass of the on-chip stores. -/
def execScrubRead (x : ScrubFind) (s : State) : Out :=
  .next (
    if s.boot.porst || s.clockless then s
    else
      let s := if x.target == 24 then s.lp4xUse false else s
      let off := match storeDomain x.target x.inst with | some d => !s.domOn d | none => false
      let s1 := if off || !scrubOk x then s
        else match x.found with
        | 0 => s
        | 1 => s.scrubCorr x
        | 2 => s.scrubUncorr x true
        | _ => s.scrubUncorr x false
      if x.passEnd then s1.cinc Reg.RAS_SCRUB_PASSES else s1)

/-! ### CREEL_AUDIT -/

/-- CREEL_AUDIT (R521): the audit of basket b returns what no queue, loan or transmission reaches. -/
def execCreelAudit (b : Nat) (s : State) : Out :=
  .next (
    if b < 8 && s.domOn (16 + b) then
      let l := (s.pager b).lost
      l.foldl (fun t i => t.release i) (s.setPager b { s.pager b with lost := [] })
    else s)

end Sys2Proof.Machine
end

