-- ==== Sys2Proof/Machine/Tick.lean ====
section
/-! DEFINITION. One core cycle of the block's own clock (R2, R331): time, the top-down accounting of pipes and threads (R426,
R427) and the cycles a page-in waits (R272). It is what `step` does on an empty queue (DESIGN CHOICE, log entry 2). -/

namespace Sys2Proof.Machine

open Sys2Proof

/-! ### Pipes (R426) -/

/-- The output of a pipe's oldest cell in flight: matrix output 0 to 11, the local port counting under its own basket. -/
def State.oldestOut (s : State) (n : Nat) : Nat :=
  match s.flight n with
  | [] => n
  | (f, _, c) :: _ =>
    let x := s.sin n
    match x.uc.find? (fun e => e.2.any (fun y => y.1 == f && y.2 == c)) with
    | some e => e.1
    | none =>
      match x.mc.find? (fun y => y.f == f && y.cell == c) with
      | some y => y.residue.headD n
      | none => n

/-- The frames of a pipe that occupy an ingress context (R27): issued, and their fate still unknown. -/
def State.ctxUsed (s : State) (n : Nat) : Nat :=
  (s.frames.filter (fun e => e.2.pipe == n && e.2.fate.isNone && !((s.pipe n).toIssue.any (fun q => q.1 == e.1)))).length

/-- One core cycle of a pipe whose domain is on: exactly one category beside CLOCKS (R426, R428). -/
def State.pipeCycle (s : State) (n : Nat) : State :=
  if !s.domOn (8 + n) then s
  else
    let add (t : State) (w : Nat) : State := t.cinc Reg.TALLY_PIPE_WORD 0 [n, w]
    let s1 := add s 0
    match (s1.pipe n).toIssue with
    | [] => add s1 3
    | (_, fate) :: r =>
      if 1536 ≤ s1.ctxUsed n then add (add s1 4) 6
      else if 512 ≤ s1.flightCells n then add (add (add s1 4) 7) (8 + s1.oldestOut n)
      else
        let s2 := s1.setPipe n { s1.pipe n with toIssue := r }
        match fate with
        | some carried => add s2 (if carried then 1 else 2)
        | none => add s2 5

/-! ### Threads (R427) -/

/-- One control cycle of a sequencer thread while PD_SEQ is on. -/
def State.threadCycle (s : State) (t : Nat) : State :=
  let x := s.thr t
  let add (u : State) (w : Nat) : State := u.cinc Reg.TALLY_THREAD_WORD 0 [t, w]
  let halted := bit (s.rget Reg.SEQ_THREAD_HALT) t
  add (add s 0) (if !x.running || halted then 3 else if x.wait.isSome then 4 else 5)

/-! ### The cycle -/

/-- One core cycle of a basket's pager: a page-in that waits for a slot counts in PAGE_WAIT (R272). -/
def State.pagerCycle (s : State) (b : Nat) : State :=
  if s.pageWaiting b then s.cinc Reg.QUEUE_CNT 0 [b, 4] else s

/-- One core cycle. While PORST_N is asserted, or no reference clocks the device (CLOCKLESS), only the model's own cycle count
advances. -/
def State.tick (s : State) : State :=
  if s.boot.porst || s.clockless then { s with now := s.now + 1 }
  else
    let s1 := s.meridTick
    let s2 := (List.range 8).foldl (fun t n => t.pipeCycle n) s1
    let s3 := if s2.now % 2 == 1 && s2.domOn 43 then (List.range 8).foldl (fun t n => t.threadCycle n) s2 else s2
    let s4 := (List.range 8).foldl (fun t b => t.pagerCycle b) s3
    { s4 with now := s4.now + 1 }

end Sys2Proof.Machine
end

