-- ==== Sys2Proof/Machine/Dispatch.lean ====
section
/-! DEFINITION. The dispatch of the commands: one arm per constructor of Instr, one direct call of its meaning. -/

namespace Sys2Proof.Machine

open Sys2Proof

/-- The effect of a command on everything but the queue. -/
def exec (i : Instr) (s : State) : Host.Outcome State Fault Refusal :=
  match i with
  | .tailWrite m ring value stores => Sys2Proof.Machine.execTailWrite m ring value stores s
  | .cqHeadWrite m ring value => Sys2Proof.Machine.execCqHeadWrite m ring value s
  | .programStart fault => Sys2Proof.Machine.execProgramStart fault s
  | .cqStall ring => Sys2Proof.Machine.execCqStall ring s
  | .threadHalt thread => Sys2Proof.Machine.execThreadHalt thread s
  | .ringErrClear m ring => Sys2Proof.Machine.execRingErrClear m ring s
  | .budgetExpiry thread => Sys2Proof.Machine.execBudgetExpiry thread s
  | .waitTimeout thread => Sys2Proof.Machine.execWaitTimeout thread s
  | .undefinedOpcode o => Sys2Proof.Machine.execUndefinedOpcode o s
  | .ldi o => Sys2Proof.Machine.execLdi o s
  | .mov o => Sys2Proof.Machine.execMov o s
  | .add o => Sys2Proof.Machine.execAdd o s
  | .sub o => Sys2Proof.Machine.execSub o s
  | .and o => Sys2Proof.Machine.execAnd o s
  | .or o => Sys2Proof.Machine.execOr o s
  | .xor o => Sys2Proof.Machine.execXor o s
  | .shl o => Sys2Proof.Machine.execShl o s
  | .shr o => Sys2Proof.Machine.execShr o s
  | .cmp o => Sys2Proof.Machine.execCmp o s
  | .br o => Sys2Proof.Machine.execBr o s
  | .bcc o => Sys2Proof.Machine.execBcc o s
  | .call o => Sys2Proof.Machine.execCall o s
  | .ret o => Sys2Proof.Machine.execRet o s
  | .halt o => Sys2Proof.Machine.execHalt o s
  | .trap o => Sys2Proof.Machine.execTrap o s
  | .rrd o => Sys2Proof.Machine.execRrd o s
  | .rwm o => Sys2Proof.Machine.execRwm o s
  | .rpoll o => Sys2Proof.Machine.execRpoll o s
  | .rpollRead thread => Sys2Proof.Machine.execRpollRead thread s
  | .ld o => Sys2Proof.Machine.execLd o s
  | .st o => Sys2Proof.Machine.execSt o s
  | .copy o => Sys2Proof.Machine.execCopy o s
  | .twr o => Sys2Proof.Machine.execTwr o s
  | .tdel o => Sys2Proof.Machine.execTdel o s
  | .tfind o => Sys2Proof.Machine.execTfind o s
  | .tage o => Sys2Proof.Machine.execTage o s
  | .vopen o => Sys2Proof.Machine.execVopen o s
  | .vput o => Sys2Proof.Machine.execVput o s
  | .vcommit o => Sys2Proof.Machine.execVcommit o s
  | .vcommitSlotFree thread => Sys2Proof.Machine.execVcommitSlotFree thread s
  | .vwait o => Sys2Proof.Machine.execVwait o s
  | .vabort o => Sys2Proof.Machine.execVabort o s
  | .versionRetire rset slot => Sys2Proof.Machine.execVersionRetire rset slot s
  | .qnew o => Sys2Proof.Machine.execQnew o s
  | .qmap o => Sys2Proof.Machine.execQmap o s
  | .qpin o => Sys2Proof.Machine.execQpin o s
  | .qunpin o => Sys2Proof.Machine.execQunpin o s
  | .qflush o => Sys2Proof.Machine.execQflush o s
  | .qfree o => Sys2Proof.Machine.execQfree o s
  | .shset o => Sys2Proof.Machine.execShset o s
  | .gcl o => Sys2Proof.Machine.execGcl o s
  | .gswap o => Sys2Proof.Machine.execGswap o s
  | .tmset o => Sys2Proof.Machine.execTmset o s
  | .tmadj o => Sys2Proof.Machine.execTmadj o s
  | .tmwait o => Sys2Proof.Machine.execTmwait o s
  | .tmwaitDone thread => Sys2Proof.Machine.execTmwaitDone thread s
  | .tmarm o => Sys2Proof.Machine.execTmarm o s
  | .pdreq o => Sys2Proof.Machine.execPdreq o s
  | .waitev o => Sys2Proof.Machine.execWaitev o s
  | .waitevWake thread => Sys2Proof.Machine.execWaitevWake thread s
  | .signal o => Sys2Proof.Machine.execSignal o s
  | .fence o => Sys2Proof.Machine.execFence o s
  | .fenceDone thread => Sys2Proof.Machine.execFenceDone thread s
  | .batch o => Sys2Proof.Machine.execBatch o s
  | .endbatch o => Sys2Proof.Machine.execEndbatch o s
  | .endbatchRelease thread => Sys2Proof.Machine.execEndbatchRelease thread s
  | .endbatchDone thread => Sys2Proof.Machine.execEndbatchDone thread s
  | .csnap o => Sys2Proof.Machine.execCsnap o s
  | .plctx o => Sys2Proof.Machine.execPlctx o s
  | .loadp o => Sys2Proof.Machine.execLoadp o s
  | .progSwitch pipe => Sys2Proof.Machine.execProgSwitch pipe s
  | .registerWrite m w => Sys2Proof.Machine.execRegisterWrite m w s
  | .boundaryApply b blk inst unit => Sys2Proof.Machine.execBoundaryApply b blk inst unit s
  | .rcRead m bar addr => Sys2Proof.Machine.execRcRead m bar addr s
  | .pairLowRead m bar addr => Sys2Proof.Machine.execPairLowRead m bar addr s
  | .bindLock m => Sys2Proof.Machine.execBindLock m s
  | .bootRetry m => Sys2Proof.Machine.execBootRetry m s
  | .portDisableDone p => Sys2Proof.Machine.execPortDisableDone p s
  | .anComplete p result => Sys2Proof.Machine.execAnComplete p result s
  | .ltDone p pass => Sys2Proof.Machine.execLtDone p pass s
  | .linkUp p frag => Sys2Proof.Machine.execLinkUp p frag s
  | .lockTimeout p => Sys2Proof.Machine.execLockTimeout p s
  | .localFault p => Sys2Proof.Machine.execLocalFault p s
  | .remoteFault p => Sys2Proof.Machine.execRemoteFault p s
  | .rfaultClear p frag => Sys2Proof.Machine.execRfaultClear p frag s
  | .fecCodeword p corrSyms uncorr blockErrs => Sys2Proof.Machine.execFecCodeword p corrSyms uncorr blockErrs s
  | .frameReceive p d info => Sys2Proof.Machine.execFrameReceive p d info s
  | .frameEnd p rest info => Sys2Proof.Machine.execFrameEnd p rest info s
  | .surveyParse f => Sys2Proof.Machine.execSurveyParse f s
  | .learnWrite => Sys2Proof.Machine.execLearnWrite s
  | .addrExtReadDone f ecc => Sys2Proof.Machine.execAddrExtReadDone f ecc s
  | .mirrorEntryWrite => Sys2Proof.Machine.execMirrorEntryWrite s
  | .slathCellTime fails => Sys2Proof.Machine.execSlathCellTime fails s
  | .creelCacheMaint b ecc => Sys2Proof.Machine.execCreelCacheMaint b ecc s
  | .spillInitDone b => Sys2Proof.Machine.execSpillInitDone b s
  | .spillCopyDone b q => Sys2Proof.Machine.execSpillCopyDone b q s
  | .readBackDone b q ecc => Sys2Proof.Machine.execReadBackDone b q ecc s
  | .loanReturn m value => Sys2Proof.Machine.execLoanReturn m value s
  | .loanReclaim m value => Sys2Proof.Machine.execLoanReclaim m value s
  | .frameTransmit p lag => Sys2Proof.Machine.execFrameTransmit p lag s
  | .frameTxEnd p => Sys2Proof.Machine.execFrameTxEnd p s
  | .verifyTimer p => Sys2Proof.Machine.execVerifyTimer p s
  | .pauseReceive p d => Sys2Proof.Machine.execPauseReceive p d s
  | .pauseExpiry p u => Sys2Proof.Machine.execPauseExpiry p u s
  | .pauseRefresh p => Sys2Proof.Machine.execPauseRefresh p s
  | .pauseWdog p u => Sys2Proof.Machine.execPauseWdog p u s
  | .holdoffEnd p u => Sys2Proof.Machine.execHoldoffEnd p u s
  | .snap m value => Sys2Proof.Machine.execSnap m value s
  | .startPattern lane rx => Sys2Proof.Machine.execStartPattern lane rx s
  | .candidateCheck lane rx => Sys2Proof.Machine.execCandidateCheck lane rx s
  | .hyperframeCheck lane rx => Sys2Proof.Machine.execHyperframeCheck lane rx s
  | .defectTick lane rx signal locked offset => Sys2Proof.Machine.execDefectTick lane rx signal locked offset s
  | .sdWindowEnd lane rx => Sys2Proof.Machine.execSdWindowEnd lane rx s
  | .mapperEmit lane rx => Sys2Proof.Machine.execMapperEmit lane rx s
  | .containerDequeue lane sent => Sys2Proof.Machine.execContainerDequeue lane sent s
  | .poUnderrun lane sent => Sys2Proof.Machine.execPoUnderrun lane sent s
  | .cmExtract lane fast d => Sys2Proof.Machine.execCmExtract lane fast d s
  | .ageVisit ix => Sys2Proof.Machine.execAgeVisit ix s
  | .recircReentry n => Sys2Proof.Machine.execRecircReentry n s
  | .pageInStart b => Sys2Proof.Machine.execPageInStart b s
  | .eviction b => Sys2Proof.Machine.execEviction b s
  | .pageInDone q ecc => Sys2Proof.Machine.execPageInDone q ecc s
  | .qpageFault b => Sys2Proof.Machine.execQpageFault b s
  | .holdExpiry p => Sys2Proof.Machine.execHoldExpiry p s
  | .schedSelect n => Sys2Proof.Machine.execSchedSelect n s
  | .graticuleVisit k => Sys2Proof.Machine.execGraticuleVisit k s
  | .gateEntry p => Sys2Proof.Machine.execGateEntry p s
  | .gclSwitch p => Sys2Proof.Machine.execGclSwitch p s
  | .deadlineSlot p c => Sys2Proof.Machine.execDeadlineSlot p c s
  | .plaitTake k => Sys2Proof.Machine.execPlaitTake k s
  | .windowOpen x => Sys2Proof.Machine.execWindowOpen x s
  | .windowClose x => Sys2Proof.Machine.execWindowClose x s
  | .timeChangeApply => Sys2Proof.Machine.execTimeChangeApply s
  | .nowFracRead m => Sys2Proof.Machine.execNowFracRead m s
  | .tsPop m => Sys2Proof.Machine.execTsPop m s
  | .ppsOutPulse => Sys2Proof.Machine.execPpsOutPulse s
  | .ppsIn rising => Sys2Proof.Machine.execPpsIn rising s
  | .ppsLoss => Sys2Proof.Machine.execPpsLoss s
  | .cap k rising => Sys2Proof.Machine.execCap k rising s
  | .trig k => Sys2Proof.Machine.execTrig k s
  | .todRx b afterGap => Sys2Proof.Machine.execTodRx b afterGap s
  | .txArm m value => Sys2Proof.Machine.execTxArm m value s
  | .todTxStart => Sys2Proof.Machine.execTodTxStart s
  | .todTxDone => Sys2Proof.Machine.execTodTxDone s
  | .functionLevelReset func kind => Sys2Proof.Machine.execFunctionLevelReset func kind s
  | .busMasterEnable func bme vfe => Sys2Proof.Machine.execBusMasterEnable func bme vfe s
  | .msixMessage v => Sys2Proof.Machine.execMsixMessage v s
  | .slowpathRxDeliver n spq busOk => Sys2Proof.Machine.execSlowpathRxDeliver n spq busOk s
  | .bufTailWrite m ring value stores => Sys2Proof.Machine.execBufTailWrite m ring value stores s
  | .txTailWrite m ring value stores => Sys2Proof.Machine.execTxTailWrite m ring value stores s
  | .slowpathTx ring busOk => Sys2Proof.Machine.execSlowpathTx ring busOk s
  | .hostInject n => Sys2Proof.Machine.execHostInject n s
  | .headWriteback ring busOk => Sys2Proof.Machine.execHeadWriteback ring busOk s
  | .crxPop m => Sys2Proof.Machine.execCrxPop m s
  | .loanDataAccess m w wr => Sys2Proof.Machine.execLoanDataAccess m w wr s
  | .go m c value => Sys2Proof.Machine.execGo m c value s
  | .cancel m c => Sys2Proof.Machine.execCancel m c s
  | .attNew m c basket => Sys2Proof.Machine.execAttNew m c basket s
  | .attReturn m c basket idx => Sys2Proof.Machine.execAttReturn m c basket idx s
  | .lockRead m c => Sys2Proof.Machine.execLockRead m c s
  | .lockRelease m c value => Sys2Proof.Machine.execLockRelease m c value s
  | .rxWord0Read m c => Sys2Proof.Machine.execRxWord0Read m c s
  | .mbxTimeout c sideA => Sys2Proof.Machine.execMbxTimeout c sideA s
  | .doorbellWrite m d value => Sys2Proof.Machine.execDoorbellWrite m d value s
  | .dbInRead m d => Sys2Proof.Machine.execDbInRead m d s
  | .selftestDone x pass item => Sys2Proof.Machine.execSelftestDone x pass item s
  | .selftestPeriodic x => Sys2Proof.Machine.execSelftestPeriodic x s
  | .complexStart x => Sys2Proof.Machine.execComplexStart x s
  | .imageCopyCheck x good => Sys2Proof.Machine.execImageCopyCheck x good s
  | .checkpointRestore x ecc => Sys2Proof.Machine.execCheckpointRestore x ecc s
  | .promote m x => Sys2Proof.Machine.execPromote m x s
  | .bootTimeout x => Sys2Proof.Machine.execBootTimeout x s
  | .lockstep x => Sys2Proof.Machine.execLockstep x s
  | .complexEcc x correctable => Sys2Proof.Machine.execComplexEcc x correctable s
  | .watchdog x => Sys2Proof.Machine.execWatchdog x s
  | .kick m x => Sys2Proof.Machine.execKick m x s
  | .selfFault m x => Sys2Proof.Machine.execSelfFault m x s
  | .forceFault m x => Sys2Proof.Machine.execForceFault m x s
  | .restart m x => Sys2Proof.Machine.execRestart m x s
  | .autoRestart x => Sys2Proof.Machine.execAutoRestart x s
  | .start m x => Sys2Proof.Machine.execStart m x s
  | .ckptGo m len data => Sys2Proof.Machine.execCkptGo m len data s
  | .ckptRetained => Sys2Proof.Machine.execCkptRetained s
  | .ckptLp4xDone => Sys2Proof.Machine.execCkptLp4xDone s
  | .ckptStale => Sys2Proof.Machine.execCkptStale s
  | .imgGo m pages => Sys2Proof.Machine.execImgGo m pages s
  | .imageLoadDone busOk good version => Sys2Proof.Machine.execImageLoadDone busOk good version s
  | .statusClear m w value => Sys2Proof.Machine.execStatusClear m w value s
  | .coalesceEnd v => Sys2Proof.Machine.execCoalesceEnd v s
  | .tallyPeriod => Sys2Proof.Machine.execTallyPeriod s
  | .tallyEntryWritten => Sys2Proof.Machine.execTallyEntryWritten s
  | .coalescerSend n lineHigh => Sys2Proof.Machine.execCoalescerSend n lineHigh s
  | .tapUp => Sys2Proof.Machine.execTapUp s
  | .tapDown => Sys2Proof.Machine.execTapDown s
  | .cartSendProcess => Sys2Proof.Machine.execCartSendProcess s
  | .intervalEnd op => Sys2Proof.Machine.execIntervalEnd op s
  | .ident r op prog => Sys2Proof.Machine.execIdent r op prog s
  | .readRecord r => Sys2Proof.Machine.execReadRecord r s
  | .readMeters r => Sys2Proof.Machine.execReadMeters r s
  | .timeTag r => Sys2Proof.Machine.execTimeTag r s
  | .readParams r => Sys2Proof.Machine.execReadParams r s
  | .progOpen r prog => Sys2Proof.Machine.execProgOpen r prog s
  | .progMap r => Sys2Proof.Machine.execProgMap r s
  | .progParam r => Sys2Proof.Machine.execProgParam r s
  | .progKey r => Sys2Proof.Machine.execProgKey r s
  | .progCommit r op => Sys2Proof.Machine.execProgCommit r op s
  | .progClose r => Sys2Proof.Machine.execProgClose r s
  | .cartProgLow => Sys2Proof.Machine.execCartProgLow s
  | .vddCartLoss => Sys2Proof.Machine.execVddCartLoss s
  | .vddCartRise => Sys2Proof.Machine.execVddCartRise s
  | .refLost ref => Sys2Proof.Machine.execRefLost ref s
  | .refFreqWindow ref ppm => Sys2Proof.Machine.execRefFreqWindow ref ppm s
  | .pllUnlock => Sys2Proof.Machine.execPllUnlock s
  | .porstN asserted strapSpi strapRef => Sys2Proof.Machine.execPorstN asserted strapSpi strapRef s
  | .perstN asserted => Sys2Proof.Machine.execPerstN asserted s
  | .warmRstN asserted => Sys2Proof.Machine.execWarmRstN asserted s
  | .pllLockAttempt locked => Sys2Proof.Machine.execPllLockAttempt locked s
  | .spiLoadDone f => Sys2Proof.Machine.execSpiLoadDone f s
  | .readySet bit => Sys2Proof.Machine.execReadySet bit s
  | .trainingDone n passed failStep => Sys2Proof.Machine.execTrainingDone n passed failStep s
  | .retrain m => Sys2Proof.Machine.execRetrain m s
  | .periodicCal n => Sys2Proof.Machine.execPeriodicCal n s
  | .tempSample t => Sys2Proof.Machine.execTempSample t s
  | .pdReqGo m target => Sys2Proof.Machine.execPdReqGo m target s
  | .wake w => Sys2Proof.Machine.execWake w s
  | .powerControllerCycle => Sys2Proof.Machine.execPowerControllerCycle s
  | .avsAck rail good => Sys2Proof.Machine.execAvsAck rail good s
  | .switchReady d => Sys2Proof.Machine.execSwitchReady d s
  | .fallDrainDone d => Sys2Proof.Machine.execFallDrainDone d s
  | .transitionAbort d => Sys2Proof.Machine.execTransitionAbort d s
  | .avsLowerAck rail good => Sys2Proof.Machine.execAvsLowerAck rail good s
  | .scrubRead x => Sys2Proof.Machine.execScrubRead x s
  | .creelAudit b => Sys2Proof.Machine.execCreelAudit b s
  | .mapBufferOverflow lane rx => Sys2Proof.Machine.execMapBufferOverflow lane rx s
  | .tallySnapshotAtTime => Sys2Proof.Machine.execTallySnapshotAtTime s

end Sys2Proof.Machine
end

