-- ==== Sys2Proof/WellFormed.lean ====
section
/-! DEFINITION. Which commands are well formed: every operand that names a thing of the block names one that exists. -/

namespace Sys2Proof

/-- A master: one of the identities of R103, and a sequencer thread that exists. -/
def Master.wf (m : Master) : Bool := decide (1 ≤ m.id) && decide (m.id ≤ 21) && decide (m.thread < 8)

/-- An instruction of a thread that exists. -/
def AxOp.wf (o : AxOp) : Bool := decide (o.thread < 8)

/-- A write: to BAR0, BAR2 or BAR4, at a doubleword address, with data. -/
def BusWrite.wf (w : BusWrite) : Bool := (w.bar == 0 || w.bar == 2 || w.bar == 4) && !w.dws.isEmpty

/-- Bytes stored into the memory of a function that exists. -/
def HostStore.wf (h : HostStore) : Bool := decide (h.func < 16) && decide (h.addr + h.bytes.length ≤ 2 ^ 64)

/-- Line bytes whose positions lie among them. -/
def LineRx.wf (r : LineRx) : Bool := r.starts.all (fun i => decide (i < r.bytes.length)) && r.viols.all (fun i => decide (i < r.bytes.length))

/-- A scrub read of a structure of R517. -/
def ScrubFind.wf (x : ScrubFind) : Bool := decide (x.target < 25) && decide (x.found < 3)

/-- The well-formed commands. -/
def Instr.wf : Instr → Bool
  | .tailWrite m ring _ stores => m.wf && decide (ring < 64) && stores.all HostStore.wf
  | .cqHeadWrite m ring _ => m.wf && decide (ring < 64)
  | .programStart _ => true
  | .cqStall ring => decide (ring < 64)
  | .threadHalt thread => decide (thread < 8)
  | .ringErrClear m ring => m.wf && decide (ring < 64)
  | .budgetExpiry thread => decide (thread < 8)
  | .waitTimeout thread => decide (thread < 8)
  | .undefinedOpcode o => o.wf
  | .ldi o => o.wf
  | .mov o => o.wf
  | .add o => o.wf
  | .sub o => o.wf
  | .and o => o.wf
  | .or o => o.wf
  | .xor o => o.wf
  | .shl o => o.wf
  | .shr o => o.wf
  | .cmp o => o.wf
  | .br o => o.wf
  | .bcc o => o.wf
  | .call o => o.wf
  | .ret o => o.wf
  | .halt o => o.wf
  | .trap o => o.wf
  | .rrd o => o.wf
  | .rwm o => o.wf
  | .rpoll o => o.wf
  | .rpollRead thread => decide (thread < 8)
  | .ld o => o.wf
  | .st o => o.wf
  | .copy o => o.wf
  | .twr o => o.wf
  | .tdel o => o.wf
  | .tfind o => o.wf
  | .tage o => o.wf
  | .vopen o => o.wf
  | .vput o => o.wf
  | .vcommit o => o.wf
  | .vcommitSlotFree thread => decide (thread < 8)
  | .vwait o => o.wf
  | .vabort o => o.wf
  | .versionRetire rset slot => decide (rset < 64) && decide (slot < 4)
  | .qnew o => o.wf
  | .qmap o => o.wf
  | .qpin o => o.wf
  | .qunpin o => o.wf
  | .qflush o => o.wf
  | .qfree o => o.wf
  | .shset o => o.wf
  | .gcl o => o.wf
  | .gswap o => o.wf
  | .tmset o => o.wf
  | .tmadj o => o.wf
  | .tmwait o => o.wf
  | .tmwaitDone thread => decide (thread < 8)
  | .tmarm o => o.wf
  | .pdreq o => o.wf
  | .waitev o => o.wf
  | .waitevWake thread => decide (thread < 8)
  | .signal o => o.wf
  | .fence o => o.wf
  | .fenceDone thread => decide (thread < 8)
  | .batch o => o.wf
  | .endbatch o => o.wf
  | .endbatchRelease thread => decide (thread < 8)
  | .endbatchDone thread => decide (thread < 8)
  | .csnap o => o.wf
  | .plctx o => o.wf
  | .loadp o => o.wf
  | .progSwitch pipe => decide (pipe < 8)
  | .registerWrite m w => m.wf && w.wf
  | .boundaryApply _ blk _ _ => decide (blk < 19)
  | .rcRead m _ _ => m.wf
  | .pairLowRead m _ _ => m.wf
  | .bindLock m => m.wf
  | .bootRetry m => m.wf
  | .portDisableDone p => decide (p < 128)
  | .anComplete p _ => decide (p < 128)
  | .ltDone p _ => decide (p < 128)
  | .linkUp p _ => decide (p < 128)
  | .lockTimeout p => decide (p < 128)
  | .localFault p => decide (p < 128)
  | .remoteFault p => decide (p < 128)
  | .rfaultClear p _ => decide (p < 128)
  | .fecCodeword p _ _ _ => decide (p < 128)
  | .frameReceive p _ _ => decide (p < 128)
  | .frameEnd p _ _ => decide (p < 128)
  | .surveyParse _ => true
  | .learnWrite => true
  | .addrExtReadDone _ _ => true
  | .mirrorEntryWrite => true
  | .slathCellTime _ => true
  | .creelCacheMaint b _ => decide (b < 8)
  | .spillInitDone b => decide (b < 8)
  | .spillCopyDone b q => decide (b < 8) && decide (q < 65536)
  | .readBackDone b q _ => decide (b < 8) && decide (q < 65536)
  | .loanReturn m _ => m.wf
  | .loanReclaim m _ => m.wf
  | .frameTransmit p _ => decide (p < 128)
  | .frameTxEnd p => decide (p < 128)
  | .verifyTimer p => decide (p < 128)
  | .pauseReceive p _ => decide (p < 128)
  | .pauseExpiry p u => decide (p < 128) && decide (u < 9)
  | .pauseRefresh p => decide (p < 128)
  | .pauseWdog p u => decide (p < 128) && decide (u < 9)
  | .holdoffEnd p u => decide (p < 128) && decide (u < 9)
  | .snap m _ => m.wf
  | .startPattern lane rx => decide (lane < 24) && rx.wf
  | .candidateCheck lane rx => decide (lane < 24) && rx.wf
  | .hyperframeCheck lane rx => decide (lane < 24) && rx.wf
  | .defectTick lane rx _ _ _ => decide (lane < 24) && rx.wf
  | .sdWindowEnd lane rx => decide (lane < 24) && rx.wf
  | .mapperEmit lane rx => decide (lane < 24) && rx.wf
  | .containerDequeue lane _ => decide (lane < 24)
  | .poUnderrun lane _ => decide (lane < 24)
  | .cmExtract lane _ _ => decide (lane < 24)
  | .ageVisit ix => decide (ix < 8912896)
  | .recircReentry n => decide (n < 8)
  | .pageInStart b => decide (b < 8)
  | .eviction b => decide (b < 8)
  | .pageInDone q _ => decide (q < 65536)
  | .qpageFault b => decide (b < 8)
  | .holdExpiry p => decide (p < 128)
  | .schedSelect n => decide (n < 8)
  | .graticuleVisit _ => true
  | .gateEntry p => decide (p < 152)
  | .gclSwitch p => decide (p < 152)
  | .deadlineSlot p c => decide (p < 152) && decide (c < 8)
  | .plaitTake k => decide (k < 4)
  | .windowOpen x => decide (x < 256)
  | .windowClose x => decide (x < 256)
  | .timeChangeApply => true
  | .nowFracRead m => m.wf
  | .tsPop m => m.wf
  | .ppsOutPulse => true
  | .ppsIn _ => true
  | .ppsLoss => true
  | .cap k _ => decide (k < 4)
  | .trig k => decide (k < 4)
  | .todRx _ _ => true
  | .txArm m _ => m.wf
  | .todTxStart => true
  | .todTxDone => true
  | .functionLevelReset func kind => decide (func < 16) && decide (kind < 3)
  | .busMasterEnable func _ _ => decide (func < 16)
  | .msixMessage v => decide (v < 64)
  | .slowpathRxDeliver n spq _ => decide (n < 8) && decide (spq < 8)
  | .bufTailWrite m ring _ stores => m.wf && decide (ring < 256) && stores.all HostStore.wf
  | .txTailWrite m ring _ stores => m.wf && decide (ring < 256) && stores.all HostStore.wf
  | .slowpathTx ring _ => decide (ring < 256)
  | .hostInject n => decide (n < 8)
  | .headWriteback ring _ => decide (ring < 256)
  | .crxPop m => m.wf
  | .loanDataAccess m w _ => m.wf && decide (w < 64)
  | .go m c _ => m.wf && decide (c < 64)
  | .cancel m c => m.wf && decide (c < 64)
  | .attNew m c basket => m.wf && decide (c < 64) && decide (basket < 8)
  | .attReturn m c basket idx => m.wf && decide (c < 64) && decide (basket < 8) && decide (idx < 4096)
  | .lockRead m c => m.wf && decide (c < 64)
  | .lockRelease m c _ => m.wf && decide (c < 64)
  | .rxWord0Read m c => m.wf && decide (c < 64)
  | .mbxTimeout c _ => decide (c < 64)
  | .doorbellWrite m d _ => m.wf && decide (d < 64)
  | .dbInRead m d => m.wf && decide (d < 64)
  | .selftestDone x _ item => decide (x < 2) && decide (item < 8)
  | .selftestPeriodic x => decide (x < 2)
  | .complexStart x => decide (x < 2)
  | .imageCopyCheck x _ => decide (x < 2)
  | .checkpointRestore x _ => decide (x < 2)
  | .promote m x => m.wf && decide (x < 2)
  | .bootTimeout x => decide (x < 2)
  | .lockstep x => decide (x < 2)
  | .complexEcc x _ => decide (x < 2)
  | .watchdog x => decide (x < 2)
  | .kick m x => m.wf && decide (x < 2)
  | .selfFault m x => m.wf && decide (x < 2)
  | .forceFault m x => m.wf && decide (x < 2)
  | .restart m x => m.wf && decide (x < 2)
  | .autoRestart x => decide (x < 2)
  | .start m x => m.wf && decide (x < 2)
  | .ckptGo m _ _ => m.wf
  | .ckptRetained => true
  | .ckptLp4xDone => true
  | .ckptStale => true
  | .imgGo m _ => m.wf
  | .imageLoadDone _ _ _ => true
  | .statusClear m w _ => m.wf && decide (w < 36)
  | .coalesceEnd v => decide (v < 64)
  | .tallyPeriod => true
  | .tallyEntryWritten => true
  | .coalescerSend n _ => decide (n < 8)
  | .tapUp => true
  | .tapDown => true
  | .cartSendProcess => true
  | .intervalEnd _ => true
  | .ident _ _ _ => true
  | .readRecord _ => true
  | .readMeters _ => true
  | .timeTag _ => true
  | .readParams _ => true
  | .progOpen _ _ => true
  | .progMap _ => true
  | .progParam _ => true
  | .progKey _ => true
  | .progCommit _ _ => true
  | .progClose _ => true
  | .cartProgLow => true
  | .vddCartLoss => true
  | .vddCartRise => true
  | .refLost ref => decide (ref < 2)
  | .refFreqWindow ref _ => decide (ref < 2)
  | .pllUnlock => true
  | .porstN _ _ _ => true
  | .perstN _ => true
  | .warmRstN _ => true
  | .pllLockAttempt _ => true
  | .spiLoadDone _ => true
  | .readySet bit => decide (bit < 53)
  | .trainingDone n _ failStep => decide (n < 8) && decide (failStep < 7)
  | .retrain m => m.wf
  | .periodicCal n => decide (n < 8)
  | .tempSample _ => true
  | .pdReqGo m target => m.wf && decide (target < 4)
  | .wake w => decide (w < 24)
  | .powerControllerCycle => true
  | .avsAck rail _ => decide (rail < 2)
  | .switchReady d => decide (d < 44)
  | .fallDrainDone d => decide (d < 44)
  | .transitionAbort d => decide (d < 44)
  | .avsLowerAck rail _ => decide (rail < 2)
  | .scrubRead x => x.wf
  | .creelAudit b => decide (b < 8)
  | .mapBufferOverflow lane rx => decide (lane < 24) && rx.wf
  | .tallySnapshotAtTime => true

end Sys2Proof
end

