-- ==== Sys2Proof/Safety.lean ====
section
/-! DEFINITION. What the claims call a sound state, an unchanged field and a safe run, in the terms the statements use. -/

namespace Sys2Proof.Machine

open Sys2Proof

/-- Keys strictly rising above a bound. -/
def sriseFrom {β : Type} : Nat → Sparse β → Bool
  | _, [] => true
  | lo, (k, _) :: r => decide (lo ≤ k) && sriseFrom (k + 1) r

/-- Keys strictly rising. -/
def srise {β : Type} (m : Sparse β) : Bool := sriseFrom 0 m

/-- Every sparse map of the state is in its one canonical form: keys strictly rising, and no entry equal to what an unlisted key
reads as (of `frames`, where a listed key is a frame that exists, the keys only). -/
structure State.Canonical (s : State) : Prop where
  regs : swf regReset s.regs = true
  banks : swf (fun _ => 0) s.banks = true
  mem : Memory.wf s.mem = true
  tabs : swf (fun _ => 0) s.tabs = true
  threads : swf (fun _ => {}) s.threads = true
  rings : swf (fun _ => {}) s.rings = true
  lastStarted : swf (fun _ => 63) s.lastStarted = true
  doms : swf (fun _ => {}) s.doms = true
  rails : swf (fun _ => {}) s.rails = true
  cplx : swf (fun _ => {}) s.cplx = true
  vecs : swf (fun _ => {}) s.vecs = true
  lanes : swf (fun _ => {}) s.lanes = true
  frames : srise s.frames = true
  copies : swf (fun _ => {}) s.copies = true
  queues : swf queueDflt s.queues = true
  pagers : swf (fun _ => {}) s.pagers = true
  objs : swf objDflt s.objs = true
  rounds : swf (fun _ => 0) s.rounds = true
  gates : swf (fun _ => {}) s.gates = true
  creel : swf (fun _ => {}) s.creel = true
  ports : swf (fun _ => {}) s.ports = true
  surveys : swf (fun _ => {}) s.surveys = true
  pipes : swf (fun _ => {}) s.pipes = true
  plait : swf (fun _ => {}) s.plait = true
  plaitIn : swf (fun _ => []) s.plaitIn = true
  mbx : swf (fun _ => {}) s.mbx = true
  ruleCnt : swf (fun _ => 0) s.ruleCnt = true
  msix : swf (fun _ => 2 ^ 96) s.msix = true
  taps : swf (fun _ => {}) s.taps = true

/-- The fields of the state, by name, to say what a command leaves as it was. -/
inductive StateField where
  | pending | now | rdata | fresh | regs | banks | failed | mem | tabs | threads | rings | lastStarted | doms
  | rails | nextReq | boot | cplx | store | mer | vecs | tally | lanes | frames | nextFrame | copies | queues
  | pagers | objs | rounds | gates | slath | creel | ports | fwd | surveys | legend | pipes | poison | plait
  | plaitIn | mbx | ruleCnt | msix | taps | cart
  deriving DecidableEq, Repr

/-- A field has the same value in two states. -/
def StateField.same (f : StateField) (s t : State) : Prop :=
  match f with
  | .pending => t.pending = s.pending
  | .now => t.now = s.now
  | .rdata => t.rdata = s.rdata
  | .fresh => t.fresh = s.fresh
  | .regs => t.regs = s.regs
  | .banks => t.banks = s.banks
  | .failed => t.failed = s.failed
  | .mem => t.mem = s.mem
  | .tabs => t.tabs = s.tabs
  | .threads => t.threads = s.threads
  | .rings => t.rings = s.rings
  | .lastStarted => t.lastStarted = s.lastStarted
  | .doms => t.doms = s.doms
  | .rails => t.rails = s.rails
  | .nextReq => t.nextReq = s.nextReq
  | .boot => t.boot = s.boot
  | .cplx => t.cplx = s.cplx
  | .store => t.store = s.store
  | .mer => t.mer = s.mer
  | .vecs => t.vecs = s.vecs
  | .tally => t.tally = s.tally
  | .lanes => t.lanes = s.lanes
  | .frames => t.frames = s.frames
  | .nextFrame => t.nextFrame = s.nextFrame
  | .copies => t.copies = s.copies
  | .queues => t.queues = s.queues
  | .pagers => t.pagers = s.pagers
  | .objs => t.objs = s.objs
  | .rounds => t.rounds = s.rounds
  | .gates => t.gates = s.gates
  | .slath => t.slath = s.slath
  | .creel => t.creel = s.creel
  | .ports => t.ports = s.ports
  | .fwd => t.fwd = s.fwd
  | .surveys => t.surveys = s.surveys
  | .legend => t.legend = s.legend
  | .pipes => t.pipes = s.pipes
  | .poison => t.poison = s.poison
  | .plait => t.plait = s.plait
  | .plaitIn => t.plaitIn = s.plaitIn
  | .mbx => t.mbx = s.mbx
  | .ruleCnt => t.ruleCnt = s.ruleCnt
  | .msix => t.msix = s.msix
  | .taps => t.taps = s.taps
  | .cart => t.cart = s.cart

/-- The number of a field. -/
def StateField.ix : StateField → Nat
  | .pending => 0
  | .now => 1
  | .rdata => 2
  | .fresh => 3
  | .regs => 4
  | .banks => 5
  | .failed => 6
  | .mem => 7
  | .tabs => 8
  | .threads => 9
  | .rings => 10
  | .lastStarted => 11
  | .doms => 12
  | .rails => 13
  | .nextReq => 14
  | .boot => 15
  | .cplx => 16
  | .store => 17
  | .mer => 18
  | .vecs => 19
  | .tally => 20
  | .lanes => 21
  | .frames => 22
  | .nextFrame => 23
  | .copies => 24
  | .queues => 25
  | .pagers => 26
  | .objs => 27
  | .rounds => 28
  | .gates => 29
  | .slath => 30
  | .creel => 31
  | .ports => 32
  | .fwd => 33
  | .surveys => 34
  | .legend => 35
  | .pipes => 36
  | .poison => 37
  | .plait => 38
  | .plaitIn => 39
  | .mbx => 40
  | .ruleCnt => 41
  | .msix => 42
  | .taps => 43
  | .cart => 44

/-- t differs from s at most in the listed fields. -/
def OnlyChanges (fs : List StateField) (s t : State) : Prop := ∀ f : StateField, f ∉ fs → f.same s t

/-- A run of k steps from s neither faults nor is refused. -/
def Safe (k : Nat) (s : State) : Prop := ∃ t, Sys2Proof.core.run k s = .next t

end Sys2Proof.Machine
end

