-- ==== Sys2Proof/Claims.lean ====
section
/-! DEFINITION. The words the statements use: what a command leaves unchanged, and what an Axsel instruction reads and does to its thread. -/

namespace Sys2Proof.Machine

open Sys2Proof

/-! ### What the statements leave unchanged -/

/-- At most thread n differs. -/
def OnlyThread (n : Nat) (s t : State) : Prop := OnlyChanges [.threads] s t ∧ ∀ k, k ≠ n → t.thr k = s.thr k

/-- At most the registers with the listed keys differ. -/
def OnlyRegs (ks : List Nat) (s t : State) : Prop := ∀ k, k ∉ ks → t.cell k = s.cell k

/-- Every register outside block b reads as before, but for those with the listed keys. -/
def OutsideBlock (b : Nat) (ks : List Nat) (s t : State) : Prop := ∀ k, keyBlk k ≠ b → k ∉ ks → t.cell k = s.cell k

/-- Every byte of memory outside the n bytes from a on reads as before. -/
def OnlyBytes (a n : Nat) (s t : State) : Prop := ∀ k, k < a ∨ a + n ≤ k → t.mget k = s.mget k

/-- The key of the register that holds a field. -/
def rowKey (r : Row) (inst : Nat := 0) (ix : List Nat := []) : Nat := regKey r.blk inst (rowAdr r ix)

/-! ### Axsel instructions -/

/-- The thread that `o` names can execute (R43, R53), and the instruction that it fetches is the word w, with opcode op, and the
extension words e, which end at LEN or before it (R58). -/
structure Fetches (s : State) (o : AxOp) (op w : Nat) (e : List Nat) : Prop where
  run : s.canRun o.thread = true
  word : s.fetchWord o.thread (s.thr o.thread).pc o.fault = .ok w
  code : bits w 63 56 = op
  ext : s.fetchWords o.thread ((s.thr o.thread).pc + 1) o.fault e.length = .ok e
  fits : (s.thr o.thread).len = 0 ∨ (s.thr o.thread).pc + 1 + e.length ≤ (s.thr o.thread).len

/-- Thread n's program goes on at word p after `cost` control cycles: p is not at its LEN, and its budget does not run out (R46, R53). -/
def GoesOn (s : State) (n p cost : Nat) : Prop :=
  ((s.thr n).len = 0 ∨ p < (s.thr n).len) ∧ ((s.thr n).budget = 0 ∨ (s.thr n).charged + cost < (s.thr n).budget)

/-- A thread that has gone on at word p after `cost` control cycles. -/
def Thread.goneTo (x : Thread) (p cost : Nat) : Thread := { x with charged := x.charged + cost, pc := p }

/-- The second operand of an arithmetic instruction (R66): IMM, sign-extended, with flag 53, else register C. -/
def Thread.operand (x : Thread) (w : Nat) : DWord :=
  if bit w 53 then BitVec.ofInt 64 (signed 32 (bits w 31 0)) else x.reg (bits w 43 40)

/-- A thread that has begun to wait at core cycle `now`, after `cost` control cycles, with the TO, SOFT and length of its instruction (R53, R61). -/
def Thread.waits (x : Thread) (k : WaitKind) (now w len cost : Nat) : Thread :=
  { x with charged := x.charged + cost, wait := some ⟨k, now, (toCycles (bits w 39 24)).map (now + ·), bit w 52, len⟩ }

/-- The register address of an RRD or RWM word (R70): ADDR, or B + ADDR with IND. -/
def Thread.address (x : Thread) (w : Nat) : Nat := (if bit w 53 then (x.reg (bits w 47 44)).toNat else 0) + bits w 23 0

/-- A register address that R70 lets through for the thread's ring, `blocks` being its RD_BLOCKS or WR_BLOCKS. -/
def Addressed (s : State) (n : Nat) (blocks : Row) (a : Nat) : Prop :=
  a < 0x1000000 ∧ a % 4 = 0 ∧ bit (s.rget blocks 0 [(s.thr n).ring]) (a / 2 ^ 20) = true

/-- The ring of thread n's program holds an instruction class (R41). -/
def Holds (s : State) (n cls : Nat) : Prop := bit (s.rget Reg.BIND_CLASS 0 [(s.thr n).ring]) cls = true

/-- The `len` bytes from address a on of the store window (loc) or of the ring's host memory can be accessed (R40, R48), and the first of
them has the key. -/
def Reaches (s : State) (o : AxOp) (loc : Bool) (a len key : Nat) : Prop :=
  if loc then s.inWindow (s.thr o.thread).ring a len = true ∧ key = storeKey a
  else ∃ f, s.ringFunc (s.thr o.thread).ring = some f ∧ s.hostPath f = true ∧ o.fault ≠ .dataBus ∧ a + len ≤ 2 ^ 64 ∧ key = hostKey f a

/-- The conditions of the table of R69, by code. -/
def Thread.holds (x : Thread) : Nat → Prop
  | 0x0 => x.z = true
  | 0x1 => x.z = false
  | 0x2 => x.c = true
  | 0x3 => x.c = false
  | 0x4 => x.n ≠ x.v
  | 0x5 => x.n = x.v
  | 0x6 => x.z = false ∧ x.n = x.v
  | 0x7 => x.z = true ∨ x.n ≠ x.v
  | 0x8 => x.c = false ∧ x.z = false
  | 0x9 => x.c = true ∨ x.z = true
  | 0xA => x.e = true
  | 0xB => x.e = false
  | 0xC => x.t = true
  | 0xD => x.t = false
  | 0xE => x.v = true
  | _ => False

/-! ### The end of a program -/

/-- Thread n runs a program of one of the 64 rings outside a batch, so that its program can end as R36 states. -/
def CanEnd (s : State) (n : Nat) : Prop := (s.thr n).ring < 64 ∧ (s.thr n).batch = none


/-- The counter of vectors that no function holds (R364), both halves. -/
def lostVecKeys : List Nat := [rowKey Reg.HOST_CNT 0 [2], rowKey Reg.HOST_CNT 0 [2] + 4]

/-- The 32 bytes of a completion record (R34, R36). -/
def recordBytes (ring tag st thread trap fo cycles phase short result : Nat) : List Byte :=
  leBytes 8 (tag * 2 ^ 48 + st * 2 ^ 40 + thread * 2 ^ 37 + ring * 2 ^ 26 + trap * 2 ^ 16 + phase) ++
  leBytes 8 (fo * 2 ^ 32 + min cycles 0xFFFFFFFF) ++ leBytes 8 short ++ leBytes 8 result

/-- The program of thread n has ended with status st, FAULT_OFFSET fo, TRAP_CODE trap and `cycles` control cycles (R36, R46, R56): the
thread is idle; the 32 bytes of the record stand at the tail of the completion ring, which has advanced, and no other byte of memory
changed, or, where the record cannot be written, the ring has stopped with BUS (R48) and no byte changed; a status of 0x10 or above
raised THREAD_FAULT_n; no register outside blocks 3 (events), 4 (the ring's), 15 (Tally) and 18 (the ring's indices) changed. -/
structure Ended (s t : State) (n st fo trap cycles : Nat) : Prop where
  idle : t.thr n = {}
  others : ∀ k, k ≠ n → t.thr k = s.thr k
  record : ∀ key, let r := (s.thr n).ring
    let ct := s.rget Reg.DB_CQ_TAIL r
    let size := s.ringSize r
    s.ringKey r (s.cqBase r) (32 * (ct % size)) = some key →
    t.mread key 32 = recordBytes r (s.thr n).tag st n trap fo cycles (1 - ct / size % 2) s.short ((s.thr n).reg 15).toNat ∧
    OnlyBytes key 32 s t ∧ t.rget Reg.DB_CQ_TAIL r = (ct + 1) % 65536
  unwritten : let r := (s.thr n).ring
    s.ringKey r (s.cqBase r) (32 * (s.rget Reg.DB_CQ_TAIL r % s.ringSize r)) = none →
    t.mem = s.mem ∧ t.rget Reg.SEQ_EN 0 [r] = 0 ∧ t.rget Reg.SEQ_ERR 0 [r] = 1
  fault : 0x10 ≤ st → t.evStatus (984 + n) = true
  frame : OnlyChanges [.regs, .vecs, .mem, .threads, .rings, .legend] s t
  regs : ∀ k, keyBlk k ∉ [3, 4, 15, 18] → k ∉ lostVecKeys → t.cell k = s.cell k

end Sys2Proof.Machine
end

