-- ==== Sys2Proof/Certificates/Slice0/Obligations.lean ====
section
/-! DEFINITION. The statements for the provers: what the commands and the block do, by the numbered rules of the spec. -/

open Sys2Proof Sys2Proof.Machine

/-- For every state whose queue of waiting commands begins with a command, one step answers exactly what the command's meaning answers on the same
state with the queue's rest. -/
def Obligations.FrontOfQueue : Prop := ∀ (s : State) (c : Instr) (r : List Instr), s.pending = c :: r → step s = exec c { s with pending := r }

/-- In every canonical state with an empty queue: under PORST_N or without clocks only the model's cycle count advances. Otherwise, with PD_MERIDIAN on,
ADDEND is added to the nanoseconds and carried into the seconds at 10^9 ns, and a loaded ADDEND holds from the next cycle on; each pipe whose
domain is on counts CLOCKS and exactly one of its five first categories, each thread on an odd cycle with PD_SEQ on its CLOCKS; the queue,
memory, tables and everything but counters, pipes and time stay. That a step without a command is a core cycle is the model's choice. -/
def Obligations.IdleCycle : Prop := ∀ (s : State), s.Canonical → s.pending = [] →
  (s.boot.porst = true ∨ s.clockless = true → step s = .next { s with now := s.now + 1 }) ∧
  (s.boot.porst = false → s.clockless = false → ∃ t, step s = .next t ∧ t.now = s.now + 1 ∧ OnlyChanges [.now, .regs, .mer, .pipes] s t ∧
    (s.domOn 41 = false → t.mer = s.mer) ∧
    (s.domOn 41 = true → let a := s.rget Reg.MERID_ADDEND
      let x := s.mer.sub + a
      let second := 1000000000 * 2 ^ 32
      t.mer = { s.mer with sec := (s.mer.sec + x / second) % 2 ^ 48, sub := x % second, resid := s.mer.resid + a, addendNext := none } ∧
      t.rget Reg.MERID_ADDEND = match s.mer.addendNext with | some n => n % 2 ^ 32 | none => a) ∧
    ∀ n, n < 8 →
      let pipe (w k : Nat) : Prop := t.pget Reg.TALLY_PIPE_WORD 0 [n, w] = (s.pget Reg.TALLY_PIPE_WORD 0 [n, w] + k) % 2 ^ 64
      (s.domOn (8 + n) = false → ∀ w, w < 20 → pipe w 0) ∧
      (s.domOn (8 + n) = true → s.oldestOut n < 12 → pipe 0 1 ∧ ∃ w, 1 ≤ w ∧ w ≤ 5 ∧ ∀ v, 1 ≤ v → v ≤ 5 → pipe v (if v = w then 1 else 0)) ∧
      t.pget Reg.TALLY_THREAD_WORD 0 [n, 0] = (s.pget Reg.TALLY_THREAD_WORD 0 [n, 0] + if s.now % 2 = 1 ∧ s.domOn 43 = true then 1 else 0) % 2 ^ 64)

/-- The state right after reset is canonical, holds no command, is under PORST_N in state RESET with no READY_MAP bit, every power domain off, every thread
idle and every mailbox slot empty; PART, FAMILY and REV read their values, ADDEND its nominal one, and every register its reset value. -/
def Obligations.ResetState : Prop := let s := State.reset
  s.Canonical ∧ s.pending = [] ∧ s.boot.porst = true ∧ s.rget Reg.GLOBAL_PART = 0x6408 ∧ s.rget Reg.GLOBAL_FAMILY = 1 ∧ s.rget Reg.GLOBAL_REV = 0x10 ∧
  s.rget Reg.GLOBAL_STATE = 0 ∧ s.rget Reg.GLOBAL_READY_MAP = 0 ∧ s.rget Reg.GLOBAL_READY_MAP_HI = 0 ∧ s.rget Reg.MERID_ADDEND = 0xA0000000 ∧
  (∀ d, d < 44 → s.dom d = 0) ∧ (∀ n, (s.thr n).running = false) ∧ (∀ c, (s.chan c).a.full = false ∧ (s.chan c).b.full = false) ∧
  (∀ k, s.cell k = regReset k)

/-- For every command and every state, the command's meaning answers a next state: none faults and none is refused. It touches neither the queue of
waiting commands nor the model's own cycle count. -/
def Obligations.CommandsAnswer : Prop := ∀ (c : Instr) (s : State), ∃ t, exec c s = .next t ∧ t.pending = s.pending ∧ t.now = s.now

/-- For every canonical state, reachable or not, every step, whether it runs a command or a core cycle, answers a next state, and that state is
canonical: registers, banks, memory, tables and every other map of the block list their keys in strict order and no entry equal to its default, so that
equal contents are equal data. -/
def Obligations.CanonicalKept : Prop := ∀ (s : State), s.Canonical → ∃ t, step s = .next t ∧ t.Canonical

/-- For every state in which the audit counter is at most 256, at most 16 generations exist and a key is staged only while none is set, every step keeps
this so; the audit counter does not fall, the committed generations stay as they are with any new one after them, a key that is set stays the same,
and the key first set is one that a session had staged. No command, reset or core cycle escapes it. -/
def Obligations.SealedParameters : Prop :=
  let sealed (c : CartX) : Prop := c.audit ≤ 256 ∧ c.gens.length ≤ 16 ∧ ∀ x, c.session = some x → x.key ≠ none → c.key = none
  ∀ (s t : State), sealed s.cart → step s = .next t → sealed t.cart ∧ s.cart.audit ≤ t.cart.audit ∧ (∃ l, t.cart.gens = s.cart.gens ++ l ∧ l.length ≤ 1) ∧
    (∀ k, s.cart.key = some k → t.cart.key = some k) ∧
    (s.cart.key = none → ∀ k, t.cart.key = some k → ∃ x, s.cart.session = some x ∧ x.key = some k)

/-- In every canonical state whose thread fetches a legal ADD, SUB or CMP and goes on behind it, exec answers a next state: ADD and SUB
write B + op and B - op to register A, CMP writes no register; Z and N describe the result, C is the carry out of bit 63 (ADD) or the
unsigned borrow (SUB, CMP), V is set exactly when the signed result differs from the exact one; one control cycle and the access delay are
charged, pc advances by one word, T, E and LSTAT stay, and no other thread and no other field of the state changes. -/
def Obligations.AluSums : Prop := ∀ (s : State) (o : AxOp) (w : Nat), s.Canonical →
  GoesOn s o.thread ((s.thr o.thread).pc + 1) (1 + o.delay) →
  let x := s.thr o.thread
  let b := x.reg (bits w 47 44)
  let y := x.operand w
  let sum := { x.setReg (bits w 51 48) (b + y) with
    z := b + y == 0, n := (b + y).msb, c := decide (2 ^ 64 ≤ b.toNat + y.toNat), v := decide ((b + y).toInt ≠ b.toInt + y.toInt) }
  let dif := { x with
    z := b - y == 0, n := (b - y).msb, c := decide (b.toNat < y.toNat), v := decide ((b - y).toInt ≠ b.toInt - y.toInt) }
  (Fetches s o 0x03 w [] → legalAlu mA w = true → ∃ t, exec (.add o) s = .next t ∧
    t.thr o.thread = sum.goneTo (x.pc + 1) (1 + o.delay) ∧ OnlyThread o.thread s t) ∧
  (Fetches s o 0x04 w [] → legalAlu mA w = true → ∃ t, exec (.sub o) s = .next t ∧
    t.thr o.thread = (dif.setReg (bits w 51 48) (b - y)).goneTo (x.pc + 1) (1 + o.delay) ∧ OnlyThread o.thread s t) ∧
  (Fetches s o 0x0A w [] → legalAlu 0 w = true → ∃ t, exec (.cmp o) s = .next t ∧
    t.thr o.thread = dif.goneTo (x.pc + 1) (1 + o.delay) ∧ OnlyThread o.thread s t)

/-- In every canonical state whose thread fetches a legal AND, OR, XOR, LDI (immediate or one extension word) or MOV (register or, with
LSTAT, the word of LSTAT and the flags Z, N, C, V, T, E from bit 8) and goes on behind it, exec answers a next state in which register A
holds the result, Z and N describe it, C and V are 0, the cost (2 control cycles for LDI with an extension word, else 1) is charged, pc has
advanced, and no other thread and no other field changed.
In every canonical state whose thread fetches a legal SHL or SHR and goes on behind it, exec answers a next state in which register A
holds B shifted by op[5:0] (SHR: logically, or arithmetically with ARITH), Z and N describe it, C is the last bit shifted out, and 0 for a
shift of 0, V is 0, one control cycle and the delay are charged, and no other thread and no other field changed. -/
def Obligations.AluMovesAndShifts : Prop :=
  (∀ (s : State) (o : AxOp) (w : Nat) (e : List Nat), s.Canonical →
  GoesOn s o.thread ((s.thr o.thread).pc + (1 + e.length)) (1 + e.length + o.delay) →
  let x := s.thr o.thread
  let b := x.reg (bits w 47 44)
  let y := x.operand w
  let put (r : DWord) : Thread := { x.setReg (bits w 51 48) r with z := r == 0, n := r.msb, c := false, v := false }
  let status := x.lstat % 256 + 2 ^ 8 * b2n x.z + 2 ^ 9 * b2n x.n + 2 ^ 10 * b2n x.c + 2 ^ 11 * b2n x.v + 2 ^ 12 * b2n x.t + 2 ^ 13 * b2n x.e
  let done (i : Instr) (r : DWord) : Prop := ∃ t, exec i s = .next t ∧
    t.thr o.thread = (put r).goneTo (x.pc + (1 + e.length)) (1 + e.length + o.delay) ∧ OnlyThread o.thread s t
  (Fetches s o 0x05 w e → e = [] → legalAlu mA w = true → done (.and o) (b &&& y)) ∧
  (Fetches s o 0x06 w e → e = [] → legalAlu mA w = true → done (.or o) (b ||| y)) ∧
  (Fetches s o 0x07 w e → e = [] → legalAlu mA w = true → done (.xor o) (b ^^^ y)) ∧
  (Fetches s o 0x01 w e → okBits w (mA + m53 + mIMM) = true → bit w 53 = false → e = [] → done (.ldi o) (BitVec.ofInt 64 (signed 32 (bits w 31 0)))) ∧
  (∀ d, Fetches s o 0x01 w e → okBits w (mA + m53) = true → bit w 53 = true → e = [d] → done (.ldi o) (BitVec.ofNat 64 d)) ∧
  (Fetches s o 0x02 w e → okBits w (mA + m54 + mB) = true → bit w 54 = false → e = [] → done (.mov o) b) ∧
  (Fetches s o 0x02 w e → okBits w (mA + m54) = true → bit w 54 = true → e = [] → done (.mov o) (BitVec.ofNat 64 status))) ∧
  (∀ (s : State) (o : AxOp) (w : Nat), s.Canonical →
  GoesOn s o.thread ((s.thr o.thread).pc + 1) (1 + o.delay) →
  let x := s.thr o.thread
  let b := x.reg (bits w 47 44)
  let k := (x.operand w).toNat % 64
  let put (r : DWord) (c : Bool) : Thread := { x.setReg (bits w 51 48) r with z := r == 0, n := r.msb, c := c, v := false }
  let shr := if bit w 54 then b.sshiftRight k else b >>> k
  (Fetches s o 0x08 w [] → legalAlu mA w = true → ∃ t, exec (.shl o) s = .next t ∧
    t.thr o.thread = (put (b <<< k) (k != 0 && b.getLsbD (64 - k))).goneTo (x.pc + 1) (1 + o.delay) ∧ OnlyThread o.thread s t) ∧
  (Fetches s o 0x09 w [] → legalAlu (mA + m54) w = true → ∃ t, exec (.shr o) s = .next t ∧
    t.thr o.thread = (put shr (k != 0 && b.getLsbD (k - 1))).goneTo (x.pc + 1) (1 + o.delay) ∧ OnlyThread o.thread s t))

/-- In every canonical state whose thread fetches a legal BR, BCC, CALL or RET, with p = pc + OFFSET inside the program: exec answers a next
state in which BR, and BCC when its condition (the table of R69) holds, have gone to p after 2 control cycles; BCC whose condition does not
hold has gone to pc + 1 after 1; BCC with CLR has cleared E, T and LSTAT in both cases, tested before; CALL has pushed pc + 1 on a stack of
fewer than 8 entries and gone to p; RET has popped its target. No other thread and no other field of the state changes.
In every canonical state whose thread fetches a legal BR, BCC (condition holding), CALL or RET outside a batch: a target below 0, or at LEN
or beyond when LEN is not 0, ends the program with RANGE; a CALL with 8 return addresses stacked and a RET with none end it with STACK. The
program has then ended (`Ended`): the thread is idle, the record with that status, the pc as FAULT_OFFSET and the cycles charged stands at
the completion ring's tail and no other byte changed, THREAD_FAULT of the thread is raised, and the other threads are as before. -/
def Obligations.BranchRules : Prop :=
  (∀ (s : State) (o : AxOp) (w p : Nat), s.Canonical →
  let x := s.thr o.thread
  let clr : Thread := if bit w 53 then { x with e := false, t := false, lstat := 0 } else x
  let done (i : Instr) (y : Thread) (q cost : Nat) : Prop := ∃ t, exec i s = .next t ∧
    t.thr o.thread = y.goneTo q (cost + o.delay) ∧ OnlyThread o.thread s t
  ((p : Int) = x.pc + signed 32 (bits w 31 0) → p < 2 ^ 32 → GoesOn s o.thread p (2 + o.delay) →
    (Fetches s o 0x10 w [] → okBits w mIMM = true → done (.br o) x p 2) ∧
    (Fetches s o 0x11 w [] → okBits w (mA + mIMM + m53) = true → bits w 51 48 ≠ 0xF → x.holds (bits w 51 48) → done (.bcc o) clr p 2) ∧
    (Fetches s o 0x12 w [] → okBits w mIMM = true → x.stack.length < 8 → done (.call o) { x with stack := (x.pc + 1) :: x.stack } p 2)) ∧
  (GoesOn s o.thread (x.pc + 1) (1 + o.delay) → Fetches s o 0x11 w [] → okBits w (mA + mIMM + m53) = true → bits w 51 48 ≠ 0xF →
    ¬ x.holds (bits w 51 48) → done (.bcc o) clr (x.pc + 1) 1) ∧
  (∀ r, x.stack = p :: r → GoesOn s o.thread p (2 + o.delay) → Fetches s o 0x13 w [] → okBits w 0 = true →
    done (.ret o) { x with stack := r } p 2)) ∧
  (∀ (s : State) (o : AxOp) (w : Nat), s.Canonical → CanEnd s o.thread →
  let x := s.thr o.thread
  let p : Int := x.pc + signed 32 (bits w 31 0)
  let ends (i : Instr) (st : Nat) : Prop := ∃ t, exec i s = .next t ∧ Ended s t o.thread st x.pc 0 (x.charged + 2 + o.delay)
  (p < 0 ∨ (x.len ≠ 0 ∧ (x.len : Int) ≤ p) →
    (Fetches s o 0x10 w [] → okBits w mIMM = true → ends (.br o) stRANGE) ∧
    (Fetches s o 0x11 w [] → okBits w (mA + mIMM + m53) = true → bits w 51 48 ≠ 0xF → x.holds (bits w 51 48) →
      ends (.bcc o) stRANGE) ∧
    (Fetches s o 0x12 w [] → okBits w mIMM = true → ends (.call o) stRANGE)) ∧
  (Fetches s o 0x12 w [] → okBits w mIMM = true → 0 ≤ p → p < 2 ^ 32 → (x.len = 0 ∨ p < x.len) → 8 ≤ x.stack.length → ends (.call o) stSTACK) ∧
  (Fetches s o 0x13 w [] → okBits w 0 = true → x.stack = [] → ends (.ret o) stSTACK))

/-- In every canonical state whose thread fetches, outside a batch: HALT ends the program with OK (with NOCOMPL and OK no byte of memory
changes), TRAP ends it with TRAP and bits [7:0] as TRAP_CODE, a word with an opcode outside the table of R65 ends it with ILLEGAL, and so
does an ADD, BR or HALT word with a bit set that its format requires to be 0. The end is `Ended`: idle thread, 32-byte record at the tail of
the completion ring and no other byte changed, THREAD_FAULT raised for every status but OK, other threads as before. -/
def Obligations.ProgramEnds : Prop := ∀ (s : State) (o : AxOp) (w : Nat), s.Canonical → CanEnd s o.thread →
  let x := s.thr o.thread
  let ends (i : Instr) (st trap cost : Nat) : Prop := ∃ t, exec i s = .next t ∧ Ended s t o.thread st x.pc trap (x.charged + cost)
  (Fetches s o 0x14 w [] → okBits w 0 = true → x.nocompl = false → ends (.halt o) stOK 0 (1 + o.delay)) ∧
  (Fetches s o 0x14 w [] → okBits w 0 = true → x.nocompl = true → ∃ t, exec (.halt o) s = .next t ∧ t.thr o.thread = {} ∧ t.mem = s.mem) ∧
  (Fetches s o 0x15 w [] → okBits w 0xFF = true → ends (.trap o) stTRAP (bits w 7 0) (1 + o.delay)) ∧
  (∀ op, op ∉ opcodes → Fetches s o op w [] → ends (.undefinedOpcode o) stILLEGAL 0 0) ∧
  (Fetches s o 0x03 w [] → legalAlu mA w = false → ends (.add o) stILLEGAL 0 0) ∧
  (Fetches s o 0x10 w [] → okBits w mIMM = false → ends (.br o) stILLEGAL 0 0) ∧
  (Fetches s o 0x14 w [] → okBits w 0 = false → ends (.halt o) stILLEGAL 0 0)

/-- In every canonical state: RRD with an address that R70 lets through reads the register as a bus read by the thread's master does, and A
holds the 32-bit value zero-extended; RPOLL and each RPOLL_READ (64 control cycles, 128 core cycles, after the last) read the same way, and
complete when (value & mask) == expected differs from NE; otherwise RPOLL has begun to wait with its TO and the next read 128 core cycles
later, and RPOLL_READ keeps waiting for the read after that. But for what the bus read itself does (and the data of the last bus read, which
stays), only the thread changes.
In every canonical state whose thread fetches a legal RRD outside a batch: an address of 0x100_0000 or more ends the program with RANGE
whatever its alignment and the ring's permissions; below that an address that is no multiple of 4 ends it with ALIGN; and an aligned one
whose block RD_BLOCKS does not grant ends it with PERM. The end is `Ended`, so no register outside the ring's, the events and Tally
changed: nothing was read. -/
def Obligations.RegisterReadRules : Prop :=
  (∀ (s : State) (o : AxOp) (w a d : Nat), s.Canonical →
  let n := o.thread
  let x := s.thr n
  let r := s.regRead ⟨19, n⟩ a
  let v : DWord := BitVec.ofNat 64 r.rdata.toNat
  let ok (ne : Bool) (mask expect : Word) : Prop := ((r.rdata &&& mask) = expect ↔ ne = false)
  let only (t : State) : Prop := OnlyChanges [.threads, .rdata] r t ∧ t.rdata = s.rdata ∧ ∀ k, k ≠ n → t.thr k = r.thr k
  (Addressed s n Reg.BIND_RD_BLOCKS a → Fetches s o 0x20 w [] → x.address w = a →
    okBits w (mA + (if bit w 53 then mB else 0) + m53 + mSEL) = true → GoesOn s n (x.pc + 1) (12 + o.delay) →
    ∃ t, exec (.rrd o) s = .next t ∧ t.thr n = (x.setReg (bits w 51 48) v).goneTo (x.pc + 1) (12 + o.delay) ∧ only t) ∧
  (Addressed s n Reg.BIND_RD_BLOCKS a → Fetches s o 0x22 w [d] → bits w 23 0 = a →
    okBits w (mA + mTO + mSEL + m53) = true → toOk w = true →
    let mask := BitVec.ofNat 32 (bits d 63 32)
    let expect := BitVec.ofNat 32 (bits d 31 0)
    let y := x.setReg (bits w 51 48) v
    (ok (bit w 53) mask expect → GoesOn s n (x.pc + 2) (12 + o.delay) →
      ∃ t, exec (.rpoll o) s = .next t ∧ t.thr n = y.goneTo (x.pc + 2) (12 + o.delay) ∧ only t) ∧
    (¬ ok (bit w 53) mask expect → toCycles (bits w 39 24) ≠ some 0 → ∃ t, exec (.rpoll o) s = .next t ∧
      t.thr n = y.waits (.rpoll (bits w 51 48) a mask expect (bit w 53) (s.now + 128)) s.now w 2 (12 + o.delay) ∧ only t)) ∧
  (∀ ra mask expect ne next since dl soft len, n < 8 → x.wait = some ⟨.rpoll ra a mask expect ne next, since, dl, soft, len⟩ →
    next ≤ s.now →
    let y := x.setReg ra v
    (ok ne mask expect → GoesOn s n (x.pc + len) ((s.now - since) / 2) →
      ∃ t, exec (.rpollRead n) s = .next t ∧ t.thr n = { y.goneTo (x.pc + len) ((s.now - since) / 2) with wait := none } ∧ only t) ∧
    (¬ ok ne mask expect → ∃ t, exec (.rpollRead n) s = .next t ∧
      t.thr n = { y with wait := some ⟨.rpoll ra a mask expect ne (next + 128), since, dl, soft, len⟩ } ∧ only t))) ∧
  (∀ (s : State) (o : AxOp) (w : Nat), s.Canonical → CanEnd s o.thread →
  Fetches s o 0x20 w [] → okBits w (mA + (if bit w 53 then mB else 0) + m53 + mSEL) = true →
  let x := s.thr o.thread
  let a := x.address w
  let ends (st : Nat) : Prop := ∃ t, exec (.rrd o) s = .next t ∧ Ended s t o.thread st x.pc 0 (x.charged + 12 + o.delay)
  (0x1000000 ≤ a → ends stRANGE) ∧
  (a < 0x1000000 → a % 4 ≠ 0 → ends stALIGN) ∧
  (a < 0x1000000 → a % 4 = 0 → bit (s.rget Reg.BIND_RD_BLOCKS 0 [x.ring]) (a / 2 ^ 20) = false → ends stPERM))

/-- In every canonical state whose thread fetches a legal RWM with an address that R70 lets through, V and M from the extension word or, with
REGV, from C (M of 0, and every M for an RWM register, standing for all ones): outside a batch, a write that is accepted has been made, as a
bus write by the thread's master is, and the thread has gone on after 2 control cycles; inside a batch with fewer than 256 held writes the
write is appended to those held and made nowhere; an address of block 14, or THREAD_HALT with M, ends the program with PERM. -/
def Obligations.RegisterMergeWrite : Prop := ∀ (s : State) (o : AxOp) (w a : Nat) (e : List Nat), s.Canonical →
  let n := o.thread
  let x := s.thr n
  let src := if bit w 54 then (x.reg (bits w 43 40)).toNat else e.headD 0
  let v := bits src 31 0
  let rwm := (regRows (placeOf a).blk (placeOf a).off).any (fun r => r.acc == .rwm)
  let m := if bits src 63 32 == 0 || rwm then 0xFFFFFFFF else bits src 63 32
  let p := placeOf a
  Fetches s o 0x21 w e → e.length = (if bit w 54 then 0 else 1) →
  okBits w ((if bit w 53 then mB else 0) + (if bit w 54 then mC else 0) + m53 + m54 + mSEL) = true →
  x.address w = a → Addressed s n Reg.BIND_WR_BLOCKS a →
  (seqForbidden a m = false → x.batch = none → (s.seqWrite n a v m).2 = true →
    let u := (s.seqWrite n a v m).1
    (u.thr n).wait = none → GoesOn u n ((u.thr n).pc + (1 + e.length)) (2 + o.delay) → ∃ t, exec (.rwm o) s = .next t ∧
      t.thr n = (u.thr n).goneTo ((u.thr n).pc + (1 + e.length)) (2 + o.delay) ∧ OnlyThread n u t) ∧
  (∀ l, seqForbidden a m = false → (isSelect p.blk p.off && !p.view) = false → x.batch = some l → l.length < 256 →
    GoesOn s n (x.pc + (1 + e.length)) (2 + o.delay) → ∃ t, exec (.rwm o) s = .next t ∧
    t.thr n = ({ x with batch := some (l ++ [⟨p.blk, s.instOf (32 + n) p.blk p.off, p.off, a, BitVec.ofNat 32 v, BitVec.ofNat 32 m,
      s.bankOut (32 + n)⟩]) } : Thread).goneTo (x.pc + (1 + e.length)) (2 + o.delay) ∧ OnlyThread n s t) ∧
  (seqForbidden a m = true → CanEnd s n → ∃ t, exec (.rwm o) s = .next t ∧ Ended s t n stPERM x.pc 0 (x.charged + 2 + o.delay))

/-- In every canonical state whose thread fetches a legal LD, ST or COPY, its addresses multiples of 8 that the ring can reach (the store window,
or the host memory of the ring's function) and its classes granted: LD leaves in A the little-endian 64-bit word at B + IMM and changes no
byte of memory; after ST the eight bytes at B + IMM are C's, and after COPY the C bytes at A are those that stood at B before, overlapping or
not; every other byte of memory is as before, the cost of the table is charged, and no other thread and no other field changes.
In every canonical state whose thread fetches a legal LD, ST or COPY outside a batch: an address of LD or ST that is no multiple of 8 ends
the program with ALIGN, an aligned one whose class (STORE_WR for a store to the program store, HOST_MEM for host memory) the ring does not
hold with PERM, and a COPY between aligned addresses with a length that is 0, no multiple of 8 or above 65,536 with RANGE: `Ended`, so no byte
outside the completion record changed. -/
def Obligations.MemoryAccesses : Prop :=
  (∀ (s : State) (o : AxOp) (w key : Nat), s.Canonical →
  let n := o.thread
  let x := s.thr n
  let a := (x.reg (bits w 47 44) + BitVec.ofInt 64 (signed 32 (bits w 31 0))).toNat
  let loc := bit w 53
  let cost := if loc then 2 else 4
  let stored (t : State) (k len : Nat) (d : List Byte) : Prop :=
    t.mread k len = d ∧ OnlyBytes k len s t ∧ OnlyChanges [.mem, .threads] s t ∧ ∀ j, j ≠ n → t.thr j = s.thr j
  (a % 8 = 0 → Reaches s o loc a 8 key → GoesOn s n (x.pc + 1) (cost + o.delay) →
    (Fetches s o 0x28 w [] → okBits w (mA + mB + mIMM + m53) = true → (loc = false → Holds s n 11) → ∃ t, exec (.ld o) s = .next t ∧
      t.thr n = (x.setReg (bits w 51 48) (BitVec.ofNat 64 (leNat (s.mread key 8)))).goneTo (x.pc + 1) (cost + o.delay) ∧ OnlyThread n s t) ∧
    (Fetches s o 0x29 w [] → okBits w (mB + mC + mIMM + m53) = true → Holds s n (if loc then 10 else 11) → ∃ t, exec (.st o) s = .next t ∧
      t.thr n = x.goneTo (x.pc + 1) (cost + o.delay) ∧ stored t key 8 (leBytes 8 (x.reg (bits w 43 40)).toNat))) ∧
  (∀ src dst len ks kd, src = (x.reg (bits w 47 44)).toNat → dst = (x.reg (bits w 51 48)).toNat → len = (x.reg (bits w 43 40)).toNat →
    src % 8 = 0 → dst % 8 = 0 → len % 8 = 0 → 0 < len → len ≤ 65536 → Reaches s o (bit w 54) src len ks → Reaches s o loc dst len kd →
    (bit w 54 = false → Holds s n 11) → Holds s n (if loc then 10 else 11) → Fetches s o 0x2A w [] →
    okBits w (mA + mB + mC + m53 + m54) = true → GoesOn s n (x.pc + 1) (6 + (len + 63) / 64 + o.delay) → ∃ t, exec (.copy o) s = .next t ∧
    t.thr n = x.goneTo (x.pc + 1) (6 + (len + 63) / 64 + o.delay) ∧ stored t kd len (s.mread ks len))) ∧
  (∀ (s : State) (o : AxOp) (w : Nat), s.Canonical → CanEnd s o.thread →
  let n := o.thread
  let x := s.thr n
  let a := (x.reg (bits w 47 44) + BitVec.ofInt 64 (signed 32 (bits w 31 0))).toNat
  let cost := if bit w 53 then 2 else 4
  let ends (i : Instr) (st cost : Nat) : Prop := ∃ t, exec i s = .next t ∧ Ended s t n st x.pc 0 (x.charged + cost + o.delay)
  (Fetches s o 0x28 w [] → okBits w (mA + mB + mIMM + m53) = true →
    (a % 8 ≠ 0 → ends (.ld o) stALIGN cost) ∧
    (a % 8 = 0 → bit w 53 = false → ¬ Holds s n 11 → ends (.ld o) stPERM cost)) ∧
  (Fetches s o 0x29 w [] → okBits w (mB + mC + mIMM + m53) = true →
    (a % 8 ≠ 0 → ends (.st o) stALIGN cost) ∧
    (a % 8 = 0 → ¬ Holds s n (if bit w 53 then 10 else 11) → ends (.st o) stPERM cost)) ∧
  (Fetches s o 0x2A w [] → okBits w (mA + mB + mC + m53 + m54) = true →
    (x.reg (bits w 47 44)).toNat % 8 = 0 → (x.reg (bits w 51 48)).toNat % 8 = 0 →
    let len := (x.reg (bits w 43 40)).toNat
    (len % 8 ≠ 0 ∨ len = 0 ∨ 65536 < len) → ends (.copy o) stRANGE 6))

/-- In every canonical state whose thread fetches a legal WAITEV: with status words 2 SEL and 2 SEL + 1 and the mask B (SEL at most 17), or in
its mailbox form with the flags EMPTIED, ARRIVED and CROSSED of its side, matching bits end it at once with those bits in A; with CLR (granted
for block 3) the reported status bits are cleared; without a match it begins to wait with its TO. WAITEV_WAKE does the same for a thread
already waiting. Only the thread changes, and with CLR the registers and vectors.
In every canonical state: SIGNAL of a ring that holds its class sets the status bit of source 998 + k (k up to 7) and touches no register
outside block 3 and the counter of vectors that no function holds; FENCE without E completes at once; FENCE with E completes at once when every
write of the thread shows in the EFFECTIVE view, and otherwise begins to wait; FENCE_DONE completes a waiting FENCE once they all show. A fence
that completes forgets the thread's writes, and only the thread changes. -/
def Obligations.EventsAndFences : Prop :=
  (∀ (s : State) (o : AxOp) (w : Nat), s.Canonical →
  let n := o.thread
  let x := s.thr n
  let st (j : Nat) := s.rget Reg.EVENT_STATUS 0 [j]
  let b := x.reg (bits w 47 44)
  let k := bits w 23 0
  let v := (st (2 * k) + 2 ^ 32 * st (2 * k + 1)) &&& b.toNat
  let put := (x.setReg (bits w 51 48) (BitVec.ofNat 64 v)).goneTo (x.pc + 1) (2 + o.delay)
  (Fetches s o 0x60 w [] → okBits w (mA + mB + mTO + 0x1F + m53 + m54) = true → toOk w = true → bit w 53 = false → k ≤ 17 →
    (bit w 54 = true → bit (s.rget Reg.BIND_WR_BLOCKS 0 [x.ring]) 3 = true) →
    (v ≠ 0 → bit w 54 = false → GoesOn s n (x.pc + 1) (2 + o.delay) → ∃ t, exec (.waitev o) s = .next t ∧ t.thr n = put ∧ OnlyThread n s t) ∧
    (v ≠ 0 → bit w 54 = true → GoesOn s n (x.pc + 1) (2 + o.delay) → ∃ t, exec (.waitev o) s = .next t ∧ t.thr n = put ∧
      t.rget Reg.EVENT_STATUS 0 [2 * k] = st (2 * k) - v % 2 ^ 32 ∧ t.rget Reg.EVENT_STATUS 0 [2 * k + 1] = st (2 * k + 1) - v / 2 ^ 32 ∧
      OnlyChanges [.threads, .regs, .vecs] s t ∧ ∀ j, j ≠ n → t.thr j = s.thr j) ∧
    (v = 0 → toCycles (bits w 39 24) ≠ some 0 → ∃ t, exec (.waitev o) s = .next t ∧
      t.thr n = x.waits (.waitev (bits w 51 48) k b false (bit w 54)) s.now w 1 (2 + o.delay) ∧ OnlyThread n s t)) ∧
  (∀ a, let c := b.toNat % 64
    let m := ((s.chan c).side a).flags / 256 % 8
    Fetches s o 0x60 w [] → okBits w (mA + mB + mTO + m53) = true → toOk w = true → bit w 53 = true → s.ringSide n c = some a →
    (m ≠ 0 → GoesOn s n (x.pc + 1) (2 + o.delay) → ∃ t, exec (.waitev o) s = .next t ∧
      t.thr n = (x.setReg (bits w 51 48) (BitVec.ofNat 64 m)).goneTo (x.pc + 1) (2 + o.delay) ∧ OnlyThread n s t) ∧
    (m = 0 → toCycles (bits w 39 24) ≠ some 0 → ∃ t, exec (.waitev o) s = .next t ∧
      t.thr n = x.waits (.waitev (bits w 51 48) c b true false) s.now w 1 (2 + o.delay) ∧ OnlyThread n s t)) ∧
  (∀ ra sel mask since dl soft len, n < 8 → x.wait = some ⟨.waitev ra sel mask false false, since, dl, soft, len⟩ →
    let u := (st (2 * sel) + 2 ^ 32 * st (2 * sel + 1)) &&& mask.toNat
    u ≠ 0 → GoesOn s n (x.pc + len) ((s.now - since) / 2) → ∃ t, exec (.waitevWake n) s = .next t ∧
    t.thr n = { (x.setReg ra (BitVec.ofNat 64 u)).goneTo (x.pc + len) ((s.now - since) / 2) with wait := none } ∧ OnlyThread n s t)) ∧
  (∀ (s : State) (o : AxOp) (w : Nat), s.Canonical →
  let n := o.thread
  let x := s.thr n
  let eff : Bool := s.allEffective x.writes
  (Fetches s o 0x61 w [] → okBits w 7 = true → Holds s n 12 → GoesOn s n (x.pc + 1) (1 + o.delay) → ∃ t, exec (.signal o) s = .next t ∧
    t.evStatus (998 + bits w 23 0) = true ∧ t.thr n = x.goneTo (x.pc + 1) (1 + o.delay) ∧ OnlyChanges [.threads, .regs, .vecs] s t ∧
    OutsideBlock 3 lostVecKeys s t ∧ ∀ j, j ≠ n → t.thr j = s.thr j) ∧
  (Fetches s o 0x62 w [] → okBits w (mTO + m53) = true → toOk w = true →
    (bit w 53 = false → GoesOn s n (x.pc + 1) (2 + o.delay) → ∃ t, exec (.fence o) s = .next t ∧
      t.thr n = x.goneTo (x.pc + 1) (2 + o.delay) ∧ OnlyThread n s t) ∧
    (bit w 53 = true → eff = true → GoesOn s n (x.pc + 1) (2 + o.delay) → ∃ t, exec (.fence o) s = .next t ∧
      t.thr n = { x with writes := [] }.goneTo (x.pc + 1) (2 + o.delay) ∧ OnlyThread n s t) ∧
    (bit w 53 = true → eff = false → toCycles (bits w 39 24) ≠ some 0 → ∃ t, exec (.fence o) s = .next t ∧
      t.thr n = x.waits (.fence true) s.now w 1 (2 + o.delay) ∧ OnlyThread n s t)) ∧
  (∀ e since dl soft len, n < 8 → x.wait = some ⟨.fence e, since, dl, soft, len⟩ → eff = true →
    GoesOn s n (x.pc + len) ((s.now - since) / 2) → ∃ t, exec (.fenceDone n) s = .next t ∧
    t.thr n = { x with writes := [], wait := none }.goneTo (x.pc + len) ((s.now - since) / 2) ∧ OnlyThread n s t))

/-- In every canonical state: BATCH outside a batch opens an empty one, and a nested BATCH ends the program with events 997 and THREAD_FAULT
raised; ENDBATCH closes an empty batch with OK, performs a non-empty one's held writes and waits for their acceptance, and with a TIME still
to come waits for it with the batch kept; at that instant ENDBATCH_RELEASE performs the held writes; ENDBATCH_DONE completes with OK when
every released write was accepted in time. Only the thread changes, but for what the released writes do. -/
def Obligations.Batches : Prop := ∀ (s : State) (o : AxOp) (w : Nat), s.Canonical →
  let n := o.thread
  let x := s.thr n
  let time := (x.reg (bits w 51 48)).toNat % 2 ^ 48
  let r := s.releaseBatch n
  let held (y : Thread) (k : WaitKind) : Thread := { y with charged := y.charged + (2 + o.delay), wait := some ⟨k, r.1.now, none, bit w 52, 1⟩ }
  (Fetches s o 0x63 w [] → okBits w 0 = true → x.batch = none → GoesOn s n (x.pc + 1) (1 + o.delay) → ∃ t, exec (.batch o) s = .next t ∧
    t.thr n = { x with batch := some [] }.goneTo (x.pc + 1) (1 + o.delay) ∧ OnlyThread n s t) ∧
  (∀ l, Fetches s o 0x63 w [] → okBits w 0 = true → x.batch = some l → x.ring < 64 → ∃ t, exec (.batch o) s = .next t ∧ t.thr n = {} ∧
    t.evStatus 997 = true ∧ t.evStatus (984 + n) = true ∧ ∀ j, j ≠ n → t.thr j = s.thr j) ∧
  (Fetches s o 0x64 w [] → okBits w m53 = true → x.batch = some [] → bit w 53 = false → GoesOn s n (x.pc + 1) (2 + o.delay) →
    ∃ t, exec (.endbatch o) s = .next t ∧ t.thr n = { x with batch := none }.goneTo (x.pc + 1) (2 + o.delay) ∧ OnlyThread n s t) ∧
  (∀ h l, Fetches s o 0x64 w [] → okBits w m53 = true → x.batch = some (h :: l) → bit w 53 = false → ∃ t, exec (.endbatch o) s = .next t ∧
    t.thr n = held (r.1.thr n) (.endbatch none true false r.2) ∧ OnlyThread n r.1 t) ∧
  (∀ l, Fetches s o 0x64 w [] → okBits w (m53 + mA) = true → x.batch = some l → bit w 53 = true → s.reached time = false →
    ∃ t, exec (.endbatch o) s = .next t ∧
      t.thr n = { x with charged := x.charged + (2 + o.delay), wait := some ⟨.endbatch (some time) false false false, s.now, none, bit w 52, 1⟩ } ∧ OnlyThread n s t) ∧
  (∀ ti late refused since dl soft len, n < 8 → x.wait = some ⟨.endbatch (some ti) false late refused, since, dl, soft, len⟩ →
    s.reached ti = true → ∃ t, exec (.endbatchRelease n) s = .next t ∧
    t.thr n = { r.1.thr n with wait := some ⟨.endbatch none true false r.2, since, dl, soft, len⟩ } ∧ OnlyThread n r.1 t) ∧
  (∀ rel since dl soft len, n < 8 → x.wait = some ⟨.endbatch rel true false false, since, dl, soft, len⟩ →
    GoesOn s n (x.pc + len) ((s.now - since) / 2) → ∃ t, exec (.endbatchDone n) s = .next t ∧
    t.thr n = { x with wait := none }.goneTo (x.pc + len) ((s.now - since) / 2) ∧ OnlyThread n s t)

/-- In every canonical state whose thread holds the class and fetches a legal TWR or TDEL of a table other than RULE (UPD and NEW clear), with
an instance the table has and its image, where one is read, at an aligned address that the ring can reach: TWR with a layout that agrees
stores the image (HIT 0; a policer's LAST the present time) at the slot of its key, lowest free way for a new key, or at index A, and for a
keyed table leaves the index in A; TDEL leaves 0 at the slot of the key or at index A if that entry is valid or poisoned. The entry is no
longer poisoned; every other entry is as before, and no byte of memory and no other thread changes.
In every canonical state whose thread holds the class and fetches a legal TFIND or TAGE: TFIND of a valid, unpoisoned entry (of a table other
than RULE and outside the LP4X part of ADDR) leaves its image at B, the index in A for a keyed table, and every other byte of memory as it
was; TAGE of ADDR or FLOW over A to A + COUNT - 1 sets to 0 every valid, unpoisoned entry of the range that is neither locked nor hit, clears
the hit bit of the other valid, unpoisoned ones, leaves every other entry of every table, and leaves in C how many it deleted. -/
def Obligations.TableCommands : Prop :=
  (∀ (s : State) (o : AxOp) (w i key : Nat), s.Canonical →
  let n := o.thread
  let x := s.thr n
  let tb := bits w 37 32
  let inst := bits w 26 24
  let a := (x.reg (bits w 51 48)).toNat
  let b := (x.reg (bits w 47 44)).toNat
  let img := beNat (s.mread key (tabSize tb))
  let only (t : State) (v : Nat) : Prop := t.tab tb inst i = v ∧ t.poisoned tb inst i = false ∧
    (∀ t' n' i', tabKey t' n' i' ≠ tabKey tb inst i → t.tab t' n' i' = s.tab t' n' i') ∧
    OnlyChanges [.tabs, .poison, .fwd, .regs, .fresh, .threads] s t ∧ ∀ j, j ≠ n → t.thr j = s.thr j
  tb < 8 → (tabPerPipe tb = true ∨ inst = 0) → Holds s n 0 → s.tabReach tb inst = true →
  (Fetches s o 0x30 w [] → okBits w (mA + mB + mTAB + mINST + m53 + m54 + m55) = true → bit w 54 = false → bit w 55 = false →
    b % 8 = 0 → Reaches s o (bit w 53) b (tabSize tb) key → s.layoutOk tb inst img = true →
    (if tabKeyed tb then s.keySlot tb inst img = some i else i = a ∧ a < tabEntries tb ∧ (tb ≠ tEXCEPT ∨ a ≠ 0)) →
    GoesOn s n (x.pc + 1) (6 + tabSize tb / 32 + o.delay) → ∃ t, exec (.twr o) s = .next t ∧
    t.thr n = (if tabKeyed tb then x.setReg (bits w 51 48) (BitVec.ofNat 64 i) else x).goneTo (x.pc + 1) (6 + tabSize tb / 32 + o.delay) ∧
    only t (s.storedImg tb img)) ∧
  (Fetches s o 0x31 w [] → okBits w (mTAB + mINST + m53 + (if tb < 3 then mB else mA)) = true →
    (if tabKeyed tb then b % 8 = 0 ∧ Reaches s o (bit w 53) b (tabSize tb) key ∧ s.keyFind tb inst img true = some i
      else i = a ∧ a < tabEntries tb) → (imgValid tb (s.tab tb inst i) = true ∨ s.poisoned tb inst i = true) →
    GoesOn s n (x.pc + 1) (4 + o.delay) → ∃ t, exec (.tdel o) s = .next t ∧
    t.thr n = x.goneTo (x.pc + 1) (4 + o.delay) ∧ only t 0)) ∧
  (∀ (s : State) (o : AxOp) (w i key : Nat), s.Canonical →
  let n := o.thread
  let x := s.thr n
  let tb := bits w 37 32
  let inst := bits w 26 24
  let a := (x.reg (bits w 51 48)).toNat
  let b := (x.reg (bits w 47 44)).toNat
  let k := bits w 23 0
  let live (j : Nat) : Bool := imgValid tb (s.tab tb inst j) && !s.poisoned tb inst j
  let gone (j : Nat) : Bool := live j && !ageLock tb (s.tab tb inst j) && !ageHit tb (s.tab tb inst j)
  Holds s n 0 → (tabPerPipe tb = true ∨ inst = 0) → s.tabReach tb inst = true →
  (tb < 8 → Fetches s o 0x32 w [] → okBits w (mA + mB + mTAB + mINST + m53) = true → b % 8 = 0 → Holds s n (if bit w 53 then 10 else 11) →
    Reaches s o (bit w 53) b (tabSize tb) key →
    (if tabKeyed tb then s.keyFind tb inst (beNat (s.mread key (tabSize tb))) false = some i else i = a ∧ a < tabEntries tb) →
    live i = true → (tb = tADDR → i < addrChip) → GoesOn s n (x.pc + 1) (8 + o.delay) → ∃ t, exec (.tfind o) s = .next t ∧
    t.thr n = (if tabKeyed tb then x.setReg (bits w 51 48) (BitVec.ofNat 64 i) else x).goneTo (x.pc + 1) (8 + o.delay) ∧
    t.mread key (tabSize tb) = beBytes (tabSize tb) (s.tab tb inst i) ∧ OnlyBytes key (tabSize tb) s t ∧
    OnlyChanges [.mem, .threads] s t ∧ ∀ j, j ≠ n → t.thr j = s.thr j) ∧
  (tb = tADDR ∨ tb = tFLOW → Fetches s o 0x33 w [] → okBits w (mA + mC + mTAB + mINST + mSEL) = true → a + k ≤ tabEntries tb →
    GoesOn s n (x.pc + 1) (4 + (k + 15) / 16 + o.delay) → ∃ t, exec (.tage o) s = .next t ∧
    t.thr n = (x.setReg (bits w 43 40) (BitVec.ofNat 64 (((List.range k).filter (fun j => gone (a + j))).length))).goneTo
      (x.pc + 1) (4 + (k + 15) / 16 + o.delay) ∧
    (∀ j, a ≤ j → j < a + k → t.tab tb inst j =
      if gone j then 0 else if live j then ageKeep tb (s.tab tb inst j) else s.tab tb inst j) ∧
    (∀ t' n' i', (∀ j, a ≤ j → j < a + k → tabKey t' n' i' ≠ tabKey tb inst j) → t.tab t' n' i' = s.tab t' n' i') ∧
    OnlyChanges [.tabs, .poison, .fwd, .regs, .fresh, .threads] s t ∧ ∀ j, j ≠ n → t.thr j = s.thr j))

/-- In every canonical state whose thread holds the class and fetches a legal VOPEN, VPUT or VABORT for rule set SEL: VOPEN of a rule set without
a draft makes this program its owner (with one, a soft VOPEN sets E and LSTAT BUSY and leaves Legend); VPUT of 1 to 1,024 images, all of which
the draft accepts, has applied them in order to each tree domain that is on; VABORT has freed or unmarked the draft's lines in each domain
that is on and closed the draft. Only Legend and the thread change.
In every canonical state: VCOMMIT of the thread's own draft with a root line of it, a tree domain being on and slot k the lowest free one,
makes k the active and a live version with that root in each domain that is on, closes the draft, adds 1 to COMMITS modulo 2^32 and leaves k
in A; with no free slot it begins to wait, and VCOMMIT_SLOT_FREE performs the same commit for the waiting thread once a slot is free. VWAIT
for a slot with no frame in flight that is not the active one, or with ANY for any free slot, completes at once, else it waits.
VERSION_RETIRE of a live, non-active slot with no frame in flight has retired it in each domain that is on. -/
def Obligations.DraftsAndVersions : Prop :=
  (∀ (s : State) (o : AxOp) (w key : Nat), s.Canonical →
  let n := o.thread
  let x := s.thr n
  let rs := bits w 23 0 % 64
  let k := (x.reg (bits w 43 40)).toNat
  let b := (x.reg (bits w 47 44)).toNat
  let done (i : Instr) (y : Thread) (cost : Nat) (l : LegendX) : Prop := ∃ t, exec i s = .next t ∧
    t.thr n = y.goneTo (x.pc + 1) (cost + o.delay) ∧ t.legend = l ∧ OnlyChanges [.legend, .threads] s t ∧ ∀ j, j ≠ n → t.thr j = s.thr j
  let both (g : LegMem → LegMem) : LegendX := { s.legend with
    m0 := if s.domOn 25 then g s.legend.m0 else s.legend.m0, m1 := if s.domOn 26 then g s.legend.m1 else s.legend.m1 }
  Holds s n 1 →
  (Fetches s o 0x38 w [] → okBits w mRS = true → GoesOn s n (x.pc + 1) (4 + o.delay) →
    (s.draftOf rs = 0 → done (.vopen o) x 4 { s.legend with drafts := sset (fun _ => 0) s.legend.drafts rs (n + 1) }) ∧
    (s.draftOf rs ≠ 0 → bit w 52 = true → done (.vopen o) { x with e := true, lstat := stBUSY } 4 s.legend)) ∧
  (Fetches s o 0x39 w [] → okBits w (mB + mC + mRS + m53) = true → s.draftOf rs = n + 1 → s.treeOn = true → 1 ≤ k → k ≤ 1024 → b % 8 = 0 →
    Reaches s o (bit w 53) b (64 * k) key → GoesOn s n (x.pc + 1) (6 + 4 * k + o.delay) →
    let imgs := imagesOf 64 k (s.mread key (64 * k))
    (∃ m, s.leg.vput rs imgs = .ok m) →
    done (.vput o) x (6 + 4 * k) (both (fun m => match m.vput rs imgs with | .ok m' => m' | .error _ => m))) ∧
  (Fetches s o 0x3C w [] → okBits w mRS = true → s.draftOf rs = n + 1 → GoesOn s n (x.pc + 1) (4 + o.delay) →
    done (.vabort o) x 4 { both (fun m => m.discardDraft rs) with drafts := sset (fun _ => 0) s.legend.drafts rs 0 })) ∧
  (∀ (s : State) (o : AxOp) (w k root : Nat), s.Canonical →
  let n := o.thread
  let x := s.thr n
  let rs := bits w 23 0 % 64
  let both (g : LegMem → LegMem) : LegendX := { s.legend with
    m0 := if s.domOn 25 then g s.legend.m0 else s.legend.m0, m1 := if s.domOn 26 then g s.legend.m1 else s.legend.m1 }
  let committed (t : State) (r : Nat) : Prop :=
    t.legend = { both (fun m => m.commit r k root) with drafts := sset (fun _ => 0) s.legend.drafts r 0 } ∧
    (t.leg.ver r).active = some k ∧ bit (t.leg.ver r).live k = true ∧
    t.rget Reg.LEGEND_COMMITS 0 [r] = (s.rget Reg.LEGEND_COMMITS 0 [r] + 1) % 2 ^ 32 ∧
    OnlyRegs [rowKey Reg.LEGEND_COMMITS 0 [r]] s t ∧ OnlyChanges [.legend, .threads, .regs] s t ∧ ∀ j, j ≠ n → t.thr j = s.thr j
  (Holds s n 1 → Fetches s o 0x3A w [] → okBits w (mA + mB + mTO + mRS) = true → toOk w = true → s.draftOf rs = n + 1 → s.treeOn = true →
    root = (x.reg (bits w 47 44)).toNat → s.draftRoot rs root = true →
    (s.freeSlot rs = some k → GoesOn s n (x.pc + 1) (8 + o.delay) → ∃ t, exec (.vcommit o) s = .next t ∧
      t.thr n = (x.setReg (bits w 51 48) (BitVec.ofNat 64 k)).goneTo (x.pc + 1) (8 + o.delay) ∧ committed t rs) ∧
    (s.freeSlot rs = none → toCycles (bits w 39 24) ≠ some 0 → ∃ t, exec (.vcommit o) s = .next t ∧
      t.thr n = x.waits (.vcommit (bits w 51 48) rs root) s.now w 1 (8 + o.delay) ∧ OnlyThread n s t)) ∧
  (∀ ra r since dl soft len, n < 8 → r < 64 → x.wait = some ⟨.vcommit ra r root, since, dl, soft, len⟩ → s.treeOn = true →
    s.freeSlot r = some k → GoesOn s n (x.pc + len) ((s.now - since) / 2) → ∃ t, exec (.vcommitSlotFree n) s = .next t ∧
    t.thr n = { (x.setReg ra (BitVec.ofNat 64 k)).goneTo (x.pc + len) ((s.now - since) / 2) with wait := none } ∧ committed t r) ∧
  (Holds s n 1 → Fetches s o 0x3B w [] → okBits w (mTO + mRS + m53 + (if bit w 53 then 0 else mB)) = true → toOk w = true →
    let v := (x.reg (bits w 47 44)).toNat % 4
    let free : Prop := if bit w 53 then s.freeSlot rs ≠ none else s.inflight rs v = 0
    (bit w 53 = false → (s.leg.ver rs).active ≠ some v) →
    (free → GoesOn s n (x.pc + 1) (2 + o.delay) → ∃ t, exec (.vwait o) s = .next t ∧
      t.thr n = x.goneTo (x.pc + 1) (2 + o.delay) ∧ OnlyThread n s t) ∧
    (¬ free → toCycles (bits w 39 24) ≠ some 0 → ∃ t, exec (.vwait o) s = .next t ∧
      t.thr n = x.waits (.vwait rs v (bit w 53)) s.now w 1 (2 + o.delay) ∧ OnlyThread n s t)) ∧
  (∀ r, r < 64 → k < 4 → s.treeOn = true → s.canRetire r k = true →
    (∀ j, j < 8 → ∀ v any since dl soft len, (s.thr j).wait ≠ some ⟨.vwait r v any, since, dl, soft, len⟩) →
    exec (.versionRetire r k) s = .next { s with legend := both (fun m => m.retire r k) }))

/-- In every canonical state whose thread holds the class and fetches a legal instruction of the four: QNEW takes the lowest general queue that
is not allocated, or the unallocated general queue B with EXACT, leaves its number in A, and the queue has ALLOC and FRESH and no other flag;
QPIN of a mapped, resident, unpinned queue (its basket on, fewer than 8,192 pinned) sets PINNED, and of a non-resident one has asked for its
page-in and waits; QUNPIN clears PINNED; QFREE of an empty, unpinned queue that no QPIN waits for clears every flag and the context. On a fixed
queue QPIN and QUNPIN complete with no effect. Every other queue is as before.
In every canonical state whose thread holds the class and fetches a legal QMAP or QFLUSH of an allocated general queue B: QMAP to a port of
the fabric with a parent of that port's pipe and a weight above 0 (of a queue that is unmapped, keeps its port, or is empty and, pinned, stays
in its basket) sets MAPPED, PORT, CLASS, SPILL_TH, WEIGHT, BAND and PARENT, and within the same basket nothing else of the queue and no other
queue; QFLUSH leaves the queue without on-chip, staged, waiting, ready and LP4X frames and with SPILLING clear, keeps its credits and deficit,
and leaves in A by how much QFLUSH_FRAMES of its basket grew, modulo 2^64. -/
def Obligations.QueueCommands : Prop :=
  (∀ (s : State) (o : AxOp) (w q : Nat), s.Canonical →
  let n := o.thread
  let x := s.thr n
  let y := s.q q
  let b := s.queueBasket q
  let queue (t : State) (z : Queue) : Prop := t.q q = z ∧ (∀ j, j ≠ q → t.q j = s.q j) ∧ ∀ j, j ≠ n → t.thr j = s.thr j
  let goes (cost : Nat) : Prop := GoesOn s n (x.pc + 1) (cost + o.delay)
  let named (op : Nat) : Prop := Fetches s o op w [] ∧ okBits w mB = true ∧ q = (x.reg (bits w 47 44)).toNat ∧ q < 65464 ∧ y.alloc = true
  Holds s n 2 →
  (Fetches s o 0x40 w [] → okBits w (mA + m53 + (if bit w 53 then mB else 0)) = true → q < 65464 → y.alloc = false →
    (if bit w 53 then q = (x.reg (bits w 47 44)).toNat else ∀ j, j < q → (s.q j).alloc = true) → goes 6 → ∃ t, exec (.qnew o) s = .next t ∧
    t.thr n = (x.setReg (bits w 51 48) (BitVec.ofNat 64 q)).goneTo (x.pc + 1) (6 + o.delay) ∧ queue t { alloc := true, fresh := true } ∧
    t.obj q = objDflt q ∧ OnlyChanges [.queues, .objs, .threads] s t) ∧
  (named 0x42 → y.pinned = false → y.mapped = true → s.domOn (16 + b) = true → s.pinnedCount < 8192 →
    (y.resident = true → goes 6 → ∃ t, exec (.qpin o) s = .next t ∧ t.thr n = x.goneTo (x.pc + 1) (6 + o.delay) ∧
      queue t { y with pinned := true } ∧ OnlyChanges [.queues, .threads] s t) ∧
    (y.resident = false → ∃ t, exec (.qpin o) s = .next t ∧
      t.thr n = { x with charged := x.charged + (6 + o.delay), wait := some ⟨.qpin q, s.now, none, bit w 52, 1⟩ } ∧
      (y.paging = false → q ∈ (t.pager b).pins) ∧ queue t y ∧ OnlyChanges [.pagers, .threads] s t)) ∧
  (named 0x43 → goes 4 → ∃ t, exec (.qunpin o) s = .next t ∧ t.thr n = x.goneTo (x.pc + 1) (4 + o.delay) ∧
    queue t { y with pinned := false } ∧ OnlyChanges [.queues, .threads] s t) ∧
  (named 0x45 → s.queueEmpty q = true → y.pinned = false →
    (∀ j, j < 8 → ∀ since dl soft len, (s.thr j).wait ≠ some ⟨.qpin q, since, dl, soft, len⟩) → goes 6 → ∃ t, exec (.qfree o) s = .next t ∧
    t.thr n = x.goneTo (x.pc + 1) (6 + o.delay) ∧ queue t {} ∧ t.obj q = objDflt q ∧ OnlyChanges [.queues, .objs, .pagers, .threads] s t) ∧
  (∀ f, f = (x.reg (bits w 47 44)).toNat → 65464 ≤ f → f < 65536 → okBits w mB = true →
    (Fetches s o 0x42 w [] → goes 6 → ∃ t, exec (.qpin o) s = .next t ∧ t.thr n = x.goneTo (x.pc + 1) (6 + o.delay) ∧ OnlyThread n s t) ∧
    (Fetches s o 0x43 w [] → goes 4 → ∃ t, exec (.qunpin o) s = .next t ∧ t.thr n = x.goneTo (x.pc + 1) (4 + o.delay) ∧ OnlyThread n s t))) ∧
  (∀ (s : State) (o : AxOp) (w q e : Nat), s.Canonical →
  let n := o.thread
  let x := s.thr n
  let y := s.q q
  let b := s.queueBasket q
  let port := bits w 15 8
  let p := bits e 12 0
  Holds s n 2 → q = (x.reg (bits w 47 44)).toNat → q < 65464 → y.alloc = true →
  (Fetches s o 0x41 w [e] → okBits w (mB + 0xFF07) = true → bits e 31 27 = 0 → bits e 23 13 = 0 → port ≤ 151 → p / 1024 = pipeOfPort port →
    bits e 47 32 ≠ 0 → (y.mapped = true → (y.port = port ∨ s.queueEmpty q = true) ∧ (y.pinned = true → pipeOfPort y.port = pipeOfPort port)) →
    GoesOn s n (x.pc + 2) (8 + o.delay) → ∃ t, exec (.qmap o) s = .next t ∧ t.thr n = x.goneTo (x.pc + 2) (8 + o.delay) ∧
    (t.q q).mapped = true ∧ (t.q q).port = port ∧ (t.q q).cls = bits w 2 0 ∧ (t.q q).spillTh = bits e 63 48 ∧ (t.q q).pinned = y.pinned ∧
    (∀ j, j ≠ q → t.q j = s.q j) ∧ (∀ j, j ≠ n → t.thr j = s.thr j) ∧
    ((y.mapped = false ∨ pipeOfPort y.port = pipeOfPort port) →
      t.q q = { y with mapped := true, port := port, cls := bits w 2 0, spillTh := bits e 63 48 } ∧
      (t.obj q).weight = bits e 47 32 ∧ (t.obj q).band = bits e 26 24 ∧ (t.obj q).parent = p ∧ (t.obj q).cir = (s.obj q).cir ∧
      (t.obj q).eir = (s.obj q).eir ∧ OnlyChanges [.queues, .objs, .threads] s t)) ∧
  (Fetches s o 0x44 w [] → okBits w (mA + mB) = true → (s.domOn (16 + b) = true) →
    let r := s.flushQueue q 9
    let k := (r.pget Reg.QUEUE_CNT 0 [b, 9] + 2 ^ 64 - s.pget Reg.QUEUE_CNT 0 [b, 9]) % 2 ^ 64
    GoesOn s n (x.pc + 1) (8 + (k + 3) / 4 + o.delay) → ∃ t, exec (.qflush o) s = .next t ∧
    t.thr n = (x.setReg (bits w 51 48) (BitVec.ofNat 64 k)).goneTo (x.pc + 1) (8 + (k + 3) / 4 + o.delay) ∧
    (t.q q).oc = [] ∧ (t.q q).pend = [] ∧ (t.q q).lp = [] ∧ (t.q q).spilling = false ∧ (t.obj q).deficit = (s.obj q).deficit ∧
    (t.obj q).cirC = (s.obj q).cirC ∧ (t.obj q).eirC = (s.obj q).eirC ∧ (∀ i, i ∈ (t.pager b).staged → i.queue ≠ q) ∧
    t.pget Reg.QUEUE_CNT 0 [b, 9] = r.pget Reg.QUEUE_CNT 0 [b, 9] ∧ (∀ j, j ≠ q → t.q j = s.q j) ∧ (∀ j, j ≠ n → t.thr j = s.thr j)))

/-- In every canonical state whose thread holds the class and fetches a legal instruction with values in range: SHSET of a node, a port or a mapped
queue whose pipe is on leaves the values for the next visit (an unmapped queue takes them at once, refreshed); GCL leaves the n entries read
from B at indices C to C + n - 1 of the port's pending bank, the others as they were, and the port disarmed; GSWAP arms the port with the
length, cycle and base time and the first cycle start that is not earlier than now, and with WAIT the thread has begun to wait for the switch. Only that
object or gate record and the thread change.
In every canonical state: GCL_SWITCH of an armed port whose instant has come exchanges the banks, makes the pending list operational with its
length, cycle and the armed instant as base, disarms it, puts the gates at the first entry's, counts the switch and raises SCHED of the port's
pipe, and changes no other port's gates; GATE_ENTRY of a port with an operational list puts its entry and gates at the entry in force at this
instant (and leaves them where that entry is the one already in force), and changes nothing else but the recorded cycle start. -/
def Obligations.ShapingAndGating : Prop :=
  (∀ (s : State) (o : AxOp) (w key : Nat) (e : List Nat), s.Canonical →
  let n := o.thread
  let x := s.thr n
  let i := (x.reg (bits w 47 44)).toNat
  let only (t : State) (f : StateField) : Prop := OnlyChanges [f, .threads] s t ∧ ∀ j, j ≠ n → t.thr j = s.thr j
  let v : ShSet := ⟨bits (e.getD 0 0) 63 32, bits (e.getD 0 0) 31 0, bits (e.getD 1 0) 63 32, bits (e.getD 1 0) 31 0,
    bits (e.getD 2 0) 31 16, bits (e.getD 2 0) 2 0, bits (e.getD 2 0) 63 32⟩
  let p := bits w 23 0 / 2 ^ 16
  let len := bits w 23 0 % 2048
  let k := (x.reg (bits w 43 40)).toNat % 1024
  let g := s.gate p
  let base := (x.reg (bits w 51 48)).toNat % 2 ^ 48
  let late := diff8 s.t8 (base * 8)
  let start := if late ≤ 0 then base * 8 % 2 ^ 51 else (base * 8 + (late.toNat + 5 * i - 1) / (5 * i) * (5 * i)) % 2 ^ 51
  Holds s n 3 →
  (∀ key, Fetches s o 0x48 w e → e.length = 3 → okBits w (mB + 3) = true → bits (e.getD 2 0) 15 3 = 0 → objKey (bits w 23 0) i = some key →
    v.ok (bits w 23 0) i = true → GoesOn s n (x.pc + 4) (10 + o.delay) → ∃ t, exec (.shset o) s = .next t ∧
    t.thr n = x.goneTo (x.pc + 4) (10 + o.delay) ∧ (∀ j, j ≠ key → t.obj j = s.obj j) ∧ only t .objs ∧
    (¬ (key < 2 ^ 17 ∧ (s.q key).mapped = false) → s.domOn (8 + s.pipeOfObj key) = true → t.obj key = { s.obj key with set := some v }) ∧
    (key < 2 ^ 17 → (s.q key).mapped = false → t.obj key = ((s.obj key).refresh s.short).install v key)) ∧
  (Fetches s o 0x49 w [] → okBits w (mB + mC + 0xFF07FF + m53) = true → p ≤ 151 → k + len ≤ 1024 → i % 8 = 0 → Reaches s o (bit w 53) i (8 * len) key →
    (∀ j, j < len → gclOk (beNat (s.mread (key + 8 * j) 8)) = true) → s.domOn (8 + pipeOfPort p) = true →
    GoesOn s n (x.pc + 1) (4 + 2 * len + o.delay) → ∃ t, exec (.gcl o) s = .next t ∧ t.thr n = x.goneTo (x.pc + 1) (4 + 2 * len + o.delay) ∧
    (∀ j, j < len → sget (fun _ => 0) (t.gate p).pend (k + j) = BitVec.ofNat 64 (beNat (s.mread (key + 8 * j) 8))) ∧
    (∀ j, j < k ∨ k + len ≤ j → sget (fun _ => 0) (t.gate p).pend j = sget (fun _ => 0) g.pend j) ∧
    t.gate p = { g with pend := (t.gate p).pend, armed := false } ∧ (∀ j, j ≠ p → t.gate j = s.gate j) ∧ only t .gates) ∧
  (Fetches s o 0x4A w [] → okBits w (mA + mB + 0xFF07FF + m53 + mTO) = true → toOk w = true → p ≤ 151 → 1 ≤ len → len ≤ 1024 →
    16 ≤ i → i ≤ 1600000000 → s.domOn (8 + pipeOfPort p) = true →
    let armed (t : State) : Prop := t.gate p = { g with armed := true, pendLen := len, pendCycle := i, pendBase := base, switchAt := start } ∧
      (∀ j, j ≠ p → t.gate j = s.gate j) ∧ only t .gates
    (bit w 53 = false → GoesOn s n (x.pc + 1) (8 + o.delay) → ∃ t, exec (.gswap o) s = .next t ∧
      t.thr n = x.goneTo (x.pc + 1) (8 + o.delay) ∧ armed t) ∧
    (bit w 53 = true → toCycles (bits w 39 24) ≠ some 0 → ∃ t, exec (.gswap o) s = .next t ∧
      t.thr n = x.waits (.gswap p) s.now w 1 (8 + o.delay) ∧ armed t))) ∧
  (∀ (s : State) (p : Nat), s.Canonical → p < 152 →
  let g := s.gate p
  let n := pipeOfPort p
  (g.armed = true → 0 ≤ diff8 s.t8 g.switchAt →
    (∀ j, j < 8 → ∀ since dl soft len, (s.thr j).wait ≠ some ⟨.gswap p, since, dl, soft, len⟩) → ∃ t, exec (.gclSwitch p) s = .next t ∧
    let h := t.gate p
    h.oper = g.pend ∧ h.pend = g.oper ∧ h.operV = true ∧ h.operLen = g.pendLen ∧ h.operCycle = g.pendCycle ∧ h.operBase = g.switchAt ∧
    h.armed = false ∧ h.entry = 0 ∧ h.gates = bits (sget (fun _ => 0) g.pend 0).toNat 63 56 ∧
    t.pget Reg.SCHED_CNT 0 [n, 10] = (s.pget Reg.SCHED_CNT 0 [n, 10] + 1) % 2 ^ 64 ∧ t.evStatus (936 + n) = true ∧
    t.rget Reg.SCHED_GCL_SWITCH 0 [n] = 1 ∧ (∀ j, j ≠ p → t.gate j = s.gate j) ∧ OnlyChanges [.gates, .regs, .vecs] s t) ∧
  (g.operV = true → g.operCycle ≠ 0 → g.operLen ≠ 0 →
    let k := (g.entAt s.t8).1
    let pos := (diff8 s.t8 g.anchor % ((g.operCycle * 5 : Nat) : Int)).toNat
    ∃ t, exec (.gateEntry p) s = .next t ∧ (t.gate p).anchor = (s.t8 + 2 ^ 51 - pos) % 2 ^ 51 ∧
    (g.entry % g.operLen ≠ k → (t.gate p).entry = k ∧ (t.gate p).gates = bits (sget (fun _ => 0) g.oper k).toNat 63 56) ∧
    (g.entry % g.operLen = k → t.gate p = { g with anchor := (t.gate p).anchor }) ∧ (∀ j, j ≠ p → t.gate j = s.gate j) ∧ OnlyChanges [.gates] s t))

/-- In every canonical state: with PD_MERIDIAN on, a legal TMSET or TMADJ with operands in range adds its change behind the others and waits
without a time-out; with the domain off it completes. TIME_CHANGE_APPLY takes the change with the earliest issue (among equals the lowest
thread), at most once in a cycle: a TMSET whose step passes the guard loads the full time, sets TIME_VALID, shows and counts the step, raises
TIME_STEP and ends the thread's wait with OK; one that the guard refuses leaves the time as it was, counts and raises JUMP_REFUSED, and with
SOFT sets E and LSTAT; a TMADJ step moves the time by its operand; an ADDEND is kept for the next cycle and the time stays.
In every canonical state: TMWAIT of a short time that is not later than now completes at once, and otherwise begins to wait with its TO;
TMWAIT_DONE ends that wait with OK once the time is reached, and does nothing before. TMARM with DISARM clears ARMED and the next instant of the
output; of a start later than now it arms the output with that instant and period (1 to 15 ns are taken as 16 ns); of a start not later
than now it gives LATE and arms nothing. -/
def Obligations.TimeCommands : Prop :=
  (∀ (s : State) (o : AxOp) (w : Nat) (c : TimeChange), s.Canonical →
  let n := o.thread
  let x := s.thr n
  let a := (x.reg (bits w 51 48)).toNat
  let b := (x.reg (bits w 47 44)).toNat
  let asks (i : Instr) (cost : Nat) (d : TimeChange) : Prop :=
    (s.domOn 41 = true → ∃ t, exec i s = .next t ∧ t.mer = { s.mer with changes := s.mer.changes ++ [d] } ∧
      t.thr n = { x with charged := x.charged + (cost + o.delay), wait := some ⟨.timeChange, s.now, none, bit w 52, 1⟩ } ∧
      OnlyChanges [.mer, .threads] s t ∧ ∀ j, j ≠ n → t.thr j = s.thr j) ∧
    (s.domOn 41 = false → GoesOn s n (x.pc + 1) (cost + o.delay) → ∃ t, exec i s = .next t ∧
      t.thr n = x.goneTo (x.pc + 1) (cost + o.delay) ∧ OnlyThread n s t)
  let y := s.thr c.thread
  let next : Prop := s.mer.lastApply ≠ some s.now ∧ c ∈ s.mer.changes ∧
    ∀ d ∈ s.mer.changes, d ≠ c → c.issued < d.issued ∨ (c.issued = d.issued ∧ c.thread < d.thread)
  let waits (f : Thread → Thread) (t : State) : Prop := ∀ since soft len, y.wait = some ⟨.timeChange, since, none, soft, len⟩ → soft = true →
    GoesOn s c.thread (y.pc + len) ((s.now - since) / 2) →
    t.thr c.thread = { (f y).goneTo (y.pc + len) ((s.now - since) / 2) with wait := none } ∧ OnlyChanges [.mer, .regs, .vecs, .threads] s t ∧
    ∀ j, j ≠ c.thread → t.thr j = s.thr j
  let took (t : State) : Prop := t.mer.changes = s.mer.changes.erase c ∧ t.mer.lastApply = some s.now
  let new : Int := (((c.sec * 1000000000 + c.ns) * 2 ^ 16 + c.frac : Nat) : Int)
  let step := new - s.full16
  let passes : Bool := !s.ron Reg.MERID_TIME_VALID || c.force || decide (step.natAbs / 2 ^ 16 ≤ s.rget Reg.MERID_JUMP_GUARD)
  (Holds s n 4 → Fetches s o 0x50 w [] → okBits w (mA + mB + m53) = true → bits b 47 16 < 1000000000 →
    asks (.tmset o) 12 ⟨n, s.now, 0, bit w 53, a % 2 ^ 48, bits b 47 16, b % 2 ^ 16, 0⟩) ∧
  (Holds s n 4 → Fetches s o 0x51 w [] → okBits w (mA + m53) = true →
    (bit w 53 = true → 0x9FD70A3D ≤ a → a ≤ 0xA028F5C3 → asks (.tmadj o) 8 ⟨n, s.now, 2, false, 0, a, 0, 0⟩) ∧
    (bit w 53 = false → (signed 64 a).natAbs ≤ 65536000000 → asks (.tmadj o) 8 ⟨n, s.now, 1, false, 0, 0, 0, signed 64 a⟩)) ∧
  (next → (c.kind = 0 → y.wait ≠ none → (∀ k, y.wait = some k → k.soft = true ∧ GoesOn s c.thread (y.pc + k.len) ((s.now - k.since) / 2)) →
    c.sec < 2 ^ 48 → c.ns < 1000000000 → c.frac < 2 ^ 16 → ∃ t, exec .timeChangeApply s = .next t ∧ took t ∧
    (passes = true → waits id t ∧ t.mer.sec = c.sec ∧ t.mer.sub = c.ns * 2 ^ 32 + c.frac * 2 ^ 16 ∧ t.rget Reg.MERID_TIME_VALID = 1 ∧
      t.pget Reg.MERID_LAST_STEP = wrapInt 64 (max (-(2 ^ 63 : Int)) (min step (2 ^ 63 - 1))) ∧
      t.pget Reg.MERID_CNT 0 [8] = (s.pget Reg.MERID_CNT 0 [8] + 1) % 2 ^ 64 ∧ t.evStatus 972 = true) ∧
    (passes = false → waits (fun z => { z with e := true, lstat := 3 }) t ∧ t.mer.sec = s.mer.sec ∧ t.mer.sub = s.mer.sub ∧
      t.rget Reg.MERID_TIME_VALID = s.rget Reg.MERID_TIME_VALID ∧ t.pget Reg.MERID_LAST_STEP = s.pget Reg.MERID_LAST_STEP ∧
      t.pget Reg.MERID_CNT 0 [9] = (s.pget Reg.MERID_CNT 0 [9] + 1) % 2 ^ 64 ∧ t.evStatus 973 = true))) ∧
  (next → c.kind = 1 → y.wait = none → ∃ t, exec .timeChangeApply s = .next t ∧ took t ∧ t.mer.sub < secSub ∧
    ((t.mer.sec * secSub + t.mer.sub : Nat) : Int) = ((s.mer.sec * secSub + s.mer.sub : Nat) + c.step * 2 ^ 16) % ((2 ^ 48 * secSub : Nat) : Int) ∧
    t.mer.resid = s.mer.resid ∧ t.pget Reg.MERID_LAST_STEP = wrapInt 64 (max (-(2 ^ 63 : Int)) (min c.step (2 ^ 63 - 1))) ∧ t.evStatus 972 = true) ∧
  (next → c.kind = 2 → y.wait = none → ∃ t, exec .timeChangeApply s = .next t ∧ took t ∧
    t = { s with mer := { t.mer with addendNext := some c.ns } } ∧ t.mer.sec = s.mer.sec ∧ t.mer.sub = s.mer.sub)) ∧
  (∀ (s : State) (o : AxOp) (w : Nat), s.Canonical →
  let n := o.thread
  let x := s.thr n
  let a := (x.reg (bits w 51 48)).toNat % 2 ^ 48
  let p := (x.reg (bits w 47 44)).toNat
  let k := bits w 23 0
  let only (t : State) : Prop := OnlyChanges [.threads, .regs, .mer] s t ∧ (∀ j, j ≠ n → t.thr j = s.thr j) ∧
    OnlyRegs [rowKey Reg.MERID_ARMED 0 [k], rowKey Reg.MERID_TRIG_NEXT 0 [k], rowKey Reg.MERID_TRIG_NEXT 0 [k] + 4] s t
  (Fetches s o 0x52 w [] → okBits w (mA + mTO) = true → toOk w = true →
    (s.reached a = true → GoesOn s n (x.pc + 1) (2 + o.delay) → ∃ t, exec (.tmwait o) s = .next t ∧
      t.thr n = x.goneTo (x.pc + 1) (2 + o.delay) ∧ OnlyThread n s t) ∧
    (s.reached a = false → toCycles (bits w 39 24) ≠ some 0 → ∃ t, exec (.tmwait o) s = .next t ∧
      t.thr n = x.waits (.tmwait a) s.now w 1 (2 + o.delay) ∧ OnlyThread n s t)) ∧
  (∀ i since dl soft len, n < 8 → x.wait = some ⟨.tmwait i, since, dl, soft, len⟩ →
    (s.reached i = true → GoesOn s n (x.pc + len) ((s.now - since) / 2) → ∃ t, exec (.tmwaitDone n) s = .next t ∧
      t.thr n = { x.goneTo (x.pc + len) ((s.now - since) / 2) with wait := none } ∧ OnlyThread n s t) ∧
    (s.reached i = false → exec (.tmwaitDone n) s = .next s)) ∧
  (Holds s n 5 → Fetches s o 0x53 w [] → GoesOn s n (x.pc + 1) (6 + o.delay) →
    (bit w 53 = true → okBits w (3 + m53) = true → ∃ t, exec (.tmarm o) s = .next t ∧ t.ron Reg.MERID_ARMED 0 [k] = false ∧
      t.pget Reg.MERID_TRIG_NEXT 0 [k] = 0 ∧ t.thr n = x.goneTo (x.pc + 1) (6 + o.delay) ∧ only t) ∧
    (bit w 53 = false → okBits w (3 + m53 + (mA + mB)) = true → s.reached a = false → ∃ t, exec (.tmarm o) s = .next t ∧
      t.ron Reg.MERID_ARMED 0 [k] = true ∧ t.pget Reg.MERID_TRIG_NEXT 0 [k] = a ∧
      t.mer = { s.mer with trig := sset (fun _ => {}) s.mer.trig k { s.trg k with first := a, period := if p = 0 then 0 else max 16 p, n := 0 } } ∧
      t.thr n = x.goneTo (x.pc + 1) (6 + o.delay) ∧ only t) ∧
    (bit w 53 = false → okBits w (3 + m53 + (mA + mB)) = true → s.reached a = true → bit w 52 = true → ∃ t, exec (.tmarm o) s = .next t ∧
      t.thr n = { x with e := true, lstat := 7 }.goneTo (x.pc + 1) (6 + o.delay) ∧ OnlyThread n s t)))

/-- In every canonical state, for a legal PDREQ of domain d (0 to 43) and target: a target already reached with no transition in progress gives
OK; one that may be requested is queued as the domain's next target, and the instruction completes with NOWAIT, else waits with a request
number of its own that the domain's queue carries (no queued target before); PD_SEQ to anything but on, the higher-claim complex's domain,
and PD_PCIE from a ring in host memory are refused: counted, recorded, event 1081, and with SOFT the program goes on with E and LSTAT 3.
In every canonical state, for an accepted write of PD_REQ with GO and target g for the domain d in PD_SEL: below on, PD_SEQ is refused with code 9 and
the domain of the higher-claim complex with code 8, counted, with LAST_RESULT and event; a target that the idle domain already meets completes at
once; else the target is queued, and one queued before is superseded, counted, with its event. An enabled wake source raises its event and queues
on for every masked domain that is not on or rising, and for no other; a source that is not enabled does nothing. -/
def Obligations.PowerRequestRules : Prop :=
  (∀ (s : State) (o : AxOp) (w : Nat), s.Canonical →
  let n := o.thread
  let x := s.thr n
  let d := bits w 13 8
  let g := bits w 1 0
  let free : Prop := g = 2 ∨ (d ≠ 43 ∧ ¬ (d = 42 ∧ s.rget Reg.SEQ_RING_LOC 0 [x.ring] ≠ 1) ∧
    ∀ c, c < 2 → d = 39 + c → s.higher ≠ some c)
  let there : Prop := s.dom d = g ∧ s.ron Reg.POWER_BUSY d = false
  let legal : Prop := okBits w (0x3F03 + m53 + mTO) = true ∧ toOk w = true
  let queued (t : State) (r : Nat) : Prop := t.rget Reg.POWER_QUEUED_V d = 1 ∧ t.rget Reg.POWER_QUEUED d = g ∧
    t.domx d = { s.domx d with qReq := r } ∧ (∀ j, j ≠ d → t.domx j = s.domx j) ∧ (∀ j, j ≠ n → t.thr j = s.thr j) ∧
    OnlyRegs [rowKey Reg.POWER_QUEUED d] s t ∧ OnlyChanges [.threads, .regs, .doms, .nextReq] s t
  Holds s n 6 → Fetches s o 0x58 w [] → legal → d ≤ 43 → g ≤ 2 →
  (free → there → GoesOn s n (x.pc + 1) (4 + o.delay) → ∃ t, exec (.pdreq o) s = .next t ∧ t.rget Reg.POWER_LAST_RESULT d = 0 ∧
    t.thr n = x.goneTo (x.pc + 1) (4 + o.delay) ∧ OnlyRegs [rowKey Reg.POWER_LAST_RESULT d] s t ∧ OnlyChanges [.threads, .regs] s t ∧
    ∀ j, j ≠ n → t.thr j = s.thr j) ∧
  (free → ¬ there → s.ron Reg.POWER_QUEUED_V d = false → bit w 53 = true → GoesOn s n (x.pc + 1) (4 + o.delay) →
    ∃ t, exec (.pdreq o) s = .next t ∧ queued t 0 ∧ t.thr n = x.goneTo (x.pc + 1) (4 + o.delay) ∧ t.nextReq = s.nextReq) ∧
  (free → ¬ there → s.ron Reg.POWER_QUEUED_V d = false → bit w 53 = false → toCycles (bits w 39 24) ≠ some 0 →
    ∃ t, exec (.pdreq o) s = .next t ∧ queued t (s.nextReq + 1) ∧ t.nextReq = s.nextReq + 1 ∧
      t.thr n = x.waits (.pdreq d (s.nextReq + 1)) s.now w 1 (4 + o.delay)) ∧
  (¬ free → bit w 52 = true → GoesOn s n (x.pc + 1) (4 + o.delay) → ∃ t, exec (.pdreq o) s = .next t ∧
    t.pget Reg.POWER_DOM_CNT 0 [d, 1] = (s.pget Reg.POWER_DOM_CNT 0 [d, 1] + 1) % 2 ^ 64 ∧
    t.rget Reg.POWER_LAST_REFUSER d = (if d = 42 then 7 else if d = 43 then 9 else 8) ∧ t.rget Reg.POWER_LAST_RESULT d = 2 ∧
    t.evStatus 1081 = true ∧ t.thr n = { x with e := true, lstat := 3 }.goneTo (x.pc + 1) (4 + o.delay) ∧
    OnlyChanges [.threads, .regs, .vecs] s t ∧ (∀ j, j ≠ n → t.thr j = s.thr j) ∧ ∀ k, keyBlk k ∉ [2, 3] → k ∉ lostVecKeys → t.cell k = s.cell k)) ∧
  (∀ (s : State), s.Canonical → s.boot.porst = false →
  (∀ (m : Master) (d g : Nat), hasBar0 m = true → d < 44 → g < 3 → s.instOf (bankOf m) 2 0x100 = d →
    s.writeCause m.id (bankOf m) ⟨2, 0x100, false⟩ d none (2 ^ 31 + g) 0xFFFFFFFF = 0 →
    (∀ e, s.govern (bankOf m) 2 0x100 none = some e → s.dom e ≠ 1) →
    let fixed : Prop := d = 43 ∧ g ≠ 2
    let claim : Prop := g ≠ 2 ∧ ∃ x, x < 2 ∧ d = 39 + x ∧ s.higher = some x
    let there : Prop := s.dom d = g ∧ s.ron Reg.POWER_BUSY d = false
    let old : Prop := s.rget Reg.POWER_QUEUED_V d = 1
    ∃ t, exec (.pdReqGo m g) s = .next t ∧ (∀ e, e < 44 → t.dom e = s.dom e) ∧ (∀ e, e ≠ d → t.domx e = s.domx e) ∧
      (fixed ∨ claim → t.rget Reg.POWER_LAST_REFUSER d = (if d = 43 then 9 else 8) ∧ t.rget Reg.POWER_REFUSER_DOM d = 0 ∧
        t.rget Reg.POWER_LAST_RESULT d = 2 ∧ t.pget Reg.POWER_DOM_CNT 0 [d, 1] = (s.pget Reg.POWER_DOM_CNT 0 [d, 1] + 1) % 2 ^ 64 ∧
        t.evStatus 1081 = true ∧ t.rget Reg.POWER_QUEUED_V d = s.rget Reg.POWER_QUEUED_V d ∧ t.rget Reg.POWER_QUEUED d = s.rget Reg.POWER_QUEUED d) ∧
      (¬ (fixed ∨ claim) → there → t.rget Reg.POWER_LAST_RESULT d = 0 ∧ t.rget Reg.POWER_QUEUED_V d = s.rget Reg.POWER_QUEUED_V d ∧ t.domx d = s.domx d) ∧
      (¬ (fixed ∨ claim) → ¬ there → t.rget Reg.POWER_QUEUED_V d = 1 ∧ t.rget Reg.POWER_QUEUED d = g ∧ t.domx d = { s.domx d with qReq := 0 } ∧
        (old → t.rget Reg.POWER_LAST_RESULT d = 1 ∧ t.evStatus 1083 = true ∧ t.pget Reg.POWER_DOM_CNT 0 [d, 2] = (s.pget Reg.POWER_DOM_CNT 0 [d, 2] + 1) % 2 ^ 64) ∧
        (¬ old → t.rget Reg.POWER_LAST_RESULT d = s.rget Reg.POWER_LAST_RESULT d ∧ t.threads = s.threads ∧ t.mem = s.mem))) ∧
  (∀ w, w < 24 → s.clockless = false →
    let en := if w < 16 then bit (s.rget Reg.POWER_WAKE_EN) w else bit (s.rget Reg.POWER_WAKE_PG_EN) (w - 16)
    let asked (d : Nat) : Prop := bit (s.pget Reg.POWER_WAKE_DOM 0 [w]) d = true ∧ s.onOrRising d = false
    (en = false → exec (.wake w) s = .next s) ∧
    (en = true → ∃ t, exec (.wake w) s = .next t ∧ t.evStatus (if w < 16 then 1086 + w else 1085) = true ∧ (∀ d, d < 44 → t.dom d = s.dom d) ∧
      (∀ d, d < 44 → asked d → t.rget Reg.POWER_QUEUED_V d = 1 ∧ t.rget Reg.POWER_QUEUED d = 2 ∧ t.domx d = { s.domx d with qReq := 0 }) ∧
      (∀ d, d < 44 → ¬ asked d → t.rget Reg.POWER_QUEUED_V d = s.rget Reg.POWER_QUEUED_V d ∧ t.rget Reg.POWER_QUEUED d = s.rget Reg.POWER_QUEUED d ∧
        t.domx d = s.domx d) ∧
      OnlyChanges [.regs, .mem, .threads, .rings, .doms, .vecs, .legend] s t)))

/-- In every canonical state whose thread holds the class and fetches a legal CSNAP without TALLY of a group that exists, to an aligned place that
can be written (STORE_WR for the store): the short time and then the group's counters stand there, little-endian, 8 bytes each; A holds the
number of words; the counters of a clear-on-read group read 0, the others keep their values; every other register, rule counter, byte and
thread is as before.
In every canonical state with Tally enabled: a snapshot holds the short time, KINDS and the counters of every enabled group, and counts; while
one is held, or the ring is full, it is discarded and counts as such. CSNAP with TALLY and B 0 takes one (FULL where it is discarded), with B
later than now it waits; TALLY_SNAPSHOT_AT_TIME takes the one that a waiting CSNAP names and completes it; TALLY_PERIOD takes one and sets the
next instant a period later. TALLY_ENTRY_WRITTEN writes a held snapshot whose groups fit as the entry at PROD and advances PROD; with a full
ring the snapshot is dropped. -/
def Obligations.CountersAndTally : Prop :=
  (∀ (s : State) (o : AxOp) (w key : Nat) (refs : List CtrRef), s.Canonical →
  let n := o.thread
  let x := s.thr n
  let b := (x.reg (bits w 47 44)).toNat
  let words := s.short :: refs.map s.ctr
  let cost := 8 + words.length + o.delay
  Holds s n 7 → Fetches s o 0x68 w [] → okBits w (mB + m53 + m54 + mTO + (mA + 0xFFFF)) = true → toOk w = true → bit w 54 = false → groupRefs (bits w 23 0) = some refs →
  b % 8 = 0 → (bit w 53 = true → Holds s n 10) → Reaches s o (bit w 53) b (8 * words.length) key → GoesOn s n (x.pc + 1) cost →
  ∃ t, exec (.csnap o) s = .next t ∧ t.mread key (8 * words.length) = words.flatMap (leBytes 8) ∧ OnlyBytes key (8 * words.length) s t ∧
  t.thr n = (x.setReg (bits w 51 48) (BitVec.ofNat 64 words.length)).goneTo (x.pc + 1) cost ∧ (∀ j, j ≠ n → t.thr j = s.thr j) ∧
  (∀ c ∈ refs, t.ctr c = if groupClears (bits w 23 0) then 0 else s.ctr c) ∧
  (∀ k, CtrRef.rule k ∉ refs → t.ctr (.rule k) = s.ctr (.rule k)) ∧
  (∀ k, (∀ r i ix, CtrRef.pair r i ix ∈ refs → k ≠ rowKey r i ix ∧ k ≠ rowKey r i ix + 4) → t.cell k = s.cell k) ∧
  OnlyChanges [.threads, .mem, .regs, .ruleCnt] s t) ∧
  (∀ (s : State), s.Canonical → s.rget Reg.TALLY_EN = 1 →
  let snap : Snapshot := ⟨s.short, s.rget Reg.TALLY_KINDS, s.tallyGroups.map (fun g => (g, ((groupRefs g).getD []).map s.ctr))⟩
  let c (t : State) (i : Nat) : Prop := t.pget Reg.TALLY_CNT 0 [i] = (s.pget Reg.TALLY_CNT 0 [i] + 1) % 2 ^ 64
  let taken (t : State) : Prop := s.tally.held = none → s.tallyFull = false → t.tally.held = some snap ∧ c t 0
  let lost (t : State) : Prop := (s.tally.held ≠ none → t.tally.held = s.tally.held ∧ c t 2) ∧
    (s.tally.held = none → s.tallyFull = true → t.tally.held = none ∧ c t 1)
  let quiet (t : State) : Prop := OnlyChanges [.threads, .regs, .tally] s t ∧ OutsideBlock 15 [] s t
  (∀ (o : AxOp) (w : Nat), let n := o.thread
    let x := s.thr n
    let b := (x.reg (bits w 47 44)).toNat
    Holds s n 7 → Fetches s o 0x68 w [] → okBits w (mB + m53 + m54 + mTO) = true → toOk w = true → bit w 54 = true →
    (b = 0 → s.tally.held = none → s.tallyFull = false → GoesOn s n (x.pc + 1) (4 + o.delay) → ∃ t, exec (.csnap o) s = .next t ∧ taken t ∧
      t.thr n = x.goneTo (x.pc + 1) (4 + o.delay) ∧ quiet t ∧ ∀ j, j ≠ n → t.thr j = s.thr j) ∧
    (b = 0 → ¬ (s.tally.held = none ∧ s.tallyFull = false) → bit w 52 = true → GoesOn s n (x.pc + 1) (4 + o.delay) → ∃ t, exec (.csnap o) s = .next t ∧
      lost t ∧ t.thr n = { x with e := true, lstat := 5 }.goneTo (x.pc + 1) (4 + o.delay) ∧ quiet t ∧ ∀ j, j ≠ n → t.thr j = s.thr j) ∧
    (b ≠ 0 → s.reached (b % 2 ^ 48) = false → toCycles (bits w 39 24) ≠ some 0 → ∃ t, exec (.csnap o) s = .next t ∧
      t.thr n = x.waits (.csnap (b % 2 ^ 48) (bits w 51 48)) s.now w 1 (4 + o.delay) ∧ OnlyThread n s t)) ∧
  (∀ n i ra since dl soft len, let x := s.thr n
    n < 8 → x.wait = some ⟨.csnap i ra, since, dl, soft, len⟩ → s.reached i = true → s.tally.held = none → s.tallyFull = false →
    (∀ j, j < 8 → j ≠ n → ∀ k u r, (s.thr j).wait = some k → k.kind = .csnap u r → s.reached u = false) →
    GoesOn s n (x.pc + len) ((s.now - since) / 2) → ∃ t, exec .tallySnapshotAtTime s = .next t ∧ taken t ∧
    t.thr n = { x.goneTo (x.pc + len) ((s.now - since) / 2) with wait := none } ∧ quiet t ∧ ∀ j, j ≠ n → t.thr j = s.thr j) ∧
  (∀ i, s.tally.nextAt = some i → s.rget Reg.TALLY_PERIOD_US ≠ 0 → s.reached i = true → ∃ t, exec .tallyPeriod s = .next t ∧ taken t ∧ lost t ∧
    t.tally.nextAt = some ((i + 1000 * s.rget Reg.TALLY_PERIOD_US) % 2 ^ 48) ∧ t.threads = s.threads ∧ quiet t) ∧
  (∀ h, s.tally.held = some h →
    let prod := s.rget Reg.TALLY_PROD
    let base := s.pget Reg.TALLY_RING_BASE + prod % 2 ^ s.rget Reg.TALLY_SIZE_LOG2 * 2 ^ s.rget Reg.TALLY_ENTRY_LOG2
    let key := if s.ron Reg.TALLY_LOC then lp4xKey base else hostKey (s.rget Reg.TALLY_FUNC) base
    let body := h.groups.flatMap (fun g => (g.1 * 2 ^ 48 + g.2.length * 2 ^ 32) :: g.2)
    let words := [h.time, (s.tally.seq + 1) % 2 ^ 32 * 2 ^ 32 + 64 + 8 * body.length, h.kinds, 0, 0, 0, 0,
      (1 - prod / 2 ^ s.rget Reg.TALLY_SIZE_LOG2 % 2) * 2 ^ 63] ++ body
    (s.tallyFull = true → ∃ t, exec .tallyEntryWritten s = .next t ∧ t.tally = { s.tally with held := none } ∧ c t 1 ∧ t.mem = s.mem ∧
      OnlyChanges [.regs, .tally] s t) ∧
    (s.tallyFull = false → words.length ≤ 2 ^ s.rget Reg.TALLY_ENTRY_LOG2 / 8 → ∃ t, exec .tallyEntryWritten s = .next t ∧
      t.tally = { s.tally with held := none, seq := (s.tally.seq + 1) % 2 ^ 32 } ∧ t.rget Reg.TALLY_PROD = (prod + 1) % 2 ^ 32 ∧
      t.mread key (8 * words.length) = words.flatMap (leBytes 8) ∧ OnlyBytes key (8 * words.length) s t ∧
      OnlyChanges [.mem, .tally, .regs, .vecs, .fresh] s t)))

/-- In every canonical state whose thread holds the class and fetches a legal LOADP of 1 to 4,097 words that form a program: with its pipes on and none
of them still loading, each pipe's shadow bank holds the program and shows LOADING, and the thread waits; a pipe that is off gives REFUSED and
changes no pipe (with SOFT). PROG_SWITCH of a pipe that is loading exchanges its banks, shows the new program, ends LOADING, counts and
raises the switch; a thread that waited for this pipe alone completes. -/
def Obligations.ParsePrograms : Prop := ∀ (s : State), s.Canonical →
  (∀ (o : AxOp) (w key : Nat), let n := o.thread
    let x := s.thr n
    let b := (x.reg (bits w 47 44)).toNat
    let m := (x.reg (bits w 43 40)).toNat
    let p := imagesOf 8 m (s.mread key (8 * m))
    let pipes := (List.range 8).filter (fun k => bit (bits w 23 0) k)
    let pipe (k : Nat) : Prop := k < 8 ∧ bit (bits w 23 0) k = true
    Holds s n 9 → Fetches s o 0x78 w [] → okBits w (mB + mC + 0xFF + m53) = true → 1 ≤ m → m ≤ 4097 → b % 8 = 0 →
    Reaches s o (bit w 53) b (8 * m) key → progOk p = true →
    ((∀ k, pipe k → s.domOn (8 + k) = true ∧ s.rget Reg.SURVEY_LOADING k ≠ 1) → (∃ k, pipe k) → ∃ t, exec (.loadp o) s = .next t ∧
      (∀ k, pipe k → t.sv k = { s.sv k with shadow := some p, lost := [] } ∧ t.rget Reg.SURVEY_LOADING k = 1 ∧
        t.rget Reg.SURVEY_SHADOW_ID k = progId p) ∧
      (∀ k, ¬ pipe k → t.sv k = s.sv k) ∧ OutsideBlock 8 [] s t ∧ OnlyChanges [.threads, .surveys, .regs] s t ∧
      t.thr n = { x with charged := x.charged + (16 + 2 * m + o.delay), wait := some ⟨.loadp pipes none, s.now, none, bit w 52, 1⟩ } ∧
      ∀ j, j ≠ n → t.thr j = s.thr j) ∧
    ((∃ k, pipe k ∧ s.domOn (8 + k) = false) → bit w 52 = true → GoesOn s n (x.pc + 1) (16 + 2 * m + o.delay) → ∃ t, exec (.loadp o) s = .next t ∧
      t.thr n = { x with e := true, lstat := 3 }.goneTo (x.pc + 1) (16 + 2 * m + o.delay) ∧ OnlyThread n s t)) ∧
  (∀ k p, k < 8 → (s.sv k).shadow = some p → s.rget Reg.SURVEY_LOADING k = 1 →
    (∀ j q, j < 8 → (s.thr j).wait = some q → ∀ ps img, q.kind ≠ .loadp ps img) → ∃ t, exec (.progSwitch k) s = .next t ∧
    t.sv k = { s.sv k with active := some p, shadow := some (s.activeProg k), lost := [] } ∧ t.rget Reg.SURVEY_PROG_ID k = progId p ∧
    t.rget Reg.SURVEY_LOADING k = 0 ∧ t.pget Reg.SURVEY_CNT k [10] = (s.pget Reg.SURVEY_CNT k [10] + 1) % 2 ^ 64 ∧
    t.evStatus (816 + 8 * k) = true ∧ (∀ j, j ≠ k → t.sv j = s.sv j) ∧ OnlyChanges [.surveys, .regs, .vecs] s t) ∧
  (∀ k p n since dl soft len, let x := s.thr n
    k < 8 → n < 8 → (s.sv k).shadow = some p → s.rget Reg.SURVEY_LOADING k = 1 → x.wait = some ⟨.loadp [k] none, since, dl, soft, len⟩ →
    (∀ j q, j < 8 → j ≠ n → (s.thr j).wait = some q → ∀ ps img, q.kind ≠ .loadp ps img) → GoesOn s n (x.pc + len) ((s.now - since) / 2) →
    ∃ t, exec (.progSwitch k) s = .next t ∧ t.thr n = { x.goneTo (x.pc + len) ((s.now - since) / 2) with wait := none } ∧
    ∀ j, j ≠ n → t.thr j = s.thr j)

/-- In every canonical state whose thread fetches a legal PLCTX of a context on an engine that is on, none of whose contexts drains: an image that
passes the checks and fits is taken - a disabled context is enabled, an image of the same geometry governs the windows that open later, one of
another geometry waits while the context drains; one that does not fit gives FULL and changes no context; DISABLE starts the drain. At a
WINDOW_OPEN after the end of the drain a disabled context is off, and a waiting image governs; a context that does not drain stays.
In every canonical state with an engine that works: PLAIT_TAKE removes the oldest frame of its input buffer once all its cells are there; a frame
with a bad FCS, and one for a disabled context, is discarded and changes no context; one whose sections are legal, for a contributor of the image
and an open window, leaves that window live with the contributor's present bit, and no other context changed. WINDOW_CLOSE of the only
due window removes it: with too few contributors it shows its mask and count, counts WINDOWS and SUPPRESSED, sets SUPPRESSED and raises the
engine's event; with enough it emits and its buffer is busy. -/
def Obligations.PlaitContextsAndWindows : Prop :=
  (∀ (s : State) (x : Nat), s.Canonical → x < 256 →
  let c := s.pc x
  let others (t : State) : Prop := ∀ y, y ≠ x → t.pc y = s.pc y
  (∀ (o : AxOp) (w key : Nat), let n := o.thread
    let y := s.thr n
    let b := (y.reg (bits w 47 44)).toNat
    let img := beNat (s.mread key 128)
    let gone : Thread := y.goneTo (y.pc + 1) (12 + o.delay)
    let only (t : State) : Prop := OnlyChanges [.threads, .plait] s t ∧ (∀ j, j ≠ n → t.thr j = s.thr j) ∧ others t
    Holds s n 8 → Fetches s o 0x70 w [] → bits w 23 0 = x → s.domOn (27 + x / 64) = true → GoesOn s n (y.pc + 1) (12 + o.delay) →
    (∀ z, z / 64 = x / 64 → (s.pc z).draining = false) →
    (okBits w (0xFF + m53 + m54 + mB) = true → bit w 54 = false → b % 8 = 0 → Reaches s o (bit w 53) b 128 key → plOk img = true →
      (s.plaitFoot (x / 64) x + plFoot img ≤ 6291456 → c.img = none → ∃ t, exec (.plctx o) s = .next t ∧ t.thr n = gone ∧
        t.pc x = { img := some img, earlyBefore := some s.short, seq := c.seq } ∧ only t) ∧
      (∀ old, c.img = some old → plSameGeometry old img = true → s.plaitFoot (x / 64) x + plFoot img ≤ 6291456 → ∃ t, exec (.plctx o) s = .next t ∧
        t.thr n = gone ∧ t.pc x = { c with img := some img, prevs := c.prevs ++ [(old, (s.short + 1) % 2 ^ 48)] } ∧ only t) ∧
      (∀ old, c.img = some old → plSameGeometry old img = false → s.plaitFoot (x / 64) x + plFoot old + plFoot img ≤ 6291456 →
        ∃ t, exec (.plctx o) s = .next t ∧ t.thr n = gone ∧ t.pc x = { c with next := some img, drainFrom := s.short } ∧ only t) ∧
      (6291456 < s.plaitFoot (x / 64) x + plFoot img → bit w 52 = true → ∃ t, exec (.plctx o) s = .next t ∧
        t.thr n = { y with e := true, lstat := 5 }.goneTo (y.pc + 1) (12 + o.delay) ∧ OnlyThread n s t)) ∧
    (okBits w (0xFF + m53 + m54 + 0) = true → bit w 54 = true → c.img ≠ none → ∃ t, exec (.plctx o) s = .next t ∧ t.thr n = gone ∧
      t.pc x = { c with next := none, disabling := true, drainFrom := s.short } ∧ only t)) ∧
  (c.draining = false → exec (.windowOpen x) s = .next s) ∧
  (∀ i, c.img = some i → c.wins = [] → s.domOn (27 + x / 64) = true → s.reached (c.drainEnd i) = true →
    (c.disabling = true → ∃ t, exec (.windowOpen x) s = .next t ∧ t.pc x = { seq := c.seq } ∧ others t ∧ OnlyChanges [.plait] s t) ∧
    (∀ k, c.next = some k → c.disabling = false → laterThan (c.drainEnd i) (plLastOpen k s.short) = false → ∃ t, exec (.windowOpen x) s = .next t ∧
      t.pc x = { c with img := some k, prevs := [], next := none, noBefore := some (c.drainEnd i), busy := [] } ∧ others t ∧
      OnlyChanges [.plait] s t))) ∧
  (∀ (s : State) (k : Nat), s.Canonical → k < 4 →
  (∀ e r, let f := s.fr e.f
    let c := s.pc e.ctx
    sget (fun _ => []) s.plaitIn k = e :: r → s.works (27 + k) = true → f.ended = true → (f.len + 255) / 256 ≤ e.cells →
    ∃ t, exec (.plaitTake k) s = .next t ∧ sget (fun _ => []) t.plaitIn k = r ∧ (∀ j, j ≠ k → sget (fun _ => []) t.plaitIn j = sget (fun _ => []) s.plaitIn j) ∧
    (f.bad = true ∨ f.trunc = true ∨ e.bad = true → t.plait = s.plait) ∧ (c.img = none → t.plait = s.plait) ∧ (∀ y, y ≠ e.ctx → t.pc y = s.pc y) ∧
    (∀ cur app j, f.bad = false → f.trunc = false → e.bad = false → c.img = some cur → c.draining = false →
      (recordBases f.record)[6]?.getD none = some app → app ≤ 96 →
      let h := beNat (slice f.body app 4)
      let tm := beNat (slice f.body (app + 8) 4)
      let sy := plSymbol cur s.short (bits tm 27 20) (bits tm 19 16) (bits tm 15 10) (bits tm 9 6)
      let S := wrapInt 48 ((plEPOCH cur : Nat) + sy.1)
      let b := (sy.2 % ((plSYMS cur : Nat) : Int)).toNat
      let img := (c.imgAt (wrapInt 48 ((S : Nat) + plOPEN cur))).getD cur
      bits h 31 28 = 1 → bit h 24 = false → bits h 23 16 = 0 → bits tm 31 28 = 1 → bits tm 19 16 ≤ 9 → bits tm 15 10 < 2 ^ plMU cur →
      bits tm 9 6 ≤ 13 → bits tm 5 0 = 0 →
      (List.range (plNCONTRIB img)).find? (fun i => plPcId img i == beNat (slice f.body (app + 4) 2)) = some j →
      (parseSections img f.body (min (app + 4 + bits h 15 0) f.body.length) 1200 (app + 12)).1 ≠ [] →
      s.winTest c img S b = .open_ → ∃ v ∈ (t.pc e.ctx).wins, v.start = S ∧ v.present / 2 ^ j % 2 = 1)) ∧
  (∀ x w, let c := s.pc x
    let n := ((List.range (plNCONTRIB w.img)).filter (fun j => bit w.present j)).length
    let cnt (t : State) (i : Nat) : Prop := t.pget Reg.PLAIT_CNT 0 [k, i] = (s.pget Reg.PLAIT_CNT 0 [k, i] + 1) % 2 ^ 64
    x < 256 → x / 64 = k → s.domOn (27 + k) = true → c.wins = [w] → s.reached (wrapInt 48 ((w.start : Nat) + plCLOSE w.img)) = true →
    (n < plMIN w.img → ∃ t, exec (.windowClose x) s = .next t ∧ t.pc x = { c with wins := [], busy := sdel c.busy w.buf } ∧
      t.rget Reg.PLAIT_LAST_PRESENT 0 [k, x % 64] = n ∧ t.rget Reg.PLAIT_LAST_MASK 0 [k, x % 64] = w.present % 2 ^ 16 ∧ cnt t 11 ∧ cnt t 13 ∧
      t.rget Reg.PLAIT_SUPPRESSED 0 [k] = 1 ∧ t.evStatus (947 + 4 * k) = true ∧ (∀ y, y ≠ x → t.pc y = s.pc y) ∧
      OnlyChanges [.plait, .regs, .vecs] s t) ∧
    (plMIN w.img ≤ n → ∃ t, exec (.windowClose x) s = .next t ∧ (t.pc x).wins = [] ∧ (t.pc x).img = c.img ∧ ∃ u, (t.pc x).busy = sins c.busy w.buf u) ∧
    (∀ y, y ≠ x → ∀ t, exec (.windowClose x) s = .next t → t.pc y = s.pc y)))

/-- For canonical accumulators: adding a PRB's 24 values moves value k of that PRB to the clamp of its sum with (value * gain + 0x4000) >> 15, leaves every
other accumulator, and reports a clip exactly when some sum was clamped; and two sections added in either order, neither of which clips in
either order, leave the same accumulators. -/
def Obligations.Combining : Prop :=
  (∀ (g : Int) (prb : Nat) (vs : List Int) (acc : Sparse Int), swf (fun _ => 0) acc = true → vs.length = 24 →
    let r := addPrb g prb vs acc
    let sum (k : Nat) : Int := sget (fun _ => 0) acc (24 * prb + k) + (vs.getD k 0 * g + 0x4000) / 32768
    let clamp (v : Int) : Int := max (-8388608) (min v 8388607)
    (∀ k, k < 24 → sget (fun _ => 0) r.1 (24 * prb + k) = clamp (sum k)) ∧
    (∀ k, k < 24 * prb ∨ 24 * prb + 24 ≤ k → sget (fun _ => 0) r.1 k = sget (fun _ => 0) acc k) ∧
    (r.2 = 0 ↔ ∀ k, k < 24 → clamp (sum k) = sum k)) ∧
  (∀ (g h : Int) (e f : PlSect) (d q : List Byte) (acc : Sparse Int), swf (fun _ => 0) acc = true →
    let a := addSection g e d acc
    let ab := addSection h f q a.1
    let b := addSection h f q acc
    let ba := addSection g e d b.1
    a.2.2.2 = 0 → ab.2.2.2 = 0 → b.2.2.2 = 0 → ba.2.2.2 = 0 → ∀ k, sget (fun _ => 0) ab.1 k = sget (fun _ => 0) ba.1 k)

/-- In every canonical state out of PORST_N, clocked, with PD_SEQ on, for a ring below 64 and a master with BAR2: a doorbell that the ring admits (an
identity its binding admits, for a privileged ring the higher-claim complex as well) sets TAIL, and stops the ring with OVERFLOW where more
descriptors than its size are pending, or sets CQ_HEAD; any other doorbell changes no index, counts, and raises 993, or 994 for a privileged
ring bound to its writer (the model's choice of log entry 26). Stored bytes reach memory either way. A write of ERR by PF0, the debug identity or the higher-claim complex clears ERR and its code and
leaves EN. A completion ring full for longer than 1 ms raises CQ_STALL once.
In every state: where the sequencer selects ring n at priority p, that ring is below 64, eligible and of priority p, no ring of a higher priority is
eligible, and none of the rings of priority p that follow the ring last started there, and come before n in the circle of 64, is eligible;
and it selects one whenever any ring of a priority 0 to 3 is eligible. -/
def Obligations.RingRules : Prop :=
  (∀ (s : State) (m : Master) (n : Nat) (v : Word) (l : List HostStore), s.Canonical → n < 64 →
  s.boot.porst = false → s.clockless = false → s.domOn 43 = true →
  let bound : Prop := s.admits (s.ringTarget n) m.id = true
  let admits : Prop := bound ∧ (s.privileged n = true → s.isHigher m.id = true)
  let tail := v.toNat % 65536
  let pending := (tail + 65536 - s.rget Reg.DB_HEAD n) % 65536
  let cnt := if s.admits (s.ringTarget n) m.id = true then Reg.SEQ_PRIV_REFUSED else Reg.SEQ_DB_REFUSED
  let turned (t : State) : Prop := t.rget cnt = min (s.rget cnt + 1) 0xFFFFFFFF ∧
    t.evStatus (if s.admits (s.ringTarget n) m.id = true then 994 else 993) = true ∧ (∀ k, keyBlk k = 18 → t.cell k = s.cell k)
  (hasBar2 m = true → admits → ∃ t, exec (.tailWrite m n v l) s = .next t ∧ t.rget Reg.DB_TAIL n = tail ∧ t.mem = (s.applyStores l).mem ∧
    (pending ≤ s.ringSize n → OnlyRegs [rowKey Reg.DB_TAIL n] s t ∧ OnlyChanges [.regs, .mem] s t) ∧
    (s.ringSize n < pending → t.rget Reg.SEQ_ERR 0 [n] = 1 ∧ t.rget Reg.SEQ_ERR_CODE 0 [n] = 1 ∧ t.rget Reg.SEQ_EN 0 [n] = 0 ∧
      t.rget Reg.SEQ_ERR_RING = n ∧ t.evStatus 992 = true ∧ OnlyChanges [.regs, .mem, .vecs] s t)) ∧
  (hasBar2 m = true → admits → ∃ t, exec (.cqHeadWrite m n v) s = .next t ∧ t.rget Reg.DB_CQ_HEAD n = tail ∧ OnlyRegs [rowKey Reg.DB_CQ_HEAD n] s t ∧
    OnlyChanges [.regs, .rings] s t ∧ ∀ j, j ≠ n → t.ringx j = s.ringx j) ∧
  (hasBar2 m = true → ¬ admits → (∃ t, exec (.tailWrite m n v l) s = .next t ∧ turned t ∧ t.mem = (s.applyStores l).mem) ∧
    ∃ t, exec (.cqHeadWrite m n v) s = .next t ∧ turned t ∧ t.mem = s.mem) ∧
  (hasBar0 m = true → (if s.privileged n = true then s.isHigher m.id = true else m.id = 1 ∨ m.id = 21 ∨ s.isHigher m.id = true) →
    ∃ t, exec (.ringErrClear m n) s = .next t ∧ t.rget Reg.SEQ_ERR 0 [n] = 0 ∧ t.rget Reg.SEQ_ERR_CODE 0 [n] = 0 ∧
    OnlyRegs [rowKey Reg.SEQ_ERR 0 [n]] s t ∧ OnlyChanges [.regs] s t) ∧
  (∀ t0, (s.ringx n).fullSince = some t0 → s.cqFree n = false →
    ((s.ringx n).stalled = false → t0 + 1600000 < s.now → ∃ t, exec (.cqStall n) s = .next t ∧ t.evStatus 1006 = true ∧
      t.ringx n = { s.ringx n with stalled := true } ∧ OnlyChanges [.rings, .regs, .vecs] s t) ∧
    ((s.ringx n).stalled = true ∨ s.now ≤ t0 + 1600000 → exec (.cqStall n) s = .next s))) ∧
  (∀ (s : State),
  (∀ p n, s.nextRing = some (p, n) →
    let last := sget (fun _ => 63) s.lastStarted p
    n < 64 ∧ s.rget Reg.SEQ_PRIO 0 [n] = p ∧ s.ringEligible n = true ∧
    (∀ j, j < 64 → p < s.rget Reg.SEQ_PRIO 0 [j] → s.ringEligible j = false) ∧
    ∃ i, i < 64 ∧ (last + 1 + i) % 64 = n ∧ ∀ k, k < i → s.rget Reg.SEQ_PRIO 0 [(last + 1 + k) % 64] = p → s.ringEligible ((last + 1 + k) % 64) = false) ∧
  (∀ j, j < 64 → s.ringEligible j = true → s.nextRing ≠ none))

/-- In every canonical state with SEQ_EN, PD_SEQ on and an idle thread, u being the state after the fetch boundary: where the ring selected can be
read, HEAD advances; a legal descriptor that is not doomed starts on the lowest-numbered idle thread of the mask, with its tag, length,
address, flags and budget (CR_BUDGET for 0), g14 and g15 from ARG0 and ARG1 and every other register 0, and the ring is the last started of its
priority; a descriptor with a reserved bit stops the ring with DESC and starts nothing; one that cannot be fetched stops it with BUS. No byte of
memory changes. Without SEQ_EN nothing changes.
In every canonical state, for a thread that runs a program of one of the 64 rings: a set halt bit ends it with ABORTED, a wait in which the budget
is used up with BUDGET, and a time-out that has expired with TIMEOUT, the wait's duration charged and the instruction's offset recorded; with
SOFT the time-out sets T and LSTAT and the program goes on behind the instruction. Before the deadline, and with the halt bit clear, nothing
changes. -/
def Obligations.ProgramStartsAndStops : Prop :=
  (∀ (s : State), s.Canonical →
  let u := s.fetchBoundary
  (s.rget Reg.SEQ_SEQ_EN = 0 → exec (.programStart .ok) s = .next s) ∧
  (∀ p n, s.rget Reg.SEQ_SEQ_EN = 1 → s.domOn 43 = true → (∃ j, j < 8 ∧ (s.thr j).running = false) → u.nextRing = some (p, n) →
    (∀ k t0 more, u.headKey n = some k → u.headDoomed n = false → u.idleFor n = t0 :: more →
      let w0 := u.m64 k
      let w1 := u.m64 (k + 8)
      (descOk w1 = true → (bit w1 24 = true ∨ u.ringFunc n ≠ none) → w0 % 8 = 0 → ∃ t, exec (.programStart .ok) s = .next t ∧
        t.thr t0 = { running := true, ring := n, tag := bits w1 63 48, len := bits w1 47 32, addr := w0, loc := bit w1 24, irq := bit w1 27,
                     nocompl := bit w1 31,
                     budget := (if bits w1 15 0 = 0 then u.rget Reg.SEQ_CR_BUDGET 0 [n] else bits w1 15 0) * 65536, g := (t.thr t0).g } ∧
        (∀ i, (t.thr t0).reg i = if i = 14 then BitVec.ofNat 64 (u.m64 (k + 16)) else if i = 15 then BitVec.ofNat 64 (u.m64 (k + 24)) else 0) ∧
        (∀ j, j ≠ t0 → t.thr j = u.thr j) ∧ t.rget Reg.DB_HEAD n = (u.rget Reg.DB_HEAD n + 1) % 65536 ∧
        sget (fun _ => 63) t.lastStarted p = n ∧ (∀ q, q ≠ p → sget (fun _ => 63) t.lastStarted q = sget (fun _ => 63) u.lastStarted q) ∧
        t.mem = s.mem) ∧
      (descOk w1 = false → ∃ t, exec (.programStart .ok) s = .next t ∧ t.threads = u.threads ∧ t.rget Reg.DB_HEAD n = (u.rget Reg.DB_HEAD n + 1) % 65536 ∧
        t.rget Reg.SEQ_ERR 0 [n] = 1 ∧ t.rget Reg.SEQ_ERR_CODE 0 [n] = 2 ∧ t.rget Reg.SEQ_EN 0 [n] = 0 ∧ t.evStatus 992 = true ∧ t.mem = s.mem)) ∧
    (u.headKey n = none → ∃ t, exec (.programStart .ok) s = .next t ∧ t.threads = u.threads ∧ t.rget Reg.DB_HEAD n = u.rget Reg.DB_HEAD n ∧
      t.rget Reg.SEQ_ERR 0 [n] = 1 ∧ t.rget Reg.SEQ_ERR_CODE 0 [n] = 3 ∧ t.rget Reg.SEQ_EN 0 [n] = 0 ∧ t.evStatus 992 = true ∧ t.mem = s.mem))) ∧
  (∀ (s : State) (n : Nat), s.Canonical → n < 8 → (s.thr n).running = true →
  let x := s.thr n
  (bit (s.rget Reg.SEQ_THREAD_HALT) n = true → x.ring < 64 → ∃ t, exec (.threadHalt n) s = .next t ∧
    Ended s t n 0x1A x.pc 0 (x.charged + s.waited n)) ∧
  (bit (s.rget Reg.SEQ_THREAD_HALT) n = false → exec (.threadHalt n) s = .next s) ∧
  (∀ k, x.wait = some k → x.budget ≠ 0 →
    (x.budget ≤ x.charged + (s.now - k.since) / 2 → x.ring < 64 → ∃ t, exec (.budgetExpiry n) s = .next t ∧
      Ended s t n 0x16 x.pc 0 (x.charged + (s.now - k.since) / 2)) ∧
    (x.charged + (s.now - k.since) / 2 < x.budget → exec (.budgetExpiry n) s = .next s)) ∧
  (∀ k d, x.wait = some k → k.deadline = some d →
    (d ≤ s.now → k.soft = false → x.ring < 64 → ∃ t, exec (.waitTimeout n) s = .next t ∧ Ended s t n 0x02 x.pc 0 (x.charged + (s.now - k.since) / 2)) ∧
    (d ≤ s.now → k.soft = true → GoesOn s n (x.pc + k.len) ((s.now - k.since) / 2) → ∃ t, exec (.waitTimeout n) s = .next t ∧
      t.thr n = { ({ x with t := true, lstat := 2 } : Thread).goneTo (x.pc + k.len) ((s.now - k.since) / 2) with wait := none } ∧ OnlyThread n s t) ∧
    (s.now < d → exec (.waitTimeout n) s = .next s)))

/-- In every canonical state out of PORST_N, for a BAR0 write of a master that reaches BAR0 (the sequencer's writes are RWM's): a write that is not one
full doubleword is refused with FORMAT; any write outside the global block while CLOCKLESS with DOMAIN; a binding register's while BIND_LOCK is
1 with LOCKED, whoever writes; of a block that the standard list governs, the lower complex's with CLAIM, and of an accepted writer one whose
domain is off (select registers apart) with DOMAIN and one to an EFFECTIVE view or an unlisted offset with RESERVED. A refused write counts, is
captured where nothing is, and leaves every register outside the capture, the events and PRIV_REFUSED, and all memory, as it was.
In every canonical state out of PORST_N and clocked, for a one-doubleword BAR0 write of PF0, the debug identity or a complex that passes every check:
a select register changes only its value in the writer's bank; a register of the clocks block (without action bits), of the bridge, Plait and
Tally, an event route and a binding changes its buffered value by the written bits under the register's own mask, and neither its value in use
(but for W1C bits) nor any other register. -/
def Obligations.BusWrites : Prop :=
  (∀ (s : State) (m : Master) (w : BusWrite), s.Canonical → s.boot.porst = false → hasBar0 m = true → m.id ≠ 19 →
  w.bar = 0 →
  let p := placeOf (w.addr % 2 ^ 26)
  let one : Prop := w.full = true ∧ ∃ v, w.dws = [v]
  let good : Prop := m.id = 1 ∨ m.id = 21 ∨ s.isHigher m.id = true
  let std : Prop := p.blk ≠ 4 ∧ p.blk ≠ 14
  let off : Prop := ∃ d, s.govern (bankOf m) p.blk p.off (s.queuePipe (s.sel (bankOf m) 10 0x10)) = some d ∧ s.dom d = 0
  let refused (c : Nat) : Prop := ∃ t, exec (.registerWrite m w) s = .next t ∧
    t.rget Reg.GLOBAL_WR_REFUSED = min (s.rget Reg.GLOBAL_WR_REFUSED + 1) 0xFFFFFFFF ∧
    (s.rget Reg.GLOBAL_VALID = 0 → t.rget Reg.GLOBAL_VALID = 1 ∧ t.rget Reg.GLOBAL_CAUSE_28 = c ∧ t.rget Reg.GLOBAL_ID = m.id ∧
      t.rget Reg.GLOBAL_REFUSED_ADDR = w.addr % 2 ^ 26 / 4) ∧
    (s.rget Reg.GLOBAL_VALID = 1 → ∀ k, k = rowKey Reg.GLOBAL_VALID ∨ k = rowKey Reg.GLOBAL_REFUSED_ADDR → t.cell k = s.cell k) ∧
    OutsideBlock 3 ([rowKey Reg.GLOBAL_WR_REFUSED, rowKey Reg.GLOBAL_REFUSED_ADDR, rowKey Reg.GLOBAL_VALID, rowKey Reg.SEQ_PRIV_REFUSED] ++ lostVecKeys) s t ∧
    OnlyChanges [.regs, .vecs] s t
  (¬ one → refused 7) ∧
  (one → s.clockless = true → p.blk ≠ 0 → refused 4) ∧
  (one → s.clockless = false →
    (s.rget Reg.BIND_BIND_LOCK = 1 → p.blk = 14 → 0x1000 ≤ p.off → p.off < 0x2304 → refused 5) ∧
    (std → (m.id = 17 ∨ m.id = 18) → s.isHigher m.id = false → refused 2) ∧
    (std → good → isSelect p.blk p.off = false → off → refused 4) ∧
    (std → good → (¬ off ∨ isSelect p.blk p.off = true) → (p.view = true ∨ regListed p.blk p.off = false) → refused 3))) ∧
  (∀ (s : State) (m : Master) (addr : Nat) (v : Word), s.Canonical → s.boot.porst = false →
  s.clockless = false → hasBar0 m = true → m.id ≠ 19 →
  let b := bankOf m
  let p := placeOf (addr % 2 ^ 26)
  let inst := s.instOf b p.blk p.off
  let rs := regRows p.blk p.off
  let e := effMask rs v.toNat 0xFFFFFFFF
  let k := regKey p.blk inst p.off
  s.writeCause m.id b p inst (s.queuePipe (s.sel b 10 0x10)) v.toNat 0xFFFFFFFF = 0 →
  (isSelect p.blk p.off = true → ∃ t, exec (.registerWrite m ⟨0, addr, [v], true⟩) s = .next t ∧
    t.sel b p.blk p.off = mergeBits (s.sel b p.blk p.off) e.1 (e.2 &&& rwMask rs) ∧
    (∀ c o q, (c, o, q) ≠ (b, p.blk, p.off) → c < 64 → b < 64 → o < 32 → q < 2 ^ 16 → t.sel c o q = s.sel c o q) ∧ OnlyChanges [.banks] s t) ∧
  ((p.blk = 1 ∨ p.blk = 7 ∨ p.blk = 11 ∨ p.blk = 15 ∨ (p.blk = 3 ∧ 0x1000 ≤ p.off) ∨ (p.blk = 14 ∧ 0x1000 ≤ p.off ∧ p.off < 0x2300 ∧ p.off ≠ 0x20FC)) →
    isSelect p.blk p.off = false → ∃ t, exec (.registerWrite m ⟨0, addr, [v], true⟩) s = .next t ∧
    (t.cell k).b = BitVec.ofNat 32 (mergeBits (s.cell k).b.toNat e.1 (e.2 &&& rwMask rs)) ∧
    (maskOf (fun r => r.acc == .w1c) rs = 0 → (t.cell k).e = (s.cell k).e) ∧ (∀ j, j ≠ k → t.cell j = s.cell j) ∧
    OnlyChanges [.regs, .failed, .doms] s t))

/-- In every canonical state out of PORST_N, for a master with BAR0: every alias of a register reads alike; a block that cannot answer and an unlisted
offset read 0 and change nothing else. Where the block answers, outside the registers with read windows of their own: a register that is no pair
answers its value and its RC fields return to their reset value; the low half of a pair answers its value, clears the RC fields of both halves,
and the same master's next read of the high half answers the value that it had then. -/
def Obligations.RegisterReadings : Prop := ∀ (s : State) (m : Master) (addr : Nat), s.Canonical → s.boot.porst = false → hasBar0 m = true → m.id ≠ 19 →
  let b := bankOf m
  let p := placeOf addr
  let inst := s.instOf b p.blk p.off
  let rs := regRows p.blk p.off
  let gone : Prop := ∃ d, s.govern b p.blk p.off (s.queuePipe (s.sel b 10 0x10)) = some d ∧ s.dom d = 0
  let reads (blk off : Nat) : Word := BitVec.ofNat 32 (s.regValue m.id blk inst off false)
  let cleared (t : State) (off : Nat) : Prop := ∀ r ∈ regRows p.blk off, r.acc = .rc → r.hi < 32 → r.lo ≤ r.hi →
    bits (t.cell (regKey p.blk inst off)).e.toNat r.hi r.lo = bits (resetOf (regKey p.blk inst off)) r.hi r.lo
  let plain : Prop := p.blk ≠ 5 ∧ p.blk ≠ 12 ∧ isSelect p.blk p.off = false ∧ p.view = false
  (∀ i j, addr % 2 ^ 20 < 2 ^ 16 → addr < 2 ^ 24 → addr % 4 = 0 → i < 4 → j < 16 → ∀ c, c < 4 →
    exec (.rcRead m 0 (addr + j * 2 ^ 16 + i * 2 ^ 24 + c)) s = exec (.rcRead m 0 addr) s) ∧
  (regListed p.blk p.off = false ∨ (s.clockless = true ∧ p.blk ≠ 0) ∨ (gone ∧ isSelect p.blk p.off = false) →
    exec (.rcRead m 0 addr) s = .next { s with rdata := 0 } ∧ exec (.pairLowRead m 0 addr) s = .next { s with rdata := 0 }) ∧
  (regListed p.blk p.off = true → (s.clockless = false ∨ p.blk = 0) → ¬ gone → plain →
    (rs.any (fun r => r.pair) = false → ∃ t, exec (.rcRead m 0 addr) s = .next t ∧ t.rdata = reads p.blk p.off ∧ cleared t p.off ∧
      OnlyRegs [regKey p.blk inst p.off] s t ∧ OnlyChanges [.rdata, .regs] s t) ∧
    (rs.any (fun r => r.pair) = true → p.off % 8 = 0 → addr % 8 = 0 → p.off + 4 < 2 ^ 16 → p.blk < 16 → inst < 2 ^ 17 → ∃ t,
      exec (.pairLowRead m 0 addr) s = .next t ∧ t.rdata = reads p.blk p.off ∧ cleared t p.off ∧ cleared t (p.off + 4) ∧
      OnlyRegs [regKey p.blk inst p.off, regKey p.blk inst (p.off + 4)] s t ∧ OnlyChanges [.rdata, .regs, .banks] s t ∧
      t.bank b (holdSlot p.blk (p.off + 4)) = s.regValue m.id p.blk inst (p.off + 4) false + 1 ∧
      ((regRows p.blk (p.off + 4)).any (fun r => r.pair) = true → placeOf (addr + 4) = ⟨p.blk, p.off + 4, false⟩ → regListed p.blk (p.off + 4) = true →
        s.instOf b p.blk (p.off + 4) = inst → (∀ d, t.govern b p.blk (p.off + 4) (t.queuePipe (t.sel b 10 0x10)) = some d → t.dom d ≠ 0) →
        ∃ u, exec (.rcRead m 0 (addr + 4)) t = .next u ∧ u.rdata = reads p.blk (p.off + 4))))

/-- In every canonical state out of PORST_N: an accepted BIND_LOCK sets the lock and changes no other register; an accepted BOOT_RETRY in CLOCKLESS puts
BOOT_STATUS into PLL_LOCK with no cause and the strapped reference first, and outside it changes no register; a boundary of a Plait engine's, an
LP4X controller's or a pipe's block instance (no express lane being enabled) moves exactly the bits that apply at it, of the registers of that
instance whose domain is on, from the buffered value into use, and changes no buffered value. -/
def Obligations.LocksAndBoundaries : Prop := ∀ (s : State), s.Canonical → s.boot.porst = false →
  (∀ m : Master, hasBar0 m = true → (m.id = 1 ∨ m.id = 21 ∨ s.isHigher m.id = true) →
    (s.clockless = false → s.rget Reg.BIND_BIND_LOCK = 0 → ∃ t, exec (.bindLock m) s = .next t ∧ t.rget Reg.BIND_BIND_LOCK = 1 ∧
      OnlyRegs [rowKey Reg.BIND_BIND_LOCK] s t ∧ OnlyChanges [.regs] s t) ∧
    (s.clockless = true → ∃ t, exec (.bootRetry m) s = .next t ∧ t.rget Reg.GLOBAL_STATE = 1 ∧ t.rget Reg.GLOBAL_CAUSE_8 = 0 ∧
      t.rget Reg.GLOBAL_REF_IN_USE = 0 ∧ t.rget Reg.GLOBAL_LAST_RESET = 3 ∧
      t.boot = { s.boot with attempt := 0, lockRef := if s.boot.strapRef then 2 else 1 } ∧ OnlyRegs [rowKey Reg.GLOBAL_STATE] s t ∧
      OnlyChanges [.regs, .boot] s t) ∧
    (s.clockless = false → ∃ t, exec (.bootRetry m) s = .next t ∧ OnlyRegs [] s t ∧ OnlyChanges [.regs] s t)) ∧
  (∀ bd blk inst u, s.clockless = false → bd ≠ .none → bd ≠ .disable → (blk = 8 ∨ blk = 11 ∨ blk = 13) →
    let on (o : Nat) : Bool := match State.cellDomain blk inst o with | some d => s.domOn d | none => true
    let moved (o : Nat) : Nat := if on o then boundaryMask bd u blk o &&& (0xFFFFFFFF - s.holdBits blk inst o) else 0
    (blk = 8 → s.rget Reg.FWD_EXP_EN inst = 1 ∨ (∀ t, exec (.boundaryApply bd blk inst u) s = .next t → t.rget Reg.FWD_EXP_EN inst = 0)) →
    ∃ t, exec (.boundaryApply bd blk inst u) s = .next t ∧ OnlyChanges [.regs] s t ∧
    ∀ k, (t.cell k).b = (s.cell k).b ∧ (t.cell k).e = if keyBlk k = blk ∧ keyInst k = inst
      then BitVec.ofNat 32 (mergeBits (s.cell k).e.toNat (s.cell k).b.toNat (moved (keyOff k))) else (s.cell k).e)

/-- In every canonical state, for port p below 128: negotiation and training lead AN to TRAIN or LOCK and TRAIN to LOCK, or back, counted; a link locked
(or free of remote fault) for LINK_UP_DB enters UP and raises LINK_CHANGE; 500 ms without lock, and local fault in UP or RFAULT, lead to AN
where AN is 1, else LOCK; remote fault in UP leads to RFAULT; the onset of a fault sets its bit and raises its event in the other states;
a port that closes and has nothing in transmission is DISABLED. A port that leaves UP by local fault has no transmission, reception, express
frame or pause left. Too early, nothing changes.
In every canonical state, for port p below 128 and its pause unit u: a received PAUSE sets, replaces or ends the unit's timer by its quanta where the
port acts on it, and counts as received, or as ignored while RX_EN is 0 or the unit is held off; expiry ends the pause; the watchdog breaks one
that has lasted WDOG_TIME, starts the hold-off, raises PAUSE_WDOG and counts; the hold-off ends at its time; a held request is repeated at its
time. A verify timer sends another frame, or fails after three. Codewords count, and TH uncorrectable ones in a window raise FEC_BURST. An accepted SNAP copies and clears
every counter of the selected port. -/
def Obligations.PortLinksAndPauses : Prop :=
  (∀ (s : State) (p frag : Nat), s.Canonical → p < 128 →
  let st := s.rget Reg.PORT_LINK_STATE p
  let x := s.px p
  let back := if s.rget Reg.PORT_AN p = 1 then 1 else 3
  let fwd := if s.rget Reg.PORT_LT p = 1 then 2 else 3
  let ends (c : Instr) (z : Nat) (also : State → Prop) : Prop := ∃ t, exec c s = .next t ∧ t.rget Reg.PORT_LINK_STATE p = z ∧ also t
  let cnt (i : Nat) (t : State) : Prop := t.pget Reg.PORT_FEC_CNT p [i] = (s.pget Reg.PORT_FEC_CNT p [i] + 1) % 2 ^ 64
  let up (t : State) : Prop := t.evStatus (6 * p) = true ∧ t.rget Reg.PORT_LOCAL_FAULT p = 0 ∧ t.rget Reg.PORT_REMOTE_FAULT p = 0 ∧
    (∀ q, q ≠ p → t.px q = s.px q) ∧ OnlyChanges [.regs, .vecs, .objs, .ports] s t
  let debounced : Prop := x.closing = false ∧ x.since + s.rget Reg.PORT_LINK_UP_DB p * 1600000 ≤ s.now
  (st = 1 → ends (.anComplete p 1) fwd (fun t => t.rget Reg.PORT_RESULT p = 2) ∧ ends (.anComplete p 2) 1 (fun t => t.rget Reg.PORT_RESULT p = 3 ∧ cnt 5 t)) ∧
  (st = 2 → ends (.ltDone p true) 3 (fun _ => True) ∧ ends (.ltDone p false) (if s.rget Reg.PORT_AN p = 1 then 1 else 2) (cnt 6)) ∧
  (st = 3 → debounced → ends (.linkUp p frag) 4 up) ∧ (st = 5 → debounced → ends (.rfaultClear p frag) 4 up) ∧
  (¬ debounced → exec (.linkUp p frag) s = .next s ∧ exec (.rfaultClear p frag) s = .next s) ∧
  (st = 3 → x.since + 500 * 1600000 ≤ s.now → ends (.lockTimeout p) back (fun _ => True)) ∧
  (st = 3 → s.now < x.since + 500 * 1600000 → exec (.lockTimeout p) s = .next s) ∧
  (st = 0 → exec (.localFault p) s = .next s ∧ exec (.remoteFault p) s = .next s) ∧
  (1 ≤ st → st ≤ 3 → ends (.localFault p) st (fun t => t.rget Reg.PORT_LOCAL_FAULT p = 1 ∧ t.evStatus (6 * p + 1) = true)) ∧
  (st ≠ 0 → st ≠ 4 →
    ends (.remoteFault p) st (fun t => t.rget Reg.PORT_REMOTE_FAULT p = 1 ∧ t.evStatus (6 * p + 2) = true)) ∧
  (st = 4 → ends (.remoteFault p) 5 (fun _ => True)) ∧
  (st = 5 → ends (.localFault p) back (fun _ => True)) ∧
  (st = 4 → ends (.localFault p) back (fun t => (t.px p).tx = none ∧ (t.px p).pre = none ∧ (t.px p).rx = none ∧ (t.px p).exp = [] ∧ (t.px p).pause = [])) ∧
  (x.closing = true → x.tx = none → x.pre = none → ends (.portDisableDone p) 0 (fun t => (t.px p).closing = false))) ∧
  (∀ (s : State) (p u : Nat), s.Canonical → p < 128 →
  let x := s.px p
  let y := x.unit u
  let set (t : State) (v : Nat) (z : PauseX) : Prop := (t.px p).pause = sset (fun _ => {}) x.pause v z ∧ (∀ q, q ≠ p → t.px q = s.px q)
  let rx (t : State) (i : Nat) : Prop := t.pget Reg.PORT_RX_CNT p [i] = (s.pget Reg.PORT_RX_CNT p [i] + 1) % 2 ^ 64
  let tx (t : State) (i : Nat) : Prop := t.pget Reg.PORT_TX_CNT p [i] = (s.pget Reg.PORT_TX_CNT p [i] + 1) % 2 ^ 64
  let fec (t : State) (i n : Nat) : Prop := t.pget Reg.PORT_FEC_CNT p [i] = (s.pget Reg.PORT_FEC_CNT p [i] + n) % 2 ^ 64
  (∀ d, let w := x.unit 8
    let q := beNat (slice d 16 2)
    s.rget Reg.PORT_LINK_STATE p = 4 → beNat (slice d 12 2) = 0x8808 → s.rget Reg.PORT_PFC p = 0 →
    (beNat (slice d 14 2) = 1 → s.rget Reg.PORT_RX_EN p = 1 → w.held = false → ∃ t, exec (.pauseReceive p d) s = .next t ∧ rx t 7 ∧
      OnlyChanges [.regs, .ports] s t ∧ (q = 0 → set t 8 { w with paused := false, expiry := 0 }) ∧
      (q ≠ 0 → set t 8 { w with paused := true, expiry := s.now + (q * 4096 + 5 * s.rate p - 1) / (5 * s.rate p), since := if w.paused then w.since else s.now })) ∧
    (beNat (slice d 14 2) = 1 → s.rget Reg.PORT_RX_EN p = 0 ∨ w.held = true → ∃ t, exec (.pauseReceive p d) s = .next t ∧ rx t 7 ∧ rx t 36 ∧
      OnlyChanges [.regs] s t) ∧
    (beNat (slice d 14 2) = 0x101 → s.rget Reg.PORT_RX_EN p = 0 → ∃ t, exec (.pauseReceive p d) s = .next t ∧ rx t 8 ∧ rx t 36 ∧ OnlyChanges [.regs] s t) ∧
    (beNat (slice d 14 2) ≠ 1 → (beNat (slice d 14 2) = 0x101 → s.rget Reg.PORT_RX_EN p = 1) →
      ∃ t, exec (.pauseReceive p d) s = .next t ∧ rx t 17 ∧ OnlyChanges [.regs] s t)) ∧
  (y.paused = true → (y.expiry ≤ s.now → ∃ t, exec (.pauseExpiry p u) s = .next t ∧ set t u { y with paused := false, expiry := 0 } ∧
      OnlyChanges [.regs, .ports] s t) ∧ (s.now < y.expiry → exec (.pauseExpiry p u) s = .next s)) ∧
  (let w := s.rget Reg.PORT_WDOG_TIME p
   y.paused = true → y.held = false →
    (w ≠ 0 → y.since + w * 1600000 ≤ s.now → ∃ t, exec (.pauseWdog p u) s = .next t ∧ t.evStatus (6 * p + 4) = true ∧ tx t 37 ∧
      set t u { y with paused := false, expiry := 0, held := true, holdEnd := s.now + s.rget Reg.PORT_WDOG_HOLD p * 1600000 }) ∧
    (w = 0 ∨ s.now < y.since + w * 1600000 → exec (.pauseWdog p u) s = .next s)) ∧
  (y.held = true → y.holdEnd ≤ s.now → ∃ t, exec (.holdoffEnd p u) s = .next t ∧ set t u { y with held := false, holdEnd := 0 } ∧
    OnlyChanges [.regs, .ports] s t) ∧
  (s.rget Reg.PORT_LINK_STATE p = 4 → s.rget Reg.PORT_TX_EN p = 1 → x.asked ≠ 0 → x.xoff ≠ 0 → x.refreshAt ≤ s.now →
    ∃ t, exec (.pauseRefresh p) s = .next t ∧ t.px p = { x with due := true, refreshAt := s.now + s.quanta p (s.rget Reg.PORT_REFRESH p) } ∧
    (∀ q, q ≠ p → t.px q = s.px q) ∧ OnlyChanges [.ports] s t) ∧
  (s.rget Reg.PORT_VERIFY p = 1 → x.verifyAt + s.rget Reg.PORT_VERIFY_TIME p * 1600000 ≤ s.now →
    (x.verifyTries < 3 → ∃ t, exec (.verifyTimer p) s = .next t ∧ tx t 34 ∧ t.px p = { x with verifyTries := x.verifyTries + 1, verifyAt := s.now } ∧
      t.rget Reg.PORT_VERIFY p = 1 ∧ OnlyChanges [.regs, .ports] s t) ∧
    (3 ≤ x.verifyTries → ∃ t, exec (.verifyTimer p) s = .next t ∧ t.rget Reg.PORT_VERIFY p = 3 ∧ OnlyChanges [.regs] s t)) ∧
  (∀ corr errs, s.rget Reg.PORT_LINK_STATE p ≠ 0 →
    (∃ t, exec (.fecCodeword p corr false errs) s = .next t ∧ fec t 3 errs ∧ fec t 1 0 ∧ fec t 0 (if corr = 0 then 0 else 1) ∧ fec t 2 corr ∧
      OnlyChanges [.regs] s t) ∧
    (s.now < x.fecStart + s.rget Reg.PORT_WIN p * 1600 → x.fecStart ≤ s.now → ∃ t, exec (.fecCodeword p corr true errs) s = .next t ∧ fec t 3 errs ∧ fec t 1 1 ∧
      (t.px p).fecCount = x.fecCount + 1 ∧ OnlyChanges [.regs, .ports, .vecs] s t ∧
      (s.rget Reg.PORT_TH p ≠ 0 → s.rget Reg.PORT_TH p ≤ x.fecCount + 1 → (t.px p).fecRaised = true ∧ (x.fecRaised = false → t.evStatus (6 * p + 3) = true)))) ∧
  (∀ (m : Master) (v : Word), s.boot.porst = false → s.clockless = false → hasBar0 m = true → (m.id = 1 ∨ m.id = 21 ∨ s.isHigher m.id = true) →
    s.sel (bankOf m) 6 0x10 = p → s.domOn (p / 16) = true → bit v.toNat 0 = true → ∃ t, exec (.snap m v) s = .next t ∧
    (∀ i, i < 40 → t.pget Reg.PORT_RX_SNAP p [i] = s.pget Reg.PORT_RX_CNT p [i] ∧ t.pget Reg.PORT_RX_CNT p [i] = 0 ∧
      t.pget Reg.PORT_TX_SNAP p [i] = s.pget Reg.PORT_TX_CNT p [i] ∧ t.pget Reg.PORT_TX_CNT p [i] = 0) ∧
    (∀ i, i < 7 → t.pget Reg.PORT_FEC_SNAP p [i] = s.pget Reg.PORT_FEC_CNT p [i] ∧ t.pget Reg.PORT_FEC_CNT p [i] = 0) ∧ OnlyChanges [.regs] s t))

/-- In every canonical state with port p in UP and its group on: a short frame is counted as a runt or a fragment and creates none; a MAC control frame
creates none; any other frame of 64 bytes or more becomes one frame of the device, and where it has not ended the port goes on receiving it; its
end leaves the port free. At a frame start with nothing in transmission a due pause frame goes first, then the unpaused express FIFO's head,
then the highest class whose ready slot may start; a transmission that is complete leaves the port free, and a PAUSE frame counts. Of a port
that is not in UP nothing is received or started. -/
def Obligations.PortFrames : Prop := ∀ (s : State) (p : Nat), s.Canonical → p < 128 →
  let x := s.px p
  let up : Prop := s.rget Reg.PORT_LINK_STATE p = 4
  let rx (t : State) (i : Nat) : Prop := t.pget Reg.PORT_RX_CNT p [i] = (s.pget Reg.PORT_RX_CNT p [i] + 1) % 2 ^ 64
  (¬ up → ∀ d i lag, exec (.frameReceive p d i) s = .next s ∧ exec (.frameTransmit p lag) s = .next s) ∧
  (∀ d (i : RxInfo), up → s.domOn (p / 16) = true → x.rx = none → (i.kind = 0 ∨ 5 ≤ i.kind) →
    (i.ended = true → d.length < 64 → ∃ t, exec (.frameReceive p d i) s = .next t ∧ t.nextFrame = s.nextFrame ∧
      rx t (if i.marked = false ∧ fcsGood d = true then 18 else 19) ∧ OnlyChanges [.regs] s t) ∧
    (i.ended = true → 64 ≤ d.length → beNat (slice d 12 2) = 0x8808 → ∃ t, exec (.frameReceive p d i) s = .next t ∧ t.nextFrame = s.nextFrame ∧
      OnlyChanges [.regs, .ports] s t) ∧
    (i.ended = true → 64 ≤ d.length → beNat (slice d 12 2) ≠ 0x8808 → ∃ t, exec (.frameReceive p d i) s = .next t ∧ t.nextFrame = s.nextFrame + 1 ∧
      (t.px p).rx = none) ∧
    (i.ended = false → 64 ≤ d.length → ∃ t, exec (.frameReceive p d i) s = .next t ∧ t.nextFrame = s.nextFrame + 1 ∧ (t.px p).rx = some s.nextFrame ∧
      (t.px p).rxAll = d)) ∧
  (∀ f rest (i : RxInfo), x.rx = some f → (i.ended = true → ∃ t, exec (.frameEnd p rest i) s = .next t ∧ (t.px p).rx = none ∧ (t.px p).rxAll = []) ∧
    (i.ended = false → ∃ t, exec (.frameEnd p rest i) s = .next t ∧ (t.px p).rx = some f ∧ (t.px p).rxAll = x.rxAll ++ rest)) ∧
  (∀ rest i, x.rx = none → exec (.frameEnd p rest i) s = .next s) ∧
  (∀ lag, up → x.tx = none → x.closing = false → (s.px p).pre = none →
    (x.due = true → ∃ t, exec (.frameTransmit p lag) s = .next t ∧ (t.px p).tx = some { kind := 2, data := s.pauseFrame p, done := true } ∧
      (t.px p).due = false ∧ OnlyChanges [.ports] s t) ∧
    (∀ e r, x.due = false → x.exp = e :: r → s.paused p 8 = false → ∃ t, exec (.frameTransmit p lag) s = .next t ∧
      ∃ y, (t.px p).tx = some y ∧ y.kind = 1 ∧ y.item.f = e.f ∧ (t.px p).exp = r) ∧
    (∀ c it, x.due = false → x.exp = [] → c < 8 → s.slotReady p c = true → (∀ j, c < j → j < 8 → s.slotReady p j = false) →
      sfind x.ready c = some it → (s.copy it.f it.b).bad = false → bit (s.fr it.f).legend 46 = false → ∃ t, exec (.frameTransmit p lag) s = .next t ∧
      ∃ y, (t.px p).tx = some y ∧ y.kind = 0 ∧ y.item = it ∧ y.cls = c ∧ (t.px p).ready = sdel x.ready c) ∧
    (x.due = false → x.exp = [] → (∀ j, j < 8 → s.slotReady p j = false) → exec (.frameTransmit p lag) s = .next s)) ∧
  (∀ y, x.tx = some y → y.done = true →
    (y.kind = 2 → beNat (slice y.data 14 2) = 1 → ∃ t, exec (.frameTxEnd p) s = .next t ∧ (t.px p).tx = none ∧
      t.pget Reg.PORT_TX_CNT p [5] = (s.pget Reg.PORT_TX_CNT p [5] + 1) % 2 ^ 64 ∧ OnlyChanges [.regs, .ports] s t) ∧
    (y.kind = 1 → ∃ t, exec (.frameTxEnd p) s = .next t ∧ (t.px p).tx = none) ∧
    (y.kind = 0 → s.stored y.item.f y.item.b = true ∨ y.bad = true → ∃ t, exec (.frameTxEnd p) s = .next t ∧ (t.px p).tx = none))

/-- In every canonical state with a pending write w at the front: LEARN_WRITE removes it and, where the entry is still what was read, its HIT apart
(a new key is still absent; a deletion's entry has not been hit), the entry becomes w's image, is deleted and counted in AGED, or loses its HIT,
by w's kind; else no table changes and LEARN_RACE counts. While AGE_PERIOD is not 0, AGE_VISIT of an address entry deletes a poisoned one, queues
the deletion of a valid, unlocked one without HIT and the clearing of HIT of one that has it, and otherwise changes no entry.
In every canonical state: where the first pending capture whose head is present is m (128 head bytes, 124 more, and a length), MIRROR_ENTRY_WRITE
leaves the entry's 256 bytes at its slot of the session's ring, the phase bit of its lap in the last four, removes the capture and changes no other
byte of memory; with none present it changes nothing. RECIRC_REENTRY of a pipe whose recirculation queue's head is whole and good makes of its
edited bytes exactly one new frame, of pass 1 at port 168 + n, with a good FCS and the rule set and version of the first pass. -/
def Obligations.LearningMirrorsRecirculation : Prop :=
  (∀ (s : State), s.Canonical →
  let clear (i : Nat) : Nat := imgSet 32 i 3 62 62 0
  let only (t : State) (ix : Nat) : Prop := (∀ a b c, tabKey a b c ≠ tabKey tADDR 0 ix → t.tab a b c = s.tab a b c) ∧
    OnlyChanges [.fresh, .regs, .tabs, .fwd, .poison] s t
  (∀ w r, s.fwd.learn = w :: r → w.pipe < 8 →
    let e := s.tab tADDR 0 w.ix
    let live : Prop := clear e = clear w.old ∧ (w.kind = 0 → s.addrFind (aDOMAIN w.img) (aMAC w.img) = none) ∧ (w.kind = 3 → aHIT e = false)
    ∃ t, exec .learnWrite s = .next t ∧ t.fwd.learn = r ∧ only t w.ix ∧
    (live → t.tab tADDR 0 w.ix = (if w.kind = 3 then 0 else if w.kind = 4 then clear e else w.img) ∧
      (w.kind = 3 → t.pget Reg.FWD_AGED = (s.pget Reg.FWD_AGED + 1) % 2 ^ 64) ∧ (w.kind ≠ 4 → t.poisoned tADDR 0 w.ix = false)) ∧
    (¬ live → t.tabs = s.tabs ∧ t.pget Reg.FWD_CNT w.pipe [8] = (s.pget Reg.FWD_CNT w.pipe [8] + 1) % 2 ^ 64)) ∧
  (∀ ix, s.rget Reg.FWD_AGE_PERIOD ≠ 0 → ix < tabEntries tADDR →
    let e := s.tab tADDR 0 ix
    ∃ t, exec (.ageVisit ix) s = .next t ∧ only t ix ∧
    (s.poisoned tADDR 0 ix = true → t.tab tADDR 0 ix = 0 ∧ t.poisoned tADDR 0 ix = false ∧ t.fwd.learn = s.fwd.learn) ∧
    (s.poisoned tADDR 0 ix = false → t.tabs = s.tabs ∧ t.poison = s.poison ∧
      (aVALID e = true → aLOCK e = false → aHIT e = false → t.fwd.learn = s.fwd.learn ++ [⟨ix, e, 0, 0, 3⟩]) ∧
      (aHIT e = true → t.fwd.learn = s.fwd.learn ++ [⟨ix, e, clear e, 0, 4⟩]) ∧
      (aHIT e = false → (aVALID e = false ∨ aLOCK e = true) → t.fwd.learn = s.fwd.learn)))) ∧
  (∀ (s : State), s.Canonical →
  let ready (m : MirrorW) : Bool := m.head.isSome || ((s.fr m.f).head128).isSome
  (s.fwd.mirror.find? ready = none → exec .mirrorEntryWrite s = .next s) ∧
  (∀ m h len, s.fwd.mirror.find? ready = some m → (m.head = some h ∨ (m.head = none ∧ (s.fr m.f).head128 = some h)) → h.length = 128 →
    m.body.length = 124 → (m.len = some len ∨ (m.len = none ∧ (s.fr m.f).ended = true ∧ (s.fr m.f).len = len)) →
    let img := s.tab tMIRROR 0 m.session
    let sz := imgF 32 img 1 63 59
    let base := imgF 32 img 0 63 0 + 256 * (m.slot % 2 ^ sz)
    let key := if imgF 32 img 1 58 58 = 1 then lp4xKey base else hostKey (imgF 32 img 1 57 53 - 1) base
    ∃ t, exec .mirrorEntryWrite s = .next t ∧
    t.mread key 256 = h ++ overlay m.body 8 (beBytes 2 len) ++ beBytes 4 ((1 - m.slot / 2 ^ sz % 2) * 2 ^ 31) ∧ OnlyBytes key 256 s t ∧
    t.fwd.mirror = s.fwd.mirror.erase m) ∧
  (∀ n it r, n < 8 → (s.q (65528 + n)).oc = it :: r →
    let x := s.fr it.f
    let c := s.copy it.f it.b
    let whole : Prop := s.works (8 + n) = true ∧ s.domOn (16 + n) = true ∧ x.ended = true ∧ s.stored it.f it.b = true
    let e : EditSt := if bit x.legend 46 then runEdit (s.tab tEDIT 0 (bits x.legend 45 36)) x.body (recordBases x.record) else { data := x.body, bases := [] }
    let d := if e.data.length < 60 then slice e.data 0 60 else e.data
    (¬ whole → exec (.recircReentry n) s = .next s) ∧
    (whole → (c.bad = true ∨ (bit x.legend 46 = true ∧ s.poisoned tEDIT 0 (bits x.legend 45 36) = true)) → ∃ t, exec (.recircReentry n) s = .next t ∧
      t.nextFrame = s.nextFrame) ∧
    (whole → c.bad = false → (bit x.legend 46 = true → s.poisoned tEDIT 0 (bits x.legend 45 36) = false) → it.f < s.nextFrame →
      ∃ t, exec (.recircReentry n) s = .next t ∧ t.nextFrame = s.nextFrame + 1 ∧ (∃ y, sfind t.frames s.nextFrame = some y ∧
        y.pass = 1 ∧ y.inPort = 168 + n ∧ y.origPort = x.origPort ∧ y.data = d ++ leBytes 4 (crc32 d) ∧ y.ended = true ∧ y.rset = x.rset ∧ y.ver = x.ver))) ∧
  (∀ n, (s.q (65528 + n)).oc = [] → exec (.recircReentry n) s = .next s))

/-- In every canonical state with a frame f whose parse can complete: where words of its program are lost, the frame leaves the walk, counted and with
the pipe's ECC event raised; where it has not ended and a claim is still unmet, it is held with its survey record and its legend record; where it
has ended, it leaves this stage. Until its bytes have come, nothing changes. A frame that waits for an extension read takes its part on: with the
source's read done and the destination's needed, it waits for that one; else it waits no longer. -/
def Obligations.ParseAndForward : Prop := ∀ (s : State) (f : Nat), s.Canonical →
  let x := s.fr f
  let n := x.pipe
  let p := parseFrame x.prog x.body x.body.length x.ended x.depthB x.depthH
  (x.prog ≠ [] → x.stage = 0 → (sfind s.frames f).isSome = true → s.domOn (8 + n) = true → n < 8 →
    (p.waits = true → exec (.surveyParse f) s = .next s) ∧
    (p.waits = false → p.rd.any (fun w => (s.sv n).lost.contains w) = true → ∃ t, exec (.surveyParse f) s = .next t ∧
      (sfind t.frames f = none ∨ (t.fr f).stage = 2) ∧ t.evStatus (817 + 8 * n) = true ∧
      t.pget Reg.SURVEY_CNT n [13] = (s.pget Reg.SURVEY_CNT n [13] + 1) % 2 ^ 64) ∧
    (p.waits = false → p.rd.any (fun w => (s.sv n).lost.contains w) = false →
      (x.ended = true → ∃ t, exec (.surveyParse f) s = .next t ∧ (sfind t.frames f = none ∨ (t.fr f).stage = 1 ∨ (t.fr f).stage = 2)) ∧
      (let r := p.finish x.origPort x.pass (progId x.prog) x.trunc
       let y := { x with record := r }
       let w := (s.setFr f y).legendWalk f
       x.ended = false → bit p.flags 1 = false → x.body.length < p.claim → x.trunc = false → x.lenLate = false →
         w.1.fwdNeeds y w.2 ≤ x.body.length → ∃ t, exec (.surveyParse f) s = .next t ∧
         t.fr f = { w.1.fr f with legend := w.2, claim := some p.claim, stage := 3 } ∧ (t.fr f).record = r))) ∧
  (x.stage = 1 → n < 8 →
    let d := lgFWD_TARGET x.legend
    let sa : Prop := x.extSa = false ∧ s.learnMode x.inPort ≠ 0 ∧ x.field 6 1 % 2 = 0 ∧ s.addrNeedsExt d (x.field 6 6) = true
    (sa → s.addrNeedsExt d (x.field 0 6) = true → ∃ t, exec (.addrExtReadDone f none) s = .next t ∧
      t.fr f = { x with extSa := true, noCut := true } ∧ t.pget Reg.FWD_CNT n [3] = (s.pget Reg.FWD_CNT n [3] + 1) % 2 ^ 64 ∧
      OnlyChanges [.fresh, .regs, .frames] s t) ∧
    (¬ sa → ∃ t, exec (.addrExtReadDone f none) s = .next t ∧ (sfind t.frames f = none ∨ (t.fr f).stage ≠ 1))) ∧
  (x.stage ≠ 1 → ∀ ecc, exec (.addrExtReadDone f ecc) s = .next s)

/-- In every canonical state where input i is the only one with a cell, cell c of frame f, which is present: where it waits for basket o, with the
crossbar and the basket on, one cell time writes it there, counted, moves the grant pointer of o past i, and where its CRC fails marks the copy,
counts by location and raises the crossbar's event; where it heads the multicast queue for baskets that are all on, every one of them takes it;
where it waits at the local port of slice i, that basket takes it, the crossbar on or not. Nothing else of any other copy changes. -/
def Obligations.SlathCells : Prop := ∀ (s : State) (i o f c : Nat) (y : SlathIn) (fails : List (Nat × Nat)), s.Canonical → i < 12 → o < 8 →
  s.slath.ins = [(i, y)] → y.order = [f] → s.cellHere f c = true →
  let took (t : State) (b : Nat) (bad : Bool) : Prop := (s.copy f b).refs ≠ 0 →
    t.copy f b = { s.copy f b with written := (s.copy f b).written + 1, bad := (s.copy f b).bad || bad }
  let xbar (t : State) (j : Nat) : Prop := t.pget Reg.SLATH_XBAR_CNT 0 [j] = (s.pget Reg.SLATH_XBAR_CNT 0 [j] + 1) % 2 ^ 64
  let others (t : State) (bs : List Nat) : Prop := ∀ g b, b < 8 → ¬ (g = f ∧ b ∈ bs) → t.copy g b = s.copy g b
  (y.uc = [(o, [(f, c)])] → y.mc = [] → s.slath.loc = [] → s.domOn 24 = true → s.domOn (16 + o) = true → ∃ t, exec (.slathCellTime fails) s = .next t ∧
    took t o (fails.contains (i, o)) ∧ others t [o] ∧ xbar t 0 ∧ t.slath.gptr = sset (fun _ => 0) s.slath.gptr o ((i + 1) % 12) ∧
    (t.sin i).aptr = o + 1 ∧
    (fails.contains (i, o) = true → t.evStatus 880 = true ∧ xbar t 6 ∧
      t.pget Reg.SLATH_CRC_LOC 0 [i, o] = (s.pget Reg.SLATH_CRC_LOC 0 [i, o] + 1) % 2 ^ 64)) ∧
  (∀ m, y.uc = [] → y.mc = [m] → m.f = f → m.cell = c → m.residue ≠ [] → (∀ b ∈ m.residue, b < 8 ∧ s.domOn (16 + b) = true) → s.slath.loc = [] →
    s.domOn 24 = true → ∃ t, exec (.slathCellTime []) s = .next t ∧ (∀ b ∈ m.residue, took t b false) ∧ others t m.residue ∧ xbar t 2 ∧
    t.pget Reg.SLATH_XBAR_CNT 0 [3] = s.pget Reg.SLATH_XBAR_CNT 0 [3]) ∧
  (i < 8 → y.uc = [] → y.mc = [] → s.slath.loc = [(i, [(f, c)])] → s.domOn (16 + i) = true → ∃ t, exec (.slathCellTime fails) s = .next t ∧
    took t i false ∧ others t [i] ∧ xbar t 1 ∧ t.slath.loc = (if s.cellPast f (c + 1) = true then [] else [(i, [(f, c + 1)])]))

/-- In every canonical state, for a basket b that is on: the end of the ring's writing makes the pool ACTIVE with every spill block free; below
REFILL_TH up to 64 pointers come into the cache, and above FLUSH_TH 64 leave it and the waiting ones become free, each counted. An accepted write of
LOAN_RETURN by the loan's owner ends the loan; by another identity it changes no loan, counts, is captured where nothing is and raises
LOAN_REFUSED. An accepted write of LOAN_RECLAIM with GO ends every loan of the selected basket with that owner, and no other.
In every canonical state with LP4X ready and basket b on: where the oldest frame that queue q admitted for spilling is stored whole and good and
blocks are free, its copy moves to LP4X blocks, its cells and descriptor return, and it stands last in the queue's LP4X list; a spoilt copy leaves
the queue, counted, and without blocks nothing changes. A read-back of the oldest LP4X frame of a queue with room moves it to read-back cells, last
on chip; after an uncorrectable read the queue's whole LP4X list is discarded, counted, and the controller's event raised. -/
def Obligations.LoansSpillAndReadBack : Prop :=
  (∀ (s : State) (b : Nat), s.Canonical → b < 8 →
  let cnt (t : State) (i : Nat) : Prop := t.pget Reg.SLATH_BASKET_CNT b [i] = (s.pget Reg.SLATH_BASKET_CNT b [i] + 1) % 2 ^ 64
  let fill (t : State) : Nat := t.rget Reg.SLATH_CACHE_FILL b
  let free (t : State) : Nat := t.rget Reg.SLATH_SPILL_FREE b
  let blocks := s.rget Reg.SLATH_SPILL_BLOCKS b
  let ringed := s.ringCount b
  let accepted (m : Master) (blk off : Nat) (v : Word) : Prop := s.boot.porst = false ∧ hasBar0 m = true ∧
    s.writeCause m.id (bankOf m) ⟨blk, off, false⟩ (s.instOf (bankOf m) blk off) none v.toNat 0xFFFFFFFF = 0 ∧
    ∀ d, s.govern (bankOf m) blk off none = some d → s.dom d ≠ 1
  (s.rget Reg.SLATH_SPILL_STATE b = 1 → s.domOn (16 + b) = true → ∃ t, exec (.spillInitDone b) s = .next t ∧ t.rget Reg.SLATH_SPILL_STATE b = 2 ∧
    fill t = 0 ∧ free t = blocks - (blocks + 511) / 512 ∧ OnlyChanges [.fresh, .regs] s t) ∧
  (s.rget Reg.SLATH_SPILL_STATE b ≠ 1 → exec (.spillInitDone b) s = .next s) ∧
  (s.rget Reg.SLATH_SPILL_STATE b = 2 → s.domOn (16 + b) = true → fill s ≤ 4096 →
    let n := if fill s < s.rget Reg.SLATH_REFILL_TH b then min 64 ringed else 0
    let flush : Prop := s.rget Reg.SLATH_FLUSH_TH b < fill s + n
    ∃ t, exec (.creelCacheMaint b none) s = .next t ∧ OnlyChanges [.fresh, .regs, .creel] s t ∧ (n ≠ 0 → cnt t 11) ∧
    (flush → fill t = fill s + n - 64 ∧ free t = (free s + (s.crl b).wait) % 2 ^ 23 ∧ (t.crl b).wait = 0 ∧ cnt t 12) ∧
    (¬ flush → fill t = fill s + n ∧ free t = free s ∧ t.creel = s.creel)) ∧
  (∀ (m : Master) (v : Word), accepted m 5 0x300 v → bits v.toNat 14 12 = b →
    let i := bits v.toNat 11 0
    (s.loanOwner b i = some m.id → ∃ t, exec (.loanReturn m v) s = .next t ∧ (t.crl b).loans = sdel (s.crl b).loans i ∧
      t.rget Reg.SLATH_LOANS_USED b = s.rget Reg.SLATH_LOANS_USED b - 1) ∧
    (s.loanOwner b i ≠ some m.id → ∃ t, exec (.loanReturn m v) s = .next t ∧ t.creel = s.creel ∧ cnt t 13 ∧ t.evStatus (891 + 4 * b) = true ∧
      (s.rget Reg.SLATH_VALID_1018 b = 0 → t.rget Reg.SLATH_VALID_1018 b = 1 ∧ t.rget Reg.SLATH_INDEX b = i ∧ t.rget Reg.SLATH_REQ_ID b = m.id % 32))) ∧
  (∀ (m : Master) (v : Word), accepted m 9 0x300 v → s.instOf (bankOf m) 9 0x300 = b → bit v.toNat 31 = true → ∃ t, exec (.loanReclaim m v) s = .next t ∧
    (t.crl b).loans = (((s.crl b).loans.filter (fun e => e.2.owner == bits v.toNat 4 0)).map (·.1)).foldl sdel (s.crl b).loans ∧
    ∀ d, d ≠ b → d < 8 → (t.crl d).loans = (s.crl d).loans)) ∧
  (∀ (s : State) (b q : Nat) (it : Item) (r : List Item), s.Canonical → b < 8 → it.b = b →
  s.domOn (16 + b) = true → s.lp4xReady = true →
  let x := s.q q
  let f := s.fr it.f
  let c := s.copy it.f b
  let cnt (t : State) (i n : Nat) : Prop := t.pget Reg.SLATH_BASKET_CNT b [i] = (s.pget Reg.SLATH_BASKET_CNT b [i] + n) % 2 ^ 64
  let n := ceilDiv f.len 2048
  (x.pend = it :: r → f.ended = true → s.stored it.f b = true →
    (c.bad = true → ∃ t, exec (.spillCopyDone b q) s = .next t ∧ (t.q q).pend = r ∧ (t.q q).lp = x.lp ∧ cnt t 16 1) ∧
    (c.bad = false → s.rget Reg.SLATH_CACHE_FILL b < n → exec (.spillCopyDone b q) s = .next s) ∧
    (c.bad = false → n ≤ s.rget Reg.SLATH_CACHE_FILL b → ∃ t, exec (.spillCopyDone b q) s = .next t ∧ cnt t 7 1 ∧ cnt t 9 f.len ∧
      (∃ p, p < 2 ^ 23 ∧ t.q q = { x with pend := r, lp := x.lp ++ [{ it with ptr := p }] }) ∧
      t.copy it.f b = { c with loc := 1, blocks := n, unit := none } ∧ t.rget Reg.SLATH_CACHE_FILL b = s.rget Reg.SLATH_CACHE_FILL b - n ∧
      t.rget Reg.SLATH_CELLS_FREE b = (s.rget Reg.SLATH_CELLS_FREE b + c.k) % 2 ^ 16 ∧
      t.rget Reg.SLATH_DESC_FREE b = (s.rget Reg.SLATH_DESC_FREE b + 1) % 2 ^ 16 ∧
      (∀ g d, (g ≠ it.f ∨ d ≠ b) → d < 8 → t.copy g d = s.copy g d) ∧ OnlyChanges [.fresh, .regs, .vecs, .copies, .queues] s t)) ∧
  (x.lp = it :: r → x.oc.length < 2 → s.rbUsed b + ceilDiv f.len 256 ≤ (s.crl b).aside →
    (∃ t, exec (.readBackDone b q none) s = .next t ∧ cnt t 8 1 ∧ cnt t 10 f.len ∧
      (∃ p, p < 65536 ∧ t.q q = { x with lp := r, oc := x.oc ++ [{ it with chg := 0, ptr := p }], spilling := !r.isEmpty || !x.pend.isEmpty }) ∧
      t.copy it.f b = { c with loc := 2, blocks := 0, k := ceilDiv f.len 256 } ∧
      (∀ g d, (g ≠ it.f ∨ d ≠ b) → d < 8 → t.copy g d = s.copy g d) ∧ OnlyChanges [.fresh, .regs, .copies, .queues, .creel] s t) ∧
    (∀ a, ∃ t, exec (.readBackDone b q (some a)) s = .next t ∧ (t.q q).lp = [] ∧ (t.q q).oc = x.oc ∧ (t.q q).pend = x.pend ∧ cnt t 16 x.lp.length ∧
      t.evStatus (1106 + 3 * (a / 256 % s.lp4xWays)) = true)) ∧
  (x.lp = it :: r → 2 ≤ x.oc.length → ∀ e, exec (.readBackDone b q e) s = .next s))

/-- In every canonical state, for a basket b that is on: the pager starts the page-in of a FRESH queue in a slot that no queue holds; its completion
makes the queue resident, moves its staged frames to the queue in staging order, and pins it for a QPIN that waits; below EVICT_LOW free slots an
evictable queue of the oldest use loses its slot, and its 64-byte context stands at its home in LP4X, no other byte changing; a page-in that
has waited 10 microseconds raises QPAGE_FAULT once; and a port whose HOLD timer has expired is DOWN with no frame left in any of its queues. -/
def Obligations.Paging : Prop := ∀ (s : State) (b q : Nat), s.Canonical → b < 8 →
  let x := s.q q
  let g := s.pager b
  let mine := g.staged.filter (fun i => i.queue == q)
  let cnt (t : State) (i : Nat) : Prop := t.pget Reg.QUEUE_CNT 0 [b, i] = (s.pget Reg.QUEUE_CNT 0 [b, i] + 1) % 2 ^ 64
  (s.nextPageIn b = none → g.waitQ = none → exec (.pageInStart b) s = .next s) ∧
  (s.nextPageIn b = none → g.waitQ.isSome = true → exec (.pageInStart b) s = .next (s.setPager b { g with waitQ := none, faulted := false })) ∧
  (s.nextPageIn b = some q → s.domOn (16 + b) = true → ((s.slotHolders b).filter (fun e => e.2.paging)).length < 4 → s.slotsFree b ≠ 0 → x.fresh = true →
    (∀ t, g.lastFresh = some t → t + 2 ≤ s.now) → ∃ t, exec (.pageInStart b) s = .next t ∧ cnt t 1 ∧
    t.q q = { x with paging := true, slot := (t.q q).slot, pageAt := s.now, pageRead := false } ∧ (t.q q).slot < 2048 ∧
    (∀ e ∈ s.slotHolders b, e.2.slot ≠ (t.q q).slot) ∧ (∀ p, p ≠ q → t.q p = s.q p) ∧ OnlyChanges [.fresh, .regs, .queues, .pagers] s t) ∧
  (s.queueBasket q = b → s.domOn (16 + b) = true → x.paging = true → (x.pageRead = true → s.pagingReady = true) →
    (x.pageRead = false → x.pageAt + 16 ≤ s.now) → ∀ ecc, ∃ t, exec (.pageInDone q ecc) s = .next t ∧
    (t.q q).resident = true ∧ (t.q q).paging = false ∧ (t.q q).fresh = false ∧ (t.q q).oc = x.oc ++ mine ∧ (t.q q).slot = x.slot ∧
    (t.pager b).staged = g.staged.filter (fun i => i.queue != q) ∧ (∀ n w, n < 8 → (s.thr n).wait = some w → w.kind = .qpin q → (t.q q).pinned = true) ∧
    (x.pageRead = true → ecc = true → t.evStatus (921 + 2 * b) = true ∧ cnt t 5)) ∧
  (x.paging = false → ∀ ecc, exec (.pageInDone q ecc) s = .next s) ∧
  (s.domOn (16 + b) = true → s.slotsFree b < s.rget Reg.QUEUE_EVICT_LOW 0 [b] → s.pagingReady = true → s.lruQueues b ≠ [] →
    ∃ t e, exec (.eviction b) s = .next t ∧ e ∈ s.lruQueues b ∧ t.q e = { s.q e with resident := false, slot := 0 } ∧ cnt t 2 ∧
    t.mread (lp4xKey (s.qctxHome e)) 64 = (s.qctxWords e).flatMap (beBytes 8) ∧ OnlyBytes (lp4xKey (s.qctxHome e)) 64 s t ∧
    (∀ p, p ≠ e → t.q p = s.q p) ∧ OnlyChanges [.fresh, .regs, .mem, .queues] s t) ∧
  (s.rget Reg.QUEUE_EVICT_LOW 0 [b] ≤ s.slotsFree b → exec (.eviction b) s = .next s) ∧
  (g.waitQ = some q → s.nextPageIn b = some q → g.faulted = false → (g.waitAt + 10 * 1600 ≤ s.now → ∃ t, exec (.qpageFault b) s = .next t ∧
      t.pager b = { g with faulted := true } ∧ t.evStatus (921 + 2 * b) = true ∧ OnlyChanges [.regs, .vecs, .pagers] s t) ∧
    (s.now < g.waitAt + 10 * 1600 → exec (.qpageFault b) s = .next s)) ∧
  (∀ p, p < 128 → s.rget Reg.QUEUE_HOLD_STATE 0 [p] = 1 → (s.now < (s.px p).holdEnd → exec (.holdExpiry p) s = .next s) ∧
    ((s.px p).holdEnd ≤ s.now → ∃ t, exec (.holdExpiry p) s = .next t ∧ t.rget Reg.QUEUE_HOLD_STATE 0 [p] = 0 ∧
      ∀ k ∈ s.queuesOf p, (t.q k).oc = [] ∧ (t.q k).pend = [] ∧ (t.q k).lp = []))

/-- In every canonical state: where queue q is the one candidate of a pipe that is on, its class's ready slot is free, the shapers of the queue, its
nodes and its port permit and its head is good, has no launch time and fits, SCHED_SELECT moves that head into the ready slot, counts, and debits
the port by the frame with its overhead; without a candidate it changes nothing. GRATICULE_VISIT installs a pending SHSET on the refreshed object,
moves a reached coarse entry to the fine ring and refreshes a reached fine one, late ones counted, and touches no other object. At its deadline
the frame in a ready slot leaves it, counted, and not before. -/
def Obligations.Scheduling : Prop := ∀ (s : State), s.Canonical →
  (∀ n, n < 8 → (∀ p ∈ portsOfPipe n, ∀ c, c < 8 → s.candidates p c = []) → exec (.schedSelect n) s = .next s) ∧
  (∀ n p c q it r, n < 8 → s.domOn (8 + n) = true → s.domOn (16 + n) = true → p ∈ portsOfPipe n → c < 8 → s.candidates p c = [q] →
    (∀ p' ∈ portsOfPipe n, ∀ c', c' < 8 → p' ≠ p ∨ c' ≠ c → s.candidates p' c' = []) → q < 65536 →
    let j := l2Key (s.obj q).parent
    let i := l1Key (s.obj j).parent
    let len := s.schedLen it.f
    let top := (s.obj (portKey p)).refresh s.short
    (s.obj q).parent < 8192 → (s.obj j).parent < 1024 → (s.obj q).band < 8 → (s.obj j).band < 8 → (s.obj i).band < 8 →
    (s.obj q).okAny = true → (s.obj j).okAny = true → (s.obj i).okAny = true →
    (s.obj (portKey p)).okAny = true → (p < 128 → s.rget Reg.QUEUE_HOLD_STATE 0 [p] = 2) → sfind (s.px p).ready c = none → (s.q q).oc = it :: r →
    it.launch = none → s.gateOversize p c len = false → (s.copy it.f it.b).bad = false → s.fits p c s.projected len = true →
    ∃ t, exec (.schedSelect n) s = .next t ∧ (t.q q).oc = r ∧ (t.px p).ready = sins (s.px p).ready c it ∧
    t.pget Reg.SCHED_CNT 0 [n, 0] = (s.pget Reg.SCHED_CNT 0 [n, 0] + 1) % 2 ^ 64 ∧
    t.obj (portKey p) = (top.debit (decide (0 ≤ top.cirC) && decide (0 < top.cir)) (len + s.rget Reg.SCHED_SHAPER_OVH p)).enter s.short ∧
    (∀ u, u ≠ q → t.q u = s.q u) ∧ (∀ u, u ≠ p → t.px u = s.px u) ∧ OnlyChanges [.regs, .queues, .objs, .rounds, .ports, .pipes] s t) ∧
  (∀ k, let x := s.obj k
    let n := s.pipeOfObj k
    let only (t : State) : Prop := (∀ l, l ≠ k → t.obj l = s.obj l) ∧ OnlyChanges [.regs, .vecs, .objs] s t
    (x.set = none → x.wheel = none → exec (.graticuleVisit k) s = .next s) ∧
    (k < 2 ^ 20 → n < 8 → s.frozen k = false → s.domOn (8 + n) = true →
      (∀ v, x.set = some v → ∃ t, exec (.graticuleVisit k) s = .next t ∧ t.obj k = ((x.refresh s.short).install v k).enter s.short ∧
        t.regs = s.regs ∧ only t) ∧
      (∀ t0 coarse, x.set = none → x.wheel = some (t0, coarse) →
        let w := if coarse then 20480 else 5
        let start := if coarse then t0 / w * w else ceilDiv t0 w * w
        let late := s.reached ((start + w) % 2 ^ 48)
        (s.reached (start % 2 ^ 48) = false → exec (.graticuleVisit k) s = .next s) ∧
        (s.reached (start % 2 ^ 48) = true → ∃ t, exec (.graticuleVisit k) s = .next t ∧ only t ∧
          t.obj k = (if coarse then { x with wheel := some (t0, false) } else (x.refresh s.short).enter s.short) ∧
          t.pget Reg.SCHED_CNT 0 [n, 4] = (s.pget Reg.SCHED_CNT 0 [n, 4] + if late then 1 else 0) % 2 ^ 64)))) ∧
  (∀ p c it t0, p < 152 → sfind (s.px p).ready c = some it → it.launch = some t0 →
    (0 ≤ diff8 s.t8 (s.deadline p t0) → ∃ t, exec (.deadlineSlot p c) s = .next t ∧ (t.px p).ready = sdel (s.px p).ready c ∧
      t.pget Reg.SCHED_CNT 0 [pipeOfPort p, 2] = (s.pget Reg.SCHED_CNT 0 [pipeOfPort p, 2] + 1) % 2 ^ 64) ∧
    (diff8 s.t8 (s.deadline p t0) < 0 → exec (.deadlineSlot p c) s = .next s))

/-- In every canonical state, for a lane that is on with a legal option and each of the five commands that deliver line bytes, one byte v at offset o:
outside SYNC a start pattern that no candidate expects opens a candidate, or is counted as ignored with four of them; the HFN of a seen candidate
drops it, counted, or confirms it, and the Nth confirmation takes SYNC; in SYNC a hit advances the flywheel and clears the misses, and the Mth
miss in a row returns to HUNT. The end of an SD window judges it, and a change of SD raises the lane's event. The map buffer takes the byte while it has
room, else it is marked. No other lane changes. A lane that is off takes nothing.
In every canonical state, for a lane that is on: a tick that is due, without new bytes, judges LOS, LOF, RAI and SDI by their raw conditions: a defect
changes once its raw condition has differed for longer than its entry or exit persistence; CLOSS is declared after its ticks without a container;
RAI and RDI are sent exactly on a lane defect of a privileged lane. The play-out buffer's underrun in RUN leads to STARVED, counted and raised. A C&M
frame of a tapped lane in SYNC becomes one frame of the bridge port, with a good FCS; else nothing changes. -/
def Obligations.CpriLanes : Prop :=
  (∀ (s : State) (l : Nat) (v : Byte) (start viol : Bool), s.Canonical → l < 24 →
  let r : LineRx := ⟨[v], if start then [0] else [], if viol then [0] else []⟩
  let rows : List Instr := [.startPattern l r, .candidateCheck l r, .hyperframeCheck l r, .sdWindowEnd l r, .mapBufferOverflow l r]
  let x := s.lane l
  let g := s.laneCfg l
  let h := v.toNat
  let cnt (t : State) (i n : Nat) : Prop := t.pget Reg.BRIDGE_CNT l [i] = (s.pget Reg.BRIDGE_CNT l [i] + n) % 2 ^ 64
  let idle (c : CpriCand) : Prop := c.next ≠ x.off ∧ (c.seen = false ∨ c.next + 64 * g.bf ≠ x.off)
  ∀ cmd ∈ rows, (s.laneOn l = false → exec cmd s = .next s) ∧ (s.laneOn l = true → g.bf ≠ 0 → ∃ t, exec cmd s = .next t ∧
    let y := t.lane l
    y.off = x.off + 1 ∧ (∀ k, k ≠ l → t.lane k = s.lane k) ∧ (∀ key, keyBlk key ≠ 3 → keyBlk key ≠ 7 → key ∉ lostVecKeys → t.cell key = s.cell key) ∧
    OnlyChanges [.regs, .vecs, .lanes] s t ∧ cnt t 14 (if viol then 1 else 0) ∧ t.rget Reg.BRIDGE_ALIGN_STATE l = (if y.sync then 2 else 1) ∧
    (x.map.length < 8192 → y.map.length = x.map.length + 1 ∧ y.overflow = x.overflow) ∧ (8192 ≤ x.map.length → y.map = x.map ∧ y.overflow = true) ∧
    (x.sync = false → start = true → (∀ c ∈ x.cands, idle c) → y.sync = false ∧
      (x.cands.length < 4 → y.cands = x.cands ++ [⟨x.off, 0, 0, true⟩] ∧ cnt t 13 0) ∧ (4 ≤ x.cands.length → y.cands = x.cands ∧ cnt t 13 1)) ∧
    (∀ c, x.sync = false → start = false → x.cands = [c] → c.seen = true → c.next + 64 * g.bf = x.off →
      let good : Prop := h ≤ 149 ∧ (c.m = 0 ∨ h = (c.hfn + 1) % 150)
      (¬ good → y.cands = [] ∧ y.sync = false ∧ cnt t 12 1) ∧
      (good → c.m + 1 ≠ g.n → y.cands = [⟨c.next + 256 * g.bf, c.m + 1, h, false⟩] ∧ y.sync = false ∧ cnt t 12 0) ∧
      (good → c.m + 1 = g.n → y.cands = [] ∧ y.sync = true ∧ y.nxt = c.next + 256 * g.bf ∧ y.hfn = (h + 1) % 150 ∧ y.misses = 0)) ∧
    (x.sync = true → x.off = x.nxt + 64 * g.bf →
      (x.seen = true → h = x.hfn → y.sync = decide (g.m ≠ 0) ∧ y.misses = 0 ∧ (g.m ≠ 0 → y.nxt = x.nxt + 256 * g.bf ∧ y.hfn = (x.hfn + 1) % 150)) ∧
      ((x.seen = false ∨ h ≠ x.hfn) → (x.misses + 1 = g.m → y.sync = false ∧ y.cands = []) ∧
        (x.misses + 1 ≠ g.m → y.sync = true ∧ y.misses = x.misses + 1 ∧ y.nxt = x.nxt + 256 * g.bf ∧ y.hfn = (x.hfn + 1) % 150))) ∧
    ((g.b10 = true ∨ x.off % 8 = 7) → g.sdLen ≤ x.sdGroups + 1 →
      let bad := decide (10 ≤ x.sdErr + if viol then 1 else 0)
      let nb := if bad then x.sdBad + 1 else 0
      let ng := if bad then 0 else x.sdGood + 1
      let sd := if !s.defect l 4 && decide (g.sdEntry ≤ nb) then true else if s.defect l 4 && decide (g.sdExit ≤ ng) then false else s.defect l 4
      y.sdGroups = 0 ∧ y.sdErr = 0 ∧ y.sdBad = nb ∧ y.sdGood = ng ∧ t.defect l 4 = sd ∧ (sd ≠ s.defect l 4 → t.evStatus (768 + 2 * l) = true)))) ∧
  (∀ (s : State) (l : Nat), s.Canonical → l < 24 → s.laneOn l = true →
  let x := s.lane l
  let k := s.tickIndex l
  let cnt (t : State) (i n : Nat) : Prop := t.pget Reg.BRIDGE_CNT l [i] = (s.pget Reg.BRIDGE_CNT l [i] + n) % 2 ^ 64
  (∀ signal locked offset, x.tick < k → x.runs.length = 4 → ∃ t, exec (.defectTick l ⟨[], [], []⟩ signal locked offset) s = .next t ∧
    let y := t.lane l
    let los := !signal || (if cpri8b (s.laneOpt l) then decide (16 ≤ x.viol) else !locked)
    let dead := t.defect l 0 || t.defect l 1
    let raw (i : Nat) : Bool := if i = 0 then los else if i = 1 then !x.sync else if i = 2 then x.rai && !dead else x.sdi && !dead
    y.tick = k ∧ y.viol = 0 ∧ y.accepted = false ∧ y.gap = false ∧ (∀ j, j ≠ l → t.lane j = s.lane j) ∧ OnlyChanges [.regs, .vecs, .lanes] s t ∧
    (∀ i, i < 4 → let was := s.defect l i
      let n := if raw i = was then 0 else x.runs[i]?.getD 0 + 1
      let fire := decide ((if was then (s.persist l i).2 else (s.persist l i).1) < n)
      t.defect l i = (was != fire) ∧ y.runs[i]? = some (if fire then 0 else n) ∧ (fire = true → t.evStatus (768 + 2 * l) = true)) ∧
    t.rget Reg.BRIDGE_CLOSS_1000 l = (if s.rget Reg.BRIDGE_CLOSS_1000 l = 1 ∨
      s.rget Reg.BRIDGE_CLOSS_13C l ≤ (if x.accepted then 0 else x.noneTicks + 1) then 1 else 0) ∧
    t.rget Reg.BRIDGE_RAI_TX l = t.rget Reg.BRIDGE_RDI_TX l ∧
    (s.rget Reg.BRIDGE_PRIVILEGED l = 0 → t.rget Reg.BRIDGE_RAI_TX l = 0) ∧
    (s.rget Reg.BRIDGE_PRIVILEGED l = 1 → t.defect l 0 = true ∨ t.defect l 1 = true ∨ t.defect l 3 = true ∨ t.defect l 4 = true ∨
      t.rget Reg.BRIDGE_CLOSS_1000 l = 1 ∨ x.gap = true → t.rget Reg.BRIDGE_RAI_TX l = 1)) ∧
  (∀ sent, s.rget Reg.BRIDGE_DEMAP_STATE l = 2 →
    (x.po.length ≤ sent → ∃ t, exec (.poUnderrun l sent) s = .next t ∧ t.rget Reg.BRIDGE_DEMAP_STATE l = 3 ∧ cnt t 10 1 ∧
      t.evStatus (769 + 2 * l) = true ∧ (t.lane l).po = [] ∧ t.rget Reg.BRIDGE_PO_FILL l = 0 ∧ OnlyChanges [.regs, .vecs, .lanes] s t) ∧
    (sent < x.po.length → ∃ t, exec (.poUnderrun l sent) s = .next t ∧ t.rget Reg.BRIDGE_DEMAP_STATE l = 2 ∧ (t.lane l).po = x.po.drop sent ∧
      t.vecs = s.vecs ∧ OnlyChanges [.regs, .lanes] s t)) ∧
  (∀ sent, s.rget Reg.BRIDGE_DEMAP_STATE l ≠ 2 → exec (.poUnderrun l sent) s = .next s) ∧
  (∀ fast d, let go : Prop := s.rget Reg.BRIDGE_CM_TAP l = 1 ∧ x.sync = true
    (¬ go → exec (.cmExtract l fast d) s = .next s) ∧
    (go → ∃ t, exec (.cmExtract l fast d) s = .next t ∧ cnt t 17 1 ∧ t.nextFrame = s.nextFrame + 1 ∧ OnlyChanges [.regs, .frames, .nextFrame, .legend, .pipes] s t ∧
      ∃ y, sfind t.frames s.nextFrame = some y ∧ y.inPort = 128 + l ∧ y.cm = true ∧ y.ended = true ∧ y.data = d ++ leBytes 4 (crc32 d))))

/-- In every canonical state, for a lane that is on: at an emission instant with no side defect and a fill within 1 of its target, the mapper sends
the oldest bytes as one unjustified container frame of the bridge port, with the lane's header, the next sequence number and a good FCS, and counts
it; with fewer bytes than a container needs it sends AIS, counts the slip and raises CONTAINER. A container that a lane in FILL takes is
discarded and counted where it fails a check of its header or length; with the sequence number due, its payload is appended to the play-out
buffer. Too early, or without a container, nothing changes. -/
def Obligations.Containers : Prop := ∀ (s : State) (l : Nat), s.Canonical → l < 24 → s.laneOn l = true →
  let x := s.lane l
  let size := s.contSize l
  let cnt (t : State) (i n : Nat) : Prop := t.pget Reg.BRIDGE_CNT l [i] = (s.pget Reg.BRIDGE_CNT l [i] + n) % 2 ^ 64
  (∀ t0, x.t0 = some t0 → s.reached t0 = true →
    let e := s.contIndex l t0
    let tgt := s.rget Reg.BRIDGE_MAP_TARGET l
    let f := x.map.length
    let dead : Prop := s.defect l 0 = true ∨ s.defect l 1 = true ∨ s.defect l 3 = true ∨ s.defect l 4 = true
    let emitted (t : State) (ais : Bool) (at_ hfn : Nat) (pay : List Byte) : Prop := t.nextFrame = s.nextFrame + 1 ∧ cnt t 0 1 ∧
      (t.lane l).seq = (x.seq + 1) % 65536 ∧ (t.lane l).nextJ = e.1 + 1 ∧ (t.lane l).overflow = false ∧ t.rget Reg.BRIDGE_AIS_TX l = b2n ais ∧
      ∃ y, sfind t.frames s.nextFrame = some y ∧ y.inPort = 128 + l ∧ y.ended = true ∧
        (let d := s.contEth l ++ contHeader (size == 2048) l x.seq at_ 0 ais (s.ron Reg.BRIDGE_RDI_TX l) false (s.laneOpt l) hfn 0 e.2 ++ pay
         y.data = d ++ leBytes 4 (crc32 d))
    ¬ dead → x.nextJ ≤ e.1 → f ≤ 8192 →
    (x.overflow = false → size + 1 ≤ f → f < tgt + 2 → tgt < f + 2 → ∃ t, exec (.mapperEmit l ⟨[], [], []⟩) s = .next t ∧
      (t.lane l).map = x.map.drop size ∧ cnt t 11 0 ∧ cnt t 19 0 ∧
      let taken := x.map.take size
      ((∀ b ∈ taken, b.2 = none) → emitted t false 0xFFFF 0xFF (taken.map (·.1))) ∧
      (∀ i h, i < size → (taken.map (·.2))[i]? = some (some h) → (∀ j, j < i → (taken.map (·.2))[j]? = some none) → emitted t false i h (taken.map (·.1)))) ∧
    ((x.overflow = true ∨ f < size + 1) → ∃ t, exec (.mapperEmit l ⟨[], [], []⟩) s = .next t ∧ (t.lane l).map = x.map.drop (f - tgt) ∧
      emitted t true 0xFFFF 0xFF (List.replicate size 0xFF) ∧ cnt t 11 1 ∧ cnt t 19 1 ∧ t.evStatus (769 + 2 * l) = true)) ∧
  (∀ sent, s.rget Reg.BRIDGE_DEMAP_STATE l = 1 → (s.bridgeReady (128 + l) = none ∨ 30719 < x.po.length → exec (.containerDequeue l sent) s = .next s) ∧
    (∀ c it, x.po.length ≤ 30719 → s.bridgeReady (128 + l) = some c → sfind (s.px (128 + l)).ready c = some it → bit (s.fr it.f).legend 46 = false →
      (s.copy it.f it.b).bad = false →
      let d := (s.fr it.f).body
      let o := if beNat (slice d 12 2) = 0x8100 then 18 else 14
      let h := slice d o 16
      let seq := beNat (slice h 2 2)
      let ptr := beNat (slice h 4 2)
      let w := beNat (slice h 0 2)
      let good : Prop := bits w 15 12 = 1 ∧ bit w 11 = (size == 2048) ∧ bits (beNat (slice h 7 1)) 3 0 = s.laneOpt l ∧
        beNat (slice h 6 1) / 64 = 0 ∧ (ptr < size ∨ ptr = 0xFFFF) ∧ d.length = o + 16 + size ∧ (s.fr it.f).trunc = false
      (d.length ≠ o + 16 + size → ∃ t, exec (.containerDequeue l sent) s = .next t ∧ cnt t 8 1 ∧ t.lanes = s.lanes ∧
        (t.px (128 + l)).ready = sdel (s.px (128 + l)).ready c) ∧
      (good → (x.expected = none ∨ x.expected = some seq) → ∃ t, exec (.containerDequeue l sent) s = .next t ∧ cnt t 1 1 ∧ cnt t 8 0 ∧
        (t.px (128 + l)).ready = sdel (s.px (128 + l)).ready c ∧ t.rget Reg.BRIDGE_AIS_RX l = b2n (bit (beNat (slice h 6 1)) 5) ∧
        let y := t.lane l
        y.expected = some ((seq + 1) % 65536) ∧ y.accepted = true ∧ y.noneTicks = 0 ∧ y.po.take x.po.length = x.po ∧
        (y.po.drop x.po.length).map (·.v) = d.drop (o + 16) ∧ t.rget Reg.BRIDGE_PO_FILL l = y.po.length)))

/-- In every canonical state out of PORST_N and clocked, with the Meridian domain not off: NOW_FRAC_READ of a master with BAR0 answers the fraction, and
from then on, in every state in which the reader's bank still holds what it left there, whatever the time then is, a read by the same master of
NOW_NS, NOW_SEC_LO, NOW_SEC_HI, NOW_SHORT_LO or NOW_SHORT_HI answers the nanoseconds, the halves of the seconds and the halves of the short
time of that cycle: RC_READ for a bus master, and the register read of RRD for a thread. Nothing but the answer and the bank changes. -/
def Obligations.NowLatches : Prop := ∀ (s : State) (m : Master), s.Canonical → hasBar0 m = true → s.clockless = false → s.dom 41 ≠ 0 →
  ∃ t, exec (.nowFracRead m) s = .next t ∧ t.rdata = BitVec.ofNat 32 s.frac16 ∧ OnlyChanges [.rdata, .banks] s t ∧
  ∀ u, (∀ off, u.bank (bankOf m) (selSlot 12 off) = t.bank (bankOf m) (selSlot 12 off)) → u.boot.porst = false → u.clockless = false → u.dom 41 ≠ 0 →
    let reads (off v : Nat) : Prop := (u.regRead m (0xC00000 + off)).rdata = BitVec.ofNat 32 v ∧
      (m.id ≠ 19 → ∃ x, exec (.rcRead m 0 (0xC00000 + off)) u = .next x ∧ x.rdata = BitVec.ofNat 32 v)
    reads 0x104 s.ns ∧ reads 0x108 (s.mer.sec % 2 ^ 32) ∧ reads 0x10C (s.mer.sec / 2 ^ 32) ∧ reads 0x110 (s.short % 2 ^ 32) ∧
    reads 0x114 (s.short / 2 ^ 32)

/-- In every canonical state that is clocked, with the Meridian domain not off: TS_POP by a master with BAR0 removes exactly the oldest entry, answers its
word 0, and the same master's reads of TS_W1 to TS_W5 then answer its words 1 to 5; a read by any master that follows answers the next entry, so
that no entry is received twice; with an empty FIFO the answer is 0 and so are those of TS_W1 to TS_W5. The level follows the FIFO, and no other
register changes. -/
def Obligations.TimestampPop : Prop := ∀ (s : State) (m : Master), s.Canonical → hasBar0 m = true → s.clockless = false → s.dom 41 ≠ 0 →
  let words (t : State) (l : List Word) : Prop := ∀ w, w < 5 → (t.regRead m (0xC00204 + 4 * w)).rdata = l.getD w 0
  (∀ e r, s.mer.fifo = e :: r → ∃ t, exec (.tsPop m) s = .next t ∧ t.mer = { s.mer with fifo := r } ∧ t.rdata = e.headD 0 ∧ words t e.tail ∧
    t.rget Reg.MERID_TS_LEVEL = r.length % 2 ^ 13 ∧ OnlyRegs [rowKey Reg.MERID_TS_LEVEL] s t ∧ OnlyChanges [.rdata, .regs, .banks, .mer] s t ∧
    ∀ m' e' r', hasBar0 m' = true → r = e' :: r' → ∃ u, exec (.tsPop m') t = .next u ∧ u.rdata = e'.headD 0 ∧ u.mer.fifo = r') ∧
  (s.mer.fifo = [] → ∃ t, exec (.tsPop m) s = .next t ∧ t.rdata = 0 ∧ words t [] ∧ OnlyChanges [.rdata, .banks] s t)

/-- In every canonical state with the Meridian domain on, for k below 4: an edge that CAP_CFG.EDGE selects leaves the present short time and fraction in
CAP_TIME, NEW at 1 and CAP_k raised, and counts in CAP_MISSED exactly if NEW was 1; an edge not selected changes nothing; and a read of the low half
of the capture pair clears NEW. No other capture's registers change. -/
def Obligations.Captures : Prop := ∀ (s : State) (k : Nat) (rising : Bool), s.Canonical → s.domOn 41 = true → k < 4 →
  let e := s.rget Reg.MERID_EDGE 0 [k]
  let selected : Prop := e = 3 ∨ (e = 1 ∧ rising = true) ∨ (e = 2 ∧ rising = false)
  (¬ selected → exec (.cap k rising) s = .next s) ∧
  (selected → ∃ t, exec (.cap k rising) s = .next t ∧ t.pget Reg.MERID_CAP_TIME 0 [k] = s.capStamp ∧ t.rget Reg.MERID_NEW_344 0 [k] = 1 ∧
    t.evStatus (964 + k) = true ∧
    t.pget Reg.MERID_CNT 0 [6] = (s.pget Reg.MERID_CNT 0 [6] + if s.rget Reg.MERID_NEW_344 0 [k] = 1 then 1 else 0) % 2 ^ 64 ∧
    (∀ j, j < 4 → j ≠ k → t.pget Reg.MERID_CAP_TIME 0 [j] = s.pget Reg.MERID_CAP_TIME 0 [j] ∧ t.rget Reg.MERID_NEW_344 0 [j] = s.rget Reg.MERID_NEW_344 0 [j]) ∧
    OnlyChanges [.regs, .vecs] s t) ∧
  (∀ m, s.clockless = false → (s.regRead m (0xC00348 + 0x10 * k)).rget Reg.MERID_NEW_344 0 [k] = 0 ∧
    (hasBar0 m = true → m.id ≠ 19 → s.boot.porst = false → ∃ t, exec (.pairLowRead m 0 (0xC00348 + 0x10 * k)) s = .next t ∧
      t.rget Reg.MERID_NEW_344 0 [k] = 0))

/-- In every canonical state with the Meridian domain on: PPS_OUT is driven for PPS_WIDTH when its second is reached, one pulse however many were passed,
and times an armed ToD message; a selected PPS_IN edge is captured with the ToD pointer, counted and raised; PPS_LOSS is raised once when 1.1 s
passed since the last edge; an armed trigger whose instant is reached is active for TRIG_WIDTH and counts: a one-shot is disarmed and raises its event,
a series goes to its first instant after the present. Before their instant nothing changes.
In every canonical state with the Meridian domain on: with RX_EN a received byte stands at its place of the 256-byte ring, the pointer advances, the
byte counts, and TOD_RX is raised exactly after a gap; without RX_EN nothing changes. An accepted TX_ARM sets TX_BUSY and arms the transmission,
and has no effect on one in progress; TOD_TX_DELAY after the pulse the first TX_LEN bytes of the buffer are sent; when ten bit times per byte
have passed, TX_BUSY clears and TOD_TX_DONE is raised, and not before. -/
def Obligations.PulsesTriggersTimeOfDay : Prop :=
  (∀ (s : State), s.Canonical → s.domOn 41 = true →
  let cnt (t : State) (i : Nat) : Prop := t.pget Reg.MERID_CNT 0 [i] = (s.pget Reg.MERID_CNT 0 [i] + 1) % 2 ^ 64
  let x := s.mer
  (∀ n, x.ppsNext = some n → s.rget Reg.MERID_OUT_EN = 1 → ((n : Int) ≤ s.ppsSecond →
      let y := { x with ppsNext := some (s.ppsSecond + 1).toNat, ppsActive := some ((s.short + s.rget Reg.MERID_PPS_WIDTH) % 2 ^ 48) }
      let z := if x.todTxState = 1 then { y with todTxState := 2, todTxAt := (s.short + s.rget Reg.MERID_TOD_TX_DELAY) % 2 ^ 48 } else y
      exec .ppsOutPulse s = .next { s with mer := z }) ∧
    (s.ppsSecond < n → exec .ppsOutPulse s = .next s)) ∧
  (∀ rising, (rising = decide (s.rget Reg.MERID_IN_POL ≠ 1) → ∃ t, exec (.ppsIn rising) s = .next t ∧ t.pget Reg.MERID_PPS_IN_TIME = s.capStamp ∧
      t.rget Reg.MERID_NEW_318 = 1 ∧ t.rget Reg.MERID_TOD_PTR = s.rget Reg.MERID_TOD_RX_PTR ∧ cnt t 5 ∧ t.evStatus 962 = true ∧
      t.mer = { x with ppsLastEdge := some s.short, ppsLossRaised := false } ∧ OnlyChanges [.regs, .mer, .vecs] s t) ∧
    (rising ≠ decide (s.rget Reg.MERID_IN_POL ≠ 1) → exec (.ppsIn rising) s = .next s)) ∧
  (∀ t0, x.ppsLastEdge = some t0 →
    (x.ppsLossRaised = false → s.reached ((t0 + 1100000000) % 2 ^ 48) = true → ∃ t, exec .ppsLoss s = .next t ∧ t.evStatus 963 = true ∧
      t.mer = { x with ppsLossRaised := true } ∧ OnlyChanges [.regs, .mer, .vecs] s t) ∧
    (x.ppsLossRaised = true ∨ s.reached ((t0 + 1100000000) % 2 ^ 48) = false → exec .ppsLoss s = .next s)) ∧
  (∀ k, k < 4 → s.rget Reg.MERID_ARMED 0 [k] = 1 → let y := s.trg k
    let due := s.reached (s.pget Reg.MERID_TRIG_NEXT 0 [k])
    let until_ := some ((s.short + s.rget Reg.MERID_TRIG_WIDTH 0 [k]) % 2 ^ 48)
    (due = false → exec (.trig k) s = .next s) ∧
    (due = true → y.period = 0 → ∃ t, exec (.trig k) s = .next t ∧ t.rget Reg.MERID_ARMED 0 [k] = 0 ∧ t.evStatus (968 + k) = true ∧ cnt t 7 ∧
      t.mer = { x with trig := sset (fun _ => {}) x.trig k { y with activeUntil := until_ } }) ∧
    (due = true → y.period ≠ 0 → ∃ t, exec (.trig k) s = .next t ∧ t.rget Reg.MERID_ARMED 0 [k] = 1 ∧ cnt t 7 ∧ t.vecs = s.vecs ∧
      t.pget Reg.MERID_TRIG_NEXT 0 [k] = (y.first + (((s.short + 2 ^ 48 - y.first) % 2 ^ 48) / y.period + 1) * y.period) % 2 ^ 48))) ∧
  (∀ (s : State), s.Canonical → s.domOn 41 = true →
  let x := s.mer
  (∀ b gap, (s.rget Reg.MERID_RX_EN = 0 → exec (.todRx b gap) s = .next s) ∧
    (s.rget Reg.MERID_RX_EN = 1 → ∃ t, exec (.todRx b gap) s = .next t ∧
      let p := s.rget Reg.MERID_TOD_RX_PTR
      let ring (u : State) (i : Nat) : Nat := bits (u.rget Reg.MERID_TOD_RX_DATA 0 [i / 4]) (8 * (3 - i % 4) + 7) (8 * (3 - i % 4))
      ring t (p % 256) = b.toNat ∧ (∀ i, i < 256 → i ≠ p % 256 → ring t i = ring s i) ∧ t.rget Reg.MERID_TOD_RX_PTR = (p + 1) % 65536 ∧
      t.pget Reg.MERID_CNT 0 [10] = (s.pget Reg.MERID_CNT 0 [10] + 1) % 2 ^ 64 ∧ (gap = true → t.evStatus 975 = true) ∧ (gap = false → t.vecs = s.vecs) ∧
      OnlyChanges [.regs, .vecs] s t)) ∧
  (∀ m v, hasBar0 m = true → s.boot.porst = false → s.writeCause m.id (bankOf m) ⟨12, 0x3E0, false⟩ (s.instOf (bankOf m) 12 0x3E0) none v.toNat 0xFFFFFFFF = 0 →
    bit v.toNat 31 = true → (s.rget Reg.MERID_TX_BUSY = 0 → ∃ t, exec (.txArm m v) s = .next t ∧ t.rget Reg.MERID_TX_BUSY = 1 ∧ t.mer = { x with todTxState := 1 }) ∧
      (s.rget Reg.MERID_TX_BUSY = 1 → ∃ t, exec (.txArm m v) s = .next t ∧ t.rget Reg.MERID_TX_BUSY = 1 ∧ t.mer = x)) ∧
  (x.todTxState = 2 → (s.reached x.todTxAt = true → let n := s.rget Reg.MERID_TX_LEN
      exec .todTxStart s = .next { s with mer := { x with todTxState := 3, todTxAt := s.now, todTxLen := n, todSent := s.todBytes n } }) ∧
    (s.reached x.todTxAt = false → exec .todTxStart s = .next s)) ∧
  (x.todTxState = 3 → let due := x.todTxAt + ceilDiv (x.todTxLen * 10 * 1600000000) (baudRate (s.rget Reg.MERID_BAUD))
    (due ≤ s.now → ∃ t, exec .todTxDone s = .next t ∧ t.rget Reg.MERID_TX_BUSY = 0 ∧ t.evStatus 976 = true ∧ t.mer = { x with todTxState := 0 } ∧
      OnlyChanges [.regs, .mer, .vecs] s t) ∧
    (s.now < due → exec .todTxDone s = .next s)) ∧
  (x.todTxState ≠ 2 → exec .todTxStart s = .next s) ∧ (x.todTxState ≠ 3 → exec .todTxDone s = .next s))

/-- In every canonical state, for slow-path ring r: an accepted write of a tail brings it into use after the stores that came before it, and one that posts
more entries than the ring has stops the ring with OVERFLOW. With a descriptor waiting, the engine makes exactly one frame of the descriptor's bytes with
a good FCS, behind those in the pipe's inject buffer, and advances HEAD; a broken layout stops the ring with DESC, a failed access with
BUS, and for want of room nothing changes. The oldest injected frame enters its pipe when no recirculated one waits. A write-back leaves HEAD
as a 64-bit word at WB_ADDR and changes no other byte of memory.
In every canonical state with a whole, good frame at the head of slow-path queue spq of basket n, the basket on: a host frame whose ring has a buffer is
written to it, then its 32-byte record, HEAD advances, the frame counts and leaves the queue, and a failed access stops the ring with BUS, the
frame counted and dropped; a frame for the complex is loaned to the ACTIVE holder of the higher claim, whose receive list takes the handle; without
a destination that can take it, nothing changes. CRX_POP takes the oldest handle for that complex alone; LOAN_DATA reads and writes a loan for its owner
and counts every other access. -/
def Obligations.HostPackets : Prop :=
  (∀ (s : State) (r : Nat), s.Canonical → r < 256 →
  let ix := spIx r
  let stops (t : State) (err code en : Row) (c : Nat) : Prop := t.rget err 0 ix = 1 ∧ t.rget code 0 ix = c ∧ t.rget en 0 ix = 0
  let tailed (cmd : Instr) (m : Master) (v : Word) (stores : List HostStore) (off : Nat) (tail head size err code en : Row) : Prop :=
    hasBar0 m = true → s.boot.porst = false → s.writeCause m.id (bankOf m) ⟨5, off, false⟩ 0 none v.toNat 0xFFFFFFFF = 0 →
    ∃ t, exec cmd s = .next t ∧ t.rget tail 0 ix = v.toNat % 65536 ∧ t.mem = (s.applyStores stores).mem ∧ OnlyChanges [.regs, .mem] s t ∧
    (if 2 ^ s.rget size 0 ix < (v.toNat % 65536 + 65536 - s.rget head 0 ix) % 65536 then stops t err code en 3
     else t.rget en 0 ix = s.rget en 0 ix ∧ t.rget err 0 ix = s.rget err 0 ix)
  (∀ m v stores, tailed (.bufTailWrite m r v stores) m v stores (tailOff false r) Reg.HOST_BUF_TAIL Reg.HOST_HEAD Reg.HOST_SIZE_LOG2 Reg.HOST_ERR
      Reg.HOST_ERR_CODE Reg.HOST_EN ∧
    tailed (.txTailWrite m r v stores) m v stores (tailOff true r) Reg.HOST_TX_TAIL Reg.HOST_TX_HEAD Reg.HOST_TX_SIZE_LOG2 Reg.HOST_TX_ERR
      Reg.HOST_TX_ERR_CODE Reg.HOST_TX_EN) ∧
  (∀ ok, let head := s.rget Reg.HOST_TX_HEAD 0 ix
    let base := s.rget Reg.HOST_TX_BASE_LO 0 ix * 4096 + s.rget Reg.HOST_TX_BASE_HI 0 ix * 2 ^ 32
    let k := hostKey 0 (base + 32 * (head % 2 ^ s.rget Reg.HOST_TX_SIZE_LOG2 0 ix))
    let w1 := s.m64 (k + 8)
    let good := txDescOk w1 (s.m64 (k + 16)) (s.m64 (k + 24))
    let n := bits w1 20 18
    let len := bits w1 63 48
    let runs : Prop := s.domOn 42 = true ∧ s.rget Reg.HOST_TX_EN 0 ix = 1 ∧ s.rget Reg.HOST_TX_ERR 0 ix = 0
    let stopped (cmd : Instr) (c : Nat) : Prop := ∃ t, exec cmd s = .next t ∧ stops t Reg.HOST_TX_ERR Reg.HOST_TX_ERR_CODE Reg.HOST_TX_EN c ∧ OnlyChanges [.regs] s t
    (¬ runs → exec (.slowpathTx r ok) s = .next s ∧ exec (.headWriteback r ok) s = .next s) ∧
    (runs → (s.mayIssue 0 = false ∨ ok = false) → stopped (.headWriteback r ok) 1) ∧
    (runs → s.mayIssue 0 = true → ok = true → ∃ t, exec (.headWriteback r ok) s = .next t ∧
      (let a := hostKey 0 (s.rget Reg.HOST_WB_LO 0 ix * 8 + s.rget Reg.HOST_WB_HI 0 ix * 2 ^ 32)
       t.m64 a = head ∧ OnlyBytes a 8 s t) ∧ (s.rget Reg.HOST_TX_IRQ_EN 0 ix = 0 → OnlyChanges [.mem] s t)) ∧
    (head = s.rget Reg.HOST_TX_TAIL 0 ix → exec (.slowpathTx r ok) s = .next s) ∧
    (runs → head ≠ s.rget Reg.HOST_TX_TAIL 0 ix → (s.mayIssue 0 = false ∨ ok = false) → stopped (.slowpathTx r ok) 1) ∧
    (runs → head ≠ s.rget Reg.HOST_TX_TAIL 0 ix → s.mayIssue 0 = true → ok = true →
      (good = false → stopped (.slowpathTx r ok) 4) ∧
      (good = true → 65536 < s.injectUsed n + len + 4 → exec (.slowpathTx r ok) s = .next s) ∧
      (good = true → s.injectUsed n + len + 4 ≤ 65536 → ∃ t, exec (.slowpathTx r ok) s = .next t ∧ t.nextFrame = s.nextFrame + 1 ∧
        (t.pipe n).inject = (s.pipe n).inject ++ [s.nextFrame] ∧ t.rget Reg.HOST_TX_HEAD 0 ix = (head + 1) % 65536 ∧
        t.pget Reg.HOST_TX_FRAMES 0 [r] = (s.pget Reg.HOST_TX_FRAMES 0 [r] + 1) % 2 ^ 64 ∧ OnlyChanges [.regs, .frames, .nextFrame, .pipes] s t ∧
        ∃ y, sfind t.frames s.nextFrame = some y ∧ y.pipe = n ∧ y.inPort = 152 ∧ y.len = len + 4 ∧
          (let d := s.mread (hostKey 0 (s.m64 k)) len
           y.data = d ++ leBytes 4 (crc32 d))))) ∧
  (∀ n f rest, (s.pipe n).inject = f :: rest → (s.fr f).pipe = n →
    let go : Prop := n < 8 ∧ s.works (8 + n) = true ∧ (s.q (65528 + n)).oc = []
    (¬ go → exec (.hostInject n) s = .next s) ∧
    (go → ∃ t, exec (.hostInject n) s = .next t ∧ (t.pipe n).inject = rest ∧ (t.pipe n).toIssue = (s.pipe n).toIssue ++ [(f, none)] ∧
      (t.fr f).prog = s.activeProg n ∧ (t.fr f).stage = 0 ∧ (∀ g, g ≠ f → t.fr g = s.fr g) ∧ OnlyChanges [.frames, .legend, .pipes] s t))) ∧
  (∀ (s : State), s.Canonical →
  let cnt (t : State) (i : Nat) : Prop := t.pget Reg.HOST_CNT 0 [i] = (s.pget Reg.HOST_CNT 0 [i] + 1) % 2 ^ 64
  (∀ n spq ok it rest, n < 8 → spq < 8 → let q := 65464 + 8 * n + spq
    (s.q q).oc = it :: rest → it.queue = q → it.b < 8 → s.domOn (16 + n) = true → (s.fr it.f).ended = true → s.stored it.f it.b = true → (s.fr it.f).bad = false →
    let cmd : Instr := .slowpathRxDeliver n spq ok
    ((s.copy it.f it.b).bad = true → ∃ t, exec cmd s = .next t ∧ (t.q q).oc = rest ∧
      t.pget Reg.SLATH_BASKET_CNT n [16] = (s.pget Reg.SLATH_BASKET_CNT n [16] + 1) % 2 ^ 64 ∧ t.mem = s.mem) ∧
    ((s.copy it.f it.b).bad = false → it.toCplx = false →
      let r := (s.rget Reg.HOST_RING_BASE 0 [8 * n + spq] + (s.fr it.f).origPort % 2 ^ s.rget Reg.HOST_SPREAD_LOG2 0 [8 * n + spq]) % 256
      let ix := spIx r
      (s.domOn 42 = false ∨ s.rxCan r = false → exec cmd s = .next s) ∧
      (s.domOn 42 = true → s.rxCan r = true → (s.mayIssue 0 = false ∨ ok = false) → ∃ t, exec cmd s = .next t ∧ (t.q q).oc = rest ∧ cnt t 0 ∧
        t.rget Reg.HOST_ERR 0 ix = 1 ∧ t.rget Reg.HOST_ERR_CODE 0 ix = 1 ∧ t.rget Reg.HOST_EN 0 ix = 0 ∧ t.mem = s.mem) ∧
      (s.domOn 42 = true → s.rxCan r = true → s.mayIssue 0 = true → ok = true → ∃ t, exec cmd s = .next t ∧ (t.q q).oc = rest ∧
        let h := s.rget Reg.HOST_HEAD 0 ix
        let lg := s.rget Reg.HOST_SIZE_LOG2 0 ix
        let base (lo hi : Row) : Nat := s.rget lo 0 ix * 4096 + s.rget hi 0 ix * 2 ^ 32
        let e := hostKey 0 (base Reg.HOST_BUF_BASE_LO Reg.HOST_BUF_BASE_HI + 16 * (h % 2 ^ lg))
        let k := hostKey 0 (base Reg.HOST_CQ_BASE_LO Reg.HOST_CQ_BASE_HI + 32 * (h % 2 ^ lg))
        let a := hostKey 0 (s.m64 e)
        let d := (s.fr it.f).body
        let lim := 64 * s.rget Reg.HOST_BUF_LEN 0 ix
        let w := s.rxRecord n spq it (min lim d.length) (decide (lim < d.length))
        t.mread k 32 = leBytes 8 (w.1 + (1 - h / 2 ^ lg % 2)) ++ leBytes 8 w.2.1 ++ leBytes 8 w.2.2 ++ leBytes 8 (s.m64 (e + 8) / 2 ^ 32 * 2 ^ 32) ∧
        (a + d.length ≤ k ∨ k + 32 ≤ a → t.mread a (min lim d.length) = d.take lim) ∧
        (∀ j, (j < a ∨ a + min lim d.length ≤ j) → (j < k ∨ k + 32 ≤ j) → t.mget j = s.mget j) ∧
        t.rget Reg.HOST_HEAD 0 ix = (h + 1) % 65536 ∧ t.pget Reg.HOST_RX_FRAMES 0 [r] = (s.pget Reg.HOST_RX_FRAMES 0 [r] + 1) % 2 ^ 64)) ∧
    ((s.copy it.f it.b).bad = false → it.toCplx = true →
      (s.higher = none → exec cmd s = .next s) ∧
      (∀ c, s.higher = some c → (s.rget Reg.CC_STATE_100 0 [c] ≠ 4 ∨ 1024 ≤ (s.cx c).receive.length ∨ s.loanFree n = none → exec cmd s = .next s) ∧
        (∀ i, s.rget Reg.CC_STATE_100 0 [c] = 4 → (s.cx c).receive.length < 1024 → s.loanFree n = some i → ∃ t, exec cmd s = .next t ∧
          (t.q q).oc = rest ∧ (t.cx c).receive = (s.cx c).receive ++ [n * 4096 + i] ∧ cnt t 3 ∧ t.mem = s.mem ∧
          ∃ l : Loan, (t.crl n).loans = sins (s.crl n).loans i l ∧ l.owner = 17 + c ∧ l.item = some it)))) ∧
  (∀ m, hasBar0 m = true → s.clockless = false →
    (∀ c, s.higher = some c → m.id = 17 + c → (s.cx c).receive = [] → exec (.crxPop m) s = .next { s with rdata := 0 }) ∧
    ((∀ c, s.higher = some c → m.id ≠ 17 + c) → exec (.crxPop m) s = .next { s with rdata := 0 }) ∧
    (∀ c h rest l it, s.higher = some c → m.id = 17 + c → (s.cx c).receive = h :: rest → sfind (s.crl (h / 4096)).loans (h % 4096) = some l → l.item = some it →
      let w := s.rxRecord it.b (it.queue % 8) it ((s.fr it.f).body.length) false
      let ws := [w.1, w.1 / 2 ^ 32, w.2.1, w.2.1 / 2 ^ 32, w.2.2, w.2.2 / 2 ^ 32, 0, h]
      ∃ t, exec (.crxPop m) s = .next t ∧ t.rdata = BitVec.ofNat 32 w.1 ∧ (t.cx c).receive = rest ∧ OnlyChanges [.rdata, .banks, .cplx] s t ∧
      ∀ j, 1 ≤ j → j < 8 → t.bank (bankOf m) (crxSlot j) = ws.getD j 0 % 2 ^ 32)) ∧
  (∀ m w, w < 64 → hasBar0 m = true → s.boot.porst = false → s.clockless = false →
    let at_ := s.loanAt m (s.sel (bankOf m) 5 0x440) w
    (at_ = none → ∃ t, exec (.loanDataAccess m w none) s = .next t ∧ t.rdata = 0 ∧ cnt t 4 ∧ OnlyChanges [.rdata, .regs] s t) ∧
    (∀ b i o l, at_ = some (b, i, o, l) → exec (.loanDataAccess m w none) s = .next { s with rdata := BitVec.ofNat 32 (beNat ((List.range 4).map (fun j => l.byte (o + j)))) }) ∧
    (∀ v : Word, s.writeCause m.id (bankOf m) ⟨5, 0x500 + 4 * w, false⟩ 0 none v.toNat 0xFFFFFFFF = 0 →
      (at_ = none → ∃ t, exec (.loanDataAccess m w (some v)) s = .next t ∧ cnt t 4 ∧ OnlyChanges [.regs] s t) ∧
      (∀ b i o l, at_ = some (b, i, o, l) → ∃ t, exec (.loanDataAccess m w (some v)) s = .next t ∧
        (t.crl b).loans = sins (s.crl b).loans i (l.put o (beBytes 4 v.toNat)) ∧ (∀ d, d ≠ b → t.crl d = s.crl d) ∧ OnlyChanges [.creel] s t))))

/-- In every canonical state: a reset of function f clears its Bus Master Enable and its vector table, PF0's also VF Enable and disables every slow-path
ring; clearing VF Enable resets the VFs; a driver reload leaves the function's enables alone. BUS_MASTER_ENABLE sets the function's
enable. A pending, unmasked vector of a function that may issue requests writes its entry's data at its entry's address and is pending no more; else
nothing changes. At the end of a quiet period the vector is free, and merged signals make it pending. An accepted write of STATUS_w clears exactly
the bits written 1. -/
def Obligations.FunctionsAndVectors : Prop := ∀ (s : State), s.Canonical →
  let off (l : List Nat) : BootX := { s.boot with bme := l.foldl (fun m f => sset (fun _ => false) m f false) s.boot.bme }
  (∀ f kind, s.boot.porst = false → f < 16 →
    (f ≠ 0 → ∃ t, exec (.functionLevelReset f 0) s = .next t ∧ t.boot = off [f] ∧ (∀ v, v < 64 → t.msixEntry f v = 2 ^ 96) ∧
      (∀ g v, g ≠ f → v < 64 → t.msixEntry g v = s.msixEntry g v)) ∧
    (∃ t, exec (.functionLevelReset 0 0) s = .next t ∧ t.boot = { off (List.range 16) with vfe := false } ∧ (∀ v, v < 64 → t.msixEntry f v = 2 ^ 96) ∧
      (∀ r, r < 256 → t.rget Reg.HOST_EN 0 (spIx r) = 0 ∧ t.rget Reg.HOST_TX_EN 0 (spIx r) = 0 ∧ t.rget Reg.HOST_HEAD 0 (spIx r) = 0 ∧
        t.rget Reg.HOST_BUF_TAIL 0 (spIx r) = 0 ∧ t.rget Reg.HOST_TX_HEAD 0 (spIx r) = 0 ∧ t.rget Reg.HOST_TX_TAIL 0 (spIx r) = 0)) ∧
    (∃ t, exec (.functionLevelReset f 1) s = .next t ∧ t.boot = { off ((List.range 15).map (· + 1)) with vfe := false }) ∧
    (2 ≤ kind → ∃ t, exec (.functionLevelReset f kind) s = .next t ∧ t.boot = s.boot ∧ t.msix = s.msix)) ∧
  (∀ f b v, f < 16 → ∃ t, exec (.busMasterEnable f b v) s = .next t ∧
    t.boot = { s.boot with bme := sset (fun _ => false) s.boot.bme f b, vfe := s.boot.vfe || v } ∧ OnlyChanges [.regs, .boot, .vecs] s t) ∧
  (∀ v, let x := s.vec v
    let fn := s.vecFunc v
    let e := s.msixEntry (fn - 1) v
    let go : Prop := x.pend = true ∧ fn ≠ 0 ∧ s.mayIssue (fn - 1) = true ∧ bits e 96 96 = 0 ∧ ∀ t0, x.lastSent = some t0 → t0 + 1600 ≤ s.now
    (¬ go → exec (.msixMessage v) s = .next s) ∧
    (go → ∃ t, exec (.msixMessage v) s = .next t ∧ t.vec v = { x with pend := false, lastSent := some s.now } ∧
      t.mread (hostKey (fn - 1) (bits e 63 0)) 4 = leBytes 4 (bits e 95 64) ∧ OnlyBytes (hostKey (fn - 1) (bits e 63 0)) 4 s t ∧
      (∀ u, u ≠ v → t.vec u = s.vec u) ∧ OnlyChanges [.mem, .vecs] s t)) ∧
  (∀ v q, (s.vec v).quietEnd = some q → let y : VecX := { s.vec v with quietEnd := none, merged := false }
    (s.now < q → exec (.coalesceEnd v) s = .next s) ∧
    (q ≤ s.now → (s.vec v).merged = false → ∃ t, exec (.coalesceEnd v) s = .next t ∧ t.vec v = y ∧ (∀ u, u ≠ v → t.vec u = s.vec u) ∧ OnlyChanges [.vecs] s t) ∧
    (q ≤ s.now → (s.vec v).merged = true → s.vecFunc v ≠ 0 → ∃ t, exec (.coalesceEnd v) s = .next t ∧ (t.vec v).pend = true ∧ (t.vec v).merged = false ∧
      (∀ u, u ≠ v → t.vec u = s.vec u) ∧ OnlyChanges [.vecs] s t)) ∧
  (∀ m w (v : Word), w < 36 → hasBar0 m = true → s.boot.porst = false →
    s.writeCause m.id (bankOf m) ⟨3, 0x100 + 4 * w, false⟩ 0 none v.toNat 0xFFFFFFFF = 0 → ∃ t, exec (.statusClear m w v) s = .next t ∧
    (∀ i, i < 32 → t.evStatus (32 * w + i) = (s.evStatus (32 * w + i) && !bit v.toNat i)) ∧
    (∀ u i, u < 36 → u ≠ w → i < 32 → t.evStatus (32 * u + i) = s.evStatus (32 * u + i)) ∧ OnlyChanges [.regs, .vecs] s t)

/-- In every canonical state, clocked and out of PORST_N, for a master admitted to side a of channel c: GO (after CANCEL, if that bit is written too) copies
the staging buffer with its stamp, starts the timer, counts, sets ARRIVED, and CROSSED on both sides where both wait; into a full slot, with a loan of
another's or from a complex with the lower claim it sets POST_REFUSED and changes nothing else of either side. CANCEL empties a full slot. A
read of RX_WORD_0 latches the words and the stamp, empties the slot and sets EMPTIED, or answers the latched word. An expired timer sets TIMEOUT
once and leaves the message. Without a side, nothing changes and reads answer 0. -/
def Obligations.MailboxMessages : Prop := ∀ (s : State) (m : Master) (c : Nat), s.Canonical → s.boot.porst = false → s.clockless = false →
  hasBar2 m = true → c < 64 →
  let cnt (t : State) (i : Nat) : Prop := t.pget Reg.HOST_CNT 0 [i] = (s.pget Reg.HOST_CNT 0 [i] + 1) % 2 ^ 64
  let low : Prop := (m.id = 17 ∨ m.id = 18) ∧ s.isHigher m.id = false
  let flagged (f : Nat) (l : List Nat) : Nat := l.foldl (fun x i => setBit x i true) f
  (s.sideOf c m.id = none → (∀ v, exec (.go m c v) s = .next s) ∧ exec (.cancel m c) s = .next s ∧ exec (.rxWord0Read m c) s = .next { s with rdata := 0 }) ∧
  (∀ a, s.sideOf c m.id = some a →
    let y := (s.chan c).side a
    let z := (s.chan c).side (!a)
    let sides (t : State) (y' z' : MbxSide) : Prop := (t.chan c).side a = y' ∧ (t.chan c).side (!a) = z' ∧ (t.chan c).lock = (s.chan c).lock ∧
      ∀ d, d ≠ c → t.chan d = s.chan d
    (∀ v : Word, let w := v.toNat
      let y0 := { y with post := bits w 30 16 * 2 ^ 16 }
      let y1 := if bit w 2 = true ∧ y.full = true then y0.emptied else y0
      let att := if bit w 3 then some (bits w 30 28, bits w 27 16) else none
      let refused : Prop := y1.full = true ∨ low ∨ ∃ p : Nat × Nat, att = some p ∧ s.loanOwner p.1 p.2 ≠ some m.id
      let crossed : Bool := bit w 1 && z.full && z.waits
      (refused → ∃ t, exec (.go m c v) s = .next t ∧ sides t { y1 with flags := flagged y.flags [13] } z ∧ cnt t 8 ∧ OnlyChanges [.regs, .vecs, .mbx] s t ∧
        (¬ low → t.vecs = s.vecs)) ∧
      (¬ refused → ∃ t, exec (.go m c v) s = .next t ∧ cnt t 5 ∧ OnlyChanges [.regs, .vecs, .mbx] s t ∧
        sides t { y1 with slot := y.stage, full := true, waits := bit w 1, sndEpoch := y.epoch, rxEpoch := z.epoch, sender := m.id, att := att, timer := some (s.now + s.mbxTimeout c), flags := flagged y.flags (if crossed then [10] else []) }
          { z with flags := flagged z.flags (if crossed then [9, 10] else [9]) } ∧
        (bit z.flags 9 = false → t.evStatus (1016 + c) = true) ∧ (crossed = true → cnt t 7))) ∧
    (∃ t, exec (.cancel m c) s = .next t ∧ sides t (if y.full = true then { y with post := 0 }.emptied else { y with post := 0 }) z ∧ OnlyChanges [.mbx] s t) ∧
    (z.full = false → exec (.rxWord0Read m c) s = .next { s with rdata := BitVec.ofNat 32 (s.bank (bankOf m) (latchSlot 0)) }) ∧
    (z.full = true → ∃ t, exec (.rxWord0Read m c) s = .next t ∧ t.rdata = BitVec.ofNat 32 (sget (fun _ => (0 : Word)) z.slot 0).toNat ∧
      sides t y { z.emptied with flags := flagged z.flags [8] } ∧ (bit z.flags 8 = false → t.evStatus (1016 + c) = true) ∧
      (∀ i, i < 16 → t.bank (bankOf m) (latchSlot i) = (sget (fun _ => (0 : Word)) z.slot i).toNat) ∧
      t.bank (bankOf m) (latchSlot 16) = z.sndEpoch * 2 ^ 16 + z.rxEpoch ∧
      (z.sender < 32 → (∀ p, z.att = some p → p.1 < 8 ∧ p.2 < 4096) → let info := t.bank (bankOf m) (latchSlot 17)
        bit info 31 = true ∧ bit info 30 = (z.rxEpoch != y.epoch) ∧ bit info 29 = (z.sndEpoch != z.epoch) ∧ bit info 28 = z.att.isSome ∧ bits info 20 16 = z.sender) ∧
      (∀ p l, z.att = some p → sfind (s.crl p.1).loans p.2 = some l → (t.crl p.1).loans = sins (s.crl p.1).loans p.2 { l with owner := m.id }) ∧
      (z.att = none → t.creel = s.creel))) ∧
  (∀ a, let y := (s.chan c).side a
    (∀ t0, y.timer = some t0 → y.full = true → (t0 ≤ s.now → ∃ t, exec (.mbxTimeout c a) s = .next t ∧ cnt t 6 ∧
        (t.chan c).side a = { y with timer := none, flags := flagged y.flags [11] } ∧ (t.chan c).side (!a) = (s.chan c).side (!a) ∧
        (bit y.flags 11 = false → t.evStatus (1016 + c) = true) ∧ OnlyChanges [.regs, .vecs, .mbx] s t) ∧
      (s.now < t0 → exec (.mbxTimeout c a) s = .next s)) ∧
    (y.timer = none → exec (.mbxTimeout c a) s = .next s))

/-- In every canonical state, clocked and out of PORST_N, for a master admitted to side a of channel c: a read of a free LOCK answers 0 and records the
reader, of a held one its owner, and a complex with the lower claim reads 0x1F and takes nothing; only the owner's write of its own identity
releases it. ATT_CTL loans 8 cells to the writer or answers FULL, and a return ends the writer's own loan, is refused for another's and NOT_FOUND
without one, as ATT_STATUS shows. A doorbell write ORs its bits toward the other side and raises the event exactly on a new one; DB_IN answers and
clears them. Without a side, nothing changes and reads answer 0. -/
def Obligations.LocksLoansDoorbells : Prop := ∀ (s : State) (m : Master) (c : Nat), s.Canonical → s.boot.porst = false → s.clockless = false →
  hasBar2 m = true → c < 64 →
  let low : Prop := (m.id = 17 ∨ m.id = 18) ∧ s.isHigher m.id = false
  let lock := (s.chan c).lock
  (s.sideOf c m.id = none → exec (.lockRead m c) s = .next { s with rdata := 0 } ∧ exec (.dbInRead m c) s = .next { s with rdata := 0 } ∧
    ∀ v b i, exec (.lockRelease m c v) s = .next s ∧ exec (.doorbellWrite m c v) s = .next s ∧ exec (.attNew m c b) s = .next s ∧
      exec (.attReturn m c b i) s = .next s) ∧
  (∀ a, s.sideOf c m.id = some a →
    let y := (s.chan c).side a
    let z := (s.chan c).side (!a)
    let locked (t : State) (i : Nat) : Prop := t.chan c = { s.chan c with lock := i } ∧ ∀ d, d ≠ c → t.chan d = s.chan d
    (low → ∃ t, exec (.lockRead m c) s = .next t ∧ t.rdata = 0x1F ∧ t.mbx = s.mbx) ∧
    (¬ low → lock = 0 → ∃ t, exec (.lockRead m c) s = .next t ∧ t.rdata = 0 ∧ locked t m.id ∧ OnlyChanges [.rdata, .mbx] s t) ∧
    (¬ low → lock ≠ 0 → exec (.lockRead m c) s = .next { s with rdata := BitVec.ofNat 32 lock }) ∧
    (∀ v : Word, (lock = m.id → v.toNat % 32 = m.id → ∃ t, exec (.lockRelease m c v) s = .next t ∧ locked t 0 ∧ OnlyChanges [.mbx] s t) ∧
      (lock ≠ m.id ∨ v.toNat % 32 ≠ m.id → exec (.lockRelease m c v) s = .next s)) ∧
    (∀ v : Word, ∃ t, exec (.doorbellWrite m c v) s = .next t ∧ (t.chan c).side a = { y with bells := y.bells ||| v.toNat } ∧ (t.chan c).side (!a) = z ∧
      (y.bells ||| v.toNat ≠ y.bells → t.evStatus (1016 + c) = true) ∧ (y.bells ||| v.toNat = y.bells → t.regs = s.regs ∧ t.vecs = s.vecs) ∧
      OnlyChanges [.regs, .vecs, .mbx] s t) ∧
    (∃ t, exec (.dbInRead m c) s = .next t ∧ t.rdata = BitVec.ofNat 32 z.bells ∧ (t.chan c).side (!a) = { z with bells := 0 } ∧ (t.chan c).side a = y ∧
      OnlyChanges [.rdata, .mbx] s t) ∧
    (∀ b i, b < 8 → i < 4096 → let st (t : State) (r j : Nat) : Prop := t.bank (bankOf m) (latchSlot 18) = 2 ^ 31 + r * 2 ^ 28 + b * 2 ^ 24 + j
      let free := s.rget Reg.SLATH_CELLS_FREE b
      (∀ k, s.loanFree b = some k → 8 ≤ free → ∃ t, exec (.attNew m c b) s = .next t ∧ st t 0 k ∧ t.rget Reg.SLATH_CELLS_FREE b = free - 8 ∧
        (∃ l : Loan, (t.crl b).loans = sins (s.crl b).loans k l ∧ l.owner = m.id ∧ l.kind = 3 ∧ l.data.length = 2048) ∧
        OnlyChanges [.fresh, .regs, .banks, .creel] s t) ∧
      (s.loanFree b = none ∨ free < 8 → ∃ t, exec (.attNew m c b) s = .next t ∧ st t 1 0 ∧ OnlyChanges [.banks] s t) ∧
      (s.loanOwner b i = none → ∃ t, exec (.attReturn m c b i) s = .next t ∧ st t 3 i ∧ OnlyChanges [.banks] s t) ∧
      (s.loanOwner b i = some m.id → ∃ t, exec (.attReturn m c b i) s = .next t ∧ st t 0 i ∧ (t.crl b).loans = sdel (s.crl b).loans i) ∧
      (∀ o, s.loanOwner b i = some o → o ≠ m.id → ∃ t, exec (.attReturn m c b i) s = .next t ∧ st t 2 i ∧ t.creel = s.creel ∧
        t.pget Reg.SLATH_BASKET_CNT b [13] = (s.pget Reg.SLATH_BASKET_CNT b [13] + 1) % 2 ^ 64 ∧ OnlyChanges [.regs, .banks, .vecs] s t)))

/-- In every canonical state, for complex x: tests pass to STANDBY or declare a fault; a start condition leads to BOOTING with an empty receive list; PROMOTE of
a BOOTING one to ACTIVE; a FAULTED one restarts by RESTART, or after a second with AUTO_RESTART; KICK restarts the watchdog and START is remembered
in STANDBY. Each state has its claim number and raises STATE_x. A bad image copy, the boot time-out, lockstep, an uncorrectable error, the watchdog,
FAULT and FORCE_FAULT each declare the fault with its own cause, the time, the event and the count, and leave the claim at 0. Out of the
states and times of their conditions they change nothing. -/
def Obligations.ComplexStates : Prop := ∀ (s : State) (x : Nat), s.Canonical → x < 2 →
  let st := s.cstate x
  let c := s.cx x
  let cnt (t : State) (i : Nat) : Prop := t.pget Reg.CC_CNT 0 [x, i] = (s.pget Reg.CC_CNT 0 [x, i] + 1) % 2 ^ 64
  let entered (t : State) (n : Nat) : Prop := t.cstate x = n ∧ t.rget Reg.CC_CLAIM 0 [x] = claimOf n ∧ t.evStatus (1129 + 5 * x) = true ∧
    (t.cx x).since = s.now ∧ (∀ y, y < 2 → y ≠ x → t.cstate y = s.cstate y ∧ t.cx y = s.cx y)
  let faulted (t : State) (cause : Nat) : Prop := entered t 5 ∧ t.rget Reg.CC_CAUSE 0 [x] = cause ∧ t.pget Reg.CC_FAULT_TIME 0 [x] = s.short ∧
    t.evStatus (1128 + 5 * x) = true ∧ cnt t 0 ∧ t.cx x = { c with since := s.now, startMem := false, restartOffered := false, testing := false, imageChecked := false }
  let does (cmd : Instr) (p : State → Prop) : Prop := ∃ t, exec cmd s = .next t ∧ p t
  let ok (m : Master) (o v : Nat) : Prop := hasBar0 m = true ∧ s.boot.porst = false ∧
    s.writeCause m.id (bankOf m) ⟨14, cplxOff x o, false⟩ 0 none v 0xFFFFFFFF = 0
  (∀ pass item, (st = 1 ∨ (st = 2 ∧ c.testing = true) →
      (pass = true → does (.selftestDone x pass item) (fun t => t.cstate x = 2 ∧ t.rget Reg.CC_PASS 0 [x] = 1 ∧ cnt t 5 ∧ (st = 1 → entered t 2))) ∧
      (pass = false → does (.selftestDone x pass item) (fun t => faulted t 6 ∧ t.rget Reg.CC_PASS 0 [x] = 0 ∧
        t.rget Reg.CC_FAIL_ITEM 0 [x] = item % 32 ∧ cnt t 6))) ∧
    (st ≠ 1 → st ≠ 2 ∨ c.testing = false → exec (.selftestDone x pass item) s = .next s)) ∧
  (st = 2 → c.testing = false → (c.since + 60000 * 1600000 ≤ s.now → does (.selftestPeriodic x) (fun t => t.cx x = { c with testing := true, since := s.now } ∧
      OnlyChanges [.cplx] s t)) ∧ (s.now < c.since + 60000 * 1600000 → exec (.selftestPeriodic x) s = .next s)) ∧
  (s.startOk x = true → (x = 1 → s.startOk 0 = false) → does (.complexStart x) (fun t => entered t 3 ∧
    t.cx x = { c with since := s.now, startMem := false, testing := false, imageChecked := false, restored := false, receive := [] })) ∧
  (s.startOk x = false → exec (.complexStart x) s = .next s) ∧
  (st = 3 → c.imageChecked = false → does (.imageCopyCheck x true) (fun t => t.cx x = { c with imageChecked := true } ∧ OnlyChanges [.cplx] s t) ∧
    does (.imageCopyCheck x false) (fun t => faulted t 8)) ∧
  (∀ m, (ok m 8 4 → st = 3 → does (.promote m x) (fun t => entered t 4 ∧ (t.cx x).kickAt = s.now ∧ (t.cx x).lastCommit = s.now ∧ cnt t 7)) ∧
    (ok m 8 1 → st = 4 → does (.kick m x) (fun t => t.cx x = { c with kickAt := s.now } ∧ t.cstate x = 4)) ∧
    (ok m 8 2 → st = 3 ∨ st = 4 → does (.selfFault m x) (fun t => faulted t 4)) ∧
    (ok m 4 1 → 1 ≤ st → st ≤ 4 → does (.forceFault m x) (fun t => faulted t 5)) ∧
    (ok m 4 2 → st = 5 → does (.restart m x) (fun t => entered t 1)) ∧
    (ok m 4 4 → st = 2 → does (.start m x) (fun t => t.cx x = { c with startMem := true } ∧ t.cstate x = 2))) ∧
  (st = 3 → (c.since + 199 * 1600000 ≤ s.now → does (.bootTimeout x) (fun t => faulted t 7)) ∧
    (s.now < c.since + 199 * 1600000 → exec (.bootTimeout x) s = .next s)) ∧
  (st = 3 ∨ st = 4 → does (.lockstep x) (fun t => faulted t 1 ∧ cnt t 1) ∧ does (.complexEcc x false) (fun t => faulted t 2 ∧ cnt t 2)) ∧
  (st ≠ 3 → st ≠ 4 → exec (.lockstep x) s = .next s ∧ exec (.complexEcc x false) s = .next s ∧ exec (.watchdog x) s = .next s) ∧
  (st ≠ 0 → does (.complexEcc x true) (fun t => cnt t 3 ∧ t.evStatus (1132 + 5 * x) = true ∧ OnlyChanges [.regs, .vecs] s t)) ∧
  (let due := c.kickAt + s.rget Reg.CC_WDOG_MS 0 [x] * 1600000
   st = 4 → (due ≤ s.now → does (.watchdog x) (fun t => faulted t 3 ∧ cnt t 4)) ∧ (s.now < due → exec (.watchdog x) s = .next s)) ∧
  (st = 5 → c.restartOffered = false → c.since + 1000 * 1600000 ≤ s.now →
    (s.rget Reg.CC_AUTO_RESTART = 1 → does (.autoRestart x) (fun t => entered t 1)) ∧
    (s.rget Reg.CC_AUTO_RESTART = 0 → does (.autoRestart x) (fun t => t.cx x = { c with restartOffered := true } ∧ t.cstate x = 5))) ∧
  (st ≠ 5 → exec (.autoRestart x) s = .next s)

/-- In every canonical state: an accepted GO takes the staged pages with the next sequence and their CRC-32C and sets BUSY; the checkpoint becomes the
retained copy, shown by CKPT_SEQ and counted; then its bytes stand in the slot of its sequence's parity in LP4X and no other byte changes, or,
LP4X not ready, the write is skipped and counted; BUSY clears. 30 ms without a commit raise CKPT_STALE once. A BOOTING complex restores the
retained copy if its CRC checks, else a good LP4X copy, else none. A load of the image from PF0 starts by IMG_CTL and ends VERIFIED with its bytes
and version, or FAILED. -/
def Obligations.CheckpointsAndImages : Prop := ∀ (s : State), s.Canonical →
  let x := s.store
  let does (cmd : Instr) (p : State → Prop) : Prop := ∃ t, exec cmd s = .next t ∧ p t
  let ok (m : Master) (off v : Nat) : Prop := hasBar0 m = true ∧ s.boot.porst = false ∧
    s.writeCause m.id (bankOf m) ⟨14, off, false⟩ 0 none (v % 2 ^ 32) 0xFFFFFFFF = 0
  let cnt (t : State) (i : Nat) : Prop := t.pget Reg.CC_CKPT_CNT 0 [i] = (s.pget Reg.CC_CKPT_CNT 0 [i] + 1) % 2 ^ 64
  (∀ m len data, ok m 0x14 (2 ^ 31 + len % 128) → does (.ckptGo m len data) (fun t => t.rget Reg.CC_BUSY = 1 ∧ t.mem = s.mem ∧
    let d := slice data 0 (4096 * (len % 128))
    t.store = { x with pendingCkpt := some ⟨(s.rget Reg.CC_CKPT_SEQ + 1) % 2 ^ 32, crc32c d, d⟩, ckptPhase := 1 })) ∧
  (∀ c, x.ckptPhase = 1 → x.pendingCkpt = some c → does .ckptRetained (fun t => t.rget Reg.CC_CKPT_SEQ = c.seq % 2 ^ 32 ∧ cnt t 0 ∧
    t.store = { x with retained := some c, ckptPhase := 2, staleRaised := false } ∧ (∀ k, k < 2 → s.cstate k = 4 → (t.cx k).lastCommit = s.now) ∧
    OnlyChanges [.regs, .cplx, .store] s t)) ∧
  (x.ckptPhase ≠ 1 → exec .ckptRetained s = .next s) ∧ (x.ckptPhase ≠ 2 → exec .ckptLp4xDone s = .next s) ∧
  (∀ c, x.ckptPhase = 2 → x.pendingCkpt = some c →
    (s.lp4xReady = true → does .ckptLp4xDone (fun t => t.rget Reg.CC_BUSY = 0 ∧ t.rget Reg.CC_LP4X_SEQ = c.seq % 2 ^ 32 ∧
      t.store = { x with pendingCkpt := none, ckptPhase := 0, slots := sins x.slots (c.seq % 2) (c.seq, c.crc, c.data.length) } ∧
      t.mread (lp4xKey (s.ckptSlot (c.seq % 2))) c.data.length = c.data ∧ OnlyBytes (lp4xKey (s.ckptSlot (c.seq % 2))) c.data.length s t)) ∧
    (s.lp4xReady = false → does .ckptLp4xDone (fun t => t.rget Reg.CC_BUSY = 0 ∧ cnt t 1 ∧ t.store = { x with pendingCkpt := none, ckptPhase := 0 } ∧
      OnlyChanges [.regs, .store] s t))) ∧
  (let stale : Prop := ∃ k, k < 2 ∧ s.cstate k = 4 ∧ (s.cx k).lastCommit + 30 * 1600000 ≤ s.now
   (x.staleRaised = false → stale → does .ckptStale (fun t => t.evStatus 1138 = true ∧ t.store = { x with staleRaised := true } ∧
     OnlyChanges [.regs, .store, .vecs] s t)) ∧ (x.staleRaised = true ∨ ¬ stale → exec .ckptStale s = .next s)) ∧
  (∀ k ecc, k < 2 → s.cstate k = 3 → (s.cx k).restored = false →
    let good : Prop := ∃ c, x.retained = some c ∧ crc32c c.data = c.crc
    (∀ c, x.retained = some c → crc32c c.data = c.crc → does (.checkpointRestore k ecc) (fun t => t.rget Reg.CC_SRC = 1 ∧
      t.rget Reg.CC_RESTORE_SEQ = c.seq % 2 ^ 32 ∧ (t.cx k).restored = true ∧ OnlyChanges [.regs, .cplx] s t)) ∧
    (∀ j q c n, ¬ good → s.bestSlot = some (j, q, c, n) → s.lp4xReady = true → ecc = false → crc32c (s.mread (lp4xKey (s.ckptSlot j)) n) = c →
      does (.checkpointRestore k ecc) (fun t => t.rget Reg.CC_SRC = 2 ∧ t.rget Reg.CC_RESTORE_SEQ = q % 2 ^ 32 ∧ (t.cx k).restored = true)) ∧
    (¬ good → (s.bestSlot = none ∨ s.lp4xReady = false) → does (.checkpointRestore k ecc) (fun t => t.rget Reg.CC_SRC = 0 ∧
      t.rget Reg.CC_RESTORE_SEQ = 0 ∧ (t.cx k).restored = true ∧ OnlyChanges [.regs, .cplx] s t)) ∧
    (∀ b, ¬ good → s.bestSlot = some b → s.lp4xReady = true → ecc = true → does (.checkpointRestore k ecc) (fun t => t.rget Reg.CC_SRC = 0 ∧
      t.evStatus (1106 + 3 * (s.ckptSlot b.1 / 256 % s.lp4xWays)) = true))) ∧
  (∀ k ecc, s.cstate k ≠ 3 → exec (.checkpointRestore k ecc) s = .next s) ∧
  (∀ m pages, ok m 0x38 (2 ^ 31 + pages % 2048) → does (.imgGo m pages) (fun t => t.rget Reg.CC_STATE_3C = 1 ∧ t.rget Reg.GLOBAL_FW_SRC = 2 ∧
    t.store = { x with loadPages := pages % 2048, loadSrc := 2 } ∧ t.mem = s.mem)) ∧
  (∀ bus good (v : Word), (x.loadSrc ≠ 2 → exec (.imageLoadDone bus good v) s = .next s) ∧
    (x.loadSrc = 2 → (bus = false ∨ s.mayIssue 0 = false) → does (.imageLoadDone bus good v) (fun t => t.rget Reg.CC_STATE_3C = 3 ∧
      t.store = { x with loadPages := 0, loadSrc := 0 })) ∧
    (x.loadSrc = 2 → bus = true → s.mayIssue 0 = true → does (.imageLoadDone bus good v) (fun t =>
      t.rget Reg.CC_STATE_3C = (if good then 2 else 3) ∧ (good = true → t.rget Reg.CC_IMG_VERSION = v.toNat) ∧
      t.store = { x with image := s.mread (hostKey 0 (s.pget Reg.CC_IMG_ADDR)) (4096 * x.loadPages), loadPages := 0, loadSrc := 0 })))

/-- In every canonical state: TAP_UP of a powered cartouche sets LINK_UP, READY_MAP bit 52 and CART_UP; TAP_DOWN clears them, raises CART_DOWN, and every
coalescer discards, counted; with the link up and ready, the oldest entry of a pipe that is 100 µs old is sent with the pipe's bins, counted; with the
line low nothing is sent. A processed send adds its frames and bytes to the row of its tenant, or of the device meters where none matches or
it has no port, and a NOT_CARRIED one its frames to UNCARRIED. VDD_CART_LOSS loses meters, sends, session and tag and takes the link down;
VDD_CART_RISE restores time and meters from the newest records and marks the next ones. -/
def Obligations.TapAndMeters : Prop := ∀ (s : State), s.Canonical →
  let c := s.cart
  let held (t : State) : Nat := ((List.range 8).map (fun n => (t.tap n).held)).sum
  let down (t : State) : Prop := t.tapUp = false ∧ t.ready 52 = false ∧ t.evStatus 1148 = true ∧ (∀ n, n < 8 → (t.tap n).held = 0) ∧
    t.pget Reg.TAP_TAP_DISCARD = (s.pget Reg.TAP_TAP_DISCARD + held s) % 2 ^ 64 ∧ (held s ≠ 0 → t.evStatus 1151 = true)
  let add (m : Sparse Nat) (k n w : Nat) : Sparse Nat := sset (fun _ => 0) m k ((sget (fun _ => 0) m k + n) % 2 ^ w)
  (c.power = true → s.tapUp = false → s.boot.porst = false → ∃ t, exec .tapUp s = .next t ∧ t.tapUp = true ∧ t.ready 52 = true ∧
    t.evStatus 1149 = true ∧ t.cart = { c with ready := true } ∧ OnlyChanges [.regs, .vecs, .cart] s t) ∧
  (c.power = false → exec .tapUp s = .next s) ∧
  (s.tapUp = true → ∃ t, exec .tapDown s = .next t ∧ down t ∧ t.cart = { c with ready := false, gap := true } ∧
    OnlyChanges [.regs, .vecs, .taps, .cart] s t) ∧
  (s.tapUp = false → exec .tapDown s = .next s) ∧
  (∀ n e, n < 8 → (s.tap n).entries.find? (fun e => decide (e.born + 100 * us ≤ s.now)) = some e →
    (s.tapUp = true → c.power = true → ∃ t, exec (.coalescerSend n true) s = .next t ∧ OnlyChanges [.regs, .taps, .cart] s t ∧
      (let bins := (s.tap n).bins.map (fun b => (⟨none, b.1 / 2, b.1 % 2 == 1, b.2.1, b.2.2⟩ : Send))
       t.cart = { c with ready := true, sends := c.sends ++ ⟨some e.key, e.key.dir, e.key.carried, e.frames, e.bytes⟩ :: bins } ∧
       t.pget Reg.TAP_TAP_SENDS = (s.pget Reg.TAP_TAP_SENDS + 1 + bins.length) % 2 ^ 64) ∧
      t.tap n = ⟨(s.tap n).entries.filter (fun x => x.key != e.key), []⟩ ∧ ∀ k, k ≠ n → t.tap k = s.tap k) ∧
    exec (.coalescerSend n false) s = .next { s with cart := { c with ready := false } }) ∧
  (∀ x r, c.sends = x :: r → c.power = true → ∃ t, exec .cartSendProcess s = .next t ∧ OnlyChanges [.cart] s t ∧
    let who : Nat × Nat := match x.key with
      | none => (16, 8 * x.dir)
      | some k => match c.gen.tenantOf k with
        | some n => (n, 8 * k.dir + k.cls)
        | none => (16, 8 * k.dir + 1)
    t.cart = if x.carried then { c with sends := r, bytes := add c.bytes (16 * who.1 + who.2) x.bytes 80, frames := add c.frames (16 * who.1 + who.2) x.frames 64 }
      else { c with sends := r, uncarried := add c.uncarried (2 * who.1 + x.dir) x.frames 64 }) ∧
  (c.sends = [] → exec .cartSendProcess s = .next s) ∧
  (c.power = true → ∃ t, exec .vddCartLoss s = .next t ∧ (s.tapUp = true → down t) ∧ OnlyChanges [.regs, .vecs, .taps, .cart] s t ∧
    t.cart = { c with power := false, ready := false, gap := c.gap || s.tapUp, sends := [], bytes := [], frames := [], uncarried := [], session := none, hostTag := 0, reply := [] }) ∧
  (c.power = false → exec .vddCartLoss s = .next s) ∧ (c.power = true → exec .vddCartRise s = .next s) ∧
  (c.power = false → c.bytes = [] → c.frames = [] → c.uncarried = [] → ∃ t, exec .vddCartRise s = .next t ∧
    OnlyChanges [.regs, .banks, .vecs, .mbx, .cart] s t ∧
    (let last := (c.seq + 2 ^ 32 - 1) % 2 ^ 32
     let e := if c.records = [] then 0 else beNat (slice (sget (fun _ => []) c.records (last % 1024)) 24 6)
     t.cart = { c with power := true, opTime := e, lastEnd := e, start := true, lossFor := 2 ^ 17 - 1, gap := true, paramNew := false, bytes := t.cart.bytes, frames := t.cart.frames, uncarried := t.cart.uncarried } ∧
     ∀ n, n < 17 → (c.newest n c.records.length last = none → (∀ r, r < 16 → sget (fun _ => 0) t.cart.bytes (16 * n + r) = 0 ∧ sget (fun _ => 0) t.cart.frames (16 * n + r) = 0) ∧
         ∀ d, d < 2 → sget (fun _ => 0) t.cart.uncarried (2 * n + d) = 0) ∧
       ∀ b, c.newest n c.records.length last = some b → (∀ r, r < 16 → sget (fun _ => 0) t.cart.bytes (16 * n + r) = beNat (slice b (40 + 18 * r) 10) ∧
         sget (fun _ => 0) t.cart.frames (16 * n + r) = beNat (slice b (50 + 18 * r) 8)) ∧
         ∀ d, d < 2 → sget (fun _ => 0) t.cart.uncarried (2 * n + d) = beNat (slice b (328 + 8 * d) 8)))

/-- With the cartouche powered, a METER frame of each reading command with a good CRC, the right LEN and a CHUNK within its result changes the cartouche's
reply alone, and is answered with STATUS OK, bytes 60 × CHUNK onward of the result that R444 and R445 lay out, and a CRC (NOT_FOUND for a record that
is overwritten or not yet written and for a generation not committed); TIME_TAG keeps its tag for the next records; IDENT also takes the
operating time and the pin's level. Another LEN, or a CHUNK past the end, answers FORMAT and changes nothing else; a bad CRC is discarded.
On channel 63 the message is read first and the reply posted to side B. Without supply nothing happens. -/
def Obligations.CartoucheReads : Prop := ∀ (s : State) (ch : Nat), ch < 256 →
  let c := s.cart
  let ask (cmd : Nat) (p : List Byte) : CartReq :=
    let d := [BitVec.ofNat 8 cmd, 0#8, BitVec.ofNat 8 ch, BitVec.ofNat 8 p.length] ++ p
    .meter (d ++ beBytes 2 (crc16 d))
  let answers (cmd st : Nat) (result : List Byte) (x : CartX) : State :=
    let part := (result.drop (60 * ch)).take 60
    let d := [BitVec.ofNat 8 cmd, BitVec.ofNat 8 st, BitVec.ofNat 8 ch, BitVec.ofNat 8 part.length] ++ part
    { s with cart := { x with reply := d ++ beBytes 2 (crc16 d) } }
  (c.power = true →
    (∀ op high, let x := { c with opTime := max c.opTime (op % 2 ^ 48), prog := high, session := if high then c.session else none }
      let flags := b2n high + 2 * b2n x.session.isSome + 4 * b2n c.key.isSome
      let kcv := match c.key with | some k => beBytes 4 (beNat ((hmac256 k (List.replicate 32 0#8)).take 4)) | none => [0#8, 0#8, 0#8, 0#8]
      let none32 := [0xFF#8, 0xFF#8, 0xFF#8, 0xFF#8]
      let n := c.records.length
      exec (.ident (ask 1 []) op high) s = .next (if ch = 0 then answers 1 0 (beBytes 8 Config.meterId ++ beBytes 4 Config.romId ++ [BitVec.ofNat 8 c.gens.length, BitVec.ofNat 8 flags, 0#8, 0#8] ++
        beBytes 4 c.audit ++ kcv ++ (if n = 0 then none32 else beBytes 4 ((c.seq + 2 ^ 32 - n) % 2 ^ 32)) ++ (if n = 0 then none32 else beBytes 4 ((c.seq + 2 ^ 32 - 1) % 2 ^ 32)) ++
        beBytes 6 x.opTime ++ [0#8, 0#8]) x else answers 1 3 [] x)) ∧
    (∀ q, q < 2 ^ 32 → let back := (c.seq + 2 ^ 32 - q) % 2 ^ 32
      exec (.readRecord (ask 2 (beBytes 4 q))) s = .next (if 7 ≤ ch then answers 2 3 [] c
        else if 1 ≤ back ∧ back ≤ c.records.length then answers 2 0 (sget (fun _ => []) c.records (q % 1024)) c else answers 2 1 [] c)) ∧
    (∀ n, n < 256 → exec (.readMeters (ask 3 [BitVec.ofNat 8 n])) s = .next (if 16 < n ∨ 6 ≤ ch then answers 3 3 [] c else
      answers 3 0 ((List.range 16).flatMap (fun r => beBytes 10 (sget (fun _ => 0) c.bytes (16 * n + r)) ++ beBytes 8 (sget (fun _ => 0) c.frames (16 * n + r))) ++
        beBytes 8 (sget (fun _ => 0) c.uncarried (2 * n)) ++ beBytes 8 (sget (fun _ => 0) c.uncarried (2 * n + 1))) c)) ∧
    (∀ v, v < 2 ^ 64 → exec (.timeTag (ask 4 (beBytes 8 v))) s = .next (if ch = 0 then answers 4 0 [] { c with hostTag := v } else answers 4 3 [] c)) ∧
    (∀ gen first, gen < 256 → first < 4096 → let n := min 12 (4096 - first)
      let g := if gen = 0 then ({} : Gen) else c.gens.getD (gen - 1) {}
      exec (.readParams (ask 5 ([BitVec.ofNat 8 gen, 0#8] ++ beBytes 2 first))) s = .next (if 12 + 4 * n ≤ 60 * ch then answers 5 3 [] c
        else if c.gens.length < gen then answers 5 1 [] c
        else answers 5 0 (beBytes 1 g.meterIf ++ beBytes 1 g.interval ++ beBytes 2 g.tenantEn ++ beBytes 6 g.origin ++ beBytes 2 first ++
          (List.range n).flatMap (fun i => beBytes 4 (sget (fun _ => 0) g.map (first + i)))) c)) ∧
    (∀ p, p.length < 256 → (p.length ≠ 4 → exec (.readRecord (ask 2 p)) s = .next (answers 2 3 [] c) ∧ exec (.readParams (ask 5 p)) s = .next (answers 5 3 [] c)) ∧
      (p.length ≠ 1 → exec (.readMeters (ask 3 p)) s = .next (answers 3 3 [] c)) ∧ (p.length ≠ 8 → exec (.timeTag (ask 4 p)) s = .next (answers 4 3 [] c))) ∧
    (∀ f, 2 ≤ f.length → crc16 (f.take (f.length - 2)) ≠ beNat (f.drop (f.length - 2)) → exec (.readRecord (.meter f)) s = .next s ∧
      exec (.readMeters (.meter f)) s = .next s ∧ exec (.timeTag (.meter f)) s = .next s ∧ exec (.readParams (.meter f)) s = .next s) ∧
    (s.Canonical → ∀ hi lo : Word, let y := (s.chan 63).a
      y.full = true → y.att = none → (s.chan 63).b.full = false →
      sget (fun _ => (0 : Word)) y.slot 0 = 0x04000008#32 → sget (fun _ => (0 : Word)) y.slot 1 = hi → sget (fun _ => (0 : Word)) y.slot 2 = lo →
      ∃ t, exec (.timeTag .mailbox) s = .next t ∧ t.cart = { c with hostTag := hi.toNat * 2 ^ 32 + lo.toNat } ∧ (t.chan 63).a.full = false ∧
        let z := (t.chan 63).b
        z.full = true ∧ z.waits = false ∧ z.sender = 20 ∧ sget (fun _ => (0 : Word)) z.slot 0 = 0x04000000#32 ∧
        (∀ i, 1 ≤ i → i < 16 → sget (fun _ => (0 : Word)) z.slot i = 0) ∧ bit (t.chan 63).a.flags 8 = true ∧ bit (t.chan 63).a.flags 9 = true ∧
        (∀ k, k ≠ 63 → t.chan k = s.chan k) ∧ OnlyChanges [.rdata, .regs, .banks, .vecs, .mbx, .cart] s t)) ∧
  (c.power = false → ∀ r op high, exec (.ident r op high) s = .next s ∧ exec (.readRecord r) s = .next s ∧ exec (.readMeters r) s = .next s ∧
    exec (.timeTag r) s = .next s ∧ exec (.readParams r) s = .next s)

/-- With the cartouche powered: PROG_OPEN is served with CART_PROG high, no session and an audit counter below 256, and raises it; PROG_MAP, PROG_PARAM and
PROG_KEY change the staging image alone; PROG_COMMIT closes the interval, adds the image as a generation with its origin, sets a staged key, raises
the counter and marks the next records; PROG_CLOSE and CART_PROG low end the session. Without a session, with a key set, with 16 generations, or
on channel 63, a command is REFUSED and changes nothing else. An interval that ends appends, for the enabled tenants in order and then the
device, the 352 bytes of R443 and their HMAC under the key, and advances the sequence. -/
def Obligations.CartouchePrograms : Prop := ∀ (s : State), s.cart.power = true →
  let c := s.cart
  let ask (cmd : Nat) (p : List Byte) : CartReq :=
    let d := [BitVec.ofNat 8 cmd, 0#8, 0#8, BitVec.ofNat 8 p.length] ++ p
    .meter (d ++ beBytes 2 (crc16 d))
  let reply (cmd st : Nat) : List Byte := let d := [BitVec.ofNat 8 cmd, BitVec.ofNat 8 st, 0#8, 0#8]; d ++ beBytes 2 (crc16 d)
  let answers (cmd st : Nat) (x : CartX) : State := { s with cart := { x with reply := reply cmd st } }
  let records (x : CartX) (key : List Byte) (e : Nat) : Sparse (List Byte) :=
    ((List.range 16).filter (fun i => bit c.gen.tenantEn i) ++ [16]).zipIdx.foldl (fun m (p : Nat × Nat) =>
      let b := ({ x with seq := (c.seq + p.2) % 2 ^ 32 } : CartX).recordBody p.1 e
      sins m ((c.seq + p.2) % 2 ^ 32 % 1024) (b ++ hmac256 key b)) c.records
  let cleared := ((List.range 16).filter (fun i => bit c.gen.tenantEn i) ++ [16]).foldl (fun l i => setBit l i false) c.lossFor
  let count := ((List.range 16).filter (fun i => bit c.gen.tenantEn i)).length + 1
  let keyOf (k : List Byte) : List Byte := k ++ beBytes 4 (beNat ((hmac256 k (List.replicate 32 0#8)).take 4))
  (∀ x t e, (CartX.recordBody x t e).length = 352) ∧
  (∀ high, let x := { c with prog := high, session := if high then c.session else none }
    exec (.progOpen (ask 0x10 []) high) s = .next (if high = true ∧ c.session = none ∧ c.audit < 256
      then answers 0x10 0 { x with session := some { img := c.gen }, audit := c.audit + 1 } else answers 0x10 2 x)) ∧
  exec .cartProgLow s = .next { s with cart := { c with prog := false, session := none } } ∧
  (c.session = none → (∀ op, exec (.progCommit (ask 0x14 []) op) s = .next (answers 0x14 2 { c with opTime := max c.opTime (op % 2 ^ 48) })) ∧
    exec (.progClose (ask 0x15 [])) s = .next (answers 0x15 2 c) ∧ exec (.progParam (ask 0x12 [0#8, 15#8, 0#8, 0#8])) s = .next (answers 0x12 2 c) ∧
    exec (.progMap (ask 0x11 [0#8, 0#8, 1#8, 0#8, 0#8, 0#8, 0#8, 0#8])) s = .next (answers 0x11 2 c) ∧
    ∀ k, k.length = 32 → exec (.progKey (ask 0x13 (keyOf k))) s = .next (answers 0x13 2 c)) ∧
  (∀ x, c.session = some x →
    (∀ (first : Nat) (es : List Nat), 1 ≤ es.length → es.length ≤ 14 → first + es.length ≤ 4096 → (∀ e ∈ es, e < 2 ^ 32) →
      exec (.progMap (ask 0x11 (beBytes 2 first ++ [BitVec.ofNat 8 es.length, 0#8] ++ es.flatMap (beBytes 4)))) s = .next (
        if es.all (fun e => bits e 4 0 == 0 && decide (bits e 28 21 ≤ 127) && !((bit e 30 || bit e 29) && bits e 20 9 != 0)) = true
        then answers 0x11 0 { c with session := some { x with img := { x.img with map := es.zipIdx.foldl (fun m (p : Nat × Nat) => sset (fun _ => 0) m (first + p.2) p.1) x.img.map } } }
        else answers 0x11 3 c)) ∧
    (∀ mif int en, mif < 256 → int < 256 → en < 65536 → exec (.progParam (ask 0x12 ([BitVec.ofNat 8 mif, BitVec.ofNat 8 int] ++ beBytes 2 en))) s = .next (
      if mif ≤ 1 ∧ 1 ≤ int ∧ int ≤ 60 then answers 0x12 0 { c with session := some { x with img := { x.img with meterIf := mif, interval := int, tenantEn := en } } }
      else answers 0x12 3 c)) ∧
    (∀ k, k.length = 32 → exec (.progKey (ask 0x13 (keyOf k))) s = .next (
      if c.key = none ∧ x.key = none then answers 0x13 0 { c with session := some { x with key := some k } } else answers 0x13 2 c)) ∧
    exec (.progClose (ask 0x15 [])) s = .next (answers 0x15 0 { c with session := none }) ∧
    (∀ op, let now := max c.opTime (op % 2 ^ 48)
      (16 ≤ c.gens.length → exec (.progCommit (ask 0x14 []) op) s = .next (answers 0x14 2 { c with opTime := now })) ∧
      (c.gens.length < 16 → ∀ k, c.key = some k → exec (.progCommit (ask 0x14 []) op) s = .next (answers 0x14 0 { c with opTime := now, gens := c.gens ++ [{ x.img with origin := now }], key := if x.key.isSome then x.key else c.key, audit := min 256 (c.audit + 1), paramNew := true, session := some { x with key := none }, records := records c k now, seq := (c.seq + count) % 2 ^ 32, lossFor := cleared, start := false, gap := !s.tapUp, lastEnd := now })) ∧
      (c.gens.length < 16 → c.key = none → ∃ t, exec (.progCommit (ask 0x14 []) op) s = .next t ∧ t.cart.gens = c.gens ++ [{ x.img with origin := now }] ∧
        t.cart.key = x.key ∧ t.cart.audit = min 256 (c.audit + 1) ∧ t.cart.seq = (c.seq + count) % 2 ^ 32 ∧ t.cart.reply = reply 0x14 0 ∧ OnlyChanges [.fresh, .cart] s t))) ∧
  (∀ op, let x := { c with opTime := max c.opTime (op % 2 ^ 48) }
    (∀ k, c.key = some k → x.nextEnd ≤ x.opTime → exec (.intervalEnd op) s = .next { s with cart := { x with records := records c k x.nextEnd, seq := (c.seq + count) % 2 ^ 32, lossFor := cleared, start := false, gap := !s.tapUp, paramNew := false, lastEnd := x.nextEnd } }) ∧
    (x.opTime < x.nextEnd → exec (.intervalEnd op) s = .next { s with cart := x }) ∧
    (c.key = none → x.nextEnd ≤ x.opTime → ∃ t, exec (.intervalEnd op) s = .next t ∧ OnlyChanges [.fresh, .cart] s t ∧ t.fresh = s.fresh + 4 * count ∧
      t.cart = { x with records := t.cart.records, seq := (c.seq + count) % 2 ^ 32, lossFor := cleared, start := false, gap := !s.tapUp, paramNew := false, lastEnd := x.nextEnd })) ∧
  (s.Canonical → ∀ cmd : Nat × Instr, cmd ∈ [(0x10, .progOpen .mailbox c.prog), (0x14, .progCommit .mailbox c.opTime), (0x15, .progClose .mailbox)] →
    let y := (s.chan 63).a
    y.full = true → y.att = none → (s.chan 63).b.full = false → sget (fun _ => (0 : Word)) y.slot 0 = BitVec.ofNat 32 (cmd.1 * 2 ^ 24) →
    (c.prog = false → c.session = none) →
    ∃ t, exec cmd.2 s = .next t ∧ t.cart = c ∧ (t.chan 63).a.full = false ∧ (t.chan 63).b.full = true ∧
      sget (fun _ => (0 : Word)) (t.chan 63).b.slot 0 = BitVec.ofNat 32 (cmd.1 * 2 ^ 24 + 2 * 2 ^ 16))

/-- In every canonical state out of PORST_N: a loss of reference A or B makes it not OK, with its event if it was OK; if the locked PLL used it,
the PLL switches to the other where SEL allows it and it is OK, counted with REF_SWITCH, else it enters holdover, counted with HOLDOVER; the use of
the other one does not change. A window beyond PPM_TH is a loss. A good window counts; the tenth in a row makes the reference OK, with its
event, ends a holdover that it can end, and with REVERTIVE brings the PLL back to the strap reference. PLL_UNLOCK clears PLL_LOCKED and bit 45
with its event. Nothing else changes. -/
def Obligations.ReferenceClocks : Prop := ∀ (s : State) (i : Nat), s.Canonical → s.boot.porst = false → i < 2 →
  let r := i + 1
  let o := 3 - r
  let sel := s.rget Reg.CLOCKS_SEL
  let use := s.boot.lockRef
  let locked : Prop := s.rget Reg.CLOCKS_PLL_LOCKED = 1
  let quiet : Prop := s.rget Reg.CLOCKS_HOLDOVER = 0
  let shows (t : State) (x : Nat) : Prop := t.rget Reg.CLOCKS_IN_USE = x ∧ t.rget Reg.GLOBAL_REF_IN_USE = x
  let frame (t : State) : Prop := OnlyChanges [.regs, .boot, .vecs] s t ∧ t.refOk o = s.refOk o ∧ t.refGone o = s.refGone o
  let one (row : Row) (t : State) : Prop := t.rget row = min (s.rget row + 1) 0xFFFFFFFF
  (∃ t, exec (.refLost i) s = .next t ∧ frame t ∧ t.refOk r = false ∧ t.refGone r = true ∧ (s.refOk r = true → t.evStatus (1139 + r) = true) ∧
    (locked → quiet → use = r → (sel = 0 ∨ sel = o) → s.refOk o = true → t.boot.lockRef = o ∧ shows t o ∧ t.rget Reg.CLOCKS_HOLDOVER = 0 ∧
      one Reg.CLOCKS_REF_SWITCHES t ∧ t.evStatus 1142 = true) ∧
    (locked → quiet → use = r → (¬ (sel = 0 ∨ sel = o) ∨ s.refOk o = false) → t.boot.lockRef = use ∧ shows t 0 ∧ t.rget Reg.CLOCKS_HOLDOVER = 1 ∧
      one Reg.CLOCKS_HOLDOVERS t ∧ t.evStatus 1143 = true) ∧
    (locked → quiet → use = o → (sel = 0 ∨ sel = o) → s.refGone o = false → t.boot.lockRef = o ∧ t.rget Reg.CLOCKS_HOLDOVER = 0 ∧
      t.rget Reg.CLOCKS_IN_USE = s.rget Reg.CLOCKS_IN_USE)) ∧
  (∀ ppm, s.rget Reg.CLOCKS_PPM_TH < ppm → exec (.refFreqWindow i ppm) s = exec (.refLost i) s) ∧
  (∀ ppm, ppm ≤ s.rget Reg.CLOCKS_PPM_TH → let n := (if i = 0 then s.boot.winA else s.boot.winB) + 1
    (n < 10 → exec (.refFreqWindow i ppm) s = .next { s with boot := if i = 0 then { s.boot with winA := n } else { s.boot with winB := n } }) ∧
    (10 ≤ n → ∃ t, exec (.refFreqWindow i ppm) s = .next t ∧ frame t ∧ t.refOk r = true ∧ t.refGone r = false ∧
      (s.refOk r = false → t.evStatus (1139 + r) = true) ∧
      (locked → s.rget Reg.CLOCKS_HOLDOVER = 1 → (use = r ∨ use = o) → (sel = 0 ∨ sel = r) → s.refOk o = false → t.rget Reg.CLOCKS_HOLDOVER = 0 ∧
        t.boot.lockRef = r ∧ shows t r ∧ t.evStatus 1143 = true) ∧
      (locked → quiet → use = o → sel = 0 → s.rget Reg.CLOCKS_REVERTIVE = 1 → s.strapped = r → t.boot.lockRef = r ∧ shows t r ∧
        one Reg.CLOCKS_REF_SWITCHES t ∧ t.evStatus 1142 = true))) ∧
  (locked → ∃ t, exec .pllUnlock s = .next t ∧ t.rget Reg.CLOCKS_PLL_LOCKED = 0 ∧ t.ready 45 = false ∧ t.evStatus 1144 = true ∧
    t.boot = { s.boot with pllUnlocked := true } ∧ OnlyChanges [.regs, .boot, .vecs] s t) ∧
  (¬ locked → exec .pllUnlock s = .next s)

/-- In every canonical state: PORST_N asserted puts every part outside the cartouche at its reset value, keeps the host's memory, the meters, records and
parameters of the cartouche, and takes the tap link down; deasserted, it samples the straps and starts the lock sequence from the strap reference.
PERST_N and WARM_RST_N asserted, the tap link idle, reset every function as FUNCTION_LEVEL_RESET of PF0 does (whose own statement says how), and
WARM_RST_N also clears the counters, and no other register, the FIFO of captures and its sequence; tables, queues, power states and host memory
stay. Each deassertion is recorded in LAST_RESET, PERST_N winning within a management cycle. Under PORST_N the other two only change level. -/
def Obligations.ResetPins : Prop := ∀ (s : State), s.Canonical →
  let c := s.cart
  (∀ a b, ∃ t, exec (.porstN true a b) s = .next t ∧
    t = { State.reset with pending := s.pending, now := s.now, fresh := s.fresh, rdata := s.rdata, mem := t.mem, cart := t.cart, boot := { porst := true, perst := s.boot.perst, warm := s.boot.warm } } ∧
    (∀ k, k < 32 * 2 ^ 64 → t.mget k = s.mget k) ∧ t.cart = { c with ready := false, gap := c.gap || s.tapUp, sends := t.cart.sends } ∧
    (s.tapAccepts = false → t.cart.sends = c.sends)) ∧
  (∀ spi ref, (s.boot.porst = false → exec (.porstN false spi ref) s = .next s) ∧
    (s.boot.porst = true → ∃ t, exec (.porstN false spi ref) s = .next t ∧ OnlyChanges [.regs, .boot] s t ∧
      t.boot = { s.boot with porst := false, strapSpi := spi, strapRef := ref, attempt := 0, lockRef := if ref then 2 else 1 } ∧
      t.rget Reg.GLOBAL_STATE = 1 ∧ t.rget Reg.GLOBAL_CAUSE_8 = 0 ∧ t.rget Reg.GLOBAL_LAST_RESET = 0 ∧
      t.rget Reg.CLOCKS_STRAP_SPI = b2n spi ∧ t.rget Reg.CLOCKS_STRAP_REF = b2n ref ∧ ∀ k, keyBlk k ≠ 0 → keyBlk k ≠ 1 → t.cell k = s.cell k)) ∧
  (∀ v, (s.boot.porst = true ∨ s.boot.perst = v → exec (.perstN v) s = .next { s with boot := { s.boot with perst := v } }) ∧
    (s.boot.porst = true ∨ s.boot.warm = v → exec (.warmRstN v) s = .next { s with boot := { s.boot with warm := v } })) ∧
  (s.boot.porst = false → s.boot.perst = false → ∃ t, exec (.perstN true) s = .next t ∧ t.boot.perst = true ∧ t.boot.vfe = false ∧
    OnlyChanges [.regs, .banks, .threads, .rings, .boot, .vecs, .legend, .mbx, .msix, .taps, .cart] s t ∧
    (s.tapAccepts = false → exec (.functionLevelReset 0 0) { s with boot := { s.boot with perst := true } } = .next t) ∧
    (s.tapAccepts = true → ∀ n, n < 8 → (t.tap n).entries = [])) ∧
  (s.boot.porst = false → s.boot.perst = true → ∃ t, exec (.perstN false) s = .next t ∧ t.rget Reg.GLOBAL_LAST_RESET = 1 ∧
    t.boot = { s.boot with perst := false, perstCycle := some (s.now / 4) } ∧ OnlyRegs [rowKey Reg.GLOBAL_LAST_RESET] s t ∧ OnlyChanges [.regs, .boot] s t) ∧
  (s.boot.porst = false → s.boot.warm = false → s.tapAccepts = false → ∃ t u, exec (.warmRstN true) s = .next t ∧
    exec (.functionLevelReset 0 0) { s with boot := { s.boot with warm := true } } = .next u ∧
    (∀ k, k ≠ rowKey Reg.MERID_TS_LEVEL → t.cell k = if warmClears (keyBlk k) (keyOff k) = true then regReset k else u.cell k) ∧
    (∀ n, t.pget Reg.HOST_CNT 0 [n % 8] = 0) ∧ t.rget Reg.MERID_TS_LEVEL = 0 ∧ t.ruleCnt = [] ∧ t.mer = { u.mer with fifo := [], capSeq := 0 } ∧
    OnlyChanges [.regs, .ruleCnt, .mer] u t) ∧
  (s.boot.porst = false → s.boot.warm = true →
    (s.boot.perstCycle ≠ some (s.now / 4) → ∃ t, exec (.warmRstN false) s = .next t ∧ t.rget Reg.GLOBAL_LAST_RESET = 2 ∧
      t.boot = { s.boot with warm := false } ∧ OnlyRegs [rowKey Reg.GLOBAL_LAST_RESET] s t ∧ OnlyChanges [.regs, .boot] s t) ∧
    (s.boot.perstCycle = some (s.now / 4) → exec (.warmRstN false) s = .next { s with boot := { s.boot with warm := false } }))

/-- In every canonical state: in PLL_LOCK a lock sets PLL_LOCKED, bit 45, cause FIRST_FAILED at the second attempt, brings PD_PCIE, PD_SEQ and
PD_MERIDIAN on (with STRAP_SPI the complexes' domains too), leaves every other domain, and enters SPI_LOAD or INERT; a first failure turns to the
other reference, a second enters CLOCKLESS with cause 2. In SPI_LOAD a bad identification, header CRC or length ends with cause 5, a wrong MAGIC
with cause 3, both leaving the store as it is; else the store holds the image of LENGTH bytes, FW_SRC reads 1, and it is VERIFIED with its version,
or FAILED with cause 4. STATE is then INERT. In other states nothing changes. -/
def Obligations.BootSequence : Prop := ∀ (s : State), s.Canonical →
  let ons := if s.boot.strapSpi then [42, 43, 41, 39, 40] else [42, 43, 41]
  let st := s.rget Reg.GLOBAL_STATE
  (st = 1 → (∀ d, d ∈ ons → (s.domx d).heldActions = []) → ∃ t, exec (.pllLockAttempt true) s = .next t ∧
    t.rget Reg.GLOBAL_STATE = (if s.boot.strapSpi then 4 else 3) ∧ t.rget Reg.CLOCKS_PLL_LOCKED = 1 ∧ t.ready 45 = true ∧
    (∀ d, d < 44 → t.dom d = if d ∈ ons then 2 else s.dom d) ∧ t.pget Reg.POWER_DELTA_MAP = s.pget Reg.POWER_DELTA_MAP ∧
    (s.boot.attempt = 1 → t.rget Reg.GLOBAL_CAUSE_8 = 1) ∧ (s.boot.attempt ≠ 1 → t.rget Reg.GLOBAL_CAUSE_8 = s.rget Reg.GLOBAL_CAUSE_8) ∧
    (s.rget Reg.CLOCKS_SEL = 0 → s.rget Reg.CLOCKS_REVERTIVE = 0 → s.rget Reg.CLOCKS_HOLDOVER = 0 → s.refGone s.boot.lockRef = false → s.boot.lockRef < 3 →
      t.rget Reg.CLOCKS_IN_USE = s.boot.lockRef ∧ t.rget Reg.GLOBAL_REF_IN_USE = s.boot.lockRef) ∧
    (s.boot.strapSpi = true → ∀ x, x < 2 → s.cstate x = 0 → t.cstate x = 1)) ∧
  (st = 1 → s.boot.attempt = 0 → exec (.pllLockAttempt false) s = .next { s with boot := { s.boot with attempt := 1, lockRef := 3 - s.boot.lockRef } }) ∧
  (st = 1 → s.boot.attempt ≠ 0 → ∃ t, exec (.pllLockAttempt false) s = .next t ∧ t.rget Reg.GLOBAL_STATE = 2 ∧ t.rget Reg.GLOBAL_CAUSE_8 = 2 ∧
    OnlyRegs [rowKey Reg.GLOBAL_STATE] s t ∧ OnlyChanges [.regs] s t) ∧
  (st ≠ 1 → ∀ v, exec (.pllLockAttempt v) s = .next s) ∧ (st ≠ 4 → ∀ f, exec (.spiLoadDone f) s = .next s) ∧
  (∀ f : SpiFlash, st = 4 →
    let len := beNat (slice f.header 4 4)
    let bad : Prop := f.jedec = 0 ∨ f.jedec = 0xFFFFFF ∨ crc32c (slice f.header 0 28) ≠ beNat (slice f.header 28 4) ∨ len % 4096 ≠ 0 ∨ len < 4096 ∨ 4194304 < len
    let alien : Prop := beNat (slice f.header 0 4) ≠ 0x44585646
    (bad ∨ alien → ∃ t, exec (.spiLoadDone f) s = .next t ∧ t.rget Reg.GLOBAL_STATE = 3 ∧ (bad → t.rget Reg.GLOBAL_CAUSE_8 = 5) ∧
      (¬ bad → t.rget Reg.GLOBAL_CAUSE_8 = 3) ∧ t.rget Reg.GLOBAL_FW_SRC = s.rget Reg.GLOBAL_FW_SRC ∧ OnlyRegs [rowKey Reg.GLOBAL_STATE] s t ∧
      OnlyChanges [.regs] s t) ∧
    (¬ bad → ¬ alien → ∃ t, exec (.spiLoadDone f) s = .next t ∧ t.rget Reg.GLOBAL_STATE = 3 ∧ t.rget Reg.GLOBAL_FW_SRC = 1 ∧
      t.store = { s.store with image := slice f.image 0 len, loadPages := 0, loadSrc := 0 } ∧ OnlyChanges [.regs, .vecs, .store] s t ∧
      t.rget Reg.CC_STATE_3C = (if f.good then 2 else 3) ∧ (f.good = true → t.rget Reg.CC_IMG_VERSION = f.version.toNat) ∧
      t.rget Reg.GLOBAL_CAUSE_8 = if f.good then s.rget Reg.GLOBAL_CAUSE_8 else 4))

/-- In every canonical state: a bit that is clear and whose condition holds is set, with READY_CHANGE and its READY_DELTA bit; without the condition nothing
changes. A training attempt that passes makes the controller TRAINED with TRAINED_n, and no host byte changes; one that fails is counted and
repeated up to 3, then FAILED with FAIL_STEP and TRAIN_FAIL_n. An accepted RETRAIN of a FAILED controller starts a new set, and in another state has
no effect. PERIODIC_CAL counts for a TRAINED one alone. A sample is shown in TEMP, TEMP_MAX keeps the highest as signed numbers, THERM_WARN
is raised at WARN_TH once until 2 °C below it, THERM_CRIT at 115 °C once until below 113 °C. -/
def Obligations.ReadinessTrainingTemperature : Prop := ∀ (s : State), s.Canonical → s.boot.porst = false →
  (∀ b, b < 53 → (s.ready b = true ∨ s.readyCond b = false → exec (.readySet b) s = .next s) ∧
    (s.ready b = false → s.readyCond b = true → ∃ t, exec (.readySet b) s = .next t ∧ t.ready b = true ∧ t.evStatus 1145 = true ∧
      bit (t.pget Reg.CLOCKS_READY_DELTA) b = true ∧
      (b ∈ [25, 26, 39, 40, 42, 45, 46, 47, 48, 49, 50, 51, 52] → OnlyChanges [.regs, .vecs] s t ∧ ∀ k, k < 53 → k ≠ b → t.ready k = s.ready k))) ∧
  (∀ n step, n < 8 → s.domOn (31 + n) = true → s.rget Reg.LP4X_STATE n = 1 →
    (∃ t, exec (.trainingDone n true step) s = .next t ∧ t.rget Reg.LP4X_STATE n = 2 ∧ t.evStatus (1104 + 3 * n) = true ∧
      (∀ k, k < lp4xKey 0 → t.mget k = s.mget k) ∧ OnlyChanges [.regs, .mem, .vecs] s t) ∧
    (s.rget Reg.LP4X_ATTEMPTS n < 3 → ∃ t, exec (.trainingDone n false step) s = .next t ∧ t.rget Reg.LP4X_ATTEMPTS n = s.rget Reg.LP4X_ATTEMPTS n + 1 ∧
      t.rget Reg.LP4X_STATE n = 1 ∧ t.pget Reg.LP4X_CNT n [4] = (s.pget Reg.LP4X_CNT n [4] + 1) % 2 ^ 64 ∧ OnlyChanges [.regs] s t) ∧
    (s.rget Reg.LP4X_ATTEMPTS n = 3 → ∃ t, exec (.trainingDone n false step) s = .next t ∧ t.rget Reg.LP4X_STATE n = 3 ∧
      t.rget Reg.LP4X_FAIL_STEP n = step % 16 ∧ t.evStatus (1105 + 3 * n) = true ∧ OnlyChanges [.regs, .vecs] s t)) ∧
  (∀ n pass step, s.rget Reg.LP4X_STATE n ≠ 1 → exec (.trainingDone n pass step) s = .next s) ∧
  (∀ (m : Master) (n : Nat), hasBar0 m = true → s.instOf (bankOf m) 13 0x100 = n → n < 8 →
    s.writeCause m.id (bankOf m) ⟨13, 0x100, false⟩ n none 1 0xFFFFFFFF = 0 → (∀ d, s.govern (bankOf m) 13 0x100 none = some d → s.dom d ≠ 1) →
    ∃ t, exec (.retrain m) s = .next t ∧
    (s.rget Reg.LP4X_STATE n = 3 → t.rget Reg.LP4X_STATE n = 1 ∧ t.rget Reg.LP4X_ATTEMPTS n = 1 ∧ t.rget Reg.LP4X_FAIL_STEP n = 0 ∧
      t.pget Reg.LP4X_CNT n [4] = (s.pget Reg.LP4X_CNT n [4] + 1) % 2 ^ 64) ∧
    (s.rget Reg.LP4X_STATE n ≠ 3 → t.rget Reg.LP4X_STATE n = s.rget Reg.LP4X_STATE n ∧ t.pget Reg.LP4X_CNT n [4] = s.pget Reg.LP4X_CNT n [4]) ∧
    t.mem = s.mem) ∧
  (∀ n, n < 8 → (s.domOn (31 + n) = true → s.rget Reg.LP4X_STATE n = 2 → ∃ t, exec (.periodicCal n) s = .next t ∧
      t.pget Reg.LP4X_CNT n [5] = (s.pget Reg.LP4X_CNT n [5] + 1) % 2 ^ 64 ∧ OnlyRegs [rowKey Reg.LP4X_CNT n [5], rowKey Reg.LP4X_CNT n [5] + 4] s t ∧
      OnlyChanges [.regs] s t) ∧ (s.rget Reg.LP4X_STATE n ≠ 2 → exec (.periodicCal n) s = .next s)) ∧
  (∀ v : Int, -32768 ≤ v → v < 32768 → ∃ t, exec (.tempSample v) s = .next t ∧ signed 16 (t.rget Reg.CLOCKS_TEMP) = v ∧
    let warn : Int := 4 * (s.rget Reg.CLOCKS_WARN_TH : Int)
    signed 16 (t.rget Reg.CLOCKS_TEMP_MAX) = max (signed 16 (s.rget Reg.CLOCKS_TEMP_MAX)) v ∧
    (s.boot.warnArmed = true → warn ≤ v → t.evStatus 1146 = true) ∧ (s.boot.critical = false → 460 ≤ v → t.evStatus 1147 = true) ∧
    ((s.boot.warnArmed = false ∨ v < warn) → t.evStatus 1146 = s.evStatus 1146) ∧ ((s.boot.critical = true ∨ v < 460) → t.evStatus 1147 = s.evStatus 1147) ∧
    t.boot = { s.boot with warnArmed := if warn ≤ v then false else s.boot.warnArmed || decide (v ≤ warn - 8), critical := if 460 ≤ v then true else s.boot.critical && decide (452 ≤ v) } ∧
    OnlyChanges [.regs, .boot, .vecs] s t)

/-- In every canonical state, clocked and out of PORST_N: with nothing queued a cycle of the power controller changes nothing. With one domain queued and idle:
a target that its state meets completes; a rise with a prerequisite neither on nor rising is refused with code 1 and the lowest such domain, one with
all of them on starts, and otherwise it waits; a fall to retention from off is refused with code 10, one that R478 forbids with its refuser, and else
it starts: BUSY, IN_TARGET and the phase of R484 or R485 from this cycle on, the queue bit clear. A refusal is counted, with its event, and
a PDREQ thread that waited for the request waits no more. -/
def Obligations.PowerController : Prop := ∀ (s : State), s.Canonical → s.boot.porst = false → s.clockless = false →
  ((∀ e, e < 44 → s.rget Reg.POWER_QUEUED_V e ≠ 1) → exec .powerControllerCycle s = .next s) ∧
  (∀ d, d < 44 → (∀ e, e < 44 → e ≠ d → s.rget Reg.POWER_QUEUED_V e ≠ 1) → s.rget Reg.POWER_QUEUED_V d = 1 → s.rget Reg.POWER_BUSY d = 0 →
    let g := s.rget Reg.POWER_QUEUED d
    let q := (s.domx d).qReq
    let missing := (prereqs d).filter (fun x => !s.onOrRising x)
    let taken (t : State) : Prop := exec .powerControllerCycle s = .next t ∧ t.rget Reg.POWER_QUEUED_V d = 0 ∧ (∀ e, e < 44 → t.dom e = s.dom e) ∧
      (∀ e, e ≠ d → t.domx e = s.domx e)
    let woken (t : State) : Prop := (q ≠ 0 → ∀ n e w, n < 8 → (s.thr n).wait = some w → w.kind = .pdreq e q → (t.thr n).wait = none) ∧
      (q = 0 → OnlyChanges [.regs, .doms, .vecs] s t)
    let done (t : State) : Prop := taken t ∧ woken t ∧ t.rget Reg.POWER_LAST_RESULT d = 0 ∧ t.rget Reg.POWER_BUSY d = 0 ∧ t.domx d = { s.domx d with qReq := 0 }
    let refused (t : State) (r x : Nat) : Prop := taken t ∧ woken t ∧ t.rget Reg.POWER_LAST_RESULT d = 2 ∧ t.rget Reg.POWER_LAST_REFUSER d = r ∧
      t.rget Reg.POWER_REFUSER_DOM d = x ∧ t.evStatus 1081 = true ∧ t.rget Reg.POWER_BUSY d = 0 ∧
      t.pget Reg.POWER_DOM_CNT 0 [d, 1] = (s.pget Reg.POWER_DOM_CNT 0 [d, 1] + 1) % 2 ^ 64 ∧ t.domx d = { s.domx d with qReq := 0 }
    let starts (t : State) : Prop := taken t ∧ t.rget Reg.POWER_BUSY d = 1 ∧ t.rget Reg.POWER_IN_TARGET d = g
    (g < 3 → s.dom d = g → ∃ t, done t) ∧
    (g = 2 → s.dom d ≠ 2 → missing ≠ [] → ∃ t x, x ∈ missing ∧ (∀ y ∈ missing, x ≤ y) ∧ refused t 1 x) ∧
    (g = 2 → s.dom d ≠ 2 → (∀ x ∈ prereqs d, s.domOn x = true ∧ s.falling x = false) → s.rget Reg.POWER_AVS_EN = 0 → ∃ t, starts t ∧
      t.domx d = { s.domx d with phase := .switch, since := s.now, source := s.dom d, avsDone := true, waitsFor := [], iReq := q, qReq := 0 } ∧
      OnlyChanges [.regs, .doms] s t) ∧
    (g = 2 → s.dom d ≠ 2 → missing = [] → ¬ (∀ x ∈ prereqs d, s.domOn x = true ∧ s.falling x = false) → exec .powerControllerCycle s = .next s) ∧
    (g = 1 → s.dom d = 0 → ∃ t, refused t 10 0) ∧
    (g < 2 → s.dom d ≠ g → s.dom d ≠ 0 → ∀ r x, s.fallRefuser d = some (r, x) → r < 16 → x < 64 → ∃ t, refused t r x) ∧
    (g < 2 → s.dom d ≠ g → s.dom d ≠ 0 → s.fallRefuser d = none → 8 ≤ d → ∃ t, starts t ∧ OnlyChanges [.regs, .doms] s t ∧
      t.domx d = { s.domx d with phase := .drain, since := s.now, source := s.dom d, avsDone := false, waitsFor := (dependents d).filter s.falling, iReq := q, qReq := 0 }))

/-- In every canonical state: a drained fall that waits for no other opens its switch, and else nothing changes; a rise whose switch reports ready leaves
the domain on, a fall leaves it in its target, and off its registers read their reset values, but for a basket's; each clears BUSY, counts, marks
DELTA_MAP and raises STATE_CHANGE, and no fall waits for this one any more. A time-out of the regulator or the switch aborts: the states
stay, the refusal is counted with its code and ABORTED raised. An acknowledged voltage that covers the only waiting rise closes its switch; a report
of a fault acknowledges nothing. A lowered voltage ends with its acknowledgement, or is counted and raised. -/
def Obligations.PowerTransitions : Prop := ∀ (s : State), s.Canonical →
  (∀ d, d < 44 → let x := s.domx d
    let idle : DomX := { x with phase := .idle, waitsFor := [], iReq := 0, avsDone := false }
    let cnt (t : State) (i : Nat) : Prop := t.pget Reg.POWER_DOM_CNT 0 [d, i] = (s.pget Reg.POWER_DOM_CNT 0 [d, i] + 1) % 2 ^ 64
    let ended (t : State) (g : Nat) : Prop := t.dom d = g ∧ (∀ e, e < 44 → e ≠ d → t.dom e = s.dom e) ∧ t.rget Reg.POWER_BUSY d = 0 ∧
      t.rget Reg.POWER_LAST_RESULT d = 0 ∧ cnt t 0 ∧ bit (t.pget Reg.POWER_DELTA_MAP) d = true ∧ t.evStatus 1080 = true ∧ (t.domx d).phase = .idle
    (x.phase = .drain → x.waitsFor = [] → s.domIdle d = true → ∃ t, exec (.fallDrainDone d) s = .next t ∧ t.domx d = { x with phase := .fallSwitch } ∧
      (∀ e, e ≠ d → t.domx e = s.domx e) ∧ OnlyChanges [.doms] s t) ∧
    (x.phase ≠ .drain ∨ x.waitsFor ≠ [] ∨ s.domIdle d = false → exec (.fallDrainDone d) s = .next s) ∧
    (x.phase = .switch → x.heldActions = [] → ∃ t, exec (.switchReady d) s = .next t ∧ ended t 2) ∧
    (x.phase = .fallSwitch → s.rget Reg.POWER_IN_TARGET d < 2 → ∃ t, exec (.switchReady d) s = .next t ∧ ended t (s.rget Reg.POWER_IN_TARGET d) ∧
      (∀ e, e < 44 → d ∉ (t.domx e).waitsFor) ∧
      (s.rget Reg.POWER_IN_TARGET d = 0 → (t.domx d).heldActions = [] ∧ (d < 16 ∨ 24 ≤ d → ∀ k, State.cellDomain (keyBlk k) (keyInst k) (keyOff k) = some d →
        keyBlk k ≠ 18 → keyBlk k ≠ 4 → t.cell k = regReset k))) ∧
    (x.phase ≠ .switch → x.phase ≠ .fallSwitch → exec (.switchReady d) s = .next s) ∧
    (let avs : Prop := x.phase = .avs ∧ (∃ r, r < 2 ∧ (s.rail r).busy = true ∧ (s.rail r).forDom = some d) ∧ x.since + s.rget Reg.POWER_AVS_TIMEOUT * us ≤ s.now
     let sw : Prop := (x.phase = .switch ∨ x.phase = .drain ∨ x.phase = .fallSwitch) ∧ x.since + s.rget Reg.POWER_SWITCH_TIMEOUT * us ≤ s.now
     (avs ∨ sw → ∃ t, exec (.transitionAbort d) s = .next t ∧ (∀ e, e < 44 → t.dom e = s.dom e) ∧ t.rget Reg.POWER_BUSY d = 0 ∧ t.domx d = idle ∧ cnt t 1 ∧
       t.evStatus 1082 = true ∧ t.rget Reg.POWER_LAST_RESULT d = 2 ∧ t.rget Reg.POWER_REFUSER_DOM d = 0 ∧ (avs → t.rget Reg.POWER_LAST_REFUSER d = 2) ∧
       (sw → t.rget Reg.POWER_LAST_REFUSER d = 3)) ∧
     (¬ avs → ¬ sw → exec (.transitionAbort d) s = .next s))) ∧
  (∀ r d, r < 2 → d < 44 → (s.rail r).busy = true → (s.rail r).forDom = some d → (s.domx d).phase = .avs → (∀ e, e < 44 → e ≠ d → (s.domx e).phase ≠ .avs) →
    exec (.avsAck r false) s = .next s ∧
    ∃ t, exec (.avsAck r true) s = .next t ∧ OnlyChanges [.regs, .doms, .rails] s t ∧ (∀ e, e ≠ d → t.domx e = s.domx e) ∧
      (Config.fusedOn d r ≤ s.volt r → Config.fusedOn d (1 - r) ≤ (s.rail (1 - r)).mv →
        t.domx d = { s.domx d with phase := .switch, since := s.now, avsDone := true }) ∧
      (s.volt r < Config.fusedOn d r ∨ (s.rail (1 - r)).mv < Config.fusedOn d (1 - r) → (t.domx d).phase = .avs)) ∧
  (∀ r good, r < 2 → (s.rail r).busy = true → (s.rail r).lowering = true → (∀ e, e < 44 → (s.domx e).phase ≠ .avs) →
    (∀ k, k < 2 → s.volt k ≤ s.railTarget k none) → ∃ t, exec (.avsLowerAck r good) s = .next t ∧ t.rail r = { s.rail r with busy := false, lowering := false } ∧
    (∀ k, k ≠ r → t.rail k = s.rail k) ∧ (good = true → OnlyChanges [.rails] s t) ∧
    (good = false → t.evStatus 1084 = true ∧ t.pget Reg.POWER_CNT 0 [1] = (s.pget Reg.POWER_CNT 0 [1] + 1) % 2 ^ 64 ∧ OnlyChanges [.regs, .vecs, .rails] s t)) ∧
  (∀ r good, (s.rail r).busy = false ∨ (s.rail r).lowering = false → exec (.avsLowerAck r good) s = .next s) ∧
  (∀ r good, (s.rail r).forDom = none → exec (.avsAck r good) s = .next s)

/-- In every canonical state, clocked and out of PORST_N: a scrub read that finds nothing, in a domain that is not on, or where nothing exists changes
nothing but SCRUB_PASSES at the end of a pass. A corrected error counts against its structure, and no event rises. An uncorrectable one of
structures 0 to 17 counts in RAS_UNCORR, is captured if it is the first, poisons a table entry, restores the unit in a lost triple, and raises the
event of its structure; one of another store counts and raises as its own block does. The audit of a basket that is on empties its list of lost
frames: a copy with another reference keeps it with one less, and a last one leaves the basket. -/
def Obligations.ScrubbingAndAudit : Prop := ∀ (s : State), s.Canonical →
  (∀ x : ScrubFind, s.boot.porst = false → s.clockless = false →
    let n := x.target
    let i := x.inst
    let plus (t : State) (r : Row) (inst : Nat) (ix : List Nat) (k : Nat) : Prop := t.pget r inst ix = (s.pget r inst ix + k) % 2 ^ 64
    let idle : Prop := x.found = 0 ∨ scrubOk x = false ∨ ∃ d, storeDomain n i = some d ∧ s.domOn d = false
    let pass (t : State) : Prop := plus t Reg.RAS_SCRUB_PASSES 0 [] (b2n x.passEnd)
    (idle → n ≠ 24 → (x.passEnd = false → exec (.scrubRead x) s = .next s) ∧
      (x.passEnd = true → ∃ t, exec (.scrubRead x) s = .next t ∧ pass t ∧ OnlyChanges [.regs] s t ∧
        OnlyRegs [rowKey Reg.RAS_SCRUB_PASSES, rowKey Reg.RAS_SCRUB_PASSES + 4] s t)) ∧
    (¬ idle → x.found = 1 → n ≠ 22 → ∃ t, exec (.scrubRead x) s = .next t ∧ pass t ∧ OnlyChanges [.regs, .fresh] s t ∧
      (∀ src, src < 1152 → t.evStatus src = s.evStatus src) ∧
      (n < 18 → plus t Reg.RAS_RAS_CORR 0 [n] 1) ∧ (n = 18 → plus t Reg.SLATH_BASKET_CNT i [14] 1) ∧ (n = 19 ∨ n = 20 → plus t Reg.LEGEND_CNT i [4] 1) ∧
      (n = 21 → plus t Reg.SURVEY_CNT i [11] 1) ∧ (n = 23 → plus t Reg.PLAIT_CNT 0 [i, 17] 1) ∧ (n = 24 → plus t Reg.LP4X_CNT i [2] 1)) ∧
    (¬ idle → 2 ≤ x.found → ∃ t, exec (.scrubRead x) s = .next t ∧ pass t ∧
      (n < 18 → plus t Reg.RAS_RAS_UNCORR 0 [n] 1 ∧ (s.rget Reg.RAS_VALID = 1 → t.rget Reg.RAS_STRUCT = s.rget Reg.RAS_STRUCT ∧ t.rget Reg.RAS_INDEX = s.rget Reg.RAS_INDEX) ∧
        (s.rget Reg.RAS_VALID = 0 → t.rget Reg.RAS_VALID = 1 ∧ t.rget Reg.RAS_STRUCT = n ∧ t.rget Reg.RAS_INSTANCE = i ∧ t.rget Reg.RAS_SCRUB = 1 ∧
          t.rget Reg.RAS_INDEX = x.index % 2 ^ 20)) ∧
      (n < 12 → t.evStatus (818 + 8 * i) = true) ∧ (n < 8 → tabKey n i x.index ∈ t.poison ∧ t.tabs = s.tabs ∧ t.mem = s.mem) ∧
      (n = 12 → t.evStatus (921 + 2 * i) = true ∧ plus t Reg.QUEUE_CNT 0 [i, 5] 1 ∧ (x.found ≠ 2 → t.queues = s.queues)) ∧
      (n = 13 → (x.found = 2 → t.q x.index = queueDflt x.index ∧ t.evStatus (921 + 2 * s.queueBasket x.index) = true) ∧ (x.found ≠ 2 → t.queues = s.queues)) ∧
      (n = 14 → (x.found = 2 → let y := (t.chan i).side (x.index % 2 == 0)
          y.full = false ∧ y.flags = 0 ∧ y.epoch = 0 ∧ y.stage = [] ∧ t.evStatus (1016 + i) = true) ∧ (x.found ≠ 2 → t.mbx = s.mbx)) ∧
      (n = 17 → x.found = 2 → t.rget Reg.CC_STATE_3C = 3) ∧
      (n = 18 → plus t Reg.SLATH_BASKET_CNT i [15] 1 ∧ plus t Reg.SLATH_ECC_BANK i [x.index % 16] 1 ∧ t.evStatus (888 + 4 * i) = true) ∧
      (n = 19 ∨ n = 20 → plus t Reg.LEGEND_CNT i [5] 1 ∧ plus t Reg.LEGEND_CNT i [6] (if x.found = 2 then 1 else 0) ∧ t.evStatus (818 + 8 * i) = true) ∧
      (n = 21 → plus t Reg.SURVEY_CNT i [12] 1 ∧ t.evStatus (817 + 8 * i) = true ∧ (x.found = 2 → x.index ∈ (t.sv i).lost)) ∧
      (n = 22 → t.evStatus 995 = true ∧ OnlyChanges [.regs, .vecs] s t) ∧ (n = 23 → plus t Reg.PLAIT_CNT 0 [i, 18] 1) ∧
      (n = 24 → s.lp4xWays ≠ 0 → x.index % s.lp4xWays = i → plus t Reg.LP4X_CNT i [3] 1 ∧ t.evStatus (1106 + 3 * i) = true ∧
        (s.rget Reg.LP4X_VALID i = 0 → t.rget Reg.LP4X_VALID i = 1 ∧ t.rget Reg.LP4X_GRANULE i = x.index % 2 ^ 26)))) ∧
  (∀ x : ScrubFind, s.boot.porst = true ∨ s.clockless = true → exec (.scrubRead x) s = .next s) ∧
  (∀ b, b < 8 → s.domOn (16 + b) = true → ∃ t, exec (.creelAudit b) s = .next t ∧ t.pager b = { s.pager b with lost := [] } ∧
    (∀ k, k ≠ b → t.pager k = s.pager k) ∧ t.queues = s.queues ∧ t.mem = s.mem ∧
    (∀ f k, k < 8 → (∀ it ∈ (s.pager b).lost, it.b < 8 ∧ (it.f, it.b) ≠ (f, k)) → t.copy f k = s.copy f k) ∧
    (∀ it, (s.pager b).lost = [it] → it.b < 8 → (2 ≤ (s.copy it.f it.b).refs → t.copy it.f it.b = { s.copy it.f it.b with refs := (s.copy it.f it.b).refs - 1 }) ∧
      ((s.copy it.f it.b).refs < 2 → t.copy it.f it.b = {}))) ∧
  (∀ b, 8 ≤ b ∨ s.domOn (16 + b) = false → exec (.creelAudit b) s = .next s)
end

