-- ==== Sys2Proof/Laws/Sparse.lean ====
section
/-! SUPPORT. The laws of the sparse maps: reading after writing, and that every operation keeps the one canonical form. -/

namespace Sys2Proof.Laws

open Sys2Proof Sys2Proof.Machine

variable {β : Type}

@[simp] theorem sfind_sins_same (m : Sparse β) (k : Nat) (x : β) : sfind (sins m k x) k = some x := by
  induction m with
  | nil => simp [sins, sfind]
  | cons e r ih =>
    obtain ⟨q, v⟩ := e
    simp only [sins]
    split
    · simp [sfind]
    · split
      · simp [sfind]
      · next h1 h2 => simp only [beq_iff_eq] at h2; simp [sfind, h1, h2, ih]

theorem sfind_sins_ne (m : Sparse β) {k q : Nat} (x : β) (h : q ≠ k) : sfind (sins m k x) q = sfind m q := by
  induction m with
  | nil => simp only [sins, sfind]; rw [if_neg (by simpa using Ne.symm h)]; split <;> rfl
  | cons e r ih =>
    obtain ⟨p, v⟩ := e
    simp only [sins]
    split
    · next h1 =>
      simp only [sfind]
      rw [if_neg (by simpa using Ne.symm h)]
      split
      · next h2 => rw [if_neg (by simp; omega), if_pos (by omega)]
      · rfl
    · split
      · next h1 h2 =>
        have h3 : p = k := by simpa using h2
        have e : (p == q) = false := by rw [beq_eq_false_iff_ne]; omega
        have e' : (k == q) = false := by rw [beq_eq_false_iff_ne]; omega
        rw [h3] at e ⊢
        simp [sfind, e]
      · simp only [sfind, ih]

theorem swfFrom_mono [DecidableEq β] {d : Nat → β} {a b : Nat} {m : Sparse β} (h : swfFrom d b m = true) (hab : a ≤ b) :
    swfFrom d a m = true := by
  cases m with
  | nil => rfl
  | cons e r =>
    obtain ⟨k, v⟩ := e
    simp only [swfFrom, Bool.and_eq_true, decide_eq_true_eq] at h ⊢
    exact ⟨⟨by omega, h.1.2⟩, h.2⟩

theorem sfind_below [DecidableEq β] {d : Nat → β} {a k : Nat} {m : Sparse β} (h : swfFrom d a m = true) (hk : k < a) :
    sfind m k = none := by
  cases m with
  | nil => rfl
  | cons e r =>
    obtain ⟨q, v⟩ := e
    simp only [swfFrom, Bool.and_eq_true, decide_eq_true_eq] at h
    simp only [sfind]
    rw [if_neg (by simp; omega), if_pos (by omega)]

theorem sfind_sdel_same [DecidableEq β] {d : Nat → β} {a k : Nat} {m : Sparse β} (h : swfFrom d a m = true) :
    sfind (sdel m k) k = none := by
  induction m generalizing a with
  | nil => rfl
  | cons e r ih =>
    obtain ⟨q, v⟩ := e
    simp only [swfFrom, Bool.and_eq_true, decide_eq_true_eq] at h
    simp only [sdel]
    split
    · next h1 => simp only [sfind]; rw [if_neg (by simp; omega), if_pos h1]
    · split
      · next h1 h2 => simp only [beq_iff_eq] at h2; exact sfind_below h.2 (by omega)
      · next h1 h2 => simp only [sfind, h1, h2]; exact ih h.2

theorem sfind_sdel_ne [DecidableEq β] {d : Nat → β} {a k q : Nat} {m : Sparse β} (h : swfFrom d a m = true) (hq : q ≠ k) :
    sfind (sdel m k) q = sfind m q := by
  induction m generalizing a with
  | nil => rfl
  | cons e r ih =>
    obtain ⟨p, v⟩ := e
    simp only [swfFrom, Bool.and_eq_true, decide_eq_true_eq] at h
    simp only [sdel]
    split
    · rfl
    · split
      · next h1 h2 =>
        simp only [beq_iff_eq] at h2; subst h2
        simp only [sfind]
        rw [if_neg (by simpa using Ne.symm hq)]
        split
        · next h3 => exact sfind_below h.2 (by omega)
        · rfl
      · simp only [sfind, ih h.2]

theorem swfFrom_sins [DecidableEq β] {d : Nat → β} {a k : Nat} {m : Sparse β} {x : β} (h : swfFrom d a m = true) (hk : a ≤ k)
    (hx : x ≠ d k) : swfFrom d a (sins m k x) = true := by
  induction m generalizing a with
  | nil => simp [sins, swfFrom, hk, hx]
  | cons e r ih =>
    obtain ⟨q, v⟩ := e
    simp only [swfFrom, Bool.and_eq_true, decide_eq_true_eq] at h
    simp only [sins]
    split
    · next h1 => simp [swfFrom, hk, hx, h.1.2, h.2]; omega
    · split
      · next h1 h2 => simp only [beq_iff_eq] at h2; subst h2; simp [swfFrom, hk, hx, h.2]
      · next h1 h2 =>
        simp only [beq_iff_eq] at h2
        simp only [swfFrom, Bool.and_eq_true, decide_eq_true_eq]
        exact ⟨h.1, ih h.2 (by omega)⟩

theorem swfFrom_sdel [DecidableEq β] {d : Nat → β} {a k : Nat} {m : Sparse β} (h : swfFrom d a m = true) :
    swfFrom d a (sdel m k) = true := by
  induction m generalizing a with
  | nil => rfl
  | cons e r ih =>
    obtain ⟨q, v⟩ := e
    have h' := h
    simp only [swfFrom, Bool.and_eq_true, decide_eq_true_eq] at h
    simp only [sdel]
    split
    · exact h'
    · split
      · exact swfFrom_mono h.2 (by omega)
      · simp only [swfFrom, Bool.and_eq_true, decide_eq_true_eq]; exact ⟨h.1, ih h.2⟩

theorem swfFrom_sfilter [DecidableEq β] {d : Nat → β} {a : Nat} {p : Nat → Bool} {m : Sparse β} (h : swfFrom d a m = true) :
    swfFrom d a (sfilter p m) = true := by
  induction m generalizing a with
  | nil => rfl
  | cons e r ih =>
    obtain ⟨q, v⟩ := e
    simp only [swfFrom, Bool.and_eq_true, decide_eq_true_eq] at h
    simp only [sfilter]
    split
    · simp only [swfFrom, Bool.and_eq_true, decide_eq_true_eq]; exact ⟨h.1, ih h.2⟩
    · exact swfFrom_mono (ih h.2) (by omega)

theorem swfFrom_smap [DecidableEq β] {d : Nat → β} {a : Nat} {f : Nat → β → β} {m : Sparse β} (h : swfFrom d a m = true) :
    swfFrom d a (smap d f m) = true := by
  induction m generalizing a with
  | nil => rfl
  | cons e r ih =>
    obtain ⟨q, v⟩ := e
    simp only [swfFrom, Bool.and_eq_true, decide_eq_true_eq] at h
    simp only [smap]
    split
    · exact swfFrom_mono (ih h.2) (by omega)
    · next hx => simp only [swfFrom, Bool.and_eq_true, decide_eq_true_eq]; exact ⟨⟨h.1.1, hx⟩, ih h.2⟩

theorem swf_nil [DecidableEq β] {d : Nat → β} : swf d [] = true := rfl

theorem swf_sdel [DecidableEq β] {d : Nat → β} {m : Sparse β} {k : Nat} (h : swf d m = true) : swf d (sdel m k) = true :=
  swfFrom_sdel h

theorem swf_sset [DecidableEq β] {d : Nat → β} {m : Sparse β} {k : Nat} {x : β} (h : swf d m = true) :
    swf d (sset d m k x) = true := by
  simp only [sset]
  split
  · exact swfFrom_sdel h
  · next hx => exact swfFrom_sins h (Nat.zero_le k) hx

theorem swf_sfilter [DecidableEq β] {d : Nat → β} {p : Nat → Bool} {m : Sparse β} (h : swf d m = true) :
    swf d (sfilter p m) = true := swfFrom_sfilter h

theorem swf_smap [DecidableEq β] {d : Nat → β} {f : Nat → β → β} {m : Sparse β} (h : swf d m = true) :
    swf d (smap d f m) = true := swfFrom_smap h

theorem swf_foldl [DecidableEq β] {α : Type} {d : Nat → β} {l : List α} {f : Sparse β → α → Sparse β} {m : Sparse β} (h : swf d m = true)
    (hf : ∀ m a, swf d m = true → swf d (f m a) = true) : swf d (l.foldl f m) = true := by
  induction l generalizing m with
  | nil => exact h
  | cons a r ih => exact ih (hf m a h)

/-- A key reads as it was last written. -/
theorem sget_sset_same [DecidableEq β] {d : Nat → β} {m : Sparse β} (h : swf d m = true) (k : Nat) (x : β) :
    sget d (sset d m k x) k = x := by
  simp only [sget, sset]
  split
  · next hx => rw [sfind_sdel_same h, hx]; rfl
  · rw [sfind_sins_same]; rfl

/-- A write leaves every other key as it was. -/
theorem sget_sset_ne [DecidableEq β] {d : Nat → β} {m : Sparse β} (h : swf d m = true) {k q : Nat} (x : β) (hq : q ≠ k) :
    sget d (sset d m k x) q = sget d m q := by
  simp only [sget, sset]
  split
  · rw [sfind_sdel_ne h hq]
  · rw [sfind_sins_ne m x hq]

theorem sriseFrom_mono {a b : Nat} {m : Sparse β} (h : sriseFrom b m = true) (hab : a ≤ b) : sriseFrom a m = true := by
  cases m with
  | nil => rfl
  | cons e r =>
    obtain ⟨k, v⟩ := e
    simp only [sriseFrom, Bool.and_eq_true, decide_eq_true_eq] at h ⊢
    exact ⟨by omega, h.2⟩

theorem sriseFrom_sins {a k : Nat} {m : Sparse β} {x : β} (h : sriseFrom a m = true) (hk : a ≤ k) :
    sriseFrom a (sins m k x) = true := by
  induction m generalizing a with
  | nil => simp [sins, sriseFrom, hk]
  | cons e r ih =>
    obtain ⟨q, v⟩ := e
    simp only [sriseFrom, Bool.and_eq_true, decide_eq_true_eq] at h
    simp only [sins]
    split
    · simp [sriseFrom, hk, h.2]; omega
    · split
      · next h1 h2 => simp only [beq_iff_eq] at h2; subst h2; simp [sriseFrom, hk, h.2]
      · next h1 h2 =>
        simp only [beq_iff_eq] at h2
        simp only [sriseFrom, Bool.and_eq_true, decide_eq_true_eq]
        exact ⟨h.1, ih h.2 (by omega)⟩

theorem sriseFrom_sdel {a k : Nat} {m : Sparse β} (h : sriseFrom a m = true) : sriseFrom a (sdel m k) = true := by
  induction m generalizing a with
  | nil => rfl
  | cons e r ih =>
    obtain ⟨q, v⟩ := e
    have h' := h
    simp only [sriseFrom, Bool.and_eq_true, decide_eq_true_eq] at h
    simp only [sdel]
    split
    · exact h'
    · split
      · exact sriseFrom_mono h.2 (by omega)
      · simp only [sriseFrom, Bool.and_eq_true, decide_eq_true_eq]; exact ⟨h.1, ih h.2⟩

theorem srise_sins {m : Sparse β} {k : Nat} {x : β} (h : srise m = true) : srise (sins m k x) = true :=
  sriseFrom_sins h (Nat.zero_le k)

theorem srise_sdel {m : Sparse β} {k : Nat} (h : srise m = true) : srise (sdel m k) = true := sriseFrom_sdel h

theorem srise_sset [DecidableEq β] {d : Nat → β} {m : Sparse β} {k : Nat} {x : β} (h : srise m = true) :
    srise (sset d m k x) = true := by
  simp only [sset]
  split
  · exact srise_sdel h
  · exact srise_sins h

end Sys2Proof.Laws
end

