-- ==== Sys2Proof/Laws/State.lean ====
section
/-! SUPPORT. Beside State: what each setter does to each field of the state, one lemma per field per setter, true by rfl. -/

namespace Sys2Proof.Machine

open Sys2Proof

/-! ### State.setCell -/

section
variable (s : State) (k : Nat) (c : RegCell)
@[simp] theorem State.setCell_pending : (s.setCell k c).pending = s.pending := rfl
@[simp] theorem State.setCell_now : (s.setCell k c).now = s.now := rfl
@[simp] theorem State.setCell_rdata : (s.setCell k c).rdata = s.rdata := rfl
@[simp] theorem State.setCell_fresh : (s.setCell k c).fresh = s.fresh := rfl
@[simp] theorem State.setCell_regs : (s.setCell k c).regs = sset regReset s.regs k c := rfl
@[simp] theorem State.setCell_banks : (s.setCell k c).banks = s.banks := rfl
@[simp] theorem State.setCell_failed : (s.setCell k c).failed = s.failed := rfl
@[simp] theorem State.setCell_mem : (s.setCell k c).mem = s.mem := rfl
@[simp] theorem State.setCell_tabs : (s.setCell k c).tabs = s.tabs := rfl
@[simp] theorem State.setCell_threads : (s.setCell k c).threads = s.threads := rfl
@[simp] theorem State.setCell_rings : (s.setCell k c).rings = s.rings := rfl
@[simp] theorem State.setCell_lastStarted : (s.setCell k c).lastStarted = s.lastStarted := rfl
@[simp] theorem State.setCell_doms : (s.setCell k c).doms = s.doms := rfl
@[simp] theorem State.setCell_rails : (s.setCell k c).rails = s.rails := rfl
@[simp] theorem State.setCell_nextReq : (s.setCell k c).nextReq = s.nextReq := rfl
@[simp] theorem State.setCell_boot : (s.setCell k c).boot = s.boot := rfl
@[simp] theorem State.setCell_cplx : (s.setCell k c).cplx = s.cplx := rfl
@[simp] theorem State.setCell_store : (s.setCell k c).store = s.store := rfl
@[simp] theorem State.setCell_mer : (s.setCell k c).mer = s.mer := rfl
@[simp] theorem State.setCell_vecs : (s.setCell k c).vecs = s.vecs := rfl
@[simp] theorem State.setCell_tally : (s.setCell k c).tally = s.tally := rfl
@[simp] theorem State.setCell_lanes : (s.setCell k c).lanes = s.lanes := rfl
@[simp] theorem State.setCell_frames : (s.setCell k c).frames = s.frames := rfl
@[simp] theorem State.setCell_nextFrame : (s.setCell k c).nextFrame = s.nextFrame := rfl
@[simp] theorem State.setCell_copies : (s.setCell k c).copies = s.copies := rfl
@[simp] theorem State.setCell_queues : (s.setCell k c).queues = s.queues := rfl
@[simp] theorem State.setCell_pagers : (s.setCell k c).pagers = s.pagers := rfl
@[simp] theorem State.setCell_objs : (s.setCell k c).objs = s.objs := rfl
@[simp] theorem State.setCell_rounds : (s.setCell k c).rounds = s.rounds := rfl
@[simp] theorem State.setCell_gates : (s.setCell k c).gates = s.gates := rfl
@[simp] theorem State.setCell_slath : (s.setCell k c).slath = s.slath := rfl
@[simp] theorem State.setCell_creel : (s.setCell k c).creel = s.creel := rfl
@[simp] theorem State.setCell_ports : (s.setCell k c).ports = s.ports := rfl
@[simp] theorem State.setCell_fwd : (s.setCell k c).fwd = s.fwd := rfl
@[simp] theorem State.setCell_surveys : (s.setCell k c).surveys = s.surveys := rfl
@[simp] theorem State.setCell_legend : (s.setCell k c).legend = s.legend := rfl
@[simp] theorem State.setCell_pipes : (s.setCell k c).pipes = s.pipes := rfl
@[simp] theorem State.setCell_poison : (s.setCell k c).poison = s.poison := rfl
@[simp] theorem State.setCell_plait : (s.setCell k c).plait = s.plait := rfl
@[simp] theorem State.setCell_plaitIn : (s.setCell k c).plaitIn = s.plaitIn := rfl
@[simp] theorem State.setCell_mbx : (s.setCell k c).mbx = s.mbx := rfl
@[simp] theorem State.setCell_ruleCnt : (s.setCell k c).ruleCnt = s.ruleCnt := rfl
@[simp] theorem State.setCell_msix : (s.setCell k c).msix = s.msix := rfl
@[simp] theorem State.setCell_taps : (s.setCell k c).taps = s.taps := rfl
@[simp] theorem State.setCell_cart : (s.setCell k c).cart = s.cart := rfl
end

/-! ### State.mput -/

section
variable (s : State) (k : Nat) (b : Byte)
@[simp] theorem State.mput_pending : (s.mput k b).pending = s.pending := rfl
@[simp] theorem State.mput_now : (s.mput k b).now = s.now := rfl
@[simp] theorem State.mput_rdata : (s.mput k b).rdata = s.rdata := rfl
@[simp] theorem State.mput_fresh : (s.mput k b).fresh = s.fresh := rfl
@[simp] theorem State.mput_regs : (s.mput k b).regs = s.regs := rfl
@[simp] theorem State.mput_banks : (s.mput k b).banks = s.banks := rfl
@[simp] theorem State.mput_failed : (s.mput k b).failed = s.failed := rfl
@[simp] theorem State.mput_mem : (s.mput k b).mem = sset memDefault s.mem k b := rfl
@[simp] theorem State.mput_tabs : (s.mput k b).tabs = s.tabs := rfl
@[simp] theorem State.mput_threads : (s.mput k b).threads = s.threads := rfl
@[simp] theorem State.mput_rings : (s.mput k b).rings = s.rings := rfl
@[simp] theorem State.mput_lastStarted : (s.mput k b).lastStarted = s.lastStarted := rfl
@[simp] theorem State.mput_doms : (s.mput k b).doms = s.doms := rfl
@[simp] theorem State.mput_rails : (s.mput k b).rails = s.rails := rfl
@[simp] theorem State.mput_nextReq : (s.mput k b).nextReq = s.nextReq := rfl
@[simp] theorem State.mput_boot : (s.mput k b).boot = s.boot := rfl
@[simp] theorem State.mput_cplx : (s.mput k b).cplx = s.cplx := rfl
@[simp] theorem State.mput_store : (s.mput k b).store = s.store := rfl
@[simp] theorem State.mput_mer : (s.mput k b).mer = s.mer := rfl
@[simp] theorem State.mput_vecs : (s.mput k b).vecs = s.vecs := rfl
@[simp] theorem State.mput_tally : (s.mput k b).tally = s.tally := rfl
@[simp] theorem State.mput_lanes : (s.mput k b).lanes = s.lanes := rfl
@[simp] theorem State.mput_frames : (s.mput k b).frames = s.frames := rfl
@[simp] theorem State.mput_nextFrame : (s.mput k b).nextFrame = s.nextFrame := rfl
@[simp] theorem State.mput_copies : (s.mput k b).copies = s.copies := rfl
@[simp] theorem State.mput_queues : (s.mput k b).queues = s.queues := rfl
@[simp] theorem State.mput_pagers : (s.mput k b).pagers = s.pagers := rfl
@[simp] theorem State.mput_objs : (s.mput k b).objs = s.objs := rfl
@[simp] theorem State.mput_rounds : (s.mput k b).rounds = s.rounds := rfl
@[simp] theorem State.mput_gates : (s.mput k b).gates = s.gates := rfl
@[simp] theorem State.mput_slath : (s.mput k b).slath = s.slath := rfl
@[simp] theorem State.mput_creel : (s.mput k b).creel = s.creel := rfl
@[simp] theorem State.mput_ports : (s.mput k b).ports = s.ports := rfl
@[simp] theorem State.mput_fwd : (s.mput k b).fwd = s.fwd := rfl
@[simp] theorem State.mput_surveys : (s.mput k b).surveys = s.surveys := rfl
@[simp] theorem State.mput_legend : (s.mput k b).legend = s.legend := rfl
@[simp] theorem State.mput_pipes : (s.mput k b).pipes = s.pipes := rfl
@[simp] theorem State.mput_poison : (s.mput k b).poison = s.poison := rfl
@[simp] theorem State.mput_plait : (s.mput k b).plait = s.plait := rfl
@[simp] theorem State.mput_plaitIn : (s.mput k b).plaitIn = s.plaitIn := rfl
@[simp] theorem State.mput_mbx : (s.mput k b).mbx = s.mbx := rfl
@[simp] theorem State.mput_ruleCnt : (s.mput k b).ruleCnt = s.ruleCnt := rfl
@[simp] theorem State.mput_msix : (s.mput k b).msix = s.msix := rfl
@[simp] theorem State.mput_taps : (s.mput k b).taps = s.taps := rfl
@[simp] theorem State.mput_cart : (s.mput k b).cart = s.cart := rfl
end

/-! ### State.setVec -/

section
variable (s : State) (v : Nat) (x : VecX)
@[simp] theorem State.setVec_pending : (s.setVec v x).pending = s.pending := rfl
@[simp] theorem State.setVec_now : (s.setVec v x).now = s.now := rfl
@[simp] theorem State.setVec_rdata : (s.setVec v x).rdata = s.rdata := rfl
@[simp] theorem State.setVec_fresh : (s.setVec v x).fresh = s.fresh := rfl
@[simp] theorem State.setVec_regs : (s.setVec v x).regs = s.regs := rfl
@[simp] theorem State.setVec_banks : (s.setVec v x).banks = s.banks := rfl
@[simp] theorem State.setVec_failed : (s.setVec v x).failed = s.failed := rfl
@[simp] theorem State.setVec_mem : (s.setVec v x).mem = s.mem := rfl
@[simp] theorem State.setVec_tabs : (s.setVec v x).tabs = s.tabs := rfl
@[simp] theorem State.setVec_threads : (s.setVec v x).threads = s.threads := rfl
@[simp] theorem State.setVec_rings : (s.setVec v x).rings = s.rings := rfl
@[simp] theorem State.setVec_lastStarted : (s.setVec v x).lastStarted = s.lastStarted := rfl
@[simp] theorem State.setVec_doms : (s.setVec v x).doms = s.doms := rfl
@[simp] theorem State.setVec_rails : (s.setVec v x).rails = s.rails := rfl
@[simp] theorem State.setVec_nextReq : (s.setVec v x).nextReq = s.nextReq := rfl
@[simp] theorem State.setVec_boot : (s.setVec v x).boot = s.boot := rfl
@[simp] theorem State.setVec_cplx : (s.setVec v x).cplx = s.cplx := rfl
@[simp] theorem State.setVec_store : (s.setVec v x).store = s.store := rfl
@[simp] theorem State.setVec_mer : (s.setVec v x).mer = s.mer := rfl
@[simp] theorem State.setVec_vecs : (s.setVec v x).vecs = sset (fun _ => {}) s.vecs v x := rfl
@[simp] theorem State.setVec_tally : (s.setVec v x).tally = s.tally := rfl
@[simp] theorem State.setVec_lanes : (s.setVec v x).lanes = s.lanes := rfl
@[simp] theorem State.setVec_frames : (s.setVec v x).frames = s.frames := rfl
@[simp] theorem State.setVec_nextFrame : (s.setVec v x).nextFrame = s.nextFrame := rfl
@[simp] theorem State.setVec_copies : (s.setVec v x).copies = s.copies := rfl
@[simp] theorem State.setVec_queues : (s.setVec v x).queues = s.queues := rfl
@[simp] theorem State.setVec_pagers : (s.setVec v x).pagers = s.pagers := rfl
@[simp] theorem State.setVec_objs : (s.setVec v x).objs = s.objs := rfl
@[simp] theorem State.setVec_rounds : (s.setVec v x).rounds = s.rounds := rfl
@[simp] theorem State.setVec_gates : (s.setVec v x).gates = s.gates := rfl
@[simp] theorem State.setVec_slath : (s.setVec v x).slath = s.slath := rfl
@[simp] theorem State.setVec_creel : (s.setVec v x).creel = s.creel := rfl
@[simp] theorem State.setVec_ports : (s.setVec v x).ports = s.ports := rfl
@[simp] theorem State.setVec_fwd : (s.setVec v x).fwd = s.fwd := rfl
@[simp] theorem State.setVec_surveys : (s.setVec v x).surveys = s.surveys := rfl
@[simp] theorem State.setVec_legend : (s.setVec v x).legend = s.legend := rfl
@[simp] theorem State.setVec_pipes : (s.setVec v x).pipes = s.pipes := rfl
@[simp] theorem State.setVec_poison : (s.setVec v x).poison = s.poison := rfl
@[simp] theorem State.setVec_plait : (s.setVec v x).plait = s.plait := rfl
@[simp] theorem State.setVec_plaitIn : (s.setVec v x).plaitIn = s.plaitIn := rfl
@[simp] theorem State.setVec_mbx : (s.setVec v x).mbx = s.mbx := rfl
@[simp] theorem State.setVec_ruleCnt : (s.setVec v x).ruleCnt = s.ruleCnt := rfl
@[simp] theorem State.setVec_msix : (s.setVec v x).msix = s.msix := rfl
@[simp] theorem State.setVec_taps : (s.setVec v x).taps = s.taps := rfl
@[simp] theorem State.setVec_cart : (s.setVec v x).cart = s.cart := rfl
end

/-! ### State.setThr -/

section
variable (s : State) (t : Nat) (x : Thread)
@[simp] theorem State.setThr_pending : (s.setThr t x).pending = s.pending := rfl
@[simp] theorem State.setThr_now : (s.setThr t x).now = s.now := rfl
@[simp] theorem State.setThr_rdata : (s.setThr t x).rdata = s.rdata := rfl
@[simp] theorem State.setThr_fresh : (s.setThr t x).fresh = s.fresh := rfl
@[simp] theorem State.setThr_regs : (s.setThr t x).regs = s.regs := rfl
@[simp] theorem State.setThr_banks : (s.setThr t x).banks = s.banks := rfl
@[simp] theorem State.setThr_failed : (s.setThr t x).failed = s.failed := rfl
@[simp] theorem State.setThr_mem : (s.setThr t x).mem = s.mem := rfl
@[simp] theorem State.setThr_tabs : (s.setThr t x).tabs = s.tabs := rfl
@[simp] theorem State.setThr_threads : (s.setThr t x).threads = sset (fun _ => {}) s.threads t x := rfl
@[simp] theorem State.setThr_rings : (s.setThr t x).rings = s.rings := rfl
@[simp] theorem State.setThr_lastStarted : (s.setThr t x).lastStarted = s.lastStarted := rfl
@[simp] theorem State.setThr_doms : (s.setThr t x).doms = s.doms := rfl
@[simp] theorem State.setThr_rails : (s.setThr t x).rails = s.rails := rfl
@[simp] theorem State.setThr_nextReq : (s.setThr t x).nextReq = s.nextReq := rfl
@[simp] theorem State.setThr_boot : (s.setThr t x).boot = s.boot := rfl
@[simp] theorem State.setThr_cplx : (s.setThr t x).cplx = s.cplx := rfl
@[simp] theorem State.setThr_store : (s.setThr t x).store = s.store := rfl
@[simp] theorem State.setThr_mer : (s.setThr t x).mer = s.mer := rfl
@[simp] theorem State.setThr_vecs : (s.setThr t x).vecs = s.vecs := rfl
@[simp] theorem State.setThr_tally : (s.setThr t x).tally = s.tally := rfl
@[simp] theorem State.setThr_lanes : (s.setThr t x).lanes = s.lanes := rfl
@[simp] theorem State.setThr_frames : (s.setThr t x).frames = s.frames := rfl
@[simp] theorem State.setThr_nextFrame : (s.setThr t x).nextFrame = s.nextFrame := rfl
@[simp] theorem State.setThr_copies : (s.setThr t x).copies = s.copies := rfl
@[simp] theorem State.setThr_queues : (s.setThr t x).queues = s.queues := rfl
@[simp] theorem State.setThr_pagers : (s.setThr t x).pagers = s.pagers := rfl
@[simp] theorem State.setThr_objs : (s.setThr t x).objs = s.objs := rfl
@[simp] theorem State.setThr_rounds : (s.setThr t x).rounds = s.rounds := rfl
@[simp] theorem State.setThr_gates : (s.setThr t x).gates = s.gates := rfl
@[simp] theorem State.setThr_slath : (s.setThr t x).slath = s.slath := rfl
@[simp] theorem State.setThr_creel : (s.setThr t x).creel = s.creel := rfl
@[simp] theorem State.setThr_ports : (s.setThr t x).ports = s.ports := rfl
@[simp] theorem State.setThr_fwd : (s.setThr t x).fwd = s.fwd := rfl
@[simp] theorem State.setThr_surveys : (s.setThr t x).surveys = s.surveys := rfl
@[simp] theorem State.setThr_legend : (s.setThr t x).legend = s.legend := rfl
@[simp] theorem State.setThr_pipes : (s.setThr t x).pipes = s.pipes := rfl
@[simp] theorem State.setThr_poison : (s.setThr t x).poison = s.poison := rfl
@[simp] theorem State.setThr_plait : (s.setThr t x).plait = s.plait := rfl
@[simp] theorem State.setThr_plaitIn : (s.setThr t x).plaitIn = s.plaitIn := rfl
@[simp] theorem State.setThr_mbx : (s.setThr t x).mbx = s.mbx := rfl
@[simp] theorem State.setThr_ruleCnt : (s.setThr t x).ruleCnt = s.ruleCnt := rfl
@[simp] theorem State.setThr_msix : (s.setThr t x).msix = s.msix := rfl
@[simp] theorem State.setThr_taps : (s.setThr t x).taps = s.taps := rfl
@[simp] theorem State.setThr_cart : (s.setThr t x).cart = s.cart := rfl
end

/-! ### State.setDomx -/

section
variable (s : State) (d : Nat) (x : DomX)
@[simp] theorem State.setDomx_pending : (s.setDomx d x).pending = s.pending := rfl
@[simp] theorem State.setDomx_now : (s.setDomx d x).now = s.now := rfl
@[simp] theorem State.setDomx_rdata : (s.setDomx d x).rdata = s.rdata := rfl
@[simp] theorem State.setDomx_fresh : (s.setDomx d x).fresh = s.fresh := rfl
@[simp] theorem State.setDomx_regs : (s.setDomx d x).regs = s.regs := rfl
@[simp] theorem State.setDomx_banks : (s.setDomx d x).banks = s.banks := rfl
@[simp] theorem State.setDomx_failed : (s.setDomx d x).failed = s.failed := rfl
@[simp] theorem State.setDomx_mem : (s.setDomx d x).mem = s.mem := rfl
@[simp] theorem State.setDomx_tabs : (s.setDomx d x).tabs = s.tabs := rfl
@[simp] theorem State.setDomx_threads : (s.setDomx d x).threads = s.threads := rfl
@[simp] theorem State.setDomx_rings : (s.setDomx d x).rings = s.rings := rfl
@[simp] theorem State.setDomx_lastStarted : (s.setDomx d x).lastStarted = s.lastStarted := rfl
@[simp] theorem State.setDomx_doms : (s.setDomx d x).doms = sset (fun _ => {}) s.doms d x := rfl
@[simp] theorem State.setDomx_rails : (s.setDomx d x).rails = s.rails := rfl
@[simp] theorem State.setDomx_nextReq : (s.setDomx d x).nextReq = s.nextReq := rfl
@[simp] theorem State.setDomx_boot : (s.setDomx d x).boot = s.boot := rfl
@[simp] theorem State.setDomx_cplx : (s.setDomx d x).cplx = s.cplx := rfl
@[simp] theorem State.setDomx_store : (s.setDomx d x).store = s.store := rfl
@[simp] theorem State.setDomx_mer : (s.setDomx d x).mer = s.mer := rfl
@[simp] theorem State.setDomx_vecs : (s.setDomx d x).vecs = s.vecs := rfl
@[simp] theorem State.setDomx_tally : (s.setDomx d x).tally = s.tally := rfl
@[simp] theorem State.setDomx_lanes : (s.setDomx d x).lanes = s.lanes := rfl
@[simp] theorem State.setDomx_frames : (s.setDomx d x).frames = s.frames := rfl
@[simp] theorem State.setDomx_nextFrame : (s.setDomx d x).nextFrame = s.nextFrame := rfl
@[simp] theorem State.setDomx_copies : (s.setDomx d x).copies = s.copies := rfl
@[simp] theorem State.setDomx_queues : (s.setDomx d x).queues = s.queues := rfl
@[simp] theorem State.setDomx_pagers : (s.setDomx d x).pagers = s.pagers := rfl
@[simp] theorem State.setDomx_objs : (s.setDomx d x).objs = s.objs := rfl
@[simp] theorem State.setDomx_rounds : (s.setDomx d x).rounds = s.rounds := rfl
@[simp] theorem State.setDomx_gates : (s.setDomx d x).gates = s.gates := rfl
@[simp] theorem State.setDomx_slath : (s.setDomx d x).slath = s.slath := rfl
@[simp] theorem State.setDomx_creel : (s.setDomx d x).creel = s.creel := rfl
@[simp] theorem State.setDomx_ports : (s.setDomx d x).ports = s.ports := rfl
@[simp] theorem State.setDomx_fwd : (s.setDomx d x).fwd = s.fwd := rfl
@[simp] theorem State.setDomx_surveys : (s.setDomx d x).surveys = s.surveys := rfl
@[simp] theorem State.setDomx_legend : (s.setDomx d x).legend = s.legend := rfl
@[simp] theorem State.setDomx_pipes : (s.setDomx d x).pipes = s.pipes := rfl
@[simp] theorem State.setDomx_poison : (s.setDomx d x).poison = s.poison := rfl
@[simp] theorem State.setDomx_plait : (s.setDomx d x).plait = s.plait := rfl
@[simp] theorem State.setDomx_plaitIn : (s.setDomx d x).plaitIn = s.plaitIn := rfl
@[simp] theorem State.setDomx_mbx : (s.setDomx d x).mbx = s.mbx := rfl
@[simp] theorem State.setDomx_ruleCnt : (s.setDomx d x).ruleCnt = s.ruleCnt := rfl
@[simp] theorem State.setDomx_msix : (s.setDomx d x).msix = s.msix := rfl
@[simp] theorem State.setDomx_taps : (s.setDomx d x).taps = s.taps := rfl
@[simp] theorem State.setDomx_cart : (s.setDomx d x).cart = s.cart := rfl
end

/-! ### State.setRail -/

section
variable (s : State) (r : Nat) (x : RailX)
@[simp] theorem State.setRail_pending : (s.setRail r x).pending = s.pending := rfl
@[simp] theorem State.setRail_now : (s.setRail r x).now = s.now := rfl
@[simp] theorem State.setRail_rdata : (s.setRail r x).rdata = s.rdata := rfl
@[simp] theorem State.setRail_fresh : (s.setRail r x).fresh = s.fresh := rfl
@[simp] theorem State.setRail_regs : (s.setRail r x).regs = s.regs := rfl
@[simp] theorem State.setRail_banks : (s.setRail r x).banks = s.banks := rfl
@[simp] theorem State.setRail_failed : (s.setRail r x).failed = s.failed := rfl
@[simp] theorem State.setRail_mem : (s.setRail r x).mem = s.mem := rfl
@[simp] theorem State.setRail_tabs : (s.setRail r x).tabs = s.tabs := rfl
@[simp] theorem State.setRail_threads : (s.setRail r x).threads = s.threads := rfl
@[simp] theorem State.setRail_rings : (s.setRail r x).rings = s.rings := rfl
@[simp] theorem State.setRail_lastStarted : (s.setRail r x).lastStarted = s.lastStarted := rfl
@[simp] theorem State.setRail_doms : (s.setRail r x).doms = s.doms := rfl
@[simp] theorem State.setRail_rails : (s.setRail r x).rails = sset (fun _ => {}) s.rails r x := rfl
@[simp] theorem State.setRail_nextReq : (s.setRail r x).nextReq = s.nextReq := rfl
@[simp] theorem State.setRail_boot : (s.setRail r x).boot = s.boot := rfl
@[simp] theorem State.setRail_cplx : (s.setRail r x).cplx = s.cplx := rfl
@[simp] theorem State.setRail_store : (s.setRail r x).store = s.store := rfl
@[simp] theorem State.setRail_mer : (s.setRail r x).mer = s.mer := rfl
@[simp] theorem State.setRail_vecs : (s.setRail r x).vecs = s.vecs := rfl
@[simp] theorem State.setRail_tally : (s.setRail r x).tally = s.tally := rfl
@[simp] theorem State.setRail_lanes : (s.setRail r x).lanes = s.lanes := rfl
@[simp] theorem State.setRail_frames : (s.setRail r x).frames = s.frames := rfl
@[simp] theorem State.setRail_nextFrame : (s.setRail r x).nextFrame = s.nextFrame := rfl
@[simp] theorem State.setRail_copies : (s.setRail r x).copies = s.copies := rfl
@[simp] theorem State.setRail_queues : (s.setRail r x).queues = s.queues := rfl
@[simp] theorem State.setRail_pagers : (s.setRail r x).pagers = s.pagers := rfl
@[simp] theorem State.setRail_objs : (s.setRail r x).objs = s.objs := rfl
@[simp] theorem State.setRail_rounds : (s.setRail r x).rounds = s.rounds := rfl
@[simp] theorem State.setRail_gates : (s.setRail r x).gates = s.gates := rfl
@[simp] theorem State.setRail_slath : (s.setRail r x).slath = s.slath := rfl
@[simp] theorem State.setRail_creel : (s.setRail r x).creel = s.creel := rfl
@[simp] theorem State.setRail_ports : (s.setRail r x).ports = s.ports := rfl
@[simp] theorem State.setRail_fwd : (s.setRail r x).fwd = s.fwd := rfl
@[simp] theorem State.setRail_surveys : (s.setRail r x).surveys = s.surveys := rfl
@[simp] theorem State.setRail_legend : (s.setRail r x).legend = s.legend := rfl
@[simp] theorem State.setRail_pipes : (s.setRail r x).pipes = s.pipes := rfl
@[simp] theorem State.setRail_poison : (s.setRail r x).poison = s.poison := rfl
@[simp] theorem State.setRail_plait : (s.setRail r x).plait = s.plait := rfl
@[simp] theorem State.setRail_plaitIn : (s.setRail r x).plaitIn = s.plaitIn := rfl
@[simp] theorem State.setRail_mbx : (s.setRail r x).mbx = s.mbx := rfl
@[simp] theorem State.setRail_ruleCnt : (s.setRail r x).ruleCnt = s.ruleCnt := rfl
@[simp] theorem State.setRail_msix : (s.setRail r x).msix = s.msix := rfl
@[simp] theorem State.setRail_taps : (s.setRail r x).taps = s.taps := rfl
@[simp] theorem State.setRail_cart : (s.setRail r x).cart = s.cart := rfl
end

/-! ### State.setCx -/

section
variable (s : State) (x : Nat) (c : CplxX)
@[simp] theorem State.setCx_pending : (s.setCx x c).pending = s.pending := rfl
@[simp] theorem State.setCx_now : (s.setCx x c).now = s.now := rfl
@[simp] theorem State.setCx_rdata : (s.setCx x c).rdata = s.rdata := rfl
@[simp] theorem State.setCx_fresh : (s.setCx x c).fresh = s.fresh := rfl
@[simp] theorem State.setCx_regs : (s.setCx x c).regs = s.regs := rfl
@[simp] theorem State.setCx_banks : (s.setCx x c).banks = s.banks := rfl
@[simp] theorem State.setCx_failed : (s.setCx x c).failed = s.failed := rfl
@[simp] theorem State.setCx_mem : (s.setCx x c).mem = s.mem := rfl
@[simp] theorem State.setCx_tabs : (s.setCx x c).tabs = s.tabs := rfl
@[simp] theorem State.setCx_threads : (s.setCx x c).threads = s.threads := rfl
@[simp] theorem State.setCx_rings : (s.setCx x c).rings = s.rings := rfl
@[simp] theorem State.setCx_lastStarted : (s.setCx x c).lastStarted = s.lastStarted := rfl
@[simp] theorem State.setCx_doms : (s.setCx x c).doms = s.doms := rfl
@[simp] theorem State.setCx_rails : (s.setCx x c).rails = s.rails := rfl
@[simp] theorem State.setCx_nextReq : (s.setCx x c).nextReq = s.nextReq := rfl
@[simp] theorem State.setCx_boot : (s.setCx x c).boot = s.boot := rfl
@[simp] theorem State.setCx_cplx : (s.setCx x c).cplx = sset (fun _ => {}) s.cplx x c := rfl
@[simp] theorem State.setCx_store : (s.setCx x c).store = s.store := rfl
@[simp] theorem State.setCx_mer : (s.setCx x c).mer = s.mer := rfl
@[simp] theorem State.setCx_vecs : (s.setCx x c).vecs = s.vecs := rfl
@[simp] theorem State.setCx_tally : (s.setCx x c).tally = s.tally := rfl
@[simp] theorem State.setCx_lanes : (s.setCx x c).lanes = s.lanes := rfl
@[simp] theorem State.setCx_frames : (s.setCx x c).frames = s.frames := rfl
@[simp] theorem State.setCx_nextFrame : (s.setCx x c).nextFrame = s.nextFrame := rfl
@[simp] theorem State.setCx_copies : (s.setCx x c).copies = s.copies := rfl
@[simp] theorem State.setCx_queues : (s.setCx x c).queues = s.queues := rfl
@[simp] theorem State.setCx_pagers : (s.setCx x c).pagers = s.pagers := rfl
@[simp] theorem State.setCx_objs : (s.setCx x c).objs = s.objs := rfl
@[simp] theorem State.setCx_rounds : (s.setCx x c).rounds = s.rounds := rfl
@[simp] theorem State.setCx_gates : (s.setCx x c).gates = s.gates := rfl
@[simp] theorem State.setCx_slath : (s.setCx x c).slath = s.slath := rfl
@[simp] theorem State.setCx_creel : (s.setCx x c).creel = s.creel := rfl
@[simp] theorem State.setCx_ports : (s.setCx x c).ports = s.ports := rfl
@[simp] theorem State.setCx_fwd : (s.setCx x c).fwd = s.fwd := rfl
@[simp] theorem State.setCx_surveys : (s.setCx x c).surveys = s.surveys := rfl
@[simp] theorem State.setCx_legend : (s.setCx x c).legend = s.legend := rfl
@[simp] theorem State.setCx_pipes : (s.setCx x c).pipes = s.pipes := rfl
@[simp] theorem State.setCx_poison : (s.setCx x c).poison = s.poison := rfl
@[simp] theorem State.setCx_plait : (s.setCx x c).plait = s.plait := rfl
@[simp] theorem State.setCx_plaitIn : (s.setCx x c).plaitIn = s.plaitIn := rfl
@[simp] theorem State.setCx_mbx : (s.setCx x c).mbx = s.mbx := rfl
@[simp] theorem State.setCx_ruleCnt : (s.setCx x c).ruleCnt = s.ruleCnt := rfl
@[simp] theorem State.setCx_msix : (s.setCx x c).msix = s.msix := rfl
@[simp] theorem State.setCx_taps : (s.setCx x c).taps = s.taps := rfl
@[simp] theorem State.setCx_cart : (s.setCx x c).cart = s.cart := rfl
end

/-! ### State.setRingx -/

section
variable (s : State) (n : Nat) (x : RingX)
@[simp] theorem State.setRingx_pending : (s.setRingx n x).pending = s.pending := rfl
@[simp] theorem State.setRingx_now : (s.setRingx n x).now = s.now := rfl
@[simp] theorem State.setRingx_rdata : (s.setRingx n x).rdata = s.rdata := rfl
@[simp] theorem State.setRingx_fresh : (s.setRingx n x).fresh = s.fresh := rfl
@[simp] theorem State.setRingx_regs : (s.setRingx n x).regs = s.regs := rfl
@[simp] theorem State.setRingx_banks : (s.setRingx n x).banks = s.banks := rfl
@[simp] theorem State.setRingx_failed : (s.setRingx n x).failed = s.failed := rfl
@[simp] theorem State.setRingx_mem : (s.setRingx n x).mem = s.mem := rfl
@[simp] theorem State.setRingx_tabs : (s.setRingx n x).tabs = s.tabs := rfl
@[simp] theorem State.setRingx_threads : (s.setRingx n x).threads = s.threads := rfl
@[simp] theorem State.setRingx_rings : (s.setRingx n x).rings = sset (fun _ => {}) s.rings n x := rfl
@[simp] theorem State.setRingx_lastStarted : (s.setRingx n x).lastStarted = s.lastStarted := rfl
@[simp] theorem State.setRingx_doms : (s.setRingx n x).doms = s.doms := rfl
@[simp] theorem State.setRingx_rails : (s.setRingx n x).rails = s.rails := rfl
@[simp] theorem State.setRingx_nextReq : (s.setRingx n x).nextReq = s.nextReq := rfl
@[simp] theorem State.setRingx_boot : (s.setRingx n x).boot = s.boot := rfl
@[simp] theorem State.setRingx_cplx : (s.setRingx n x).cplx = s.cplx := rfl
@[simp] theorem State.setRingx_store : (s.setRingx n x).store = s.store := rfl
@[simp] theorem State.setRingx_mer : (s.setRingx n x).mer = s.mer := rfl
@[simp] theorem State.setRingx_vecs : (s.setRingx n x).vecs = s.vecs := rfl
@[simp] theorem State.setRingx_tally : (s.setRingx n x).tally = s.tally := rfl
@[simp] theorem State.setRingx_lanes : (s.setRingx n x).lanes = s.lanes := rfl
@[simp] theorem State.setRingx_frames : (s.setRingx n x).frames = s.frames := rfl
@[simp] theorem State.setRingx_nextFrame : (s.setRingx n x).nextFrame = s.nextFrame := rfl
@[simp] theorem State.setRingx_copies : (s.setRingx n x).copies = s.copies := rfl
@[simp] theorem State.setRingx_queues : (s.setRingx n x).queues = s.queues := rfl
@[simp] theorem State.setRingx_pagers : (s.setRingx n x).pagers = s.pagers := rfl
@[simp] theorem State.setRingx_objs : (s.setRingx n x).objs = s.objs := rfl
@[simp] theorem State.setRingx_rounds : (s.setRingx n x).rounds = s.rounds := rfl
@[simp] theorem State.setRingx_gates : (s.setRingx n x).gates = s.gates := rfl
@[simp] theorem State.setRingx_slath : (s.setRingx n x).slath = s.slath := rfl
@[simp] theorem State.setRingx_creel : (s.setRingx n x).creel = s.creel := rfl
@[simp] theorem State.setRingx_ports : (s.setRingx n x).ports = s.ports := rfl
@[simp] theorem State.setRingx_fwd : (s.setRingx n x).fwd = s.fwd := rfl
@[simp] theorem State.setRingx_surveys : (s.setRingx n x).surveys = s.surveys := rfl
@[simp] theorem State.setRingx_legend : (s.setRingx n x).legend = s.legend := rfl
@[simp] theorem State.setRingx_pipes : (s.setRingx n x).pipes = s.pipes := rfl
@[simp] theorem State.setRingx_poison : (s.setRingx n x).poison = s.poison := rfl
@[simp] theorem State.setRingx_plait : (s.setRingx n x).plait = s.plait := rfl
@[simp] theorem State.setRingx_plaitIn : (s.setRingx n x).plaitIn = s.plaitIn := rfl
@[simp] theorem State.setRingx_mbx : (s.setRingx n x).mbx = s.mbx := rfl
@[simp] theorem State.setRingx_ruleCnt : (s.setRingx n x).ruleCnt = s.ruleCnt := rfl
@[simp] theorem State.setRingx_msix : (s.setRingx n x).msix = s.msix := rfl
@[simp] theorem State.setRingx_taps : (s.setRingx n x).taps = s.taps := rfl
@[simp] theorem State.setRingx_cart : (s.setRingx n x).cart = s.cart := rfl
end

/-! ### State.setBank -/

section
variable (s : State) (b slot v : Nat)
@[simp] theorem State.setBank_pending : (s.setBank b slot v).pending = s.pending := rfl
@[simp] theorem State.setBank_now : (s.setBank b slot v).now = s.now := rfl
@[simp] theorem State.setBank_rdata : (s.setBank b slot v).rdata = s.rdata := rfl
@[simp] theorem State.setBank_fresh : (s.setBank b slot v).fresh = s.fresh := rfl
@[simp] theorem State.setBank_regs : (s.setBank b slot v).regs = s.regs := rfl
@[simp] theorem State.setBank_banks : (s.setBank b slot v).banks = sset (fun _ => 0) s.banks (slot * 64 + b) v := rfl
@[simp] theorem State.setBank_failed : (s.setBank b slot v).failed = s.failed := rfl
@[simp] theorem State.setBank_mem : (s.setBank b slot v).mem = s.mem := rfl
@[simp] theorem State.setBank_tabs : (s.setBank b slot v).tabs = s.tabs := rfl
@[simp] theorem State.setBank_threads : (s.setBank b slot v).threads = s.threads := rfl
@[simp] theorem State.setBank_rings : (s.setBank b slot v).rings = s.rings := rfl
@[simp] theorem State.setBank_lastStarted : (s.setBank b slot v).lastStarted = s.lastStarted := rfl
@[simp] theorem State.setBank_doms : (s.setBank b slot v).doms = s.doms := rfl
@[simp] theorem State.setBank_rails : (s.setBank b slot v).rails = s.rails := rfl
@[simp] theorem State.setBank_nextReq : (s.setBank b slot v).nextReq = s.nextReq := rfl
@[simp] theorem State.setBank_boot : (s.setBank b slot v).boot = s.boot := rfl
@[simp] theorem State.setBank_cplx : (s.setBank b slot v).cplx = s.cplx := rfl
@[simp] theorem State.setBank_store : (s.setBank b slot v).store = s.store := rfl
@[simp] theorem State.setBank_mer : (s.setBank b slot v).mer = s.mer := rfl
@[simp] theorem State.setBank_vecs : (s.setBank b slot v).vecs = s.vecs := rfl
@[simp] theorem State.setBank_tally : (s.setBank b slot v).tally = s.tally := rfl
@[simp] theorem State.setBank_lanes : (s.setBank b slot v).lanes = s.lanes := rfl
@[simp] theorem State.setBank_frames : (s.setBank b slot v).frames = s.frames := rfl
@[simp] theorem State.setBank_nextFrame : (s.setBank b slot v).nextFrame = s.nextFrame := rfl
@[simp] theorem State.setBank_copies : (s.setBank b slot v).copies = s.copies := rfl
@[simp] theorem State.setBank_queues : (s.setBank b slot v).queues = s.queues := rfl
@[simp] theorem State.setBank_pagers : (s.setBank b slot v).pagers = s.pagers := rfl
@[simp] theorem State.setBank_objs : (s.setBank b slot v).objs = s.objs := rfl
@[simp] theorem State.setBank_rounds : (s.setBank b slot v).rounds = s.rounds := rfl
@[simp] theorem State.setBank_gates : (s.setBank b slot v).gates = s.gates := rfl
@[simp] theorem State.setBank_slath : (s.setBank b slot v).slath = s.slath := rfl
@[simp] theorem State.setBank_creel : (s.setBank b slot v).creel = s.creel := rfl
@[simp] theorem State.setBank_ports : (s.setBank b slot v).ports = s.ports := rfl
@[simp] theorem State.setBank_fwd : (s.setBank b slot v).fwd = s.fwd := rfl
@[simp] theorem State.setBank_surveys : (s.setBank b slot v).surveys = s.surveys := rfl
@[simp] theorem State.setBank_legend : (s.setBank b slot v).legend = s.legend := rfl
@[simp] theorem State.setBank_pipes : (s.setBank b slot v).pipes = s.pipes := rfl
@[simp] theorem State.setBank_poison : (s.setBank b slot v).poison = s.poison := rfl
@[simp] theorem State.setBank_plait : (s.setBank b slot v).plait = s.plait := rfl
@[simp] theorem State.setBank_plaitIn : (s.setBank b slot v).plaitIn = s.plaitIn := rfl
@[simp] theorem State.setBank_mbx : (s.setBank b slot v).mbx = s.mbx := rfl
@[simp] theorem State.setBank_ruleCnt : (s.setBank b slot v).ruleCnt = s.ruleCnt := rfl
@[simp] theorem State.setBank_msix : (s.setBank b slot v).msix = s.msix := rfl
@[simp] theorem State.setBank_taps : (s.setBank b slot v).taps = s.taps := rfl
@[simp] theorem State.setBank_cart : (s.setBank b slot v).cart = s.cart := rfl
end

/-! ### State.answer -/

section
variable (s : State) (v : Nat)
@[simp] theorem State.answer_pending : (s.answer v).pending = s.pending := rfl
@[simp] theorem State.answer_now : (s.answer v).now = s.now := rfl
@[simp] theorem State.answer_rdata : (s.answer v).rdata = BitVec.ofNat 32 v := rfl
@[simp] theorem State.answer_fresh : (s.answer v).fresh = s.fresh := rfl
@[simp] theorem State.answer_regs : (s.answer v).regs = s.regs := rfl
@[simp] theorem State.answer_banks : (s.answer v).banks = s.banks := rfl
@[simp] theorem State.answer_failed : (s.answer v).failed = s.failed := rfl
@[simp] theorem State.answer_mem : (s.answer v).mem = s.mem := rfl
@[simp] theorem State.answer_tabs : (s.answer v).tabs = s.tabs := rfl
@[simp] theorem State.answer_threads : (s.answer v).threads = s.threads := rfl
@[simp] theorem State.answer_rings : (s.answer v).rings = s.rings := rfl
@[simp] theorem State.answer_lastStarted : (s.answer v).lastStarted = s.lastStarted := rfl
@[simp] theorem State.answer_doms : (s.answer v).doms = s.doms := rfl
@[simp] theorem State.answer_rails : (s.answer v).rails = s.rails := rfl
@[simp] theorem State.answer_nextReq : (s.answer v).nextReq = s.nextReq := rfl
@[simp] theorem State.answer_boot : (s.answer v).boot = s.boot := rfl
@[simp] theorem State.answer_cplx : (s.answer v).cplx = s.cplx := rfl
@[simp] theorem State.answer_store : (s.answer v).store = s.store := rfl
@[simp] theorem State.answer_mer : (s.answer v).mer = s.mer := rfl
@[simp] theorem State.answer_vecs : (s.answer v).vecs = s.vecs := rfl
@[simp] theorem State.answer_tally : (s.answer v).tally = s.tally := rfl
@[simp] theorem State.answer_lanes : (s.answer v).lanes = s.lanes := rfl
@[simp] theorem State.answer_frames : (s.answer v).frames = s.frames := rfl
@[simp] theorem State.answer_nextFrame : (s.answer v).nextFrame = s.nextFrame := rfl
@[simp] theorem State.answer_copies : (s.answer v).copies = s.copies := rfl
@[simp] theorem State.answer_queues : (s.answer v).queues = s.queues := rfl
@[simp] theorem State.answer_pagers : (s.answer v).pagers = s.pagers := rfl
@[simp] theorem State.answer_objs : (s.answer v).objs = s.objs := rfl
@[simp] theorem State.answer_rounds : (s.answer v).rounds = s.rounds := rfl
@[simp] theorem State.answer_gates : (s.answer v).gates = s.gates := rfl
@[simp] theorem State.answer_slath : (s.answer v).slath = s.slath := rfl
@[simp] theorem State.answer_creel : (s.answer v).creel = s.creel := rfl
@[simp] theorem State.answer_ports : (s.answer v).ports = s.ports := rfl
@[simp] theorem State.answer_fwd : (s.answer v).fwd = s.fwd := rfl
@[simp] theorem State.answer_surveys : (s.answer v).surveys = s.surveys := rfl
@[simp] theorem State.answer_legend : (s.answer v).legend = s.legend := rfl
@[simp] theorem State.answer_pipes : (s.answer v).pipes = s.pipes := rfl
@[simp] theorem State.answer_poison : (s.answer v).poison = s.poison := rfl
@[simp] theorem State.answer_plait : (s.answer v).plait = s.plait := rfl
@[simp] theorem State.answer_plaitIn : (s.answer v).plaitIn = s.plaitIn := rfl
@[simp] theorem State.answer_mbx : (s.answer v).mbx = s.mbx := rfl
@[simp] theorem State.answer_ruleCnt : (s.answer v).ruleCnt = s.ruleCnt := rfl
@[simp] theorem State.answer_msix : (s.answer v).msix = s.msix := rfl
@[simp] theorem State.answer_taps : (s.answer v).taps = s.taps := rfl
@[simp] theorem State.answer_cart : (s.answer v).cart = s.cart := rfl
end

/-! ### State.useFree -/

section
variable (s : State) 
@[simp] theorem State.useFree_pending : s.useFree.pending = s.pending := rfl
@[simp] theorem State.useFree_now : s.useFree.now = s.now := rfl
@[simp] theorem State.useFree_rdata : s.useFree.rdata = s.rdata := rfl
@[simp] theorem State.useFree_fresh : s.useFree.fresh = s.fresh + 1 := rfl
@[simp] theorem State.useFree_regs : s.useFree.regs = s.regs := rfl
@[simp] theorem State.useFree_banks : s.useFree.banks = s.banks := rfl
@[simp] theorem State.useFree_failed : s.useFree.failed = s.failed := rfl
@[simp] theorem State.useFree_mem : s.useFree.mem = s.mem := rfl
@[simp] theorem State.useFree_tabs : s.useFree.tabs = s.tabs := rfl
@[simp] theorem State.useFree_threads : s.useFree.threads = s.threads := rfl
@[simp] theorem State.useFree_rings : s.useFree.rings = s.rings := rfl
@[simp] theorem State.useFree_lastStarted : s.useFree.lastStarted = s.lastStarted := rfl
@[simp] theorem State.useFree_doms : s.useFree.doms = s.doms := rfl
@[simp] theorem State.useFree_rails : s.useFree.rails = s.rails := rfl
@[simp] theorem State.useFree_nextReq : s.useFree.nextReq = s.nextReq := rfl
@[simp] theorem State.useFree_boot : s.useFree.boot = s.boot := rfl
@[simp] theorem State.useFree_cplx : s.useFree.cplx = s.cplx := rfl
@[simp] theorem State.useFree_store : s.useFree.store = s.store := rfl
@[simp] theorem State.useFree_mer : s.useFree.mer = s.mer := rfl
@[simp] theorem State.useFree_vecs : s.useFree.vecs = s.vecs := rfl
@[simp] theorem State.useFree_tally : s.useFree.tally = s.tally := rfl
@[simp] theorem State.useFree_lanes : s.useFree.lanes = s.lanes := rfl
@[simp] theorem State.useFree_frames : s.useFree.frames = s.frames := rfl
@[simp] theorem State.useFree_nextFrame : s.useFree.nextFrame = s.nextFrame := rfl
@[simp] theorem State.useFree_copies : s.useFree.copies = s.copies := rfl
@[simp] theorem State.useFree_queues : s.useFree.queues = s.queues := rfl
@[simp] theorem State.useFree_pagers : s.useFree.pagers = s.pagers := rfl
@[simp] theorem State.useFree_objs : s.useFree.objs = s.objs := rfl
@[simp] theorem State.useFree_rounds : s.useFree.rounds = s.rounds := rfl
@[simp] theorem State.useFree_gates : s.useFree.gates = s.gates := rfl
@[simp] theorem State.useFree_slath : s.useFree.slath = s.slath := rfl
@[simp] theorem State.useFree_creel : s.useFree.creel = s.creel := rfl
@[simp] theorem State.useFree_ports : s.useFree.ports = s.ports := rfl
@[simp] theorem State.useFree_fwd : s.useFree.fwd = s.fwd := rfl
@[simp] theorem State.useFree_surveys : s.useFree.surveys = s.surveys := rfl
@[simp] theorem State.useFree_legend : s.useFree.legend = s.legend := rfl
@[simp] theorem State.useFree_pipes : s.useFree.pipes = s.pipes := rfl
@[simp] theorem State.useFree_poison : s.useFree.poison = s.poison := rfl
@[simp] theorem State.useFree_plait : s.useFree.plait = s.plait := rfl
@[simp] theorem State.useFree_plaitIn : s.useFree.plaitIn = s.plaitIn := rfl
@[simp] theorem State.useFree_mbx : s.useFree.mbx = s.mbx := rfl
@[simp] theorem State.useFree_ruleCnt : s.useFree.ruleCnt = s.ruleCnt := rfl
@[simp] theorem State.useFree_msix : s.useFree.msix = s.msix := rfl
@[simp] theorem State.useFree_taps : s.useFree.taps = s.taps := rfl
@[simp] theorem State.useFree_cart : s.useFree.cart = s.cart := rfl
end

/-! ### State.setQ -/

section
variable (s : State) (i : Nat) (x : Queue)
@[simp] theorem State.setQ_pending : (s.setQ i x).pending = s.pending := rfl
@[simp] theorem State.setQ_now : (s.setQ i x).now = s.now := rfl
@[simp] theorem State.setQ_rdata : (s.setQ i x).rdata = s.rdata := rfl
@[simp] theorem State.setQ_fresh : (s.setQ i x).fresh = s.fresh := rfl
@[simp] theorem State.setQ_regs : (s.setQ i x).regs = s.regs := rfl
@[simp] theorem State.setQ_banks : (s.setQ i x).banks = s.banks := rfl
@[simp] theorem State.setQ_failed : (s.setQ i x).failed = s.failed := rfl
@[simp] theorem State.setQ_mem : (s.setQ i x).mem = s.mem := rfl
@[simp] theorem State.setQ_tabs : (s.setQ i x).tabs = s.tabs := rfl
@[simp] theorem State.setQ_threads : (s.setQ i x).threads = s.threads := rfl
@[simp] theorem State.setQ_rings : (s.setQ i x).rings = s.rings := rfl
@[simp] theorem State.setQ_lastStarted : (s.setQ i x).lastStarted = s.lastStarted := rfl
@[simp] theorem State.setQ_doms : (s.setQ i x).doms = s.doms := rfl
@[simp] theorem State.setQ_rails : (s.setQ i x).rails = s.rails := rfl
@[simp] theorem State.setQ_nextReq : (s.setQ i x).nextReq = s.nextReq := rfl
@[simp] theorem State.setQ_boot : (s.setQ i x).boot = s.boot := rfl
@[simp] theorem State.setQ_cplx : (s.setQ i x).cplx = s.cplx := rfl
@[simp] theorem State.setQ_store : (s.setQ i x).store = s.store := rfl
@[simp] theorem State.setQ_mer : (s.setQ i x).mer = s.mer := rfl
@[simp] theorem State.setQ_vecs : (s.setQ i x).vecs = s.vecs := rfl
@[simp] theorem State.setQ_tally : (s.setQ i x).tally = s.tally := rfl
@[simp] theorem State.setQ_lanes : (s.setQ i x).lanes = s.lanes := rfl
@[simp] theorem State.setQ_frames : (s.setQ i x).frames = s.frames := rfl
@[simp] theorem State.setQ_nextFrame : (s.setQ i x).nextFrame = s.nextFrame := rfl
@[simp] theorem State.setQ_copies : (s.setQ i x).copies = s.copies := rfl
@[simp] theorem State.setQ_queues : (s.setQ i x).queues = sset queueDflt s.queues i x := rfl
@[simp] theorem State.setQ_pagers : (s.setQ i x).pagers = s.pagers := rfl
@[simp] theorem State.setQ_objs : (s.setQ i x).objs = s.objs := rfl
@[simp] theorem State.setQ_rounds : (s.setQ i x).rounds = s.rounds := rfl
@[simp] theorem State.setQ_gates : (s.setQ i x).gates = s.gates := rfl
@[simp] theorem State.setQ_slath : (s.setQ i x).slath = s.slath := rfl
@[simp] theorem State.setQ_creel : (s.setQ i x).creel = s.creel := rfl
@[simp] theorem State.setQ_ports : (s.setQ i x).ports = s.ports := rfl
@[simp] theorem State.setQ_fwd : (s.setQ i x).fwd = s.fwd := rfl
@[simp] theorem State.setQ_surveys : (s.setQ i x).surveys = s.surveys := rfl
@[simp] theorem State.setQ_legend : (s.setQ i x).legend = s.legend := rfl
@[simp] theorem State.setQ_pipes : (s.setQ i x).pipes = s.pipes := rfl
@[simp] theorem State.setQ_poison : (s.setQ i x).poison = s.poison := rfl
@[simp] theorem State.setQ_plait : (s.setQ i x).plait = s.plait := rfl
@[simp] theorem State.setQ_plaitIn : (s.setQ i x).plaitIn = s.plaitIn := rfl
@[simp] theorem State.setQ_mbx : (s.setQ i x).mbx = s.mbx := rfl
@[simp] theorem State.setQ_ruleCnt : (s.setQ i x).ruleCnt = s.ruleCnt := rfl
@[simp] theorem State.setQ_msix : (s.setQ i x).msix = s.msix := rfl
@[simp] theorem State.setQ_taps : (s.setQ i x).taps = s.taps := rfl
@[simp] theorem State.setQ_cart : (s.setQ i x).cart = s.cart := rfl
end

/-! ### State.setPx -/

section
variable (s : State) (p : Nat) (x : PortX)
@[simp] theorem State.setPx_pending : (s.setPx p x).pending = s.pending := rfl
@[simp] theorem State.setPx_now : (s.setPx p x).now = s.now := rfl
@[simp] theorem State.setPx_rdata : (s.setPx p x).rdata = s.rdata := rfl
@[simp] theorem State.setPx_fresh : (s.setPx p x).fresh = s.fresh := rfl
@[simp] theorem State.setPx_regs : (s.setPx p x).regs = s.regs := rfl
@[simp] theorem State.setPx_banks : (s.setPx p x).banks = s.banks := rfl
@[simp] theorem State.setPx_failed : (s.setPx p x).failed = s.failed := rfl
@[simp] theorem State.setPx_mem : (s.setPx p x).mem = s.mem := rfl
@[simp] theorem State.setPx_tabs : (s.setPx p x).tabs = s.tabs := rfl
@[simp] theorem State.setPx_threads : (s.setPx p x).threads = s.threads := rfl
@[simp] theorem State.setPx_rings : (s.setPx p x).rings = s.rings := rfl
@[simp] theorem State.setPx_lastStarted : (s.setPx p x).lastStarted = s.lastStarted := rfl
@[simp] theorem State.setPx_doms : (s.setPx p x).doms = s.doms := rfl
@[simp] theorem State.setPx_rails : (s.setPx p x).rails = s.rails := rfl
@[simp] theorem State.setPx_nextReq : (s.setPx p x).nextReq = s.nextReq := rfl
@[simp] theorem State.setPx_boot : (s.setPx p x).boot = s.boot := rfl
@[simp] theorem State.setPx_cplx : (s.setPx p x).cplx = s.cplx := rfl
@[simp] theorem State.setPx_store : (s.setPx p x).store = s.store := rfl
@[simp] theorem State.setPx_mer : (s.setPx p x).mer = s.mer := rfl
@[simp] theorem State.setPx_vecs : (s.setPx p x).vecs = s.vecs := rfl
@[simp] theorem State.setPx_tally : (s.setPx p x).tally = s.tally := rfl
@[simp] theorem State.setPx_lanes : (s.setPx p x).lanes = s.lanes := rfl
@[simp] theorem State.setPx_frames : (s.setPx p x).frames = s.frames := rfl
@[simp] theorem State.setPx_nextFrame : (s.setPx p x).nextFrame = s.nextFrame := rfl
@[simp] theorem State.setPx_copies : (s.setPx p x).copies = s.copies := rfl
@[simp] theorem State.setPx_queues : (s.setPx p x).queues = s.queues := rfl
@[simp] theorem State.setPx_pagers : (s.setPx p x).pagers = s.pagers := rfl
@[simp] theorem State.setPx_objs : (s.setPx p x).objs = s.objs := rfl
@[simp] theorem State.setPx_rounds : (s.setPx p x).rounds = s.rounds := rfl
@[simp] theorem State.setPx_gates : (s.setPx p x).gates = s.gates := rfl
@[simp] theorem State.setPx_slath : (s.setPx p x).slath = s.slath := rfl
@[simp] theorem State.setPx_creel : (s.setPx p x).creel = s.creel := rfl
@[simp] theorem State.setPx_ports : (s.setPx p x).ports = sset (fun _ => {}) s.ports p x := rfl
@[simp] theorem State.setPx_fwd : (s.setPx p x).fwd = s.fwd := rfl
@[simp] theorem State.setPx_surveys : (s.setPx p x).surveys = s.surveys := rfl
@[simp] theorem State.setPx_legend : (s.setPx p x).legend = s.legend := rfl
@[simp] theorem State.setPx_pipes : (s.setPx p x).pipes = s.pipes := rfl
@[simp] theorem State.setPx_poison : (s.setPx p x).poison = s.poison := rfl
@[simp] theorem State.setPx_plait : (s.setPx p x).plait = s.plait := rfl
@[simp] theorem State.setPx_plaitIn : (s.setPx p x).plaitIn = s.plaitIn := rfl
@[simp] theorem State.setPx_mbx : (s.setPx p x).mbx = s.mbx := rfl
@[simp] theorem State.setPx_ruleCnt : (s.setPx p x).ruleCnt = s.ruleCnt := rfl
@[simp] theorem State.setPx_msix : (s.setPx p x).msix = s.msix := rfl
@[simp] theorem State.setPx_taps : (s.setPx p x).taps = s.taps := rfl
@[simp] theorem State.setPx_cart : (s.setPx p x).cart = s.cart := rfl
end

/-! ### State.setPipe -/

section
variable (s : State) (n : Nat) (x : PipeX)
@[simp] theorem State.setPipe_pending : (s.setPipe n x).pending = s.pending := rfl
@[simp] theorem State.setPipe_now : (s.setPipe n x).now = s.now := rfl
@[simp] theorem State.setPipe_rdata : (s.setPipe n x).rdata = s.rdata := rfl
@[simp] theorem State.setPipe_fresh : (s.setPipe n x).fresh = s.fresh := rfl
@[simp] theorem State.setPipe_regs : (s.setPipe n x).regs = s.regs := rfl
@[simp] theorem State.setPipe_banks : (s.setPipe n x).banks = s.banks := rfl
@[simp] theorem State.setPipe_failed : (s.setPipe n x).failed = s.failed := rfl
@[simp] theorem State.setPipe_mem : (s.setPipe n x).mem = s.mem := rfl
@[simp] theorem State.setPipe_tabs : (s.setPipe n x).tabs = s.tabs := rfl
@[simp] theorem State.setPipe_threads : (s.setPipe n x).threads = s.threads := rfl
@[simp] theorem State.setPipe_rings : (s.setPipe n x).rings = s.rings := rfl
@[simp] theorem State.setPipe_lastStarted : (s.setPipe n x).lastStarted = s.lastStarted := rfl
@[simp] theorem State.setPipe_doms : (s.setPipe n x).doms = s.doms := rfl
@[simp] theorem State.setPipe_rails : (s.setPipe n x).rails = s.rails := rfl
@[simp] theorem State.setPipe_nextReq : (s.setPipe n x).nextReq = s.nextReq := rfl
@[simp] theorem State.setPipe_boot : (s.setPipe n x).boot = s.boot := rfl
@[simp] theorem State.setPipe_cplx : (s.setPipe n x).cplx = s.cplx := rfl
@[simp] theorem State.setPipe_store : (s.setPipe n x).store = s.store := rfl
@[simp] theorem State.setPipe_mer : (s.setPipe n x).mer = s.mer := rfl
@[simp] theorem State.setPipe_vecs : (s.setPipe n x).vecs = s.vecs := rfl
@[simp] theorem State.setPipe_tally : (s.setPipe n x).tally = s.tally := rfl
@[simp] theorem State.setPipe_lanes : (s.setPipe n x).lanes = s.lanes := rfl
@[simp] theorem State.setPipe_frames : (s.setPipe n x).frames = s.frames := rfl
@[simp] theorem State.setPipe_nextFrame : (s.setPipe n x).nextFrame = s.nextFrame := rfl
@[simp] theorem State.setPipe_copies : (s.setPipe n x).copies = s.copies := rfl
@[simp] theorem State.setPipe_queues : (s.setPipe n x).queues = s.queues := rfl
@[simp] theorem State.setPipe_pagers : (s.setPipe n x).pagers = s.pagers := rfl
@[simp] theorem State.setPipe_objs : (s.setPipe n x).objs = s.objs := rfl
@[simp] theorem State.setPipe_rounds : (s.setPipe n x).rounds = s.rounds := rfl
@[simp] theorem State.setPipe_gates : (s.setPipe n x).gates = s.gates := rfl
@[simp] theorem State.setPipe_slath : (s.setPipe n x).slath = s.slath := rfl
@[simp] theorem State.setPipe_creel : (s.setPipe n x).creel = s.creel := rfl
@[simp] theorem State.setPipe_ports : (s.setPipe n x).ports = s.ports := rfl
@[simp] theorem State.setPipe_fwd : (s.setPipe n x).fwd = s.fwd := rfl
@[simp] theorem State.setPipe_surveys : (s.setPipe n x).surveys = s.surveys := rfl
@[simp] theorem State.setPipe_legend : (s.setPipe n x).legend = s.legend := rfl
@[simp] theorem State.setPipe_pipes : (s.setPipe n x).pipes = sset (fun _ => {}) s.pipes n x := rfl
@[simp] theorem State.setPipe_poison : (s.setPipe n x).poison = s.poison := rfl
@[simp] theorem State.setPipe_plait : (s.setPipe n x).plait = s.plait := rfl
@[simp] theorem State.setPipe_plaitIn : (s.setPipe n x).plaitIn = s.plaitIn := rfl
@[simp] theorem State.setPipe_mbx : (s.setPipe n x).mbx = s.mbx := rfl
@[simp] theorem State.setPipe_ruleCnt : (s.setPipe n x).ruleCnt = s.ruleCnt := rfl
@[simp] theorem State.setPipe_msix : (s.setPipe n x).msix = s.msix := rfl
@[simp] theorem State.setPipe_taps : (s.setPipe n x).taps = s.taps := rfl
@[simp] theorem State.setPipe_cart : (s.setPipe n x).cart = s.cart := rfl
end

/-! ### State.setPager -/

section
variable (s : State) (b : Nat) (x : PagerX)
@[simp] theorem State.setPager_pending : (s.setPager b x).pending = s.pending := rfl
@[simp] theorem State.setPager_now : (s.setPager b x).now = s.now := rfl
@[simp] theorem State.setPager_rdata : (s.setPager b x).rdata = s.rdata := rfl
@[simp] theorem State.setPager_fresh : (s.setPager b x).fresh = s.fresh := rfl
@[simp] theorem State.setPager_regs : (s.setPager b x).regs = s.regs := rfl
@[simp] theorem State.setPager_banks : (s.setPager b x).banks = s.banks := rfl
@[simp] theorem State.setPager_failed : (s.setPager b x).failed = s.failed := rfl
@[simp] theorem State.setPager_mem : (s.setPager b x).mem = s.mem := rfl
@[simp] theorem State.setPager_tabs : (s.setPager b x).tabs = s.tabs := rfl
@[simp] theorem State.setPager_threads : (s.setPager b x).threads = s.threads := rfl
@[simp] theorem State.setPager_rings : (s.setPager b x).rings = s.rings := rfl
@[simp] theorem State.setPager_lastStarted : (s.setPager b x).lastStarted = s.lastStarted := rfl
@[simp] theorem State.setPager_doms : (s.setPager b x).doms = s.doms := rfl
@[simp] theorem State.setPager_rails : (s.setPager b x).rails = s.rails := rfl
@[simp] theorem State.setPager_nextReq : (s.setPager b x).nextReq = s.nextReq := rfl
@[simp] theorem State.setPager_boot : (s.setPager b x).boot = s.boot := rfl
@[simp] theorem State.setPager_cplx : (s.setPager b x).cplx = s.cplx := rfl
@[simp] theorem State.setPager_store : (s.setPager b x).store = s.store := rfl
@[simp] theorem State.setPager_mer : (s.setPager b x).mer = s.mer := rfl
@[simp] theorem State.setPager_vecs : (s.setPager b x).vecs = s.vecs := rfl
@[simp] theorem State.setPager_tally : (s.setPager b x).tally = s.tally := rfl
@[simp] theorem State.setPager_lanes : (s.setPager b x).lanes = s.lanes := rfl
@[simp] theorem State.setPager_frames : (s.setPager b x).frames = s.frames := rfl
@[simp] theorem State.setPager_nextFrame : (s.setPager b x).nextFrame = s.nextFrame := rfl
@[simp] theorem State.setPager_copies : (s.setPager b x).copies = s.copies := rfl
@[simp] theorem State.setPager_queues : (s.setPager b x).queues = s.queues := rfl
@[simp] theorem State.setPager_pagers : (s.setPager b x).pagers = sset (fun _ => {}) s.pagers b x := rfl
@[simp] theorem State.setPager_objs : (s.setPager b x).objs = s.objs := rfl
@[simp] theorem State.setPager_rounds : (s.setPager b x).rounds = s.rounds := rfl
@[simp] theorem State.setPager_gates : (s.setPager b x).gates = s.gates := rfl
@[simp] theorem State.setPager_slath : (s.setPager b x).slath = s.slath := rfl
@[simp] theorem State.setPager_creel : (s.setPager b x).creel = s.creel := rfl
@[simp] theorem State.setPager_ports : (s.setPager b x).ports = s.ports := rfl
@[simp] theorem State.setPager_fwd : (s.setPager b x).fwd = s.fwd := rfl
@[simp] theorem State.setPager_surveys : (s.setPager b x).surveys = s.surveys := rfl
@[simp] theorem State.setPager_legend : (s.setPager b x).legend = s.legend := rfl
@[simp] theorem State.setPager_pipes : (s.setPager b x).pipes = s.pipes := rfl
@[simp] theorem State.setPager_poison : (s.setPager b x).poison = s.poison := rfl
@[simp] theorem State.setPager_plait : (s.setPager b x).plait = s.plait := rfl
@[simp] theorem State.setPager_plaitIn : (s.setPager b x).plaitIn = s.plaitIn := rfl
@[simp] theorem State.setPager_mbx : (s.setPager b x).mbx = s.mbx := rfl
@[simp] theorem State.setPager_ruleCnt : (s.setPager b x).ruleCnt = s.ruleCnt := rfl
@[simp] theorem State.setPager_msix : (s.setPager b x).msix = s.msix := rfl
@[simp] theorem State.setPager_taps : (s.setPager b x).taps = s.taps := rfl
@[simp] theorem State.setPager_cart : (s.setPager b x).cart = s.cart := rfl
end

/-! ### State.setFr -/

section
variable (s : State) (f : Nat) (x : Frame)
@[simp] theorem State.setFr_pending : (s.setFr f x).pending = s.pending := rfl
@[simp] theorem State.setFr_now : (s.setFr f x).now = s.now := rfl
@[simp] theorem State.setFr_rdata : (s.setFr f x).rdata = s.rdata := rfl
@[simp] theorem State.setFr_fresh : (s.setFr f x).fresh = s.fresh := rfl
@[simp] theorem State.setFr_regs : (s.setFr f x).regs = s.regs := rfl
@[simp] theorem State.setFr_banks : (s.setFr f x).banks = s.banks := rfl
@[simp] theorem State.setFr_failed : (s.setFr f x).failed = s.failed := rfl
@[simp] theorem State.setFr_mem : (s.setFr f x).mem = s.mem := rfl
@[simp] theorem State.setFr_tabs : (s.setFr f x).tabs = s.tabs := rfl
@[simp] theorem State.setFr_threads : (s.setFr f x).threads = s.threads := rfl
@[simp] theorem State.setFr_rings : (s.setFr f x).rings = s.rings := rfl
@[simp] theorem State.setFr_lastStarted : (s.setFr f x).lastStarted = s.lastStarted := rfl
@[simp] theorem State.setFr_doms : (s.setFr f x).doms = s.doms := rfl
@[simp] theorem State.setFr_rails : (s.setFr f x).rails = s.rails := rfl
@[simp] theorem State.setFr_nextReq : (s.setFr f x).nextReq = s.nextReq := rfl
@[simp] theorem State.setFr_boot : (s.setFr f x).boot = s.boot := rfl
@[simp] theorem State.setFr_cplx : (s.setFr f x).cplx = s.cplx := rfl
@[simp] theorem State.setFr_store : (s.setFr f x).store = s.store := rfl
@[simp] theorem State.setFr_mer : (s.setFr f x).mer = s.mer := rfl
@[simp] theorem State.setFr_vecs : (s.setFr f x).vecs = s.vecs := rfl
@[simp] theorem State.setFr_tally : (s.setFr f x).tally = s.tally := rfl
@[simp] theorem State.setFr_lanes : (s.setFr f x).lanes = s.lanes := rfl
@[simp] theorem State.setFr_frames : (s.setFr f x).frames = sset (fun _ => {}) s.frames f x := rfl
@[simp] theorem State.setFr_nextFrame : (s.setFr f x).nextFrame = s.nextFrame := rfl
@[simp] theorem State.setFr_copies : (s.setFr f x).copies = s.copies := rfl
@[simp] theorem State.setFr_queues : (s.setFr f x).queues = s.queues := rfl
@[simp] theorem State.setFr_pagers : (s.setFr f x).pagers = s.pagers := rfl
@[simp] theorem State.setFr_objs : (s.setFr f x).objs = s.objs := rfl
@[simp] theorem State.setFr_rounds : (s.setFr f x).rounds = s.rounds := rfl
@[simp] theorem State.setFr_gates : (s.setFr f x).gates = s.gates := rfl
@[simp] theorem State.setFr_slath : (s.setFr f x).slath = s.slath := rfl
@[simp] theorem State.setFr_creel : (s.setFr f x).creel = s.creel := rfl
@[simp] theorem State.setFr_ports : (s.setFr f x).ports = s.ports := rfl
@[simp] theorem State.setFr_fwd : (s.setFr f x).fwd = s.fwd := rfl
@[simp] theorem State.setFr_surveys : (s.setFr f x).surveys = s.surveys := rfl
@[simp] theorem State.setFr_legend : (s.setFr f x).legend = s.legend := rfl
@[simp] theorem State.setFr_pipes : (s.setFr f x).pipes = s.pipes := rfl
@[simp] theorem State.setFr_poison : (s.setFr f x).poison = s.poison := rfl
@[simp] theorem State.setFr_plait : (s.setFr f x).plait = s.plait := rfl
@[simp] theorem State.setFr_plaitIn : (s.setFr f x).plaitIn = s.plaitIn := rfl
@[simp] theorem State.setFr_mbx : (s.setFr f x).mbx = s.mbx := rfl
@[simp] theorem State.setFr_ruleCnt : (s.setFr f x).ruleCnt = s.ruleCnt := rfl
@[simp] theorem State.setFr_msix : (s.setFr f x).msix = s.msix := rfl
@[simp] theorem State.setFr_taps : (s.setFr f x).taps = s.taps := rfl
@[simp] theorem State.setFr_cart : (s.setFr f x).cart = s.cart := rfl
end

/-! ### State.setCopy -/

section
variable (s : State) (f b : Nat) (x : Copy)
@[simp] theorem State.setCopy_pending : (s.setCopy f b x).pending = s.pending := rfl
@[simp] theorem State.setCopy_now : (s.setCopy f b x).now = s.now := rfl
@[simp] theorem State.setCopy_rdata : (s.setCopy f b x).rdata = s.rdata := rfl
@[simp] theorem State.setCopy_fresh : (s.setCopy f b x).fresh = s.fresh := rfl
@[simp] theorem State.setCopy_regs : (s.setCopy f b x).regs = s.regs := rfl
@[simp] theorem State.setCopy_banks : (s.setCopy f b x).banks = s.banks := rfl
@[simp] theorem State.setCopy_failed : (s.setCopy f b x).failed = s.failed := rfl
@[simp] theorem State.setCopy_mem : (s.setCopy f b x).mem = s.mem := rfl
@[simp] theorem State.setCopy_tabs : (s.setCopy f b x).tabs = s.tabs := rfl
@[simp] theorem State.setCopy_threads : (s.setCopy f b x).threads = s.threads := rfl
@[simp] theorem State.setCopy_rings : (s.setCopy f b x).rings = s.rings := rfl
@[simp] theorem State.setCopy_lastStarted : (s.setCopy f b x).lastStarted = s.lastStarted := rfl
@[simp] theorem State.setCopy_doms : (s.setCopy f b x).doms = s.doms := rfl
@[simp] theorem State.setCopy_rails : (s.setCopy f b x).rails = s.rails := rfl
@[simp] theorem State.setCopy_nextReq : (s.setCopy f b x).nextReq = s.nextReq := rfl
@[simp] theorem State.setCopy_boot : (s.setCopy f b x).boot = s.boot := rfl
@[simp] theorem State.setCopy_cplx : (s.setCopy f b x).cplx = s.cplx := rfl
@[simp] theorem State.setCopy_store : (s.setCopy f b x).store = s.store := rfl
@[simp] theorem State.setCopy_mer : (s.setCopy f b x).mer = s.mer := rfl
@[simp] theorem State.setCopy_vecs : (s.setCopy f b x).vecs = s.vecs := rfl
@[simp] theorem State.setCopy_tally : (s.setCopy f b x).tally = s.tally := rfl
@[simp] theorem State.setCopy_lanes : (s.setCopy f b x).lanes = s.lanes := rfl
@[simp] theorem State.setCopy_frames : (s.setCopy f b x).frames = s.frames := rfl
@[simp] theorem State.setCopy_nextFrame : (s.setCopy f b x).nextFrame = s.nextFrame := rfl
@[simp] theorem State.setCopy_copies : (s.setCopy f b x).copies = sset (fun _ => {}) s.copies (8 * f + b) x := rfl
@[simp] theorem State.setCopy_queues : (s.setCopy f b x).queues = s.queues := rfl
@[simp] theorem State.setCopy_pagers : (s.setCopy f b x).pagers = s.pagers := rfl
@[simp] theorem State.setCopy_objs : (s.setCopy f b x).objs = s.objs := rfl
@[simp] theorem State.setCopy_rounds : (s.setCopy f b x).rounds = s.rounds := rfl
@[simp] theorem State.setCopy_gates : (s.setCopy f b x).gates = s.gates := rfl
@[simp] theorem State.setCopy_slath : (s.setCopy f b x).slath = s.slath := rfl
@[simp] theorem State.setCopy_creel : (s.setCopy f b x).creel = s.creel := rfl
@[simp] theorem State.setCopy_ports : (s.setCopy f b x).ports = s.ports := rfl
@[simp] theorem State.setCopy_fwd : (s.setCopy f b x).fwd = s.fwd := rfl
@[simp] theorem State.setCopy_surveys : (s.setCopy f b x).surveys = s.surveys := rfl
@[simp] theorem State.setCopy_legend : (s.setCopy f b x).legend = s.legend := rfl
@[simp] theorem State.setCopy_pipes : (s.setCopy f b x).pipes = s.pipes := rfl
@[simp] theorem State.setCopy_poison : (s.setCopy f b x).poison = s.poison := rfl
@[simp] theorem State.setCopy_plait : (s.setCopy f b x).plait = s.plait := rfl
@[simp] theorem State.setCopy_plaitIn : (s.setCopy f b x).plaitIn = s.plaitIn := rfl
@[simp] theorem State.setCopy_mbx : (s.setCopy f b x).mbx = s.mbx := rfl
@[simp] theorem State.setCopy_ruleCnt : (s.setCopy f b x).ruleCnt = s.ruleCnt := rfl
@[simp] theorem State.setCopy_msix : (s.setCopy f b x).msix = s.msix := rfl
@[simp] theorem State.setCopy_taps : (s.setCopy f b x).taps = s.taps := rfl
@[simp] theorem State.setCopy_cart : (s.setCopy f b x).cart = s.cart := rfl
end

/-! ### State.setGate -/

section
variable (s : State) (p : Nat) (x : GateX)
@[simp] theorem State.setGate_pending : (s.setGate p x).pending = s.pending := rfl
@[simp] theorem State.setGate_now : (s.setGate p x).now = s.now := rfl
@[simp] theorem State.setGate_rdata : (s.setGate p x).rdata = s.rdata := rfl
@[simp] theorem State.setGate_fresh : (s.setGate p x).fresh = s.fresh := rfl
@[simp] theorem State.setGate_regs : (s.setGate p x).regs = s.regs := rfl
@[simp] theorem State.setGate_banks : (s.setGate p x).banks = s.banks := rfl
@[simp] theorem State.setGate_failed : (s.setGate p x).failed = s.failed := rfl
@[simp] theorem State.setGate_mem : (s.setGate p x).mem = s.mem := rfl
@[simp] theorem State.setGate_tabs : (s.setGate p x).tabs = s.tabs := rfl
@[simp] theorem State.setGate_threads : (s.setGate p x).threads = s.threads := rfl
@[simp] theorem State.setGate_rings : (s.setGate p x).rings = s.rings := rfl
@[simp] theorem State.setGate_lastStarted : (s.setGate p x).lastStarted = s.lastStarted := rfl
@[simp] theorem State.setGate_doms : (s.setGate p x).doms = s.doms := rfl
@[simp] theorem State.setGate_rails : (s.setGate p x).rails = s.rails := rfl
@[simp] theorem State.setGate_nextReq : (s.setGate p x).nextReq = s.nextReq := rfl
@[simp] theorem State.setGate_boot : (s.setGate p x).boot = s.boot := rfl
@[simp] theorem State.setGate_cplx : (s.setGate p x).cplx = s.cplx := rfl
@[simp] theorem State.setGate_store : (s.setGate p x).store = s.store := rfl
@[simp] theorem State.setGate_mer : (s.setGate p x).mer = s.mer := rfl
@[simp] theorem State.setGate_vecs : (s.setGate p x).vecs = s.vecs := rfl
@[simp] theorem State.setGate_tally : (s.setGate p x).tally = s.tally := rfl
@[simp] theorem State.setGate_lanes : (s.setGate p x).lanes = s.lanes := rfl
@[simp] theorem State.setGate_frames : (s.setGate p x).frames = s.frames := rfl
@[simp] theorem State.setGate_nextFrame : (s.setGate p x).nextFrame = s.nextFrame := rfl
@[simp] theorem State.setGate_copies : (s.setGate p x).copies = s.copies := rfl
@[simp] theorem State.setGate_queues : (s.setGate p x).queues = s.queues := rfl
@[simp] theorem State.setGate_pagers : (s.setGate p x).pagers = s.pagers := rfl
@[simp] theorem State.setGate_objs : (s.setGate p x).objs = s.objs := rfl
@[simp] theorem State.setGate_rounds : (s.setGate p x).rounds = s.rounds := rfl
@[simp] theorem State.setGate_gates : (s.setGate p x).gates = sset (fun _ => {}) s.gates p x := rfl
@[simp] theorem State.setGate_slath : (s.setGate p x).slath = s.slath := rfl
@[simp] theorem State.setGate_creel : (s.setGate p x).creel = s.creel := rfl
@[simp] theorem State.setGate_ports : (s.setGate p x).ports = s.ports := rfl
@[simp] theorem State.setGate_fwd : (s.setGate p x).fwd = s.fwd := rfl
@[simp] theorem State.setGate_surveys : (s.setGate p x).surveys = s.surveys := rfl
@[simp] theorem State.setGate_legend : (s.setGate p x).legend = s.legend := rfl
@[simp] theorem State.setGate_pipes : (s.setGate p x).pipes = s.pipes := rfl
@[simp] theorem State.setGate_poison : (s.setGate p x).poison = s.poison := rfl
@[simp] theorem State.setGate_plait : (s.setGate p x).plait = s.plait := rfl
@[simp] theorem State.setGate_plaitIn : (s.setGate p x).plaitIn = s.plaitIn := rfl
@[simp] theorem State.setGate_mbx : (s.setGate p x).mbx = s.mbx := rfl
@[simp] theorem State.setGate_ruleCnt : (s.setGate p x).ruleCnt = s.ruleCnt := rfl
@[simp] theorem State.setGate_msix : (s.setGate p x).msix = s.msix := rfl
@[simp] theorem State.setGate_taps : (s.setGate p x).taps = s.taps := rfl
@[simp] theorem State.setGate_cart : (s.setGate p x).cart = s.cart := rfl
end

/-! ### State.setObj -/

section
variable (s : State) (k : Nat) (x : Obj)
@[simp] theorem State.setObj_pending : (s.setObj k x).pending = s.pending := rfl
@[simp] theorem State.setObj_now : (s.setObj k x).now = s.now := rfl
@[simp] theorem State.setObj_rdata : (s.setObj k x).rdata = s.rdata := rfl
@[simp] theorem State.setObj_fresh : (s.setObj k x).fresh = s.fresh := rfl
@[simp] theorem State.setObj_regs : (s.setObj k x).regs = s.regs := rfl
@[simp] theorem State.setObj_banks : (s.setObj k x).banks = s.banks := rfl
@[simp] theorem State.setObj_failed : (s.setObj k x).failed = s.failed := rfl
@[simp] theorem State.setObj_mem : (s.setObj k x).mem = s.mem := rfl
@[simp] theorem State.setObj_tabs : (s.setObj k x).tabs = s.tabs := rfl
@[simp] theorem State.setObj_threads : (s.setObj k x).threads = s.threads := rfl
@[simp] theorem State.setObj_rings : (s.setObj k x).rings = s.rings := rfl
@[simp] theorem State.setObj_lastStarted : (s.setObj k x).lastStarted = s.lastStarted := rfl
@[simp] theorem State.setObj_doms : (s.setObj k x).doms = s.doms := rfl
@[simp] theorem State.setObj_rails : (s.setObj k x).rails = s.rails := rfl
@[simp] theorem State.setObj_nextReq : (s.setObj k x).nextReq = s.nextReq := rfl
@[simp] theorem State.setObj_boot : (s.setObj k x).boot = s.boot := rfl
@[simp] theorem State.setObj_cplx : (s.setObj k x).cplx = s.cplx := rfl
@[simp] theorem State.setObj_store : (s.setObj k x).store = s.store := rfl
@[simp] theorem State.setObj_mer : (s.setObj k x).mer = s.mer := rfl
@[simp] theorem State.setObj_vecs : (s.setObj k x).vecs = s.vecs := rfl
@[simp] theorem State.setObj_tally : (s.setObj k x).tally = s.tally := rfl
@[simp] theorem State.setObj_lanes : (s.setObj k x).lanes = s.lanes := rfl
@[simp] theorem State.setObj_frames : (s.setObj k x).frames = s.frames := rfl
@[simp] theorem State.setObj_nextFrame : (s.setObj k x).nextFrame = s.nextFrame := rfl
@[simp] theorem State.setObj_copies : (s.setObj k x).copies = s.copies := rfl
@[simp] theorem State.setObj_queues : (s.setObj k x).queues = s.queues := rfl
@[simp] theorem State.setObj_pagers : (s.setObj k x).pagers = s.pagers := rfl
@[simp] theorem State.setObj_objs : (s.setObj k x).objs = sset objDflt s.objs k x := rfl
@[simp] theorem State.setObj_rounds : (s.setObj k x).rounds = s.rounds := rfl
@[simp] theorem State.setObj_gates : (s.setObj k x).gates = s.gates := rfl
@[simp] theorem State.setObj_slath : (s.setObj k x).slath = s.slath := rfl
@[simp] theorem State.setObj_creel : (s.setObj k x).creel = s.creel := rfl
@[simp] theorem State.setObj_ports : (s.setObj k x).ports = s.ports := rfl
@[simp] theorem State.setObj_fwd : (s.setObj k x).fwd = s.fwd := rfl
@[simp] theorem State.setObj_surveys : (s.setObj k x).surveys = s.surveys := rfl
@[simp] theorem State.setObj_legend : (s.setObj k x).legend = s.legend := rfl
@[simp] theorem State.setObj_pipes : (s.setObj k x).pipes = s.pipes := rfl
@[simp] theorem State.setObj_poison : (s.setObj k x).poison = s.poison := rfl
@[simp] theorem State.setObj_plait : (s.setObj k x).plait = s.plait := rfl
@[simp] theorem State.setObj_plaitIn : (s.setObj k x).plaitIn = s.plaitIn := rfl
@[simp] theorem State.setObj_mbx : (s.setObj k x).mbx = s.mbx := rfl
@[simp] theorem State.setObj_ruleCnt : (s.setObj k x).ruleCnt = s.ruleCnt := rfl
@[simp] theorem State.setObj_msix : (s.setObj k x).msix = s.msix := rfl
@[simp] theorem State.setObj_taps : (s.setObj k x).taps = s.taps := rfl
@[simp] theorem State.setObj_cart : (s.setObj k x).cart = s.cart := rfl
end

/-! ### State.setTab -/

section
variable (s : State) (t i k x : Nat)
@[simp] theorem State.setTab_pending : (s.setTab t i k x).pending = s.pending := rfl
@[simp] theorem State.setTab_now : (s.setTab t i k x).now = s.now := rfl
@[simp] theorem State.setTab_rdata : (s.setTab t i k x).rdata = s.rdata := rfl
@[simp] theorem State.setTab_fresh : (s.setTab t i k x).fresh = s.fresh := rfl
@[simp] theorem State.setTab_regs : (s.setTab t i k x).regs = s.regs := rfl
@[simp] theorem State.setTab_banks : (s.setTab t i k x).banks = s.banks := rfl
@[simp] theorem State.setTab_failed : (s.setTab t i k x).failed = s.failed := rfl
@[simp] theorem State.setTab_mem : (s.setTab t i k x).mem = s.mem := rfl
@[simp] theorem State.setTab_tabs : (s.setTab t i k x).tabs = sset (fun _ => 0) s.tabs (tabKey t i k) x := rfl
@[simp] theorem State.setTab_threads : (s.setTab t i k x).threads = s.threads := rfl
@[simp] theorem State.setTab_rings : (s.setTab t i k x).rings = s.rings := rfl
@[simp] theorem State.setTab_lastStarted : (s.setTab t i k x).lastStarted = s.lastStarted := rfl
@[simp] theorem State.setTab_doms : (s.setTab t i k x).doms = s.doms := rfl
@[simp] theorem State.setTab_rails : (s.setTab t i k x).rails = s.rails := rfl
@[simp] theorem State.setTab_nextReq : (s.setTab t i k x).nextReq = s.nextReq := rfl
@[simp] theorem State.setTab_boot : (s.setTab t i k x).boot = s.boot := rfl
@[simp] theorem State.setTab_cplx : (s.setTab t i k x).cplx = s.cplx := rfl
@[simp] theorem State.setTab_store : (s.setTab t i k x).store = s.store := rfl
@[simp] theorem State.setTab_mer : (s.setTab t i k x).mer = s.mer := rfl
@[simp] theorem State.setTab_vecs : (s.setTab t i k x).vecs = s.vecs := rfl
@[simp] theorem State.setTab_tally : (s.setTab t i k x).tally = s.tally := rfl
@[simp] theorem State.setTab_lanes : (s.setTab t i k x).lanes = s.lanes := rfl
@[simp] theorem State.setTab_frames : (s.setTab t i k x).frames = s.frames := rfl
@[simp] theorem State.setTab_nextFrame : (s.setTab t i k x).nextFrame = s.nextFrame := rfl
@[simp] theorem State.setTab_copies : (s.setTab t i k x).copies = s.copies := rfl
@[simp] theorem State.setTab_queues : (s.setTab t i k x).queues = s.queues := rfl
@[simp] theorem State.setTab_pagers : (s.setTab t i k x).pagers = s.pagers := rfl
@[simp] theorem State.setTab_objs : (s.setTab t i k x).objs = s.objs := rfl
@[simp] theorem State.setTab_rounds : (s.setTab t i k x).rounds = s.rounds := rfl
@[simp] theorem State.setTab_gates : (s.setTab t i k x).gates = s.gates := rfl
@[simp] theorem State.setTab_slath : (s.setTab t i k x).slath = s.slath := rfl
@[simp] theorem State.setTab_creel : (s.setTab t i k x).creel = s.creel := rfl
@[simp] theorem State.setTab_ports : (s.setTab t i k x).ports = s.ports := rfl
@[simp] theorem State.setTab_fwd : (s.setTab t i k x).fwd = s.fwd := rfl
@[simp] theorem State.setTab_surveys : (s.setTab t i k x).surveys = s.surveys := rfl
@[simp] theorem State.setTab_legend : (s.setTab t i k x).legend = s.legend := rfl
@[simp] theorem State.setTab_pipes : (s.setTab t i k x).pipes = s.pipes := rfl
@[simp] theorem State.setTab_poison : (s.setTab t i k x).poison = s.poison := rfl
@[simp] theorem State.setTab_plait : (s.setTab t i k x).plait = s.plait := rfl
@[simp] theorem State.setTab_plaitIn : (s.setTab t i k x).plaitIn = s.plaitIn := rfl
@[simp] theorem State.setTab_mbx : (s.setTab t i k x).mbx = s.mbx := rfl
@[simp] theorem State.setTab_ruleCnt : (s.setTab t i k x).ruleCnt = s.ruleCnt := rfl
@[simp] theorem State.setTab_msix : (s.setTab t i k x).msix = s.msix := rfl
@[simp] theorem State.setTab_taps : (s.setTab t i k x).taps = s.taps := rfl
@[simp] theorem State.setTab_cart : (s.setTab t i k x).cart = s.cart := rfl
end

/-! ### State.setSv -/

section
variable (s : State) (n : Nat) (x : SurveyX)
@[simp] theorem State.setSv_pending : (s.setSv n x).pending = s.pending := rfl
@[simp] theorem State.setSv_now : (s.setSv n x).now = s.now := rfl
@[simp] theorem State.setSv_rdata : (s.setSv n x).rdata = s.rdata := rfl
@[simp] theorem State.setSv_fresh : (s.setSv n x).fresh = s.fresh := rfl
@[simp] theorem State.setSv_regs : (s.setSv n x).regs = s.regs := rfl
@[simp] theorem State.setSv_banks : (s.setSv n x).banks = s.banks := rfl
@[simp] theorem State.setSv_failed : (s.setSv n x).failed = s.failed := rfl
@[simp] theorem State.setSv_mem : (s.setSv n x).mem = s.mem := rfl
@[simp] theorem State.setSv_tabs : (s.setSv n x).tabs = s.tabs := rfl
@[simp] theorem State.setSv_threads : (s.setSv n x).threads = s.threads := rfl
@[simp] theorem State.setSv_rings : (s.setSv n x).rings = s.rings := rfl
@[simp] theorem State.setSv_lastStarted : (s.setSv n x).lastStarted = s.lastStarted := rfl
@[simp] theorem State.setSv_doms : (s.setSv n x).doms = s.doms := rfl
@[simp] theorem State.setSv_rails : (s.setSv n x).rails = s.rails := rfl
@[simp] theorem State.setSv_nextReq : (s.setSv n x).nextReq = s.nextReq := rfl
@[simp] theorem State.setSv_boot : (s.setSv n x).boot = s.boot := rfl
@[simp] theorem State.setSv_cplx : (s.setSv n x).cplx = s.cplx := rfl
@[simp] theorem State.setSv_store : (s.setSv n x).store = s.store := rfl
@[simp] theorem State.setSv_mer : (s.setSv n x).mer = s.mer := rfl
@[simp] theorem State.setSv_vecs : (s.setSv n x).vecs = s.vecs := rfl
@[simp] theorem State.setSv_tally : (s.setSv n x).tally = s.tally := rfl
@[simp] theorem State.setSv_lanes : (s.setSv n x).lanes = s.lanes := rfl
@[simp] theorem State.setSv_frames : (s.setSv n x).frames = s.frames := rfl
@[simp] theorem State.setSv_nextFrame : (s.setSv n x).nextFrame = s.nextFrame := rfl
@[simp] theorem State.setSv_copies : (s.setSv n x).copies = s.copies := rfl
@[simp] theorem State.setSv_queues : (s.setSv n x).queues = s.queues := rfl
@[simp] theorem State.setSv_pagers : (s.setSv n x).pagers = s.pagers := rfl
@[simp] theorem State.setSv_objs : (s.setSv n x).objs = s.objs := rfl
@[simp] theorem State.setSv_rounds : (s.setSv n x).rounds = s.rounds := rfl
@[simp] theorem State.setSv_gates : (s.setSv n x).gates = s.gates := rfl
@[simp] theorem State.setSv_slath : (s.setSv n x).slath = s.slath := rfl
@[simp] theorem State.setSv_creel : (s.setSv n x).creel = s.creel := rfl
@[simp] theorem State.setSv_ports : (s.setSv n x).ports = s.ports := rfl
@[simp] theorem State.setSv_fwd : (s.setSv n x).fwd = s.fwd := rfl
@[simp] theorem State.setSv_surveys : (s.setSv n x).surveys = sset (fun _ => {}) s.surveys n x := rfl
@[simp] theorem State.setSv_legend : (s.setSv n x).legend = s.legend := rfl
@[simp] theorem State.setSv_pipes : (s.setSv n x).pipes = s.pipes := rfl
@[simp] theorem State.setSv_poison : (s.setSv n x).poison = s.poison := rfl
@[simp] theorem State.setSv_plait : (s.setSv n x).plait = s.plait := rfl
@[simp] theorem State.setSv_plaitIn : (s.setSv n x).plaitIn = s.plaitIn := rfl
@[simp] theorem State.setSv_mbx : (s.setSv n x).mbx = s.mbx := rfl
@[simp] theorem State.setSv_ruleCnt : (s.setSv n x).ruleCnt = s.ruleCnt := rfl
@[simp] theorem State.setSv_msix : (s.setSv n x).msix = s.msix := rfl
@[simp] theorem State.setSv_taps : (s.setSv n x).taps = s.taps := rfl
@[simp] theorem State.setSv_cart : (s.setSv n x).cart = s.cart := rfl
end

/-! ### State.setTap -/

section
variable (s : State) (n : Nat) (x : TapX)
@[simp] theorem State.setTap_pending : (s.setTap n x).pending = s.pending := rfl
@[simp] theorem State.setTap_now : (s.setTap n x).now = s.now := rfl
@[simp] theorem State.setTap_rdata : (s.setTap n x).rdata = s.rdata := rfl
@[simp] theorem State.setTap_fresh : (s.setTap n x).fresh = s.fresh := rfl
@[simp] theorem State.setTap_regs : (s.setTap n x).regs = s.regs := rfl
@[simp] theorem State.setTap_banks : (s.setTap n x).banks = s.banks := rfl
@[simp] theorem State.setTap_failed : (s.setTap n x).failed = s.failed := rfl
@[simp] theorem State.setTap_mem : (s.setTap n x).mem = s.mem := rfl
@[simp] theorem State.setTap_tabs : (s.setTap n x).tabs = s.tabs := rfl
@[simp] theorem State.setTap_threads : (s.setTap n x).threads = s.threads := rfl
@[simp] theorem State.setTap_rings : (s.setTap n x).rings = s.rings := rfl
@[simp] theorem State.setTap_lastStarted : (s.setTap n x).lastStarted = s.lastStarted := rfl
@[simp] theorem State.setTap_doms : (s.setTap n x).doms = s.doms := rfl
@[simp] theorem State.setTap_rails : (s.setTap n x).rails = s.rails := rfl
@[simp] theorem State.setTap_nextReq : (s.setTap n x).nextReq = s.nextReq := rfl
@[simp] theorem State.setTap_boot : (s.setTap n x).boot = s.boot := rfl
@[simp] theorem State.setTap_cplx : (s.setTap n x).cplx = s.cplx := rfl
@[simp] theorem State.setTap_store : (s.setTap n x).store = s.store := rfl
@[simp] theorem State.setTap_mer : (s.setTap n x).mer = s.mer := rfl
@[simp] theorem State.setTap_vecs : (s.setTap n x).vecs = s.vecs := rfl
@[simp] theorem State.setTap_tally : (s.setTap n x).tally = s.tally := rfl
@[simp] theorem State.setTap_lanes : (s.setTap n x).lanes = s.lanes := rfl
@[simp] theorem State.setTap_frames : (s.setTap n x).frames = s.frames := rfl
@[simp] theorem State.setTap_nextFrame : (s.setTap n x).nextFrame = s.nextFrame := rfl
@[simp] theorem State.setTap_copies : (s.setTap n x).copies = s.copies := rfl
@[simp] theorem State.setTap_queues : (s.setTap n x).queues = s.queues := rfl
@[simp] theorem State.setTap_pagers : (s.setTap n x).pagers = s.pagers := rfl
@[simp] theorem State.setTap_objs : (s.setTap n x).objs = s.objs := rfl
@[simp] theorem State.setTap_rounds : (s.setTap n x).rounds = s.rounds := rfl
@[simp] theorem State.setTap_gates : (s.setTap n x).gates = s.gates := rfl
@[simp] theorem State.setTap_slath : (s.setTap n x).slath = s.slath := rfl
@[simp] theorem State.setTap_creel : (s.setTap n x).creel = s.creel := rfl
@[simp] theorem State.setTap_ports : (s.setTap n x).ports = s.ports := rfl
@[simp] theorem State.setTap_fwd : (s.setTap n x).fwd = s.fwd := rfl
@[simp] theorem State.setTap_surveys : (s.setTap n x).surveys = s.surveys := rfl
@[simp] theorem State.setTap_legend : (s.setTap n x).legend = s.legend := rfl
@[simp] theorem State.setTap_pipes : (s.setTap n x).pipes = s.pipes := rfl
@[simp] theorem State.setTap_poison : (s.setTap n x).poison = s.poison := rfl
@[simp] theorem State.setTap_plait : (s.setTap n x).plait = s.plait := rfl
@[simp] theorem State.setTap_plaitIn : (s.setTap n x).plaitIn = s.plaitIn := rfl
@[simp] theorem State.setTap_mbx : (s.setTap n x).mbx = s.mbx := rfl
@[simp] theorem State.setTap_ruleCnt : (s.setTap n x).ruleCnt = s.ruleCnt := rfl
@[simp] theorem State.setTap_msix : (s.setTap n x).msix = s.msix := rfl
@[simp] theorem State.setTap_taps : (s.setTap n x).taps = sset (fun _ => {}) s.taps n x := rfl
@[simp] theorem State.setTap_cart : (s.setTap n x).cart = s.cart := rfl
end

/-! ### State.setChan -/

section
variable (s : State) (c : Nat) (x : MbxX)
@[simp] theorem State.setChan_pending : (s.setChan c x).pending = s.pending := rfl
@[simp] theorem State.setChan_now : (s.setChan c x).now = s.now := rfl
@[simp] theorem State.setChan_rdata : (s.setChan c x).rdata = s.rdata := rfl
@[simp] theorem State.setChan_fresh : (s.setChan c x).fresh = s.fresh := rfl
@[simp] theorem State.setChan_regs : (s.setChan c x).regs = s.regs := rfl
@[simp] theorem State.setChan_banks : (s.setChan c x).banks = s.banks := rfl
@[simp] theorem State.setChan_failed : (s.setChan c x).failed = s.failed := rfl
@[simp] theorem State.setChan_mem : (s.setChan c x).mem = s.mem := rfl
@[simp] theorem State.setChan_tabs : (s.setChan c x).tabs = s.tabs := rfl
@[simp] theorem State.setChan_threads : (s.setChan c x).threads = s.threads := rfl
@[simp] theorem State.setChan_rings : (s.setChan c x).rings = s.rings := rfl
@[simp] theorem State.setChan_lastStarted : (s.setChan c x).lastStarted = s.lastStarted := rfl
@[simp] theorem State.setChan_doms : (s.setChan c x).doms = s.doms := rfl
@[simp] theorem State.setChan_rails : (s.setChan c x).rails = s.rails := rfl
@[simp] theorem State.setChan_nextReq : (s.setChan c x).nextReq = s.nextReq := rfl
@[simp] theorem State.setChan_boot : (s.setChan c x).boot = s.boot := rfl
@[simp] theorem State.setChan_cplx : (s.setChan c x).cplx = s.cplx := rfl
@[simp] theorem State.setChan_store : (s.setChan c x).store = s.store := rfl
@[simp] theorem State.setChan_mer : (s.setChan c x).mer = s.mer := rfl
@[simp] theorem State.setChan_vecs : (s.setChan c x).vecs = s.vecs := rfl
@[simp] theorem State.setChan_tally : (s.setChan c x).tally = s.tally := rfl
@[simp] theorem State.setChan_lanes : (s.setChan c x).lanes = s.lanes := rfl
@[simp] theorem State.setChan_frames : (s.setChan c x).frames = s.frames := rfl
@[simp] theorem State.setChan_nextFrame : (s.setChan c x).nextFrame = s.nextFrame := rfl
@[simp] theorem State.setChan_copies : (s.setChan c x).copies = s.copies := rfl
@[simp] theorem State.setChan_queues : (s.setChan c x).queues = s.queues := rfl
@[simp] theorem State.setChan_pagers : (s.setChan c x).pagers = s.pagers := rfl
@[simp] theorem State.setChan_objs : (s.setChan c x).objs = s.objs := rfl
@[simp] theorem State.setChan_rounds : (s.setChan c x).rounds = s.rounds := rfl
@[simp] theorem State.setChan_gates : (s.setChan c x).gates = s.gates := rfl
@[simp] theorem State.setChan_slath : (s.setChan c x).slath = s.slath := rfl
@[simp] theorem State.setChan_creel : (s.setChan c x).creel = s.creel := rfl
@[simp] theorem State.setChan_ports : (s.setChan c x).ports = s.ports := rfl
@[simp] theorem State.setChan_fwd : (s.setChan c x).fwd = s.fwd := rfl
@[simp] theorem State.setChan_surveys : (s.setChan c x).surveys = s.surveys := rfl
@[simp] theorem State.setChan_legend : (s.setChan c x).legend = s.legend := rfl
@[simp] theorem State.setChan_pipes : (s.setChan c x).pipes = s.pipes := rfl
@[simp] theorem State.setChan_poison : (s.setChan c x).poison = s.poison := rfl
@[simp] theorem State.setChan_plait : (s.setChan c x).plait = s.plait := rfl
@[simp] theorem State.setChan_plaitIn : (s.setChan c x).plaitIn = s.plaitIn := rfl
@[simp] theorem State.setChan_mbx : (s.setChan c x).mbx = sset (fun _ => {}) s.mbx c x := rfl
@[simp] theorem State.setChan_ruleCnt : (s.setChan c x).ruleCnt = s.ruleCnt := rfl
@[simp] theorem State.setChan_msix : (s.setChan c x).msix = s.msix := rfl
@[simp] theorem State.setChan_taps : (s.setChan c x).taps = s.taps := rfl
@[simp] theorem State.setChan_cart : (s.setChan c x).cart = s.cart := rfl
end

/-! ### State.setLane -/

section
variable (s : State) (l : Nat) (x : LaneX)
@[simp] theorem State.setLane_pending : (s.setLane l x).pending = s.pending := rfl
@[simp] theorem State.setLane_now : (s.setLane l x).now = s.now := rfl
@[simp] theorem State.setLane_rdata : (s.setLane l x).rdata = s.rdata := rfl
@[simp] theorem State.setLane_fresh : (s.setLane l x).fresh = s.fresh := rfl
@[simp] theorem State.setLane_regs : (s.setLane l x).regs = s.regs := rfl
@[simp] theorem State.setLane_banks : (s.setLane l x).banks = s.banks := rfl
@[simp] theorem State.setLane_failed : (s.setLane l x).failed = s.failed := rfl
@[simp] theorem State.setLane_mem : (s.setLane l x).mem = s.mem := rfl
@[simp] theorem State.setLane_tabs : (s.setLane l x).tabs = s.tabs := rfl
@[simp] theorem State.setLane_threads : (s.setLane l x).threads = s.threads := rfl
@[simp] theorem State.setLane_rings : (s.setLane l x).rings = s.rings := rfl
@[simp] theorem State.setLane_lastStarted : (s.setLane l x).lastStarted = s.lastStarted := rfl
@[simp] theorem State.setLane_doms : (s.setLane l x).doms = s.doms := rfl
@[simp] theorem State.setLane_rails : (s.setLane l x).rails = s.rails := rfl
@[simp] theorem State.setLane_nextReq : (s.setLane l x).nextReq = s.nextReq := rfl
@[simp] theorem State.setLane_boot : (s.setLane l x).boot = s.boot := rfl
@[simp] theorem State.setLane_cplx : (s.setLane l x).cplx = s.cplx := rfl
@[simp] theorem State.setLane_store : (s.setLane l x).store = s.store := rfl
@[simp] theorem State.setLane_mer : (s.setLane l x).mer = s.mer := rfl
@[simp] theorem State.setLane_vecs : (s.setLane l x).vecs = s.vecs := rfl
@[simp] theorem State.setLane_tally : (s.setLane l x).tally = s.tally := rfl
@[simp] theorem State.setLane_lanes : (s.setLane l x).lanes = sset (fun _ => {}) s.lanes l x := rfl
@[simp] theorem State.setLane_frames : (s.setLane l x).frames = s.frames := rfl
@[simp] theorem State.setLane_nextFrame : (s.setLane l x).nextFrame = s.nextFrame := rfl
@[simp] theorem State.setLane_copies : (s.setLane l x).copies = s.copies := rfl
@[simp] theorem State.setLane_queues : (s.setLane l x).queues = s.queues := rfl
@[simp] theorem State.setLane_pagers : (s.setLane l x).pagers = s.pagers := rfl
@[simp] theorem State.setLane_objs : (s.setLane l x).objs = s.objs := rfl
@[simp] theorem State.setLane_rounds : (s.setLane l x).rounds = s.rounds := rfl
@[simp] theorem State.setLane_gates : (s.setLane l x).gates = s.gates := rfl
@[simp] theorem State.setLane_slath : (s.setLane l x).slath = s.slath := rfl
@[simp] theorem State.setLane_creel : (s.setLane l x).creel = s.creel := rfl
@[simp] theorem State.setLane_ports : (s.setLane l x).ports = s.ports := rfl
@[simp] theorem State.setLane_fwd : (s.setLane l x).fwd = s.fwd := rfl
@[simp] theorem State.setLane_surveys : (s.setLane l x).surveys = s.surveys := rfl
@[simp] theorem State.setLane_legend : (s.setLane l x).legend = s.legend := rfl
@[simp] theorem State.setLane_pipes : (s.setLane l x).pipes = s.pipes := rfl
@[simp] theorem State.setLane_poison : (s.setLane l x).poison = s.poison := rfl
@[simp] theorem State.setLane_plait : (s.setLane l x).plait = s.plait := rfl
@[simp] theorem State.setLane_plaitIn : (s.setLane l x).plaitIn = s.plaitIn := rfl
@[simp] theorem State.setLane_mbx : (s.setLane l x).mbx = s.mbx := rfl
@[simp] theorem State.setLane_ruleCnt : (s.setLane l x).ruleCnt = s.ruleCnt := rfl
@[simp] theorem State.setLane_msix : (s.setLane l x).msix = s.msix := rfl
@[simp] theorem State.setLane_taps : (s.setLane l x).taps = s.taps := rfl
@[simp] theorem State.setLane_cart : (s.setLane l x).cart = s.cart := rfl
end

/-! ### State.setCart -/

section
variable (s : State) (c : CartX)
@[simp] theorem State.setCart_pending : (s.setCart c).pending = s.pending := rfl
@[simp] theorem State.setCart_now : (s.setCart c).now = s.now := rfl
@[simp] theorem State.setCart_rdata : (s.setCart c).rdata = s.rdata := rfl
@[simp] theorem State.setCart_fresh : (s.setCart c).fresh = s.fresh := rfl
@[simp] theorem State.setCart_regs : (s.setCart c).regs = s.regs := rfl
@[simp] theorem State.setCart_banks : (s.setCart c).banks = s.banks := rfl
@[simp] theorem State.setCart_failed : (s.setCart c).failed = s.failed := rfl
@[simp] theorem State.setCart_mem : (s.setCart c).mem = s.mem := rfl
@[simp] theorem State.setCart_tabs : (s.setCart c).tabs = s.tabs := rfl
@[simp] theorem State.setCart_threads : (s.setCart c).threads = s.threads := rfl
@[simp] theorem State.setCart_rings : (s.setCart c).rings = s.rings := rfl
@[simp] theorem State.setCart_lastStarted : (s.setCart c).lastStarted = s.lastStarted := rfl
@[simp] theorem State.setCart_doms : (s.setCart c).doms = s.doms := rfl
@[simp] theorem State.setCart_rails : (s.setCart c).rails = s.rails := rfl
@[simp] theorem State.setCart_nextReq : (s.setCart c).nextReq = s.nextReq := rfl
@[simp] theorem State.setCart_boot : (s.setCart c).boot = s.boot := rfl
@[simp] theorem State.setCart_cplx : (s.setCart c).cplx = s.cplx := rfl
@[simp] theorem State.setCart_store : (s.setCart c).store = s.store := rfl
@[simp] theorem State.setCart_mer : (s.setCart c).mer = s.mer := rfl
@[simp] theorem State.setCart_vecs : (s.setCart c).vecs = s.vecs := rfl
@[simp] theorem State.setCart_tally : (s.setCart c).tally = s.tally := rfl
@[simp] theorem State.setCart_lanes : (s.setCart c).lanes = s.lanes := rfl
@[simp] theorem State.setCart_frames : (s.setCart c).frames = s.frames := rfl
@[simp] theorem State.setCart_nextFrame : (s.setCart c).nextFrame = s.nextFrame := rfl
@[simp] theorem State.setCart_copies : (s.setCart c).copies = s.copies := rfl
@[simp] theorem State.setCart_queues : (s.setCart c).queues = s.queues := rfl
@[simp] theorem State.setCart_pagers : (s.setCart c).pagers = s.pagers := rfl
@[simp] theorem State.setCart_objs : (s.setCart c).objs = s.objs := rfl
@[simp] theorem State.setCart_rounds : (s.setCart c).rounds = s.rounds := rfl
@[simp] theorem State.setCart_gates : (s.setCart c).gates = s.gates := rfl
@[simp] theorem State.setCart_slath : (s.setCart c).slath = s.slath := rfl
@[simp] theorem State.setCart_creel : (s.setCart c).creel = s.creel := rfl
@[simp] theorem State.setCart_ports : (s.setCart c).ports = s.ports := rfl
@[simp] theorem State.setCart_fwd : (s.setCart c).fwd = s.fwd := rfl
@[simp] theorem State.setCart_surveys : (s.setCart c).surveys = s.surveys := rfl
@[simp] theorem State.setCart_legend : (s.setCart c).legend = s.legend := rfl
@[simp] theorem State.setCart_pipes : (s.setCart c).pipes = s.pipes := rfl
@[simp] theorem State.setCart_poison : (s.setCart c).poison = s.poison := rfl
@[simp] theorem State.setCart_plait : (s.setCart c).plait = s.plait := rfl
@[simp] theorem State.setCart_plaitIn : (s.setCart c).plaitIn = s.plaitIn := rfl
@[simp] theorem State.setCart_mbx : (s.setCart c).mbx = s.mbx := rfl
@[simp] theorem State.setCart_ruleCnt : (s.setCart c).ruleCnt = s.ruleCnt := rfl
@[simp] theorem State.setCart_msix : (s.setCart c).msix = s.msix := rfl
@[simp] theorem State.setCart_taps : (s.setCart c).taps = s.taps := rfl
@[simp] theorem State.setCart_cart : (s.setCart c).cart = c := rfl
end

/-! ### State.setCrl -/

section
variable (s : State) (b : Nat) (x : CreelX)
@[simp] theorem State.setCrl_pending : (s.setCrl b x).pending = s.pending := rfl
@[simp] theorem State.setCrl_now : (s.setCrl b x).now = s.now := rfl
@[simp] theorem State.setCrl_rdata : (s.setCrl b x).rdata = s.rdata := rfl
@[simp] theorem State.setCrl_fresh : (s.setCrl b x).fresh = s.fresh := rfl
@[simp] theorem State.setCrl_regs : (s.setCrl b x).regs = s.regs := rfl
@[simp] theorem State.setCrl_banks : (s.setCrl b x).banks = s.banks := rfl
@[simp] theorem State.setCrl_failed : (s.setCrl b x).failed = s.failed := rfl
@[simp] theorem State.setCrl_mem : (s.setCrl b x).mem = s.mem := rfl
@[simp] theorem State.setCrl_tabs : (s.setCrl b x).tabs = s.tabs := rfl
@[simp] theorem State.setCrl_threads : (s.setCrl b x).threads = s.threads := rfl
@[simp] theorem State.setCrl_rings : (s.setCrl b x).rings = s.rings := rfl
@[simp] theorem State.setCrl_lastStarted : (s.setCrl b x).lastStarted = s.lastStarted := rfl
@[simp] theorem State.setCrl_doms : (s.setCrl b x).doms = s.doms := rfl
@[simp] theorem State.setCrl_rails : (s.setCrl b x).rails = s.rails := rfl
@[simp] theorem State.setCrl_nextReq : (s.setCrl b x).nextReq = s.nextReq := rfl
@[simp] theorem State.setCrl_boot : (s.setCrl b x).boot = s.boot := rfl
@[simp] theorem State.setCrl_cplx : (s.setCrl b x).cplx = s.cplx := rfl
@[simp] theorem State.setCrl_store : (s.setCrl b x).store = s.store := rfl
@[simp] theorem State.setCrl_mer : (s.setCrl b x).mer = s.mer := rfl
@[simp] theorem State.setCrl_vecs : (s.setCrl b x).vecs = s.vecs := rfl
@[simp] theorem State.setCrl_tally : (s.setCrl b x).tally = s.tally := rfl
@[simp] theorem State.setCrl_lanes : (s.setCrl b x).lanes = s.lanes := rfl
@[simp] theorem State.setCrl_frames : (s.setCrl b x).frames = s.frames := rfl
@[simp] theorem State.setCrl_nextFrame : (s.setCrl b x).nextFrame = s.nextFrame := rfl
@[simp] theorem State.setCrl_copies : (s.setCrl b x).copies = s.copies := rfl
@[simp] theorem State.setCrl_queues : (s.setCrl b x).queues = s.queues := rfl
@[simp] theorem State.setCrl_pagers : (s.setCrl b x).pagers = s.pagers := rfl
@[simp] theorem State.setCrl_objs : (s.setCrl b x).objs = s.objs := rfl
@[simp] theorem State.setCrl_rounds : (s.setCrl b x).rounds = s.rounds := rfl
@[simp] theorem State.setCrl_gates : (s.setCrl b x).gates = s.gates := rfl
@[simp] theorem State.setCrl_slath : (s.setCrl b x).slath = s.slath := rfl
@[simp] theorem State.setCrl_creel : (s.setCrl b x).creel = sset (fun _ => {}) s.creel b x := rfl
@[simp] theorem State.setCrl_ports : (s.setCrl b x).ports = s.ports := rfl
@[simp] theorem State.setCrl_fwd : (s.setCrl b x).fwd = s.fwd := rfl
@[simp] theorem State.setCrl_surveys : (s.setCrl b x).surveys = s.surveys := rfl
@[simp] theorem State.setCrl_legend : (s.setCrl b x).legend = s.legend := rfl
@[simp] theorem State.setCrl_pipes : (s.setCrl b x).pipes = s.pipes := rfl
@[simp] theorem State.setCrl_poison : (s.setCrl b x).poison = s.poison := rfl
@[simp] theorem State.setCrl_plait : (s.setCrl b x).plait = s.plait := rfl
@[simp] theorem State.setCrl_plaitIn : (s.setCrl b x).plaitIn = s.plaitIn := rfl
@[simp] theorem State.setCrl_mbx : (s.setCrl b x).mbx = s.mbx := rfl
@[simp] theorem State.setCrl_ruleCnt : (s.setCrl b x).ruleCnt = s.ruleCnt := rfl
@[simp] theorem State.setCrl_msix : (s.setCrl b x).msix = s.msix := rfl
@[simp] theorem State.setCrl_taps : (s.setCrl b x).taps = s.taps := rfl
@[simp] theorem State.setCrl_cart : (s.setCrl b x).cart = s.cart := rfl
end

/-! ### State.setPc -/

section
variable (s : State) (n : Nat) (x : PlaitCtx)
@[simp] theorem State.setPc_pending : (s.setPc n x).pending = s.pending := rfl
@[simp] theorem State.setPc_now : (s.setPc n x).now = s.now := rfl
@[simp] theorem State.setPc_rdata : (s.setPc n x).rdata = s.rdata := rfl
@[simp] theorem State.setPc_fresh : (s.setPc n x).fresh = s.fresh := rfl
@[simp] theorem State.setPc_regs : (s.setPc n x).regs = s.regs := rfl
@[simp] theorem State.setPc_banks : (s.setPc n x).banks = s.banks := rfl
@[simp] theorem State.setPc_failed : (s.setPc n x).failed = s.failed := rfl
@[simp] theorem State.setPc_mem : (s.setPc n x).mem = s.mem := rfl
@[simp] theorem State.setPc_tabs : (s.setPc n x).tabs = s.tabs := rfl
@[simp] theorem State.setPc_threads : (s.setPc n x).threads = s.threads := rfl
@[simp] theorem State.setPc_rings : (s.setPc n x).rings = s.rings := rfl
@[simp] theorem State.setPc_lastStarted : (s.setPc n x).lastStarted = s.lastStarted := rfl
@[simp] theorem State.setPc_doms : (s.setPc n x).doms = s.doms := rfl
@[simp] theorem State.setPc_rails : (s.setPc n x).rails = s.rails := rfl
@[simp] theorem State.setPc_nextReq : (s.setPc n x).nextReq = s.nextReq := rfl
@[simp] theorem State.setPc_boot : (s.setPc n x).boot = s.boot := rfl
@[simp] theorem State.setPc_cplx : (s.setPc n x).cplx = s.cplx := rfl
@[simp] theorem State.setPc_store : (s.setPc n x).store = s.store := rfl
@[simp] theorem State.setPc_mer : (s.setPc n x).mer = s.mer := rfl
@[simp] theorem State.setPc_vecs : (s.setPc n x).vecs = s.vecs := rfl
@[simp] theorem State.setPc_tally : (s.setPc n x).tally = s.tally := rfl
@[simp] theorem State.setPc_lanes : (s.setPc n x).lanes = s.lanes := rfl
@[simp] theorem State.setPc_frames : (s.setPc n x).frames = s.frames := rfl
@[simp] theorem State.setPc_nextFrame : (s.setPc n x).nextFrame = s.nextFrame := rfl
@[simp] theorem State.setPc_copies : (s.setPc n x).copies = s.copies := rfl
@[simp] theorem State.setPc_queues : (s.setPc n x).queues = s.queues := rfl
@[simp] theorem State.setPc_pagers : (s.setPc n x).pagers = s.pagers := rfl
@[simp] theorem State.setPc_objs : (s.setPc n x).objs = s.objs := rfl
@[simp] theorem State.setPc_rounds : (s.setPc n x).rounds = s.rounds := rfl
@[simp] theorem State.setPc_gates : (s.setPc n x).gates = s.gates := rfl
@[simp] theorem State.setPc_slath : (s.setPc n x).slath = s.slath := rfl
@[simp] theorem State.setPc_creel : (s.setPc n x).creel = s.creel := rfl
@[simp] theorem State.setPc_ports : (s.setPc n x).ports = s.ports := rfl
@[simp] theorem State.setPc_fwd : (s.setPc n x).fwd = s.fwd := rfl
@[simp] theorem State.setPc_surveys : (s.setPc n x).surveys = s.surveys := rfl
@[simp] theorem State.setPc_legend : (s.setPc n x).legend = s.legend := rfl
@[simp] theorem State.setPc_pipes : (s.setPc n x).pipes = s.pipes := rfl
@[simp] theorem State.setPc_poison : (s.setPc n x).poison = s.poison := rfl
@[simp] theorem State.setPc_plait : (s.setPc n x).plait = sset (fun _ => {}) s.plait n x := rfl
@[simp] theorem State.setPc_plaitIn : (s.setPc n x).plaitIn = s.plaitIn := rfl
@[simp] theorem State.setPc_mbx : (s.setPc n x).mbx = s.mbx := rfl
@[simp] theorem State.setPc_ruleCnt : (s.setPc n x).ruleCnt = s.ruleCnt := rfl
@[simp] theorem State.setPc_msix : (s.setPc n x).msix = s.msix := rfl
@[simp] theorem State.setPc_taps : (s.setPc n x).taps = s.taps := rfl
@[simp] theorem State.setPc_cart : (s.setPc n x).cart = s.cart := rfl
end

/-! ### State.setTrg -/

section
variable (s : State) (k : Nat) (x : TrigX)
@[simp] theorem State.setTrg_pending : (s.setTrg k x).pending = s.pending := rfl
@[simp] theorem State.setTrg_now : (s.setTrg k x).now = s.now := rfl
@[simp] theorem State.setTrg_rdata : (s.setTrg k x).rdata = s.rdata := rfl
@[simp] theorem State.setTrg_fresh : (s.setTrg k x).fresh = s.fresh := rfl
@[simp] theorem State.setTrg_regs : (s.setTrg k x).regs = s.regs := rfl
@[simp] theorem State.setTrg_banks : (s.setTrg k x).banks = s.banks := rfl
@[simp] theorem State.setTrg_failed : (s.setTrg k x).failed = s.failed := rfl
@[simp] theorem State.setTrg_mem : (s.setTrg k x).mem = s.mem := rfl
@[simp] theorem State.setTrg_tabs : (s.setTrg k x).tabs = s.tabs := rfl
@[simp] theorem State.setTrg_threads : (s.setTrg k x).threads = s.threads := rfl
@[simp] theorem State.setTrg_rings : (s.setTrg k x).rings = s.rings := rfl
@[simp] theorem State.setTrg_lastStarted : (s.setTrg k x).lastStarted = s.lastStarted := rfl
@[simp] theorem State.setTrg_doms : (s.setTrg k x).doms = s.doms := rfl
@[simp] theorem State.setTrg_rails : (s.setTrg k x).rails = s.rails := rfl
@[simp] theorem State.setTrg_nextReq : (s.setTrg k x).nextReq = s.nextReq := rfl
@[simp] theorem State.setTrg_boot : (s.setTrg k x).boot = s.boot := rfl
@[simp] theorem State.setTrg_cplx : (s.setTrg k x).cplx = s.cplx := rfl
@[simp] theorem State.setTrg_store : (s.setTrg k x).store = s.store := rfl
@[simp] theorem State.setTrg_mer : (s.setTrg k x).mer = { s.mer with trig := sset (fun _ => {}) s.mer.trig k x } := rfl
@[simp] theorem State.setTrg_vecs : (s.setTrg k x).vecs = s.vecs := rfl
@[simp] theorem State.setTrg_tally : (s.setTrg k x).tally = s.tally := rfl
@[simp] theorem State.setTrg_lanes : (s.setTrg k x).lanes = s.lanes := rfl
@[simp] theorem State.setTrg_frames : (s.setTrg k x).frames = s.frames := rfl
@[simp] theorem State.setTrg_nextFrame : (s.setTrg k x).nextFrame = s.nextFrame := rfl
@[simp] theorem State.setTrg_copies : (s.setTrg k x).copies = s.copies := rfl
@[simp] theorem State.setTrg_queues : (s.setTrg k x).queues = s.queues := rfl
@[simp] theorem State.setTrg_pagers : (s.setTrg k x).pagers = s.pagers := rfl
@[simp] theorem State.setTrg_objs : (s.setTrg k x).objs = s.objs := rfl
@[simp] theorem State.setTrg_rounds : (s.setTrg k x).rounds = s.rounds := rfl
@[simp] theorem State.setTrg_gates : (s.setTrg k x).gates = s.gates := rfl
@[simp] theorem State.setTrg_slath : (s.setTrg k x).slath = s.slath := rfl
@[simp] theorem State.setTrg_creel : (s.setTrg k x).creel = s.creel := rfl
@[simp] theorem State.setTrg_ports : (s.setTrg k x).ports = s.ports := rfl
@[simp] theorem State.setTrg_fwd : (s.setTrg k x).fwd = s.fwd := rfl
@[simp] theorem State.setTrg_surveys : (s.setTrg k x).surveys = s.surveys := rfl
@[simp] theorem State.setTrg_legend : (s.setTrg k x).legend = s.legend := rfl
@[simp] theorem State.setTrg_pipes : (s.setTrg k x).pipes = s.pipes := rfl
@[simp] theorem State.setTrg_poison : (s.setTrg k x).poison = s.poison := rfl
@[simp] theorem State.setTrg_plait : (s.setTrg k x).plait = s.plait := rfl
@[simp] theorem State.setTrg_plaitIn : (s.setTrg k x).plaitIn = s.plaitIn := rfl
@[simp] theorem State.setTrg_mbx : (s.setTrg k x).mbx = s.mbx := rfl
@[simp] theorem State.setTrg_ruleCnt : (s.setTrg k x).ruleCnt = s.ruleCnt := rfl
@[simp] theorem State.setTrg_msix : (s.setTrg k x).msix = s.msix := rfl
@[simp] theorem State.setTrg_taps : (s.setTrg k x).taps = s.taps := rfl
@[simp] theorem State.setTrg_cart : (s.setTrg k x).cart = s.cart := rfl
end

/-! ### State.setSin -/

section
variable (s : State) (i : Nat) (x : SlathIn)
@[simp] theorem State.setSin_pending : (s.setSin i x).pending = s.pending := rfl
@[simp] theorem State.setSin_now : (s.setSin i x).now = s.now := rfl
@[simp] theorem State.setSin_rdata : (s.setSin i x).rdata = s.rdata := rfl
@[simp] theorem State.setSin_fresh : (s.setSin i x).fresh = s.fresh := rfl
@[simp] theorem State.setSin_regs : (s.setSin i x).regs = s.regs := rfl
@[simp] theorem State.setSin_banks : (s.setSin i x).banks = s.banks := rfl
@[simp] theorem State.setSin_failed : (s.setSin i x).failed = s.failed := rfl
@[simp] theorem State.setSin_mem : (s.setSin i x).mem = s.mem := rfl
@[simp] theorem State.setSin_tabs : (s.setSin i x).tabs = s.tabs := rfl
@[simp] theorem State.setSin_threads : (s.setSin i x).threads = s.threads := rfl
@[simp] theorem State.setSin_rings : (s.setSin i x).rings = s.rings := rfl
@[simp] theorem State.setSin_lastStarted : (s.setSin i x).lastStarted = s.lastStarted := rfl
@[simp] theorem State.setSin_doms : (s.setSin i x).doms = s.doms := rfl
@[simp] theorem State.setSin_rails : (s.setSin i x).rails = s.rails := rfl
@[simp] theorem State.setSin_nextReq : (s.setSin i x).nextReq = s.nextReq := rfl
@[simp] theorem State.setSin_boot : (s.setSin i x).boot = s.boot := rfl
@[simp] theorem State.setSin_cplx : (s.setSin i x).cplx = s.cplx := rfl
@[simp] theorem State.setSin_store : (s.setSin i x).store = s.store := rfl
@[simp] theorem State.setSin_mer : (s.setSin i x).mer = s.mer := rfl
@[simp] theorem State.setSin_vecs : (s.setSin i x).vecs = s.vecs := rfl
@[simp] theorem State.setSin_tally : (s.setSin i x).tally = s.tally := rfl
@[simp] theorem State.setSin_lanes : (s.setSin i x).lanes = s.lanes := rfl
@[simp] theorem State.setSin_frames : (s.setSin i x).frames = s.frames := rfl
@[simp] theorem State.setSin_nextFrame : (s.setSin i x).nextFrame = s.nextFrame := rfl
@[simp] theorem State.setSin_copies : (s.setSin i x).copies = s.copies := rfl
@[simp] theorem State.setSin_queues : (s.setSin i x).queues = s.queues := rfl
@[simp] theorem State.setSin_pagers : (s.setSin i x).pagers = s.pagers := rfl
@[simp] theorem State.setSin_objs : (s.setSin i x).objs = s.objs := rfl
@[simp] theorem State.setSin_rounds : (s.setSin i x).rounds = s.rounds := rfl
@[simp] theorem State.setSin_gates : (s.setSin i x).gates = s.gates := rfl
@[simp] theorem State.setSin_slath : (s.setSin i x).slath = { s.slath with ins := sset (fun _ => {}) s.slath.ins i x } := rfl
@[simp] theorem State.setSin_creel : (s.setSin i x).creel = s.creel := rfl
@[simp] theorem State.setSin_ports : (s.setSin i x).ports = s.ports := rfl
@[simp] theorem State.setSin_fwd : (s.setSin i x).fwd = s.fwd := rfl
@[simp] theorem State.setSin_surveys : (s.setSin i x).surveys = s.surveys := rfl
@[simp] theorem State.setSin_legend : (s.setSin i x).legend = s.legend := rfl
@[simp] theorem State.setSin_pipes : (s.setSin i x).pipes = s.pipes := rfl
@[simp] theorem State.setSin_poison : (s.setSin i x).poison = s.poison := rfl
@[simp] theorem State.setSin_plait : (s.setSin i x).plait = s.plait := rfl
@[simp] theorem State.setSin_plaitIn : (s.setSin i x).plaitIn = s.plaitIn := rfl
@[simp] theorem State.setSin_mbx : (s.setSin i x).mbx = s.mbx := rfl
@[simp] theorem State.setSin_ruleCnt : (s.setSin i x).ruleCnt = s.ruleCnt := rfl
@[simp] theorem State.setSin_msix : (s.setSin i x).msix = s.msix := rfl
@[simp] theorem State.setSin_taps : (s.setSin i x).taps = s.taps := rfl
@[simp] theorem State.setSin_cart : (s.setSin i x).cart = s.cart := rfl
end

/-! ### State.rput -/

section
variable (s : State) (r : Row) (v i : Nat) (ix : List Nat)
@[simp] theorem State.rput_pending : (s.rput r v i ix).pending = s.pending := rfl
@[simp] theorem State.rput_now : (s.rput r v i ix).now = s.now := rfl
@[simp] theorem State.rput_rdata : (s.rput r v i ix).rdata = s.rdata := rfl
@[simp] theorem State.rput_fresh : (s.rput r v i ix).fresh = s.fresh := rfl
@[simp] theorem State.rput_banks : (s.rput r v i ix).banks = s.banks := rfl
@[simp] theorem State.rput_failed : (s.rput r v i ix).failed = s.failed := rfl
@[simp] theorem State.rput_mem : (s.rput r v i ix).mem = s.mem := rfl
@[simp] theorem State.rput_tabs : (s.rput r v i ix).tabs = s.tabs := rfl
@[simp] theorem State.rput_threads : (s.rput r v i ix).threads = s.threads := rfl
@[simp] theorem State.rput_rings : (s.rput r v i ix).rings = s.rings := rfl
@[simp] theorem State.rput_lastStarted : (s.rput r v i ix).lastStarted = s.lastStarted := rfl
@[simp] theorem State.rput_doms : (s.rput r v i ix).doms = s.doms := rfl
@[simp] theorem State.rput_rails : (s.rput r v i ix).rails = s.rails := rfl
@[simp] theorem State.rput_nextReq : (s.rput r v i ix).nextReq = s.nextReq := rfl
@[simp] theorem State.rput_boot : (s.rput r v i ix).boot = s.boot := rfl
@[simp] theorem State.rput_cplx : (s.rput r v i ix).cplx = s.cplx := rfl
@[simp] theorem State.rput_store : (s.rput r v i ix).store = s.store := rfl
@[simp] theorem State.rput_mer : (s.rput r v i ix).mer = s.mer := rfl
@[simp] theorem State.rput_vecs : (s.rput r v i ix).vecs = s.vecs := rfl
@[simp] theorem State.rput_tally : (s.rput r v i ix).tally = s.tally := rfl
@[simp] theorem State.rput_lanes : (s.rput r v i ix).lanes = s.lanes := rfl
@[simp] theorem State.rput_frames : (s.rput r v i ix).frames = s.frames := rfl
@[simp] theorem State.rput_nextFrame : (s.rput r v i ix).nextFrame = s.nextFrame := rfl
@[simp] theorem State.rput_copies : (s.rput r v i ix).copies = s.copies := rfl
@[simp] theorem State.rput_queues : (s.rput r v i ix).queues = s.queues := rfl
@[simp] theorem State.rput_pagers : (s.rput r v i ix).pagers = s.pagers := rfl
@[simp] theorem State.rput_objs : (s.rput r v i ix).objs = s.objs := rfl
@[simp] theorem State.rput_rounds : (s.rput r v i ix).rounds = s.rounds := rfl
@[simp] theorem State.rput_gates : (s.rput r v i ix).gates = s.gates := rfl
@[simp] theorem State.rput_slath : (s.rput r v i ix).slath = s.slath := rfl
@[simp] theorem State.rput_creel : (s.rput r v i ix).creel = s.creel := rfl
@[simp] theorem State.rput_ports : (s.rput r v i ix).ports = s.ports := rfl
@[simp] theorem State.rput_fwd : (s.rput r v i ix).fwd = s.fwd := rfl
@[simp] theorem State.rput_surveys : (s.rput r v i ix).surveys = s.surveys := rfl
@[simp] theorem State.rput_legend : (s.rput r v i ix).legend = s.legend := rfl
@[simp] theorem State.rput_pipes : (s.rput r v i ix).pipes = s.pipes := rfl
@[simp] theorem State.rput_poison : (s.rput r v i ix).poison = s.poison := rfl
@[simp] theorem State.rput_plait : (s.rput r v i ix).plait = s.plait := rfl
@[simp] theorem State.rput_plaitIn : (s.rput r v i ix).plaitIn = s.plaitIn := rfl
@[simp] theorem State.rput_mbx : (s.rput r v i ix).mbx = s.mbx := rfl
@[simp] theorem State.rput_ruleCnt : (s.rput r v i ix).ruleCnt = s.ruleCnt := rfl
@[simp] theorem State.rput_msix : (s.rput r v i ix).msix = s.msix := rfl
@[simp] theorem State.rput_taps : (s.rput r v i ix).taps = s.taps := rfl
@[simp] theorem State.rput_cart : (s.rput r v i ix).cart = s.cart := rfl
end

/-! ### State.rputBoth -/

section
variable (s : State) (r : Row) (v i : Nat) (ix : List Nat)
@[simp] theorem State.rputBoth_pending : (s.rputBoth r v i ix).pending = s.pending := rfl
@[simp] theorem State.rputBoth_now : (s.rputBoth r v i ix).now = s.now := rfl
@[simp] theorem State.rputBoth_rdata : (s.rputBoth r v i ix).rdata = s.rdata := rfl
@[simp] theorem State.rputBoth_fresh : (s.rputBoth r v i ix).fresh = s.fresh := rfl
@[simp] theorem State.rputBoth_banks : (s.rputBoth r v i ix).banks = s.banks := rfl
@[simp] theorem State.rputBoth_failed : (s.rputBoth r v i ix).failed = s.failed := rfl
@[simp] theorem State.rputBoth_mem : (s.rputBoth r v i ix).mem = s.mem := rfl
@[simp] theorem State.rputBoth_tabs : (s.rputBoth r v i ix).tabs = s.tabs := rfl
@[simp] theorem State.rputBoth_threads : (s.rputBoth r v i ix).threads = s.threads := rfl
@[simp] theorem State.rputBoth_rings : (s.rputBoth r v i ix).rings = s.rings := rfl
@[simp] theorem State.rputBoth_lastStarted : (s.rputBoth r v i ix).lastStarted = s.lastStarted := rfl
@[simp] theorem State.rputBoth_doms : (s.rputBoth r v i ix).doms = s.doms := rfl
@[simp] theorem State.rputBoth_rails : (s.rputBoth r v i ix).rails = s.rails := rfl
@[simp] theorem State.rputBoth_nextReq : (s.rputBoth r v i ix).nextReq = s.nextReq := rfl
@[simp] theorem State.rputBoth_boot : (s.rputBoth r v i ix).boot = s.boot := rfl
@[simp] theorem State.rputBoth_cplx : (s.rputBoth r v i ix).cplx = s.cplx := rfl
@[simp] theorem State.rputBoth_store : (s.rputBoth r v i ix).store = s.store := rfl
@[simp] theorem State.rputBoth_mer : (s.rputBoth r v i ix).mer = s.mer := rfl
@[simp] theorem State.rputBoth_vecs : (s.rputBoth r v i ix).vecs = s.vecs := rfl
@[simp] theorem State.rputBoth_tally : (s.rputBoth r v i ix).tally = s.tally := rfl
@[simp] theorem State.rputBoth_lanes : (s.rputBoth r v i ix).lanes = s.lanes := rfl
@[simp] theorem State.rputBoth_frames : (s.rputBoth r v i ix).frames = s.frames := rfl
@[simp] theorem State.rputBoth_nextFrame : (s.rputBoth r v i ix).nextFrame = s.nextFrame := rfl
@[simp] theorem State.rputBoth_copies : (s.rputBoth r v i ix).copies = s.copies := rfl
@[simp] theorem State.rputBoth_queues : (s.rputBoth r v i ix).queues = s.queues := rfl
@[simp] theorem State.rputBoth_pagers : (s.rputBoth r v i ix).pagers = s.pagers := rfl
@[simp] theorem State.rputBoth_objs : (s.rputBoth r v i ix).objs = s.objs := rfl
@[simp] theorem State.rputBoth_rounds : (s.rputBoth r v i ix).rounds = s.rounds := rfl
@[simp] theorem State.rputBoth_gates : (s.rputBoth r v i ix).gates = s.gates := rfl
@[simp] theorem State.rputBoth_slath : (s.rputBoth r v i ix).slath = s.slath := rfl
@[simp] theorem State.rputBoth_creel : (s.rputBoth r v i ix).creel = s.creel := rfl
@[simp] theorem State.rputBoth_ports : (s.rputBoth r v i ix).ports = s.ports := rfl
@[simp] theorem State.rputBoth_fwd : (s.rputBoth r v i ix).fwd = s.fwd := rfl
@[simp] theorem State.rputBoth_surveys : (s.rputBoth r v i ix).surveys = s.surveys := rfl
@[simp] theorem State.rputBoth_legend : (s.rputBoth r v i ix).legend = s.legend := rfl
@[simp] theorem State.rputBoth_pipes : (s.rputBoth r v i ix).pipes = s.pipes := rfl
@[simp] theorem State.rputBoth_poison : (s.rputBoth r v i ix).poison = s.poison := rfl
@[simp] theorem State.rputBoth_plait : (s.rputBoth r v i ix).plait = s.plait := rfl
@[simp] theorem State.rputBoth_plaitIn : (s.rputBoth r v i ix).plaitIn = s.plaitIn := rfl
@[simp] theorem State.rputBoth_mbx : (s.rputBoth r v i ix).mbx = s.mbx := rfl
@[simp] theorem State.rputBoth_ruleCnt : (s.rputBoth r v i ix).ruleCnt = s.ruleCnt := rfl
@[simp] theorem State.rputBoth_msix : (s.rputBoth r v i ix).msix = s.msix := rfl
@[simp] theorem State.rputBoth_taps : (s.rputBoth r v i ix).taps = s.taps := rfl
@[simp] theorem State.rputBoth_cart : (s.rputBoth r v i ix).cart = s.cart := rfl
end

/-! ### State.radd -/

section
variable (s : State) (r : Row) (v i : Nat) (ix : List Nat)
@[simp] theorem State.radd_pending : (s.radd r v i ix).pending = s.pending := rfl
@[simp] theorem State.radd_now : (s.radd r v i ix).now = s.now := rfl
@[simp] theorem State.radd_rdata : (s.radd r v i ix).rdata = s.rdata := rfl
@[simp] theorem State.radd_fresh : (s.radd r v i ix).fresh = s.fresh := rfl
@[simp] theorem State.radd_banks : (s.radd r v i ix).banks = s.banks := rfl
@[simp] theorem State.radd_failed : (s.radd r v i ix).failed = s.failed := rfl
@[simp] theorem State.radd_mem : (s.radd r v i ix).mem = s.mem := rfl
@[simp] theorem State.radd_tabs : (s.radd r v i ix).tabs = s.tabs := rfl
@[simp] theorem State.radd_threads : (s.radd r v i ix).threads = s.threads := rfl
@[simp] theorem State.radd_rings : (s.radd r v i ix).rings = s.rings := rfl
@[simp] theorem State.radd_lastStarted : (s.radd r v i ix).lastStarted = s.lastStarted := rfl
@[simp] theorem State.radd_doms : (s.radd r v i ix).doms = s.doms := rfl
@[simp] theorem State.radd_rails : (s.radd r v i ix).rails = s.rails := rfl
@[simp] theorem State.radd_nextReq : (s.radd r v i ix).nextReq = s.nextReq := rfl
@[simp] theorem State.radd_boot : (s.radd r v i ix).boot = s.boot := rfl
@[simp] theorem State.radd_cplx : (s.radd r v i ix).cplx = s.cplx := rfl
@[simp] theorem State.radd_store : (s.radd r v i ix).store = s.store := rfl
@[simp] theorem State.radd_mer : (s.radd r v i ix).mer = s.mer := rfl
@[simp] theorem State.radd_vecs : (s.radd r v i ix).vecs = s.vecs := rfl
@[simp] theorem State.radd_tally : (s.radd r v i ix).tally = s.tally := rfl
@[simp] theorem State.radd_lanes : (s.radd r v i ix).lanes = s.lanes := rfl
@[simp] theorem State.radd_frames : (s.radd r v i ix).frames = s.frames := rfl
@[simp] theorem State.radd_nextFrame : (s.radd r v i ix).nextFrame = s.nextFrame := rfl
@[simp] theorem State.radd_copies : (s.radd r v i ix).copies = s.copies := rfl
@[simp] theorem State.radd_queues : (s.radd r v i ix).queues = s.queues := rfl
@[simp] theorem State.radd_pagers : (s.radd r v i ix).pagers = s.pagers := rfl
@[simp] theorem State.radd_objs : (s.radd r v i ix).objs = s.objs := rfl
@[simp] theorem State.radd_rounds : (s.radd r v i ix).rounds = s.rounds := rfl
@[simp] theorem State.radd_gates : (s.radd r v i ix).gates = s.gates := rfl
@[simp] theorem State.radd_slath : (s.radd r v i ix).slath = s.slath := rfl
@[simp] theorem State.radd_creel : (s.radd r v i ix).creel = s.creel := rfl
@[simp] theorem State.radd_ports : (s.radd r v i ix).ports = s.ports := rfl
@[simp] theorem State.radd_fwd : (s.radd r v i ix).fwd = s.fwd := rfl
@[simp] theorem State.radd_surveys : (s.radd r v i ix).surveys = s.surveys := rfl
@[simp] theorem State.radd_legend : (s.radd r v i ix).legend = s.legend := rfl
@[simp] theorem State.radd_pipes : (s.radd r v i ix).pipes = s.pipes := rfl
@[simp] theorem State.radd_poison : (s.radd r v i ix).poison = s.poison := rfl
@[simp] theorem State.radd_plait : (s.radd r v i ix).plait = s.plait := rfl
@[simp] theorem State.radd_plaitIn : (s.radd r v i ix).plaitIn = s.plaitIn := rfl
@[simp] theorem State.radd_mbx : (s.radd r v i ix).mbx = s.mbx := rfl
@[simp] theorem State.radd_ruleCnt : (s.radd r v i ix).ruleCnt = s.ruleCnt := rfl
@[simp] theorem State.radd_msix : (s.radd r v i ix).msix = s.msix := rfl
@[simp] theorem State.radd_taps : (s.radd r v i ix).taps = s.taps := rfl
@[simp] theorem State.radd_cart : (s.radd r v i ix).cart = s.cart := rfl
end

/-! ### State.rsub -/

section
variable (s : State) (r : Row) (v i : Nat) (ix : List Nat)
@[simp] theorem State.rsub_pending : (s.rsub r v i ix).pending = s.pending := rfl
@[simp] theorem State.rsub_now : (s.rsub r v i ix).now = s.now := rfl
@[simp] theorem State.rsub_rdata : (s.rsub r v i ix).rdata = s.rdata := rfl
@[simp] theorem State.rsub_fresh : (s.rsub r v i ix).fresh = s.fresh := rfl
@[simp] theorem State.rsub_banks : (s.rsub r v i ix).banks = s.banks := rfl
@[simp] theorem State.rsub_failed : (s.rsub r v i ix).failed = s.failed := rfl
@[simp] theorem State.rsub_mem : (s.rsub r v i ix).mem = s.mem := rfl
@[simp] theorem State.rsub_tabs : (s.rsub r v i ix).tabs = s.tabs := rfl
@[simp] theorem State.rsub_threads : (s.rsub r v i ix).threads = s.threads := rfl
@[simp] theorem State.rsub_rings : (s.rsub r v i ix).rings = s.rings := rfl
@[simp] theorem State.rsub_lastStarted : (s.rsub r v i ix).lastStarted = s.lastStarted := rfl
@[simp] theorem State.rsub_doms : (s.rsub r v i ix).doms = s.doms := rfl
@[simp] theorem State.rsub_rails : (s.rsub r v i ix).rails = s.rails := rfl
@[simp] theorem State.rsub_nextReq : (s.rsub r v i ix).nextReq = s.nextReq := rfl
@[simp] theorem State.rsub_boot : (s.rsub r v i ix).boot = s.boot := rfl
@[simp] theorem State.rsub_cplx : (s.rsub r v i ix).cplx = s.cplx := rfl
@[simp] theorem State.rsub_store : (s.rsub r v i ix).store = s.store := rfl
@[simp] theorem State.rsub_mer : (s.rsub r v i ix).mer = s.mer := rfl
@[simp] theorem State.rsub_vecs : (s.rsub r v i ix).vecs = s.vecs := rfl
@[simp] theorem State.rsub_tally : (s.rsub r v i ix).tally = s.tally := rfl
@[simp] theorem State.rsub_lanes : (s.rsub r v i ix).lanes = s.lanes := rfl
@[simp] theorem State.rsub_frames : (s.rsub r v i ix).frames = s.frames := rfl
@[simp] theorem State.rsub_nextFrame : (s.rsub r v i ix).nextFrame = s.nextFrame := rfl
@[simp] theorem State.rsub_copies : (s.rsub r v i ix).copies = s.copies := rfl
@[simp] theorem State.rsub_queues : (s.rsub r v i ix).queues = s.queues := rfl
@[simp] theorem State.rsub_pagers : (s.rsub r v i ix).pagers = s.pagers := rfl
@[simp] theorem State.rsub_objs : (s.rsub r v i ix).objs = s.objs := rfl
@[simp] theorem State.rsub_rounds : (s.rsub r v i ix).rounds = s.rounds := rfl
@[simp] theorem State.rsub_gates : (s.rsub r v i ix).gates = s.gates := rfl
@[simp] theorem State.rsub_slath : (s.rsub r v i ix).slath = s.slath := rfl
@[simp] theorem State.rsub_creel : (s.rsub r v i ix).creel = s.creel := rfl
@[simp] theorem State.rsub_ports : (s.rsub r v i ix).ports = s.ports := rfl
@[simp] theorem State.rsub_fwd : (s.rsub r v i ix).fwd = s.fwd := rfl
@[simp] theorem State.rsub_surveys : (s.rsub r v i ix).surveys = s.surveys := rfl
@[simp] theorem State.rsub_legend : (s.rsub r v i ix).legend = s.legend := rfl
@[simp] theorem State.rsub_pipes : (s.rsub r v i ix).pipes = s.pipes := rfl
@[simp] theorem State.rsub_poison : (s.rsub r v i ix).poison = s.poison := rfl
@[simp] theorem State.rsub_plait : (s.rsub r v i ix).plait = s.plait := rfl
@[simp] theorem State.rsub_plaitIn : (s.rsub r v i ix).plaitIn = s.plaitIn := rfl
@[simp] theorem State.rsub_mbx : (s.rsub r v i ix).mbx = s.mbx := rfl
@[simp] theorem State.rsub_ruleCnt : (s.rsub r v i ix).ruleCnt = s.ruleCnt := rfl
@[simp] theorem State.rsub_msix : (s.rsub r v i ix).msix = s.msix := rfl
@[simp] theorem State.rsub_taps : (s.rsub r v i ix).taps = s.taps := rfl
@[simp] theorem State.rsub_cart : (s.rsub r v i ix).cart = s.cart := rfl
end

/-! ### State.pput -/

section
variable (s : State) (r : Row) (v i : Nat) (ix : List Nat)
@[simp] theorem State.pput_pending : (s.pput r v i ix).pending = s.pending := rfl
@[simp] theorem State.pput_now : (s.pput r v i ix).now = s.now := rfl
@[simp] theorem State.pput_rdata : (s.pput r v i ix).rdata = s.rdata := rfl
@[simp] theorem State.pput_fresh : (s.pput r v i ix).fresh = s.fresh := rfl
@[simp] theorem State.pput_banks : (s.pput r v i ix).banks = s.banks := rfl
@[simp] theorem State.pput_failed : (s.pput r v i ix).failed = s.failed := rfl
@[simp] theorem State.pput_mem : (s.pput r v i ix).mem = s.mem := rfl
@[simp] theorem State.pput_tabs : (s.pput r v i ix).tabs = s.tabs := rfl
@[simp] theorem State.pput_threads : (s.pput r v i ix).threads = s.threads := rfl
@[simp] theorem State.pput_rings : (s.pput r v i ix).rings = s.rings := rfl
@[simp] theorem State.pput_lastStarted : (s.pput r v i ix).lastStarted = s.lastStarted := rfl
@[simp] theorem State.pput_doms : (s.pput r v i ix).doms = s.doms := rfl
@[simp] theorem State.pput_rails : (s.pput r v i ix).rails = s.rails := rfl
@[simp] theorem State.pput_nextReq : (s.pput r v i ix).nextReq = s.nextReq := rfl
@[simp] theorem State.pput_boot : (s.pput r v i ix).boot = s.boot := rfl
@[simp] theorem State.pput_cplx : (s.pput r v i ix).cplx = s.cplx := rfl
@[simp] theorem State.pput_store : (s.pput r v i ix).store = s.store := rfl
@[simp] theorem State.pput_mer : (s.pput r v i ix).mer = s.mer := rfl
@[simp] theorem State.pput_vecs : (s.pput r v i ix).vecs = s.vecs := rfl
@[simp] theorem State.pput_tally : (s.pput r v i ix).tally = s.tally := rfl
@[simp] theorem State.pput_lanes : (s.pput r v i ix).lanes = s.lanes := rfl
@[simp] theorem State.pput_frames : (s.pput r v i ix).frames = s.frames := rfl
@[simp] theorem State.pput_nextFrame : (s.pput r v i ix).nextFrame = s.nextFrame := rfl
@[simp] theorem State.pput_copies : (s.pput r v i ix).copies = s.copies := rfl
@[simp] theorem State.pput_queues : (s.pput r v i ix).queues = s.queues := rfl
@[simp] theorem State.pput_pagers : (s.pput r v i ix).pagers = s.pagers := rfl
@[simp] theorem State.pput_objs : (s.pput r v i ix).objs = s.objs := rfl
@[simp] theorem State.pput_rounds : (s.pput r v i ix).rounds = s.rounds := rfl
@[simp] theorem State.pput_gates : (s.pput r v i ix).gates = s.gates := rfl
@[simp] theorem State.pput_slath : (s.pput r v i ix).slath = s.slath := rfl
@[simp] theorem State.pput_creel : (s.pput r v i ix).creel = s.creel := rfl
@[simp] theorem State.pput_ports : (s.pput r v i ix).ports = s.ports := rfl
@[simp] theorem State.pput_fwd : (s.pput r v i ix).fwd = s.fwd := rfl
@[simp] theorem State.pput_surveys : (s.pput r v i ix).surveys = s.surveys := rfl
@[simp] theorem State.pput_legend : (s.pput r v i ix).legend = s.legend := rfl
@[simp] theorem State.pput_pipes : (s.pput r v i ix).pipes = s.pipes := rfl
@[simp] theorem State.pput_poison : (s.pput r v i ix).poison = s.poison := rfl
@[simp] theorem State.pput_plait : (s.pput r v i ix).plait = s.plait := rfl
@[simp] theorem State.pput_plaitIn : (s.pput r v i ix).plaitIn = s.plaitIn := rfl
@[simp] theorem State.pput_mbx : (s.pput r v i ix).mbx = s.mbx := rfl
@[simp] theorem State.pput_ruleCnt : (s.pput r v i ix).ruleCnt = s.ruleCnt := rfl
@[simp] theorem State.pput_msix : (s.pput r v i ix).msix = s.msix := rfl
@[simp] theorem State.pput_taps : (s.pput r v i ix).taps = s.taps := rfl
@[simp] theorem State.pput_cart : (s.pput r v i ix).cart = s.cart := rfl
end

/-! ### State.cadd -/

section
variable (s : State) (r : Row) (v i : Nat) (ix : List Nat)
@[simp] theorem State.cadd_pending : (s.cadd r v i ix).pending = s.pending := rfl
@[simp] theorem State.cadd_now : (s.cadd r v i ix).now = s.now := rfl
@[simp] theorem State.cadd_rdata : (s.cadd r v i ix).rdata = s.rdata := rfl
@[simp] theorem State.cadd_fresh : (s.cadd r v i ix).fresh = s.fresh := rfl
@[simp] theorem State.cadd_banks : (s.cadd r v i ix).banks = s.banks := rfl
@[simp] theorem State.cadd_failed : (s.cadd r v i ix).failed = s.failed := rfl
@[simp] theorem State.cadd_mem : (s.cadd r v i ix).mem = s.mem := rfl
@[simp] theorem State.cadd_tabs : (s.cadd r v i ix).tabs = s.tabs := rfl
@[simp] theorem State.cadd_threads : (s.cadd r v i ix).threads = s.threads := rfl
@[simp] theorem State.cadd_rings : (s.cadd r v i ix).rings = s.rings := rfl
@[simp] theorem State.cadd_lastStarted : (s.cadd r v i ix).lastStarted = s.lastStarted := rfl
@[simp] theorem State.cadd_doms : (s.cadd r v i ix).doms = s.doms := rfl
@[simp] theorem State.cadd_rails : (s.cadd r v i ix).rails = s.rails := rfl
@[simp] theorem State.cadd_nextReq : (s.cadd r v i ix).nextReq = s.nextReq := rfl
@[simp] theorem State.cadd_boot : (s.cadd r v i ix).boot = s.boot := rfl
@[simp] theorem State.cadd_cplx : (s.cadd r v i ix).cplx = s.cplx := rfl
@[simp] theorem State.cadd_store : (s.cadd r v i ix).store = s.store := rfl
@[simp] theorem State.cadd_mer : (s.cadd r v i ix).mer = s.mer := rfl
@[simp] theorem State.cadd_vecs : (s.cadd r v i ix).vecs = s.vecs := rfl
@[simp] theorem State.cadd_tally : (s.cadd r v i ix).tally = s.tally := rfl
@[simp] theorem State.cadd_lanes : (s.cadd r v i ix).lanes = s.lanes := rfl
@[simp] theorem State.cadd_frames : (s.cadd r v i ix).frames = s.frames := rfl
@[simp] theorem State.cadd_nextFrame : (s.cadd r v i ix).nextFrame = s.nextFrame := rfl
@[simp] theorem State.cadd_copies : (s.cadd r v i ix).copies = s.copies := rfl
@[simp] theorem State.cadd_queues : (s.cadd r v i ix).queues = s.queues := rfl
@[simp] theorem State.cadd_pagers : (s.cadd r v i ix).pagers = s.pagers := rfl
@[simp] theorem State.cadd_objs : (s.cadd r v i ix).objs = s.objs := rfl
@[simp] theorem State.cadd_rounds : (s.cadd r v i ix).rounds = s.rounds := rfl
@[simp] theorem State.cadd_gates : (s.cadd r v i ix).gates = s.gates := rfl
@[simp] theorem State.cadd_slath : (s.cadd r v i ix).slath = s.slath := rfl
@[simp] theorem State.cadd_creel : (s.cadd r v i ix).creel = s.creel := rfl
@[simp] theorem State.cadd_ports : (s.cadd r v i ix).ports = s.ports := rfl
@[simp] theorem State.cadd_fwd : (s.cadd r v i ix).fwd = s.fwd := rfl
@[simp] theorem State.cadd_surveys : (s.cadd r v i ix).surveys = s.surveys := rfl
@[simp] theorem State.cadd_legend : (s.cadd r v i ix).legend = s.legend := rfl
@[simp] theorem State.cadd_pipes : (s.cadd r v i ix).pipes = s.pipes := rfl
@[simp] theorem State.cadd_poison : (s.cadd r v i ix).poison = s.poison := rfl
@[simp] theorem State.cadd_plait : (s.cadd r v i ix).plait = s.plait := rfl
@[simp] theorem State.cadd_plaitIn : (s.cadd r v i ix).plaitIn = s.plaitIn := rfl
@[simp] theorem State.cadd_mbx : (s.cadd r v i ix).mbx = s.mbx := rfl
@[simp] theorem State.cadd_ruleCnt : (s.cadd r v i ix).ruleCnt = s.ruleCnt := rfl
@[simp] theorem State.cadd_msix : (s.cadd r v i ix).msix = s.msix := rfl
@[simp] theorem State.cadd_taps : (s.cadd r v i ix).taps = s.taps := rfl
@[simp] theorem State.cadd_cart : (s.cadd r v i ix).cart = s.cart := rfl
end

/-! ### State.cinc -/

section
variable (s : State) (r : Row) (i : Nat) (ix : List Nat)
@[simp] theorem State.cinc_pending : (s.cinc r i ix).pending = s.pending := rfl
@[simp] theorem State.cinc_now : (s.cinc r i ix).now = s.now := rfl
@[simp] theorem State.cinc_rdata : (s.cinc r i ix).rdata = s.rdata := rfl
@[simp] theorem State.cinc_fresh : (s.cinc r i ix).fresh = s.fresh := rfl
@[simp] theorem State.cinc_banks : (s.cinc r i ix).banks = s.banks := rfl
@[simp] theorem State.cinc_failed : (s.cinc r i ix).failed = s.failed := rfl
@[simp] theorem State.cinc_mem : (s.cinc r i ix).mem = s.mem := rfl
@[simp] theorem State.cinc_tabs : (s.cinc r i ix).tabs = s.tabs := rfl
@[simp] theorem State.cinc_threads : (s.cinc r i ix).threads = s.threads := rfl
@[simp] theorem State.cinc_rings : (s.cinc r i ix).rings = s.rings := rfl
@[simp] theorem State.cinc_lastStarted : (s.cinc r i ix).lastStarted = s.lastStarted := rfl
@[simp] theorem State.cinc_doms : (s.cinc r i ix).doms = s.doms := rfl
@[simp] theorem State.cinc_rails : (s.cinc r i ix).rails = s.rails := rfl
@[simp] theorem State.cinc_nextReq : (s.cinc r i ix).nextReq = s.nextReq := rfl
@[simp] theorem State.cinc_boot : (s.cinc r i ix).boot = s.boot := rfl
@[simp] theorem State.cinc_cplx : (s.cinc r i ix).cplx = s.cplx := rfl
@[simp] theorem State.cinc_store : (s.cinc r i ix).store = s.store := rfl
@[simp] theorem State.cinc_mer : (s.cinc r i ix).mer = s.mer := rfl
@[simp] theorem State.cinc_vecs : (s.cinc r i ix).vecs = s.vecs := rfl
@[simp] theorem State.cinc_tally : (s.cinc r i ix).tally = s.tally := rfl
@[simp] theorem State.cinc_lanes : (s.cinc r i ix).lanes = s.lanes := rfl
@[simp] theorem State.cinc_frames : (s.cinc r i ix).frames = s.frames := rfl
@[simp] theorem State.cinc_nextFrame : (s.cinc r i ix).nextFrame = s.nextFrame := rfl
@[simp] theorem State.cinc_copies : (s.cinc r i ix).copies = s.copies := rfl
@[simp] theorem State.cinc_queues : (s.cinc r i ix).queues = s.queues := rfl
@[simp] theorem State.cinc_pagers : (s.cinc r i ix).pagers = s.pagers := rfl
@[simp] theorem State.cinc_objs : (s.cinc r i ix).objs = s.objs := rfl
@[simp] theorem State.cinc_rounds : (s.cinc r i ix).rounds = s.rounds := rfl
@[simp] theorem State.cinc_gates : (s.cinc r i ix).gates = s.gates := rfl
@[simp] theorem State.cinc_slath : (s.cinc r i ix).slath = s.slath := rfl
@[simp] theorem State.cinc_creel : (s.cinc r i ix).creel = s.creel := rfl
@[simp] theorem State.cinc_ports : (s.cinc r i ix).ports = s.ports := rfl
@[simp] theorem State.cinc_fwd : (s.cinc r i ix).fwd = s.fwd := rfl
@[simp] theorem State.cinc_surveys : (s.cinc r i ix).surveys = s.surveys := rfl
@[simp] theorem State.cinc_legend : (s.cinc r i ix).legend = s.legend := rfl
@[simp] theorem State.cinc_pipes : (s.cinc r i ix).pipes = s.pipes := rfl
@[simp] theorem State.cinc_poison : (s.cinc r i ix).poison = s.poison := rfl
@[simp] theorem State.cinc_plait : (s.cinc r i ix).plait = s.plait := rfl
@[simp] theorem State.cinc_plaitIn : (s.cinc r i ix).plaitIn = s.plaitIn := rfl
@[simp] theorem State.cinc_mbx : (s.cinc r i ix).mbx = s.mbx := rfl
@[simp] theorem State.cinc_ruleCnt : (s.cinc r i ix).ruleCnt = s.ruleCnt := rfl
@[simp] theorem State.cinc_msix : (s.cinc r i ix).msix = s.msix := rfl
@[simp] theorem State.cinc_taps : (s.cinc r i ix).taps = s.taps := rfl
@[simp] theorem State.cinc_cart : (s.cinc r i ix).cart = s.cart := rfl
end

/-! ### State.sinc -/

section
variable (s : State) (r : Row) (i : Nat) (ix : List Nat)
@[simp] theorem State.sinc_pending : (s.sinc r i ix).pending = s.pending := rfl
@[simp] theorem State.sinc_now : (s.sinc r i ix).now = s.now := rfl
@[simp] theorem State.sinc_rdata : (s.sinc r i ix).rdata = s.rdata := rfl
@[simp] theorem State.sinc_fresh : (s.sinc r i ix).fresh = s.fresh := rfl
@[simp] theorem State.sinc_banks : (s.sinc r i ix).banks = s.banks := rfl
@[simp] theorem State.sinc_failed : (s.sinc r i ix).failed = s.failed := rfl
@[simp] theorem State.sinc_mem : (s.sinc r i ix).mem = s.mem := rfl
@[simp] theorem State.sinc_tabs : (s.sinc r i ix).tabs = s.tabs := rfl
@[simp] theorem State.sinc_threads : (s.sinc r i ix).threads = s.threads := rfl
@[simp] theorem State.sinc_rings : (s.sinc r i ix).rings = s.rings := rfl
@[simp] theorem State.sinc_lastStarted : (s.sinc r i ix).lastStarted = s.lastStarted := rfl
@[simp] theorem State.sinc_doms : (s.sinc r i ix).doms = s.doms := rfl
@[simp] theorem State.sinc_rails : (s.sinc r i ix).rails = s.rails := rfl
@[simp] theorem State.sinc_nextReq : (s.sinc r i ix).nextReq = s.nextReq := rfl
@[simp] theorem State.sinc_boot : (s.sinc r i ix).boot = s.boot := rfl
@[simp] theorem State.sinc_cplx : (s.sinc r i ix).cplx = s.cplx := rfl
@[simp] theorem State.sinc_store : (s.sinc r i ix).store = s.store := rfl
@[simp] theorem State.sinc_mer : (s.sinc r i ix).mer = s.mer := rfl
@[simp] theorem State.sinc_vecs : (s.sinc r i ix).vecs = s.vecs := rfl
@[simp] theorem State.sinc_tally : (s.sinc r i ix).tally = s.tally := rfl
@[simp] theorem State.sinc_lanes : (s.sinc r i ix).lanes = s.lanes := rfl
@[simp] theorem State.sinc_frames : (s.sinc r i ix).frames = s.frames := rfl
@[simp] theorem State.sinc_nextFrame : (s.sinc r i ix).nextFrame = s.nextFrame := rfl
@[simp] theorem State.sinc_copies : (s.sinc r i ix).copies = s.copies := rfl
@[simp] theorem State.sinc_queues : (s.sinc r i ix).queues = s.queues := rfl
@[simp] theorem State.sinc_pagers : (s.sinc r i ix).pagers = s.pagers := rfl
@[simp] theorem State.sinc_objs : (s.sinc r i ix).objs = s.objs := rfl
@[simp] theorem State.sinc_rounds : (s.sinc r i ix).rounds = s.rounds := rfl
@[simp] theorem State.sinc_gates : (s.sinc r i ix).gates = s.gates := rfl
@[simp] theorem State.sinc_slath : (s.sinc r i ix).slath = s.slath := rfl
@[simp] theorem State.sinc_creel : (s.sinc r i ix).creel = s.creel := rfl
@[simp] theorem State.sinc_ports : (s.sinc r i ix).ports = s.ports := rfl
@[simp] theorem State.sinc_fwd : (s.sinc r i ix).fwd = s.fwd := rfl
@[simp] theorem State.sinc_surveys : (s.sinc r i ix).surveys = s.surveys := rfl
@[simp] theorem State.sinc_legend : (s.sinc r i ix).legend = s.legend := rfl
@[simp] theorem State.sinc_pipes : (s.sinc r i ix).pipes = s.pipes := rfl
@[simp] theorem State.sinc_poison : (s.sinc r i ix).poison = s.poison := rfl
@[simp] theorem State.sinc_plait : (s.sinc r i ix).plait = s.plait := rfl
@[simp] theorem State.sinc_plaitIn : (s.sinc r i ix).plaitIn = s.plaitIn := rfl
@[simp] theorem State.sinc_mbx : (s.sinc r i ix).mbx = s.mbx := rfl
@[simp] theorem State.sinc_ruleCnt : (s.sinc r i ix).ruleCnt = s.ruleCnt := rfl
@[simp] theorem State.sinc_msix : (s.sinc r i ix).msix = s.msix := rfl
@[simp] theorem State.sinc_taps : (s.sinc r i ix).taps = s.taps := rfl
@[simp] theorem State.sinc_cart : (s.sinc r i ix).cart = s.cart := rfl
end

/-! ### State.winc -/

section
variable (s : State) (r : Row) (i : Nat) (ix : List Nat)
@[simp] theorem State.winc_pending : (s.winc r i ix).pending = s.pending := rfl
@[simp] theorem State.winc_now : (s.winc r i ix).now = s.now := rfl
@[simp] theorem State.winc_rdata : (s.winc r i ix).rdata = s.rdata := rfl
@[simp] theorem State.winc_fresh : (s.winc r i ix).fresh = s.fresh := rfl
@[simp] theorem State.winc_banks : (s.winc r i ix).banks = s.banks := rfl
@[simp] theorem State.winc_failed : (s.winc r i ix).failed = s.failed := rfl
@[simp] theorem State.winc_mem : (s.winc r i ix).mem = s.mem := rfl
@[simp] theorem State.winc_tabs : (s.winc r i ix).tabs = s.tabs := rfl
@[simp] theorem State.winc_threads : (s.winc r i ix).threads = s.threads := rfl
@[simp] theorem State.winc_rings : (s.winc r i ix).rings = s.rings := rfl
@[simp] theorem State.winc_lastStarted : (s.winc r i ix).lastStarted = s.lastStarted := rfl
@[simp] theorem State.winc_doms : (s.winc r i ix).doms = s.doms := rfl
@[simp] theorem State.winc_rails : (s.winc r i ix).rails = s.rails := rfl
@[simp] theorem State.winc_nextReq : (s.winc r i ix).nextReq = s.nextReq := rfl
@[simp] theorem State.winc_boot : (s.winc r i ix).boot = s.boot := rfl
@[simp] theorem State.winc_cplx : (s.winc r i ix).cplx = s.cplx := rfl
@[simp] theorem State.winc_store : (s.winc r i ix).store = s.store := rfl
@[simp] theorem State.winc_mer : (s.winc r i ix).mer = s.mer := rfl
@[simp] theorem State.winc_vecs : (s.winc r i ix).vecs = s.vecs := rfl
@[simp] theorem State.winc_tally : (s.winc r i ix).tally = s.tally := rfl
@[simp] theorem State.winc_lanes : (s.winc r i ix).lanes = s.lanes := rfl
@[simp] theorem State.winc_frames : (s.winc r i ix).frames = s.frames := rfl
@[simp] theorem State.winc_nextFrame : (s.winc r i ix).nextFrame = s.nextFrame := rfl
@[simp] theorem State.winc_copies : (s.winc r i ix).copies = s.copies := rfl
@[simp] theorem State.winc_queues : (s.winc r i ix).queues = s.queues := rfl
@[simp] theorem State.winc_pagers : (s.winc r i ix).pagers = s.pagers := rfl
@[simp] theorem State.winc_objs : (s.winc r i ix).objs = s.objs := rfl
@[simp] theorem State.winc_rounds : (s.winc r i ix).rounds = s.rounds := rfl
@[simp] theorem State.winc_gates : (s.winc r i ix).gates = s.gates := rfl
@[simp] theorem State.winc_slath : (s.winc r i ix).slath = s.slath := rfl
@[simp] theorem State.winc_creel : (s.winc r i ix).creel = s.creel := rfl
@[simp] theorem State.winc_ports : (s.winc r i ix).ports = s.ports := rfl
@[simp] theorem State.winc_fwd : (s.winc r i ix).fwd = s.fwd := rfl
@[simp] theorem State.winc_surveys : (s.winc r i ix).surveys = s.surveys := rfl
@[simp] theorem State.winc_legend : (s.winc r i ix).legend = s.legend := rfl
@[simp] theorem State.winc_pipes : (s.winc r i ix).pipes = s.pipes := rfl
@[simp] theorem State.winc_poison : (s.winc r i ix).poison = s.poison := rfl
@[simp] theorem State.winc_plait : (s.winc r i ix).plait = s.plait := rfl
@[simp] theorem State.winc_plaitIn : (s.winc r i ix).plaitIn = s.plaitIn := rfl
@[simp] theorem State.winc_mbx : (s.winc r i ix).mbx = s.mbx := rfl
@[simp] theorem State.winc_ruleCnt : (s.winc r i ix).ruleCnt = s.ruleCnt := rfl
@[simp] theorem State.winc_msix : (s.winc r i ix).msix = s.msix := rfl
@[simp] theorem State.winc_taps : (s.winc r i ix).taps = s.taps := rfl
@[simp] theorem State.winc_cart : (s.winc r i ix).cart = s.cart := rfl
end

end Sys2Proof.Machine
end

