-- ==== Sys2Proof/Laws/Registers.lean ====
section
/-! SUPPORT. What a write of a register, of a byte of memory or of an entity is read back as, and what it leaves alone. -/

namespace Sys2Proof.Machine

open Sys2Proof Sys2Proof.Laws

/-! ### Bit fields -/

/-- A field of a number. -/
theorem bits_lt (x hi lo : Nat) : bits x hi lo < 2 ^ (hi + 1 - lo) := Nat.mod_lt _ (Nat.two_pow_pos _)

/-- A field written is read back, at its width. -/
theorem bits_setBits_same (x hi lo v : Nat) : bits (setBits x hi lo v) hi lo = v % 2 ^ (hi + 1 - lo) := by
  have hm : 0 < 2 ^ (hi + 1 - lo) := Nat.two_pow_pos _
  have hp : 0 < 2 ^ lo := Nat.two_pow_pos _
  simp only [bits, setBits]
  generalize 2 ^ (hi + 1 - lo) = m at *
  generalize 2 ^ lo = p at *
  have h1 : x / p % m * p ≤ x := by
    calc x / p % m * p ≤ x / p * p := Nat.mul_le_mul_right _ (Nat.mod_le _ _)
      _ ≤ x := Nat.div_mul_le_self x p
  rw [Nat.add_mul_div_right _ _ hp, Nat.mul_comm, Nat.sub_mul_div_of_le _ _ _ (by rw [Nat.mul_comm]; exact h1), Nat.add_mod]
  have h2 : (x / p - x / p % m) % m = 0 := Nat.sub_mod_eq_zero_of_mod_eq (by simp)
  rw [h2]
  simp

/-- The bits above and below a field that is written stay. -/
theorem setBits_lt {x hi lo v n : Nat} (h : hi < n) (hl : lo ≤ hi) (hx : x < 2 ^ n) : setBits x hi lo v < 2 ^ n := by
  have hp : 0 < 2 ^ lo := Nat.two_pow_pos _
  have hm : 0 < 2 ^ (hi + 1 - lo) := Nat.two_pow_pos _
  have e : 2 ^ n = 2 ^ lo * (2 ^ (hi + 1 - lo) * 2 ^ (n - hi - 1)) := by
    rw [← Nat.pow_add, ← Nat.pow_add]; congr 1; omega
  simp only [setBits]
  rw [e] at hx ⊢
  generalize 2 ^ (n - hi - 1) = q at *
  generalize 2 ^ (hi + 1 - lo) = m at *
  generalize 2 ^ lo = p at *
  have hq : x / p / m < q := by
    rw [Nat.div_div_eq_div_mul]
    apply Nat.div_lt_of_lt_mul
    rw [Nat.mul_assoc]; exact hx
  have hv : v % m < m := Nat.mod_lt _ hm
  have d1 := Nat.div_add_mod x p
  have d2 := Nat.div_add_mod (x / p) m
  have hr : x % p < p := Nat.mod_lt _ hp
  have ex : x - x / p % m * p = p * (m * (x / p / m)) + x % p := by
    have e1 : p * (x / p) = p * (m * (x / p / m)) + x / p % m * p := by
      rw [Nat.mul_comm (x / p % m) p, ← Nat.mul_add, d2]
    omega
  rw [ex]
  have : m * (x / p / m) + v % m + 1 ≤ m * q := by
    have : m * (x / p / m + 1) ≤ m * q := Nat.mul_le_mul_left _ hq
    rw [Nat.mul_add] at this; omega
  calc p * (m * (x / p / m)) + x % p + v % m * p < p * (m * (x / p / m)) + p + v % m * p := by omega
    _ = p * (m * (x / p / m) + v % m + 1) := by
      rw [Nat.mul_add, Nat.mul_add, Nat.mul_one, Nat.mul_comm p (v % m)]; omega
    _ ≤ p * (m * q) := Nat.mul_le_mul_left _ this

/-- A field written leaves the bits below it. -/
theorem bits_setBits_below {x hi lo v h l : Nat} (hh : h < lo) (hl : l ≤ h) : bits (setBits x hi lo v) h l = bits x h l := by
  have e : 2 ^ lo = 2 ^ l * (2 ^ (h + 1 - l) * 2 ^ (lo - h - 1)) := by
    rw [← Nat.pow_add, ← Nat.pow_add]; congr 1; omega
  simp only [bits, setBits]
  rw [e]
  have hp : 0 < 2 ^ l := Nat.two_pow_pos _
  have hm : 0 < 2 ^ (h + 1 - l) := Nat.two_pow_pos _
  have hn : 0 < 2 ^ (lo - h - 1) := Nat.two_pow_pos _
  generalize 2 ^ (lo - h - 1) = q at *
  generalize 2 ^ (h + 1 - l) = m at *
  generalize 2 ^ l = p at *
  generalize 2 ^ (hi + 1 - lo) = y at *
  generalize hv : v % y = v'
  generalize hu : x / (p * (m * q)) % y = u
  have hle : u * (p * (m * q)) ≤ x := by
    rw [← hu]
    calc x / (p * (m * q)) % y * (p * (m * q)) ≤ x / (p * (m * q)) * (p * (m * q)) := Nat.mul_le_mul_right _ (Nat.mod_le _ _)
      _ ≤ x := Nat.div_mul_le_self x _
  have a : u * (p * (m * q)) = p * (m * (q * u)) := by
    rw [Nat.mul_comm u, Nat.mul_assoc, Nat.mul_assoc]
  have b : v' * (p * (m * q)) = p * (m * (q * v')) := by
    rw [Nat.mul_comm v', Nat.mul_assoc, Nat.mul_assoc]
  rw [a] at hle ⊢
  rw [b, Nat.add_mul_div_left _ _ hp, Nat.sub_mul_div_of_le _ _ _ hle, Nat.add_mul_mod_self_left]
  have hle' : m * (q * u) ≤ x / p := (Nat.le_div_iff_mul_le hp).mpr (by rw [Nat.mul_comm]; exact hle)
  have : x / p - m * (q * u) + m * (q * u) = x / p := Nat.sub_add_cancel hle'
  calc (x / p - m * (q * u)) % m = (x / p - m * (q * u) + m * (q * u)) % m := by rw [Nat.add_mul_mod_self_left]
    _ = x / p % m := by rw [this]

/-- A field written leaves the bits above it. -/
theorem bits_setBits_above {x hi lo v h l : Nat} (hh : hi < l) (hl : lo ≤ hi) : bits (setBits x hi lo v) h l = bits x h l := by
  have e : 2 ^ l = 2 ^ lo * 2 ^ (hi + 1 - lo) * 2 ^ (l - hi - 1) := by
    rw [← Nat.pow_add, ← Nat.pow_add]; congr 1; omega
  have hp : 0 < 2 ^ lo := Nat.two_pow_pos _
  have hm : 0 < 2 ^ (hi + 1 - lo) := Nat.two_pow_pos _
  have key : setBits x hi lo v / (2 ^ lo * 2 ^ (hi + 1 - lo)) = x / (2 ^ lo * 2 ^ (hi + 1 - lo)) := by
    simp only [setBits]
    generalize 2 ^ (hi + 1 - lo) = m at *
    generalize 2 ^ lo = p at *
    have hv : v % m < m := Nat.mod_lt _ hm
    have h1 : x / p % m * p ≤ x := by
      calc x / p % m * p ≤ x / p * p := Nat.mul_le_mul_right _ (Nat.mod_le _ _)
        _ ≤ x := Nat.div_mul_le_self x p
    rw [← Nat.div_div_eq_div_mul, ← Nat.div_div_eq_div_mul, Nat.add_mul_div_right _ _ hp, Nat.mul_comm (x / p % m) p,
      Nat.sub_mul_div_of_le _ _ _ (by rw [Nat.mul_comm]; exact h1)]
    have d := Nat.div_add_mod (x / p) m
    have : x / p - x / p % m + v % m = v % m + m * (x / p / m) := by omega
    rw [this, Nat.add_mul_div_left _ _ hm, Nat.div_eq_of_lt hv, Nat.zero_add]
  simp only [bits]
  rw [e, ← Nat.div_div_eq_div_mul (setBits x hi lo v), key, Nat.div_div_eq_div_mul]

/-! ### Register cells -/

/-- Setting a cell keeps the map of the registers canonical. -/
theorem setCell_swf {s : State} (h : swf regReset s.regs = true) (k : Nat) (c : RegCell) :
    swf regReset (s.setCell k c).regs = true := swf_sset h

/-- A cell that was set reads as it was set. -/
theorem cell_setCell_same {s : State} (h : swf regReset s.regs = true) (k : Nat) (c : RegCell) : (s.setCell k c).cell k = c :=
  sget_sset_same h k c

/-- Every other cell reads as before. -/
theorem cell_setCell_ne {s : State} (h : swf regReset s.regs = true) {k q : Nat} (c : RegCell) (hq : q ≠ k) :
    (s.setCell k c).cell q = s.cell q := sget_sset_ne h c hq

/-- Distinct places of the register space have distinct keys. -/
theorem regKey_inj {b i o b' i' o' : Nat} (hi : i < 2 ^ 17) (hi' : i' < 2 ^ 17) (ho : o < 2 ^ 16) (ho' : o' < 2 ^ 16)
    (h : regKey b i o = regKey b' i' o') : b = b' ∧ i = i' ∧ o = o' := by
  simp only [regKey] at h; omega

/-- A field that the hardware sets reads as it was set, at its width. -/
theorem rget_rput_same {s : State} (h : swf regReset s.regs = true) (r : Row) (v i : Nat) (ix : List Nat) (hr : r.hi < 32)
    (hl : r.lo ≤ r.hi) : (s.rput r v i ix).rget r i ix = v % 2 ^ (r.hi + 1 - r.lo) := by
  simp only [State.rput, State.rget, cell_setCell_same h, BitVec.toNat_ofNat]
  rw [Nat.mod_eq_of_lt (setBits_lt hr hl (BitVec.isLt _)), bits_setBits_same]

/-- The fields of every other register read as before. -/
theorem rget_rput_ne {s : State} (h : swf regReset s.regs = true) (r r' : Row) (v i i' : Nat) (ix ix' : List Nat)
    (hk : regKey r'.blk i' (rowAdr r' ix') ≠ regKey r.blk i (rowAdr r ix)) :
    (s.rput r v i ix).rget r' i' ix' = s.rget r' i' ix' := by
  simp only [State.rput, State.rget, cell_setCell_ne h _ hk]

/-- Another field of the register that is written reads as before. -/
theorem rget_rput_field {s : State} (h : swf regReset s.regs = true) (r r' : Row) (v i i' : Nat) (ix ix' : List Nat)
    (hk : regKey r'.blk i' (rowAdr r' ix') = regKey r.blk i (rowAdr r ix)) (hr : r.hi < 32) (hl : r.lo ≤ r.hi) (hl' : r'.lo ≤ r'.hi)
    (hd : r'.hi < r.lo ∨ r.hi < r'.lo) : (s.rput r v i ix).rget r' i' ix' = s.rget r' i' ix' := by
  simp only [State.rput, State.rget, hk, cell_setCell_same h, BitVec.toNat_ofNat]
  rw [Nat.mod_eq_of_lt (setBits_lt hr hl (BitVec.isLt _))]
  rcases hd with h1 | h1
  · exact bits_setBits_below h1 hl'
  · exact bits_setBits_above h1 hl

/-- Setting a field keeps the map of the registers canonical. -/
theorem rput_swf {s : State} (h : swf regReset s.regs = true) (r : Row) (v i : Nat) (ix : List Nat) :
    swf regReset (s.rput r v i ix).regs = true := setCell_swf h _ _

/-- Setting a field's both values keeps the map of the registers canonical. -/
theorem rputBoth_swf {s : State} (h : swf regReset s.regs = true) (r : Row) (v i : Nat) (ix : List Nat) :
    swf regReset (s.rputBoth r v i ix).regs = true := setCell_swf h _ _

/-- Setting a pair keeps the map of the registers canonical. -/
theorem pput_swf {s : State} (h : swf regReset s.regs = true) (r : Row) (v i : Nat) (ix : List Nat) :
    swf regReset (s.pput r v i ix).regs = true := setCell_swf (setCell_swf h _ _) _ _

/-- A field whose both values are set reads as set in use. -/
theorem rget_rputBoth_same {s : State} (h : swf regReset s.regs = true) (r : Row) (v i : Nat) (ix : List Nat) (hr : r.hi < 32)
    (hl : r.lo ≤ r.hi) : (s.rputBoth r v i ix).rget r i ix = v % 2 ^ (r.hi + 1 - r.lo) := by
  simp only [State.rputBoth, State.rget, cell_setCell_same h, BitVec.toNat_ofNat]
  rw [Nat.mod_eq_of_lt (setBits_lt hr hl (BitVec.isLt _)), bits_setBits_same]

/-- The fields of every other register read as before. -/
theorem rget_rputBoth_ne {s : State} (h : swf regReset s.regs = true) (r r' : Row) (v i i' : Nat) (ix ix' : List Nat)
    (hk : regKey r'.blk i' (rowAdr r' ix') ≠ regKey r.blk i (rowAdr r ix)) :
    (s.rputBoth r v i ix).rget r' i' ix' = s.rget r' i' ix' := by
  simp only [State.rputBoth, State.rget, cell_setCell_ne h _ hk]

/-- A pair that was set reads as it was set, modulo 2^64. -/
theorem pget_pput_same {s : State} (h : swf regReset s.regs = true) (r : Row) (v i : Nat) (ix : List Nat) :
    (s.pput r v i ix).pget r i ix = v % 2 ^ 64 := by
  have hk : regKey r.blk i (rowAdr r ix) ≠ regKey r.blk i (rowAdr r ix + 4) := by simp [regKey]
  simp only [State.pput, State.pget]
  rw [cell_setCell_ne (setCell_swf h _ _) _ hk, cell_setCell_same h, cell_setCell_same (setCell_swf h _ _)]
  simp only [BitVec.toNat_ofNat]
  omega

/-- Both registers of every other pair read as before. -/
theorem pget_pput_ne {s : State} (h : swf regReset s.regs = true) (r r' : Row) (v i i' : Nat) (ix ix' : List Nat)
    (h1 : regKey r'.blk i' (rowAdr r' ix') ≠ regKey r.blk i (rowAdr r ix))
    (h2 : regKey r'.blk i' (rowAdr r' ix') ≠ regKey r.blk i (rowAdr r ix + 4))
    (h3 : regKey r'.blk i' (rowAdr r' ix' + 4) ≠ regKey r.blk i (rowAdr r ix))
    (h4 : regKey r'.blk i' (rowAdr r' ix' + 4) ≠ regKey r.blk i (rowAdr r ix + 4)) :
    (s.pput r v i ix).pget r' i' ix' = s.pget r' i' ix' := by
  simp only [State.pput, State.pget]
  rw [cell_setCell_ne (setCell_swf h _ _) _ h2, cell_setCell_ne h _ h1, cell_setCell_ne (setCell_swf h _ _) _ h4,
    cell_setCell_ne h _ h3]

/-- A field of a register that a pair does not cover reads as before. -/
theorem rget_pput_ne {s : State} (h : swf regReset s.regs = true) (r r' : Row) (v i i' : Nat) (ix ix' : List Nat)
    (h1 : regKey r'.blk i' (rowAdr r' ix') ≠ regKey r.blk i (rowAdr r ix))
    (h2 : regKey r'.blk i' (rowAdr r' ix') ≠ regKey r.blk i (rowAdr r ix + 4)) :
    (s.pput r v i ix).rget r' i' ix' = s.rget r' i' ix' := by
  simp only [State.pput, State.rget]
  rw [cell_setCell_ne (setCell_swf h _ _) _ h2, cell_setCell_ne h _ h1]

/-! ### Memory -/

/-- A byte written is read back. -/
theorem mget_mput_same {s : State} (h : Memory.wf s.mem = true) (k : Nat) (b : Byte) : (s.mput k b).mget k = b :=
  sget_sset_same h k b

/-- Every other byte reads as before. -/
theorem mget_mput_ne {s : State} (h : Memory.wf s.mem = true) {k q : Nat} (b : Byte) (hq : q ≠ k) :
    (s.mput k b).mget q = s.mget q := sget_sset_ne h b hq

/-- Writing a byte keeps the canonical form of memory. -/
theorem mput_wf {s : State} (h : Memory.wf s.mem = true) (k : Nat) (b : Byte) : Memory.wf (s.mput k b).mem = true := swf_sset h

/-- Writing bytes keeps the canonical form of memory. -/
theorem mwrite_wf {s : State} (h : Memory.wf s.mem = true) (k : Nat) (l : List Byte) : Memory.wf (s.mwrite k l).mem = true := by
  induction l generalizing s k with
  | nil => exact h
  | cons b r ih => exact ih (mput_wf h k b) (k + 1)

/-- Writing bytes leaves every byte outside them as it was. -/
theorem mget_mwrite_ne {s : State} (h : Memory.wf s.mem = true) (k : Nat) (l : List Byte) {q : Nat} (hq : q < k ∨ k + l.length ≤ q) :
    (s.mwrite k l).mget q = s.mget q := by
  induction l generalizing s k with
  | nil => rfl
  | cons b r ih =>
    simp only [List.length_cons] at hq
    simp only [State.mwrite]
    rw [ih (mput_wf h k b) (k + 1) (by omega), mget_mput_ne h b (by omega)]

/-- The bytes written are read back. -/
theorem mread_mwrite_same {s : State} (h : Memory.wf s.mem = true) (k : Nat) (l : List Byte) :
    (s.mwrite k l).mread k l.length = l := by
  induction l generalizing s k with
  | nil => rfl
  | cons b r ih =>
    simp only [State.mwrite, List.length_cons, State.mread]
    rw [ih (mput_wf h k b) (k + 1), mget_mwrite_ne (mput_wf h k b) (k + 1) r (by omega), mget_mput_same h]

/-- The memory at reset is canonical. -/
theorem reset_mem_wf : Memory.wf State.reset.mem = true := rfl

/-! ### Entities: what is set is read back, the others stay -/

/-- The thread that was set. -/
theorem thr_setThr_same {s : State} (h : s.Canonical) (k : Nat) (x : Thread) : (s.setThr k x).thr k = x := sget_sset_same h.threads k x
/-- The other threads. -/
theorem thr_setThr_ne {s : State} (h : s.Canonical) {k q : Nat} (x : Thread) (hq : q ≠ k) : (s.setThr k x).thr q = s.thr q :=
  sget_sset_ne h.threads x hq
/-- The port that was set. -/
theorem px_setPx_same {s : State} (h : s.Canonical) (k : Nat) (x : PortX) : (s.setPx k x).px k = x := sget_sset_same h.ports k x
/-- The other ports. -/
theorem px_setPx_ne {s : State} (h : s.Canonical) {k q : Nat} (x : PortX) (hq : q ≠ k) : (s.setPx k x).px q = s.px q :=
  sget_sset_ne h.ports x hq
/-- The queue that was set. -/
theorem q_setQ_same {s : State} (h : s.Canonical) (k : Nat) (x : Queue) : (s.setQ k x).q k = x := sget_sset_same h.queues k x
/-- The other queues. -/
theorem q_setQ_ne {s : State} (h : s.Canonical) {k q : Nat} (x : Queue) (hq : q ≠ k) : (s.setQ k x).q q = s.q q :=
  sget_sset_ne h.queues x hq
/-- The lane that was set. -/
theorem lane_setLane_same {s : State} (h : s.Canonical) (k : Nat) (x : LaneX) : (s.setLane k x).lane k = x := sget_sset_same h.lanes k x
/-- The other lanes. -/
theorem lane_setLane_ne {s : State} (h : s.Canonical) {k q : Nat} (x : LaneX) (hq : q ≠ k) : (s.setLane k x).lane q = s.lane q :=
  sget_sset_ne h.lanes x hq
/-- The complex that was set. -/
theorem cx_setCx_same {s : State} (h : s.Canonical) (k : Nat) (x : CplxX) : (s.setCx k x).cx k = x := sget_sset_same h.cplx k x
/-- The other complex. -/
theorem cx_setCx_ne {s : State} (h : s.Canonical) {k q : Nat} (x : CplxX) (hq : q ≠ k) : (s.setCx k x).cx q = s.cx q :=
  sget_sset_ne h.cplx x hq
/-- The mailbox channel that was set. -/
theorem chan_setChan_same {s : State} (h : s.Canonical) (k : Nat) (x : MbxX) : (s.setChan k x).chan k = x := sget_sset_same h.mbx k x
/-- The other channels. -/
theorem chan_setChan_ne {s : State} (h : s.Canonical) {k q : Nat} (x : MbxX) (hq : q ≠ k) : (s.setChan k x).chan q = s.chan q :=
  sget_sset_ne h.mbx x hq
/-- The vector that was set. -/
theorem vec_setVec_same {s : State} (h : s.Canonical) (k : Nat) (x : VecX) : (s.setVec k x).vec k = x := sget_sset_same h.vecs k x
/-- The other vectors. -/
theorem vec_setVec_ne {s : State} (h : s.Canonical) {k q : Nat} (x : VecX) (hq : q ≠ k) : (s.setVec k x).vec q = s.vec q :=
  sget_sset_ne h.vecs x hq

end Sys2Proof.Machine
end

