-- ==== Sys2Proof/Laws/Ax.lean ====
section
/-! SUPPORT. What every Axsel instruction shares, said once: how its body is reached, and how an instruction that goes on completes. -/

namespace Sys2Proof.Machine

open Sys2Proof Sys2Proof.Laws

/-- An instruction whose words are fetched and legal is its body. -/
theorem axRun_body {s : State} {o : AxOp} {op w : Nat} {e : List Nat} (h : Fetches s o op w e) {opc : Nat → Bool} {ext : Nat → Nat}
    {legal : Nat → List Nat → Bool} {body : State → Ax → State} (ho : opc op = true) (hx : ext w = e.length)
    (hl : legal w e = true) : s.axRun o opc ext legal body = body s ⟨o.thread, w, e, o.delay, o.fault⟩ := by
  have hf : ((s.thr o.thread).len != 0 && decide ((s.thr o.thread).len < (s.thr o.thread).pc + 1 + e.length)) = false := by
    rcases h.fits with h0 | h1
    · simp [h0]
    · simp; intro _; omega
  simp only [State.axRun, h.run, Bool.not_true, Bool.false_eq_true, if_false, h.word, h.code, ho, hx, hf, h.ext, hl]

/-- A thread that can execute does not wait. -/
theorem canRun_wait {s : State} {n : Nat} (h : s.canRun n = true) : (s.thr n).wait = none := by
  simp only [State.canRun, Bool.and_eq_true, Option.isNone_iff_eq_none] at h; exact h.1.1.2

/-- A thread that can execute is one of the eight. -/
theorem canRun_lt {s : State} {n : Nat} (h : s.canRun n = true) : n < 8 := by
  simp only [State.canRun, Bool.and_eq_true, decide_eq_true_eq] at h; exact h.1.1.1.1

/-- An instruction that goes on at word p changes its thread's charge and program counter, and ends its wait. -/
theorem finishAt_goes {s : State} {n p cost : Nat} (h : GoesOn s n p cost) :
    s.finishAt n p cost = s.setThr n { s.thr n with charged := (s.thr n).charged + cost, pc := p, wait := none } := by
  have h1 : ((s.thr n).len != 0 && decide ((s.thr n).len ≤ p)) = false := by
    rcases h.1 with e | e
    · simp [e]
    · simp; intro _; omega
  have h2 : ((s.thr n).budget != 0 && decide ((s.thr n).budget ≤ (s.thr n).charged + cost)) = false := by
    rcases h.2 with e | e
    · simp [e]
    · simp; intro _; omega
  simp only [State.finishAt, h1, h2, Bool.false_eq_true, if_false]

/-- Going on depends on the thread alone. -/
theorem GoesOn.of_thr {s t : State} {n p cost : Nat} (h : GoesOn s n p cost) (hl : (t.thr n).len = (s.thr n).len)
    (hb : (t.thr n).budget = (s.thr n).budget) (hc : (t.thr n).charged = (s.thr n).charged) : GoesOn t n p cost := by
  simp only [GoesOn, hl, hb, hc]; exact h

/-- Setting a thread leaves every other thread and every other field of the state. -/
theorem onlyThread_setThr {s : State} (h : s.Canonical) (n : Nat) (x : Thread) : OnlyThread n s (s.setThr n x) := by
  refine ⟨fun f hf => ?_, fun k hk => thr_setThr_ne h x hk⟩
  cases f <;> first | rfl | exact absurd (by simp) hf

theorem OnlyThread.trans {n : Nat} {s t u : State} (h : OnlyThread n s t) (g : OnlyThread n t u) : OnlyThread n s u := by
  refine ⟨fun f hf => ?_, fun k hk => (g.2 k hk).trans (h.2 k hk)⟩
  have a := h.1 f hf
  have b := g.1 f hf
  cases f <;> exact Eq.trans b a

/-- Setting a thread keeps the state canonical. -/
theorem canonical_setThr {s : State} (h : s.Canonical) (n : Nat) (x : Thread) : (s.setThr n x).Canonical :=
  { h with threads := swf_sset h.threads }

/-- An instruction that completes with OK goes on behind its words. -/
theorem axDone_ok {s : State} {a : Ax} {cost : Nat} (h : GoesOn s a.t ((s.thr a.t).pc + a.len) (cost + a.delay)) :
    s.axDone a stOK cost = s.setThr a.t { (s.thr a.t).goneTo ((s.thr a.t).pc + a.len) (cost + a.delay) with wait := none } := by
  simp only [State.axDone, State.result, State.finish]
  rw [finishAt_goes h]; rfl

/-- Writing a thread and then completing with OK. -/
theorem setThr_axDone_ok {s : State} (hc : s.Canonical) {a : Ax} {cost : Nat} {x : Thread}
    (h : GoesOn s a.t ((s.thr a.t).pc + a.len) (cost + a.delay)) (hp : x.pc = (s.thr a.t).pc) (hl : x.len = (s.thr a.t).len)
    (hb : x.budget = (s.thr a.t).budget) (hch : x.charged = (s.thr a.t).charged) (hw : x.wait = none) :
    ((s.setThr a.t x).axDone a stOK cost).thr a.t = x.goneTo (x.pc + a.len) (cost + a.delay) ∧
      OnlyThread a.t s ((s.setThr a.t x).axDone a stOK cost) := by
  have e : (s.setThr a.t x).thr a.t = x := thr_setThr_same hc _ _
  have g : GoesOn (s.setThr a.t x) a.t (((s.setThr a.t x).thr a.t).pc + a.len) (cost + a.delay) := by
    rw [e, hp]; exact h.of_thr (by rw [e, hl]) (by rw [e, hb]) (by rw [e, hch])
  rw [axDone_ok g, e]
  refine ⟨?_, (onlyThread_setThr hc _ _).trans (onlyThread_setThr (canonical_setThr hc _ _) _ _)⟩
  rw [thr_setThr_same (canonical_setThr hc _ _)]
  cases x; simp only [Thread.goneTo] at *; simp only [hw]

/-- A wait that ends with OK charges its duration and goes on behind its instruction. -/
theorem endWait_ok {s : State} (hc : s.Canonical) {n : Nat} {w : Wait} (hw : (s.thr n).wait = some w)
    (h : GoesOn s n ((s.thr n).pc + w.len) ((s.now - w.since) / 2)) :
    (s.endWait n stOK).thr n = { (s.thr n).goneTo ((s.thr n).pc + w.len) ((s.now - w.since) / 2) with wait := none } ∧
      OnlyThread n s (s.endWait n stOK) := by
  have e : s.endWait n stOK = s.finishAt n ((s.thr n).pc + w.len) ((s.now - w.since) / 2) := by
    simp only [State.endWait, hw, State.result, State.finish]; rfl
  rw [e, finishAt_goes h]
  exact ⟨thr_setThr_same hc _ _, onlyThread_setThr hc _ _⟩

/-- An instruction that completes with OK, its thread not waiting. -/
theorem axDone_plain {s : State} (hc : s.Canonical) {a : Ax} {cost : Nat} (h : GoesOn s a.t ((s.thr a.t).pc + a.len) (cost + a.delay))
    (hw : (s.thr a.t).wait = none) : (s.axDone a stOK cost).thr a.t = (s.thr a.t).goneTo ((s.thr a.t).pc + a.len) (cost + a.delay) ∧
      OnlyThread a.t s (s.axDone a stOK cost) := by
  rw [axDone_ok h]
  refine ⟨?_, onlyThread_setThr hc _ _⟩
  rw [thr_setThr_same hc]
  simp only [Thread.goneTo]; rw [← hw]

/-- An instruction whose condition does not hold at once has begun to wait (R53). -/
theorem axWait_waits {s : State} (hc : s.Canonical) {a : Ax} {k : WaitKind} {cost : Nat} (h : toCycles (bits a.w 39 24) ≠ some 0) :
    (s.axWait a k cost).thr a.t = (s.thr a.t).waits k s.now a.w a.len (cost + a.delay) ∧ OnlyThread a.t s (s.axWait a k cost) := by
  have e : s.axWait a k cost = s.setThr a.t ((s.thr a.t).waits k s.now a.w a.len (cost + a.delay)) := by
    simp only [State.axWait, Ax.tmo, State.startWait, Thread.waits, Ax.soft]
    cases hd : toCycles (bits a.w 39 24) with
    | none => rfl
    | some d => cases d with
      | zero => exact absurd hd h
      | succ d => rfl
  rw [e]
  exact ⟨thr_setThr_same hc _ _, onlyThread_setThr hc _ _⟩

end Sys2Proof.Machine
end

