-- ==== Sys2Proof/Laws/Keep/Base.lean ====
section
/-! SUPPORT. The one relation that every meaning is proved to be in: which fields of State it may change, as a bit mask, and
that it keeps the canonical form. Each lemma under Laws/Keep says it once for one definition, and its callers cite it. -/

theorem Sys2Proof.Machine.State.Canonical.memswf {s : Sys2Proof.Machine.State} (h : s.Canonical) :
    Sys2Proof.Machine.swf Sys2Proof.Machine.memDefault s.mem = true := h.mem

namespace Sys2Proof.Laws

open Sys2Proof Sys2Proof.Machine

/-- The mask a is contained in the mask b. -/
def sub (a b : Nat) : Bool := a &&& b == a

/-- The mask of a list of fields. -/
def maskOfFields : List StateField → Nat
  | [] => 0
  | f :: r => 2 ^ f.ix ||| maskOfFields r

/-- The fields in the order of their numbers. -/
def fieldList : List StateField :=
  [.pending, .now, .rdata, .fresh, .regs, .banks, .failed, .mem, .tabs, .threads, .rings, .lastStarted, .doms, .rails, .nextReq, .boot,
   .cplx, .store, .mer, .vecs, .tally, .lanes, .frames, .nextFrame, .copies, .queues, .pagers, .objs, .rounds, .gates, .slath, .creel,
   .ports, .fwd, .surveys, .legend, .pipes, .poison, .plait, .plaitIn, .mbx, .ruleCnt, .msix, .taps, .cart]

theorem fieldList_ix (f : StateField) : fieldList[f.ix]? = some f := by cases f <;> rfl

theorem ix_inj {f g : StateField} (h : f.ix = g.ix) : f = g := by
  have e := fieldList_ix f
  rw [h, fieldList_ix g] at e
  exact (Option.some.inj e).symm

theorem mask_testBit {fs : List StateField} {f : StateField} (h : f ∉ fs) : (maskOfFields fs).testBit f.ix = false := by
  induction fs with
  | nil => simp [maskOfFields]
  | cons g r ih =>
    simp only [List.mem_cons, not_or] at h
    simp only [maskOfFields, Nat.testBit_or, ih h.2, Bool.or_false, Nat.testBit_two_pow]
    exact decide_eq_false fun e => h.1 (ix_inj e.symm)

/-- t differs from s at most in the fields of the mask, and is canonical if s is. -/
structure Keeps (m : Nat) (s t : State) : Prop where
  same : ∀ f : StateField, m.testBit f.ix = false → f.same s t
  canon : s.Canonical → t.Canonical

theorem same_refl (f : StateField) (s : State) : f.same s s := by cases f <;> rfl

theorem same_trans {f : StateField} {s t u : State} (h : f.same s t) (g : f.same t u) : f.same s u := by
  cases f <;> exact Eq.trans g h

theorem sub_intro {a b : Nat} (h : (a &&& b == a) = true) : sub a b = true := h

theorem sub_zero (m : Nat) : sub 0 m = true := by simp [sub]

theorem sub_bit {a b i : Nat} (h : sub a b = true) (hb : b.testBit i = false) : a.testBit i = false := by
  have e : a &&& b = a := by simpa [sub] using h
  rw [← e, Nat.testBit_and, hb, Bool.and_false]

theorem sub_trans {a b c : Nat} (h : sub a b = true) (g : sub b c = true) : sub a c = true := by
  have e : a &&& b = a := by simpa [sub] using h
  have e' : b &&& c = b := by simpa [sub] using g
  simp only [sub, beq_iff_eq]
  rw [← e, Nat.and_assoc, e']

theorem Keeps.refl (m : Nat) (s : State) : Keeps m s s := ⟨fun f _ => same_refl f s, id⟩

theorem Keeps.mono {a b : Nat} {s t : State} (h : Keeps a s t) (hs : sub a b = true) : Keeps b s t :=
  ⟨fun f hf => h.same f (sub_bit hs hf), h.canon⟩

/-- What a mask allows a list of fields allows. -/
theorem Keeps.only {m : Nat} {s t : State} {fs : List StateField} (h : Keeps m s t) (hs : sub m (maskOfFields fs) = true) :
    OnlyChanges fs s t := fun f hf => h.same f (sub_bit hs (mask_testBit hf))

theorem Keeps.trans {m : Nat} {s t u : State} (h : Keeps m s t) (g : Keeps m t u) : Keeps m s u :=
  ⟨fun f hf => same_trans (h.same f hf) (g.same f hf), fun hc => g.canon (h.canon hc)⟩

theorem Keeps.step {m k : Nat} {s t u : State} (h : Keeps m s t) (g : Keeps k t u) (hs : sub k m = true) : Keeps m s u :=
  h.trans (g.mono hs)

theorem Keeps.fstEq {α : Type} {m : Nat} {s t : State} {p : State × α} {c : α} (e : p = (t, c)) (h : Keeps m s p.1) : Keeps m s t := by
  rw [e] at h; exact h

theorem Keeps.ite {m : Nat} {s a b : State} {c : Prop} [Decidable c] (h : Keeps m s a) (g : Keeps m s b) :
    Keeps m s (if c then a else b) := by split <;> assumption

theorem Keeps.foldl {α : Type} {m : Nat} {s t : State} {l : List α} {f : State → α → State} (h : Keeps m s t)
    (hf : ∀ u a, Keeps m s u → Keeps m s (f u a)) : Keeps m s (l.foldl f t) := by
  induction l generalizing t with
  | nil => exact h
  | cons a r ih => exact ih (hf t a h)

theorem Keeps.foldlFst {α β : Type} {m : Nat} {s : State} {p : State × β} {l : List α} {f : State × β → α → State × β}
    (h : Keeps m s p.1) (hf : ∀ u a, Keeps m s u.1 → Keeps m s (f u a).1) : Keeps m s (l.foldl f p).1 := by
  induction l generalizing p with
  | nil => exact h
  | cons a r ih => exact ih (hf p a h)

/-- An outcome keeps if its next state does. -/
def OutKeeps (m : Nat) (s : State) (o : Out) : Prop := ∀ t, o = .next t → Keeps m s t

theorem OutKeeps.next {m : Nat} {s t : State} (h : Keeps m s t) : OutKeeps m s (.next t) := by
  intro u e; cases e; exact h

theorem OutKeeps.step {m k : Nat} {s t : State} {o : Out} (h : Keeps m s t) (g : OutKeeps k t o) (hs : sub k m = true) :
    OutKeeps m s o := fun u e => h.step (g u e) hs

theorem OutKeeps.ite {m : Nat} {s : State} {a b : Out} {c : Prop} [Decidable c] (h : OutKeeps m s a) (g : OutKeeps m s b) :
    OutKeeps m s (if c then a else b) := by split <;> assumption

theorem Keeps.iteFst {α : Type} {m : Nat} {s : State} {a b : State × α} {c : Prop} [Decidable c] (h : Keeps m s a.1) (g : Keeps m s b.1) :
    Keeps m s (if c then a else b).1 := by split <;> assumption


theorem Keeps.banks {m : Nat} {s t : State} {x0 : Sparse Nat} (h : Keeps m s t) (hs : sub 0x20 m = true) (w0 : t.Canonical → swf (fun _ => 0) x0 = true) :
    Keeps m s { t with banks := x0 } :=
  h.step (k := 0x20) ⟨fun f hf => by cases f <;> first | rfl | exact absurd hf (by decide), fun hc => { hc with banks := w0 hc }⟩ hs

theorem Keeps.boot {m : Nat} {s t : State} {x0 : BootX} (h : Keeps m s t) (hs : sub 0x8000 m = true) :
    Keeps m s { t with boot := x0 } :=
  h.step (k := 0x8000) ⟨fun f hf => by cases f <;> first | rfl | exact absurd hf (by decide), fun hc => { hc with }⟩ hs

theorem Keeps.boot_vecs_msix {m : Nat} {s t : State} {x0 : BootX} {x1 : Sparse VecX} {x2 : Sparse Nat} (h : Keeps m s t) (hs : sub 0x40000088000 m = true) (w1 : t.Canonical → swf (fun _ => {}) x1 = true) (w2 : t.Canonical → swf (fun _ => 2 ^ 96) x2 = true) :
    Keeps m s { t with boot := x0, vecs := x1, msix := x2 } :=
  h.step (k := 0x40000088000) ⟨fun f hf => by cases f <;> first | rfl | exact absurd hf (by decide), fun hc => { hc with vecs := w1 hc, msix := w2 hc }⟩ hs

theorem Keeps.cart {m : Nat} {s t : State} {x0 : CartX} (h : Keeps m s t) (hs : sub 0x100000000000 m = true) :
    Keeps m s { t with cart := x0 } :=
  h.step (k := 0x100000000000) ⟨fun f hf => by cases f <;> first | rfl | exact absurd hf (by decide), fun hc => { hc with }⟩ hs

theorem Keeps.copies {m : Nat} {s t : State} {x0 : Sparse Copy} (h : Keeps m s t) (hs : sub 0x1000000 m = true) (w0 : t.Canonical → swf (fun _ => {}) x0 = true) :
    Keeps m s { t with copies := x0 } :=
  h.step (k := 0x1000000) ⟨fun f hf => by cases f <;> first | rfl | exact absurd hf (by decide), fun hc => { hc with copies := w0 hc }⟩ hs

theorem Keeps.copies_pagers_creel_ports {m : Nat} {s t : State} {x0 : Sparse Copy} {x1 : Sparse PagerX} {x2 : Sparse CreelX} {x3 : Sparse PortX} (h : Keeps m s t) (hs : sub 0x185000000 m = true) (w0 : t.Canonical → swf (fun _ => {}) x0 = true) (w1 : t.Canonical → swf (fun _ => {}) x1 = true) (w2 : t.Canonical → swf (fun _ => {}) x2 = true) (w3 : t.Canonical → swf (fun _ => {}) x3 = true) :
    Keeps m s { t with copies := x0, pagers := x1, creel := x2, ports := x3 } :=
  h.step (k := 0x185000000) ⟨fun f hf => by cases f <;> first | rfl | exact absurd hf (by decide), fun hc => { hc with copies := w0 hc, pagers := w1 hc, creel := w2 hc, ports := w3 hc }⟩ hs

theorem Keeps.cplx {m : Nat} {s t : State} {x0 : Sparse CplxX} (h : Keeps m s t) (hs : sub 0x10000 m = true) (w0 : t.Canonical → swf (fun _ => {}) x0 = true) :
    Keeps m s { t with cplx := x0 } :=
  h.step (k := 0x10000) ⟨fun f hf => by cases f <;> first | rfl | exact absurd hf (by decide), fun hc => { hc with cplx := w0 hc }⟩ hs

theorem Keeps.creel {m : Nat} {s t : State} {x0 : Sparse CreelX} (h : Keeps m s t) (hs : sub 0x80000000 m = true) (w0 : t.Canonical → swf (fun _ => {}) x0 = true) :
    Keeps m s { t with creel := x0 } :=
  h.step (k := 0x80000000) ⟨fun f hf => by cases f <;> first | rfl | exact absurd hf (by decide), fun hc => { hc with creel := w0 hc }⟩ hs

theorem Keeps.doms {m : Nat} {s t : State} {x0 : Sparse DomX} (h : Keeps m s t) (hs : sub 0x1000 m = true) (w0 : t.Canonical → swf (fun _ => {}) x0 = true) :
    Keeps m s { t with doms := x0 } :=
  h.step (k := 0x1000) ⟨fun f hf => by cases f <;> first | rfl | exact absurd hf (by decide), fun hc => { hc with doms := w0 hc }⟩ hs

theorem Keeps.failed {m : Nat} {s t : State} {x0 : List Nat} (h : Keeps m s t) (hs : sub 0x40 m = true) :
    Keeps m s { t with failed := x0 } :=
  h.step (k := 0x40) ⟨fun f hf => by cases f <;> first | rfl | exact absurd hf (by decide), fun hc => { hc with }⟩ hs

theorem Keeps.frames {m : Nat} {s t : State} {x0 : Sparse Frame} (h : Keeps m s t) (hs : sub 0x400000 m = true) (w0 : t.Canonical → srise x0 = true) :
    Keeps m s { t with frames := x0 } :=
  h.step (k := 0x400000) ⟨fun f hf => by cases f <;> first | rfl | exact absurd hf (by decide), fun hc => { hc with frames := w0 hc }⟩ hs

theorem Keeps.frames_nextFrame {m : Nat} {s t : State} {x0 : Sparse Frame} {x1 : Nat} (h : Keeps m s t) (hs : sub 0xc00000 m = true) (w0 : t.Canonical → srise x0 = true) :
    Keeps m s { t with frames := x0, nextFrame := x1 } :=
  h.step (k := 0xc00000) ⟨fun f hf => by cases f <;> first | rfl | exact absurd hf (by decide), fun hc => { hc with frames := w0 hc }⟩ hs

theorem Keeps.fresh {m : Nat} {s t : State} {x0 : Nat} (h : Keeps m s t) (hs : sub 0x8 m = true) :
    Keeps m s { t with fresh := x0 } :=
  h.step (k := 0x8) ⟨fun f hf => by cases f <;> first | rfl | exact absurd hf (by decide), fun hc => { hc with }⟩ hs

theorem Keeps.fwd {m : Nat} {s t : State} {x0 : FwdX} (h : Keeps m s t) (hs : sub 0x200000000 m = true) :
    Keeps m s { t with fwd := x0 } :=
  h.step (k := 0x200000000) ⟨fun f hf => by cases f <;> first | rfl | exact absurd hf (by decide), fun hc => { hc with }⟩ hs

theorem Keeps.gates {m : Nat} {s t : State} {x0 : Sparse GateX} (h : Keeps m s t) (hs : sub 0x20000000 m = true) (w0 : t.Canonical → swf (fun _ => {}) x0 = true) :
    Keeps m s { t with gates := x0 } :=
  h.step (k := 0x20000000) ⟨fun f hf => by cases f <;> first | rfl | exact absurd hf (by decide), fun hc => { hc with gates := w0 hc }⟩ hs

theorem Keeps.lanes {m : Nat} {s t : State} {x0 : Sparse LaneX} (h : Keeps m s t) (hs : sub 0x200000 m = true) (w0 : t.Canonical → swf (fun _ => {}) x0 = true) :
    Keeps m s { t with lanes := x0 } :=
  h.step (k := 0x200000) ⟨fun f hf => by cases f <;> first | rfl | exact absurd hf (by decide), fun hc => { hc with lanes := w0 hc }⟩ hs

theorem Keeps.lanes_ports {m : Nat} {s t : State} {x0 : Sparse LaneX} {x1 : Sparse PortX} (h : Keeps m s t) (hs : sub 0x100200000 m = true) (w0 : t.Canonical → swf (fun _ => {}) x0 = true) (w1 : t.Canonical → swf (fun _ => {}) x1 = true) :
    Keeps m s { t with lanes := x0, ports := x1 } :=
  h.step (k := 0x100200000) ⟨fun f hf => by cases f <;> first | rfl | exact absurd hf (by decide), fun hc => { hc with lanes := w0 hc, ports := w1 hc }⟩ hs

theorem Keeps.lastStarted {m : Nat} {s t : State} {x0 : Sparse Nat} (h : Keeps m s t) (hs : sub 0x800 m = true) (w0 : t.Canonical → swf (fun _ => 63) x0 = true) :
    Keeps m s { t with lastStarted := x0 } :=
  h.step (k := 0x800) ⟨fun f hf => by cases f <;> first | rfl | exact absurd hf (by decide), fun hc => { hc with lastStarted := w0 hc }⟩ hs

theorem Keeps.legend {m : Nat} {s t : State} {x0 : LegendX} (h : Keeps m s t) (hs : sub 0x800000000 m = true) :
    Keeps m s { t with legend := x0 } :=
  h.step (k := 0x800000000) ⟨fun f hf => by cases f <;> first | rfl | exact absurd hf (by decide), fun hc => { hc with }⟩ hs

theorem Keeps.mbx {m : Nat} {s t : State} {x0 : Sparse MbxX} (h : Keeps m s t) (hs : sub 0x10000000000 m = true) (w0 : t.Canonical → swf (fun _ => {}) x0 = true) :
    Keeps m s { t with mbx := x0 } :=
  h.step (k := 0x10000000000) ⟨fun f hf => by cases f <;> first | rfl | exact absurd hf (by decide), fun hc => { hc with mbx := w0 hc }⟩ hs

theorem Keeps.mem {m : Nat} {s t : State} {x0 : List Host.Cell} (h : Keeps m s t) (hs : sub 0x80 m = true) (w0 : t.Canonical → swf memDefault x0 = true) :
    Keeps m s { t with mem := x0 } :=
  h.step (k := 0x80) ⟨fun f hf => by cases f <;> first | rfl | exact absurd hf (by decide), fun hc => { hc with mem := w0 hc }⟩ hs

theorem Keeps.mer {m : Nat} {s t : State} {x0 : MeridX} (h : Keeps m s t) (hs : sub 0x40000 m = true) :
    Keeps m s { t with mer := x0 } :=
  h.step (k := 0x40000) ⟨fun f hf => by cases f <;> first | rfl | exact absurd hf (by decide), fun hc => { hc with }⟩ hs

theorem Keeps.msix {m : Nat} {s t : State} {x0 : Sparse Nat} (h : Keeps m s t) (hs : sub 0x40000000000 m = true) (w0 : t.Canonical → swf (fun _ => 2 ^ 96) x0 = true) :
    Keeps m s { t with msix := x0 } :=
  h.step (k := 0x40000000000) ⟨fun f hf => by cases f <;> first | rfl | exact absurd hf (by decide), fun hc => { hc with msix := w0 hc }⟩ hs

theorem Keeps.nextReq {m : Nat} {s t : State} {x0 : Nat} (h : Keeps m s t) (hs : sub 0x4000 m = true) :
    Keeps m s { t with nextReq := x0 } :=
  h.step (k := 0x4000) ⟨fun f hf => by cases f <;> first | rfl | exact absurd hf (by decide), fun hc => { hc with }⟩ hs

theorem Keeps.now {m : Nat} {s t : State} {x0 : Nat} (h : Keeps m s t) (hs : sub 0x2 m = true) :
    Keeps m s { t with now := x0 } :=
  h.step (k := 0x2) ⟨fun f hf => by cases f <;> first | rfl | exact absurd hf (by decide), fun hc => { hc with }⟩ hs

theorem Keeps.objs {m : Nat} {s t : State} {x0 : Sparse Obj} (h : Keeps m s t) (hs : sub 0x8000000 m = true) (w0 : t.Canonical → swf objDflt x0 = true) :
    Keeps m s { t with objs := x0 } :=
  h.step (k := 0x8000000) ⟨fun f hf => by cases f <;> first | rfl | exact absurd hf (by decide), fun hc => { hc with objs := w0 hc }⟩ hs

theorem Keeps.pagers {m : Nat} {s t : State} {x0 : Sparse PagerX} (h : Keeps m s t) (hs : sub 0x4000000 m = true) (w0 : t.Canonical → swf (fun _ => {}) x0 = true) :
    Keeps m s { t with pagers := x0 } :=
  h.step (k := 0x4000000) ⟨fun f hf => by cases f <;> first | rfl | exact absurd hf (by decide), fun hc => { hc with pagers := w0 hc }⟩ hs

theorem Keeps.pending {m : Nat} {s t : State} {x0 : List Instr} (h : Keeps m s t) (hs : sub 0x1 m = true) :
    Keeps m s { t with pending := x0 } :=
  h.step (k := 0x1) ⟨fun f hf => by cases f <;> first | rfl | exact absurd hf (by decide), fun hc => { hc with }⟩ hs

theorem Keeps.pipes {m : Nat} {s t : State} {x0 : Sparse PipeX} (h : Keeps m s t) (hs : sub 0x1000000000 m = true) (w0 : t.Canonical → swf (fun _ => {}) x0 = true) :
    Keeps m s { t with pipes := x0 } :=
  h.step (k := 0x1000000000) ⟨fun f hf => by cases f <;> first | rfl | exact absurd hf (by decide), fun hc => { hc with pipes := w0 hc }⟩ hs

theorem Keeps.plait {m : Nat} {s t : State} {x0 : Sparse PlaitCtx} (h : Keeps m s t) (hs : sub 0x4000000000 m = true) (w0 : t.Canonical → swf (fun _ => {}) x0 = true) :
    Keeps m s { t with plait := x0 } :=
  h.step (k := 0x4000000000) ⟨fun f hf => by cases f <;> first | rfl | exact absurd hf (by decide), fun hc => { hc with plait := w0 hc }⟩ hs

theorem Keeps.plait_plaitIn {m : Nat} {s t : State} {x0 : Sparse PlaitCtx} {x1 : Sparse (List PlaitF)} (h : Keeps m s t) (hs : sub 0xc000000000 m = true) (w0 : t.Canonical → swf (fun _ => {}) x0 = true) (w1 : t.Canonical → swf (fun _ => []) x1 = true) :
    Keeps m s { t with plait := x0, plaitIn := x1 } :=
  h.step (k := 0xc000000000) ⟨fun f hf => by cases f <;> first | rfl | exact absurd hf (by decide), fun hc => { hc with plait := w0 hc, plaitIn := w1 hc }⟩ hs

theorem Keeps.plaitIn {m : Nat} {s t : State} {x0 : Sparse (List PlaitF)} (h : Keeps m s t) (hs : sub 0x8000000000 m = true) (w0 : t.Canonical → swf (fun _ => []) x0 = true) :
    Keeps m s { t with plaitIn := x0 } :=
  h.step (k := 0x8000000000) ⟨fun f hf => by cases f <;> first | rfl | exact absurd hf (by decide), fun hc => { hc with plaitIn := w0 hc }⟩ hs

theorem Keeps.poison {m : Nat} {s t : State} {x0 : List Nat} (h : Keeps m s t) (hs : sub 0x2000000000 m = true) :
    Keeps m s { t with poison := x0 } :=
  h.step (k := 0x2000000000) ⟨fun f hf => by cases f <;> first | rfl | exact absurd hf (by decide), fun hc => { hc with }⟩ hs

theorem Keeps.ports {m : Nat} {s t : State} {x0 : Sparse PortX} (h : Keeps m s t) (hs : sub 0x100000000 m = true) (w0 : t.Canonical → swf (fun _ => {}) x0 = true) :
    Keeps m s { t with ports := x0 } :=
  h.step (k := 0x100000000) ⟨fun f hf => by cases f <;> first | rfl | exact absurd hf (by decide), fun hc => { hc with ports := w0 hc }⟩ hs

theorem Keeps.queues {m : Nat} {s t : State} {x0 : Sparse Queue} (h : Keeps m s t) (hs : sub 0x2000000 m = true) (w0 : t.Canonical → swf queueDflt x0 = true) :
    Keeps m s { t with queues := x0 } :=
  h.step (k := 0x2000000) ⟨fun f hf => by cases f <;> first | rfl | exact absurd hf (by decide), fun hc => { hc with queues := w0 hc }⟩ hs

theorem Keeps.queues_pagers_ports {m : Nat} {s t : State} {x0 : Sparse Queue} {x1 : Sparse PagerX} {x2 : Sparse PortX} (h : Keeps m s t) (hs : sub 0x106000000 m = true) (w0 : t.Canonical → swf queueDflt x0 = true) (w1 : t.Canonical → swf (fun _ => {}) x1 = true) (w2 : t.Canonical → swf (fun _ => {}) x2 = true) :
    Keeps m s { t with queues := x0, pagers := x1, ports := x2 } :=
  h.step (k := 0x106000000) ⟨fun f hf => by cases f <;> first | rfl | exact absurd hf (by decide), fun hc => { hc with queues := w0 hc, pagers := w1 hc, ports := w2 hc }⟩ hs

theorem Keeps.rails {m : Nat} {s t : State} {x0 : Sparse RailX} (h : Keeps m s t) (hs : sub 0x2000 m = true) (w0 : t.Canonical → swf (fun _ => {}) x0 = true) :
    Keeps m s { t with rails := x0 } :=
  h.step (k := 0x2000) ⟨fun f hf => by cases f <;> first | rfl | exact absurd hf (by decide), fun hc => { hc with rails := w0 hc }⟩ hs

theorem Keeps.rdata {m : Nat} {s t : State} {x0 : Word} (h : Keeps m s t) (hs : sub 0x4 m = true) :
    Keeps m s { t with rdata := x0 } :=
  h.step (k := 0x4) ⟨fun f hf => by cases f <;> first | rfl | exact absurd hf (by decide), fun hc => { hc with }⟩ hs

theorem Keeps.regs {m : Nat} {s t : State} {x0 : Sparse RegCell} (h : Keeps m s t) (hs : sub 0x10 m = true) (w0 : t.Canonical → swf regReset x0 = true) :
    Keeps m s { t with regs := x0 } :=
  h.step (k := 0x10) ⟨fun f hf => by cases f <;> first | rfl | exact absurd hf (by decide), fun hc => { hc with regs := w0 hc }⟩ hs

theorem Keeps.regs_failed {m : Nat} {s t : State} {x0 : Sparse RegCell} {x1 : List Nat} (h : Keeps m s t) (hs : sub 0x50 m = true) (w0 : t.Canonical → swf regReset x0 = true) :
    Keeps m s { t with regs := x0, failed := x1 } :=
  h.step (k := 0x50) ⟨fun f hf => by cases f <;> first | rfl | exact absurd hf (by decide), fun hc => { hc with regs := w0 hc }⟩ hs

theorem Keeps.regs_mer_ruleCnt {m : Nat} {s t : State} {x0 : Sparse RegCell} {x1 : MeridX} {x2 : Sparse Nat} (h : Keeps m s t) (hs : sub 0x20000040010 m = true) (w0 : t.Canonical → swf regReset x0 = true) (w2 : t.Canonical → swf (fun _ => 0) x2 = true) :
    Keeps m s { t with regs := x0, mer := x1, ruleCnt := x2 } :=
  h.step (k := 0x20000040010) ⟨fun f hf => by cases f <;> first | rfl | exact absurd hf (by decide), fun hc => { hc with regs := w0 hc, ruleCnt := w2 hc }⟩ hs

theorem Keeps.rings {m : Nat} {s t : State} {x0 : Sparse RingX} (h : Keeps m s t) (hs : sub 0x400 m = true) (w0 : t.Canonical → swf (fun _ => {}) x0 = true) :
    Keeps m s { t with rings := x0 } :=
  h.step (k := 0x400) ⟨fun f hf => by cases f <;> first | rfl | exact absurd hf (by decide), fun hc => { hc with rings := w0 hc }⟩ hs

theorem Keeps.rounds {m : Nat} {s t : State} {x0 : Sparse Nat} (h : Keeps m s t) (hs : sub 0x10000000 m = true) (w0 : t.Canonical → swf (fun _ => 0) x0 = true) :
    Keeps m s { t with rounds := x0 } :=
  h.step (k := 0x10000000) ⟨fun f hf => by cases f <;> first | rfl | exact absurd hf (by decide), fun hc => { hc with rounds := w0 hc }⟩ hs

theorem Keeps.ruleCnt {m : Nat} {s t : State} {x0 : Sparse Nat} (h : Keeps m s t) (hs : sub 0x20000000000 m = true) (w0 : t.Canonical → swf (fun _ => 0) x0 = true) :
    Keeps m s { t with ruleCnt := x0 } :=
  h.step (k := 0x20000000000) ⟨fun f hf => by cases f <;> first | rfl | exact absurd hf (by decide), fun hc => { hc with ruleCnt := w0 hc }⟩ hs

theorem Keeps.slath {m : Nat} {s t : State} {x0 : SlathX} (h : Keeps m s t) (hs : sub 0x40000000 m = true) :
    Keeps m s { t with slath := x0 } :=
  h.step (k := 0x40000000) ⟨fun f hf => by cases f <;> first | rfl | exact absurd hf (by decide), fun hc => { hc with }⟩ hs

theorem Keeps.store {m : Nat} {s t : State} {x0 : StoreX} (h : Keeps m s t) (hs : sub 0x20000 m = true) :
    Keeps m s { t with store := x0 } :=
  h.step (k := 0x20000) ⟨fun f hf => by cases f <;> first | rfl | exact absurd hf (by decide), fun hc => { hc with }⟩ hs

theorem Keeps.surveys {m : Nat} {s t : State} {x0 : Sparse SurveyX} (h : Keeps m s t) (hs : sub 0x400000000 m = true) (w0 : t.Canonical → swf (fun _ => {}) x0 = true) :
    Keeps m s { t with surveys := x0 } :=
  h.step (k := 0x400000000) ⟨fun f hf => by cases f <;> first | rfl | exact absurd hf (by decide), fun hc => { hc with surveys := w0 hc }⟩ hs

theorem Keeps.tabs {m : Nat} {s t : State} {x0 : Sparse Nat} (h : Keeps m s t) (hs : sub 0x100 m = true) (w0 : t.Canonical → swf (fun _ => 0) x0 = true) :
    Keeps m s { t with tabs := x0 } :=
  h.step (k := 0x100) ⟨fun f hf => by cases f <;> first | rfl | exact absurd hf (by decide), fun hc => { hc with tabs := w0 hc }⟩ hs

theorem Keeps.tabs_objs_rounds_gates_fwd_surveys_pipes_poison_ruleCnt_taps {m : Nat} {s t : State} {x0 : Sparse Nat} {x1 : Sparse Obj} {x2 : Sparse Nat} {x3 : Sparse GateX} {x4 : FwdX} {x5 : Sparse SurveyX} {x6 : Sparse PipeX} {x7 : List Nat} {x8 : Sparse Nat} {x9 : Sparse TapX} (h : Keeps m s t) (hs : sub 0xa3638000100 m = true) (w0 : t.Canonical → swf (fun _ => 0) x0 = true) (w1 : t.Canonical → swf objDflt x1 = true) (w2 : t.Canonical → swf (fun _ => 0) x2 = true) (w3 : t.Canonical → swf (fun _ => {}) x3 = true) (w5 : t.Canonical → swf (fun _ => {}) x5 = true) (w6 : t.Canonical → swf (fun _ => {}) x6 = true) (w8 : t.Canonical → swf (fun _ => 0) x8 = true) (w9 : t.Canonical → swf (fun _ => {}) x9 = true) :
    Keeps m s { t with tabs := x0, objs := x1, rounds := x2, gates := x3, fwd := x4, surveys := x5, pipes := x6, poison := x7, ruleCnt := x8, taps := x9 } :=
  h.step (k := 0xa3638000100) ⟨fun f hf => by cases f <;> first | rfl | exact absurd hf (by decide), fun hc => { hc with tabs := w0 hc, objs := w1 hc, rounds := w2 hc, gates := w3 hc, surveys := w5 hc, pipes := w6 hc, ruleCnt := w8 hc, taps := w9 hc }⟩ hs

theorem Keeps.tally {m : Nat} {s t : State} {x0 : TallyX} (h : Keeps m s t) (hs : sub 0x100000 m = true) :
    Keeps m s { t with tally := x0 } :=
  h.step (k := 0x100000) ⟨fun f hf => by cases f <;> first | rfl | exact absurd hf (by decide), fun hc => { hc with }⟩ hs

theorem Keeps.taps {m : Nat} {s t : State} {x0 : Sparse TapX} (h : Keeps m s t) (hs : sub 0x80000000000 m = true) (w0 : t.Canonical → swf (fun _ => {}) x0 = true) :
    Keeps m s { t with taps := x0 } :=
  h.step (k := 0x80000000000) ⟨fun f hf => by cases f <;> first | rfl | exact absurd hf (by decide), fun hc => { hc with taps := w0 hc }⟩ hs

theorem Keeps.threads {m : Nat} {s t : State} {x0 : Sparse Thread} (h : Keeps m s t) (hs : sub 0x200 m = true) (w0 : t.Canonical → swf (fun _ => {}) x0 = true) :
    Keeps m s { t with threads := x0 } :=
  h.step (k := 0x200) ⟨fun f hf => by cases f <;> first | rfl | exact absurd hf (by decide), fun hc => { hc with threads := w0 hc }⟩ hs

theorem Keeps.vecs {m : Nat} {s t : State} {x0 : Sparse VecX} (h : Keeps m s t) (hs : sub 0x80000 m = true) (w0 : t.Canonical → swf (fun _ => {}) x0 = true) :
    Keeps m s { t with vecs := x0 } :=
  h.step (k := 0x80000) ⟨fun f hf => by cases f <;> first | rfl | exact absurd hf (by decide), fun hc => { hc with vecs := w0 hc }⟩ hs

end Sys2Proof.Laws
end

