-- ==== Sys2Proof/Laws/Keep/Ops.lean ====
section
/-! SUPPORT. What each definition of Machine/Ops may change, and that it keeps the canonical form. -/

namespace Sys2Proof.Laws

open Sys2Proof Sys2Proof.Machine

theorem State_setCell_keeps {m : Nat} {s0 : State} {a0 : State} {a1 : Nat} {a2 : RegCell} (h : Keeps m s0 a0) (hs : sub 0x10 m = true) : Keeps m s0 (State.setCell a0 a1 a2) := by
  refine h.step ?_ hs
  dsimp only [State.setCell]
  repeat' first
    | with_reducible first | assumption | exact Keeps.refl _ _
    | (with_reducible apply sub_intro); exact rfl
    | with_reducible exact State.Canonical.regs (by assumption)
    | with_reducible apply swf_sset
    | with_reducible apply swf_smap
    | with_reducible apply swf_sfilter
    | with_reducible apply swf_sdel
    | with_reducible exact swf_nil
    | with_reducible apply swf_foldl
    | with_reducible apply Keeps.foldl
    | intro _
    | with_reducible apply Keeps.ite
    | split
    | dsimp only
    | with_reducible apply Keeps.regs

theorem State_rput_keeps {m : Nat} {s0 : State} {a0 : State} {a1 : Row} {a2 : Nat} {a3 : Nat} {a4 : List Nat} (h : Keeps m s0 a0) (hs : sub 0x10 m = true) : Keeps m s0 (State.rput a0 a1 a2 a3 a4) := by
  refine h.step ?_ hs
  dsimp only [State.rput]
  repeat' first
    | with_reducible first | assumption | exact Keeps.refl _ _
    | (with_reducible apply sub_intro); exact rfl
    | with_reducible apply State_setCell_keeps
    | with_reducible apply Keeps.ite
    | split
    | dsimp only

theorem State_rputBoth_keeps {m : Nat} {s0 : State} {a0 : State} {a1 : Row} {a2 : Nat} {a3 : Nat} {a4 : List Nat} (h : Keeps m s0 a0) (hs : sub 0x10 m = true) : Keeps m s0 (State.rputBoth a0 a1 a2 a3 a4) := by
  refine h.step ?_ hs
  dsimp only [State.rputBoth]
  repeat' first
    | with_reducible first | assumption | exact Keeps.refl _ _
    | (with_reducible apply sub_intro); exact rfl
    | with_reducible apply State_setCell_keeps
    | with_reducible apply Keeps.ite
    | split
    | dsimp only

theorem State_radd_keeps {m : Nat} {s0 : State} {a0 : State} {a1 : Row} {a2 : Nat} {a3 : Nat} {a4 : List Nat} (h : Keeps m s0 a0) (hs : sub 0x10 m = true) : Keeps m s0 (State.radd a0 a1 a2 a3 a4) := by
  refine h.step ?_ hs
  dsimp only [State.radd]
  repeat' first
    | with_reducible first | assumption | exact Keeps.refl _ _
    | (with_reducible apply sub_intro); exact rfl
    | with_reducible apply State_rput_keeps
    | with_reducible apply Keeps.ite
    | split
    | dsimp only

theorem State_rsub_keeps {m : Nat} {s0 : State} {a0 : State} {a1 : Row} {a2 : Nat} {a3 : Nat} {a4 : List Nat} (h : Keeps m s0 a0) (hs : sub 0x10 m = true) : Keeps m s0 (State.rsub a0 a1 a2 a3 a4) := by
  refine h.step ?_ hs
  dsimp only [State.rsub]
  repeat' first
    | with_reducible first | assumption | exact Keeps.refl _ _
    | (with_reducible apply sub_intro); exact rfl
    | with_reducible apply State_rput_keeps
    | with_reducible apply Keeps.ite
    | split
    | dsimp only

theorem State_pput_keeps {m : Nat} {s0 : State} {a0 : State} {a1 : Row} {a2 : Nat} {a3 : Nat} {a4 : List Nat} (h : Keeps m s0 a0) (hs : sub 0x10 m = true) : Keeps m s0 (State.pput a0 a1 a2 a3 a4) := by
  refine h.step ?_ hs
  dsimp only [State.pput]
  repeat' first
    | with_reducible first | assumption | exact Keeps.refl _ _
    | (with_reducible apply sub_intro); exact rfl
    | with_reducible apply State_setCell_keeps
    | with_reducible apply Keeps.ite
    | split
    | dsimp only

theorem State_cadd_keeps {m : Nat} {s0 : State} {a0 : State} {a1 : Row} {a2 : Nat} {a3 : Nat} {a4 : List Nat} (h : Keeps m s0 a0) (hs : sub 0x10 m = true) : Keeps m s0 (State.cadd a0 a1 a2 a3 a4) := by
  refine h.step ?_ hs
  dsimp only [State.cadd]
  repeat' first
    | with_reducible first | assumption | exact Keeps.refl _ _
    | (with_reducible apply sub_intro); exact rfl
    | with_reducible apply State_pput_keeps
    | with_reducible apply Keeps.ite
    | split
    | dsimp only

theorem State_cinc_keeps {m : Nat} {s0 : State} {a0 : State} {a1 : Row} {a2 : Nat} {a3 : List Nat} (h : Keeps m s0 a0) (hs : sub 0x10 m = true) : Keeps m s0 (State.cinc a0 a1 a2 a3) := by
  refine h.step ?_ hs
  dsimp only [State.cinc]
  repeat' first
    | with_reducible first | assumption | exact Keeps.refl _ _
    | (with_reducible apply sub_intro); exact rfl
    | with_reducible apply State_cadd_keeps
    | with_reducible apply Keeps.ite
    | split
    | dsimp only

theorem State_sinc_keeps {m : Nat} {s0 : State} {a0 : State} {a1 : Row} {a2 : Nat} {a3 : List Nat} (h : Keeps m s0 a0) (hs : sub 0x10 m = true) : Keeps m s0 (State.sinc a0 a1 a2 a3) := by
  refine h.step ?_ hs
  dsimp only [State.sinc]
  repeat' first
    | with_reducible first | assumption | exact Keeps.refl _ _
    | (with_reducible apply sub_intro); exact rfl
    | with_reducible apply State_rput_keeps
    | with_reducible apply Keeps.ite
    | split
    | dsimp only

theorem State_winc_keeps {m : Nat} {s0 : State} {a0 : State} {a1 : Row} {a2 : Nat} {a3 : List Nat} (h : Keeps m s0 a0) (hs : sub 0x10 m = true) : Keeps m s0 (State.winc a0 a1 a2 a3) := by
  refine h.step ?_ hs
  dsimp only [State.winc]
  repeat' first
    | with_reducible first | assumption | exact Keeps.refl _ _
    | (with_reducible apply sub_intro); exact rfl
    | with_reducible apply State_rput_keeps
    | with_reducible apply Keeps.ite
    | split
    | dsimp only

theorem State_clearRegs_keeps {m : Nat} {s0 : State} {a0 : State} {a1 : Nat} {a2 : Nat → Nat → Bool} (h : Keeps m s0 a0) (hs : sub 0x10 m = true) : Keeps m s0 (State.clearRegs a0 a1 a2) := by
  refine h.step ?_ hs
  dsimp only [State.clearRegs]
  repeat' first
    | with_reducible first | assumption | exact Keeps.refl _ _
    | (with_reducible apply sub_intro); exact rfl
    | with_reducible exact State.Canonical.regs (by assumption)
    | with_reducible apply swf_sset
    | with_reducible apply swf_smap
    | with_reducible apply swf_sfilter
    | with_reducible apply swf_sdel
    | with_reducible exact swf_nil
    | with_reducible apply swf_foldl
    | with_reducible apply Keeps.foldl
    | intro _
    | with_reducible apply Keeps.ite
    | split
    | dsimp only
    | with_reducible apply Keeps.regs

theorem State_mput_keeps {m : Nat} {s0 : State} {a0 : State} {a1 : Nat} {a2 : Byte} (h : Keeps m s0 a0) (hs : sub 0x80 m = true) : Keeps m s0 (State.mput a0 a1 a2) := by
  refine h.step ?_ hs
  dsimp only [State.mput]
  repeat' first
    | with_reducible first | assumption | exact Keeps.refl _ _
    | (with_reducible apply sub_intro); exact rfl
    | with_reducible exact State.Canonical.memswf (by assumption)
    | with_reducible apply swf_sset
    | with_reducible apply swf_smap
    | with_reducible apply swf_sfilter
    | with_reducible apply swf_sdel
    | with_reducible exact swf_nil
    | with_reducible apply swf_foldl
    | with_reducible apply Keeps.foldl
    | intro _
    | with_reducible apply Keeps.ite
    | split
    | dsimp only
    | with_reducible apply Keeps.mem

theorem State_mwrite_keeps {m : Nat} {s0 : State} {a0 : State} {a1 : Nat} {a2 : List Byte} (h : Keeps m s0 a0) (hs : sub 0x80 m = true) :
    Keeps m s0 (State.mwrite a0 a1 a2) := by
  induction a2 generalizing a0 a1 with
  | nil => exact h
  | cons b r ih => exact ih (State_mput_keeps h hs)

theorem State_mset64_keeps {m : Nat} {s0 : State} {a0 : State} {a1 : Nat} {a2 : Nat} (h : Keeps m s0 a0) (hs : sub 0x80 m = true) : Keeps m s0 (State.mset64 a0 a1 a2) := by
  refine h.step ?_ hs
  dsimp only [State.mset64]
  repeat' first
    | with_reducible first | assumption | exact Keeps.refl _ _
    | (with_reducible apply sub_intro); exact rfl
    | with_reducible apply State_mwrite_keeps
    | with_reducible apply Keeps.ite
    | split
    | dsimp only

theorem State_applyStores_keeps {m : Nat} {s0 : State} {a0 : State} {a1 : List HostStore} (h : Keeps m s0 a0) (hs : sub 0x80 m = true) : Keeps m s0 (State.applyStores a0 a1) := by
  refine h.step ?_ hs
  dsimp only [State.applyStores]
  repeat' first
    | with_reducible first | assumption | exact Keeps.refl _ _
    | (with_reducible apply sub_intro); exact rfl
    | with_reducible apply State_mwrite_keeps
    | with_reducible apply Keeps.foldl
    | intro _
    | with_reducible apply Keeps.ite
    | split
    | dsimp only

theorem State_setVec_keeps {m : Nat} {s0 : State} {a0 : State} {a1 : Nat} {a2 : VecX} (h : Keeps m s0 a0) (hs : sub 0x80000 m = true) : Keeps m s0 (State.setVec a0 a1 a2) := by
  refine h.step ?_ hs
  dsimp only [State.setVec]
  repeat' first
    | with_reducible first | assumption | exact Keeps.refl _ _
    | (with_reducible apply sub_intro); exact rfl
    | with_reducible exact State.Canonical.vecs (by assumption)
    | with_reducible apply swf_sset
    | with_reducible apply swf_smap
    | with_reducible apply swf_sfilter
    | with_reducible apply swf_sdel
    | with_reducible exact swf_nil
    | with_reducible apply swf_foldl
    | with_reducible apply Keeps.foldl
    | intro _
    | with_reducible apply Keeps.ite
    | split
    | dsimp only
    | with_reducible apply Keeps.vecs

theorem State_deliverVec_keeps {m : Nat} {s0 : State} {a0 : State} {a1 : Nat} (h : Keeps m s0 a0) (hs : sub 0x80010 m = true) : Keeps m s0 (State.deliverVec a0 a1) := by
  refine h.step ?_ hs
  dsimp only [State.deliverVec]
  repeat' first
    | with_reducible first | assumption | exact Keeps.refl _ _
    | (with_reducible apply sub_intro); exact rfl
    | with_reducible apply State_cinc_keeps
    | with_reducible apply State_setVec_keeps
    | with_reducible apply Keeps.ite
    | split
    | dsimp only

theorem State_signalVec_keeps {m : Nat} {s0 : State} {a0 : State} {a1 : Nat} (h : Keeps m s0 a0) (hs : sub 0x80010 m = true) : Keeps m s0 (State.signalVec a0 a1) := by
  refine h.step ?_ hs
  dsimp only [State.signalVec]
  repeat' first
    | with_reducible first | assumption | exact Keeps.refl _ _
    | (with_reducible apply sub_intro); exact rfl
    | with_reducible apply State_deliverVec_keeps
    | with_reducible apply State_setVec_keeps
    | with_reducible apply Keeps.ite
    | split
    | dsimp only

theorem State_raise_keeps {m : Nat} {s0 : State} {a0 : State} {a1 : Nat} (h : Keeps m s0 a0) (hs : sub 0x80010 m = true) : Keeps m s0 (State.raise a0 a1) := by
  refine h.step ?_ hs
  dsimp only [State.raise]
  repeat' first
    | with_reducible first | assumption | exact Keeps.refl _ _
    | (with_reducible apply sub_intro); exact rfl
    | with_reducible apply State_rput_keeps
    | with_reducible apply State_sinc_keeps
    | with_reducible apply State_signalVec_keeps
    | with_reducible apply Keeps.ite
    | split
    | dsimp only

theorem State_raiseIf_keeps {m : Nat} {s0 : State} {a0 : State} {a1 : Bool} {a2 : Nat} (h : Keeps m s0 a0) (hs : sub 0x80010 m = true) : Keeps m s0 (State.raiseIf a0 a1 a2) := by
  refine h.step ?_ hs
  dsimp only [State.raiseIf]
  repeat' first
    | with_reducible first | assumption | exact Keeps.refl _ _
    | (with_reducible apply sub_intro); exact rfl
    | with_reducible apply State_raise_keeps
    | with_reducible apply Keeps.ite
    | split
    | dsimp only

theorem State_clearStatus_keeps {m : Nat} {s0 : State} {a0 : State} {a1 : Nat} {a2 : Nat} (h : Keeps m s0 a0) (hs : sub 0x80010 m = true) : Keeps m s0 (State.clearStatus a0 a1 a2) := by
  refine h.step ?_ hs
  dsimp only [State.clearStatus]
  repeat' first
    | with_reducible first | assumption | exact Keeps.refl _ _
    | (with_reducible apply sub_intro); exact rfl
    | with_reducible apply State_rput_keeps
    | with_reducible apply State_signalVec_keeps
    | with_reducible apply Keeps.foldl
    | intro _
    | with_reducible apply Keeps.ite
    | split
    | dsimp only

theorem State_setReady_keeps {m : Nat} {s0 : State} {a0 : State} {a1 : Nat} {a2 : Bool} (h : Keeps m s0 a0) (hs : sub 0x80010 m = true) : Keeps m s0 (State.setReady a0 a1 a2) := by
  refine h.step ?_ hs
  dsimp only [State.setReady]
  repeat' first
    | with_reducible first | assumption | exact Keeps.refl _ _
    | (with_reducible apply sub_intro); exact rfl
    | with_reducible apply State_rput_keeps
    | with_reducible apply State_raise_keeps
    | with_reducible apply State_pput_keeps
    | with_reducible apply Keeps.ite
    | split
    | dsimp only

theorem State_setThr_keeps {m : Nat} {s0 : State} {a0 : State} {a1 : Nat} {a2 : Thread} (h : Keeps m s0 a0) (hs : sub 0x200 m = true) : Keeps m s0 (State.setThr a0 a1 a2) := by
  refine h.step ?_ hs
  dsimp only [State.setThr]
  repeat' first
    | with_reducible first | assumption | exact Keeps.refl _ _
    | (with_reducible apply sub_intro); exact rfl
    | with_reducible exact State.Canonical.threads (by assumption)
    | with_reducible apply swf_sset
    | with_reducible apply swf_smap
    | with_reducible apply swf_sfilter
    | with_reducible apply swf_sdel
    | with_reducible exact swf_nil
    | with_reducible apply swf_foldl
    | with_reducible apply Keeps.foldl
    | intro _
    | with_reducible apply Keeps.ite
    | split
    | dsimp only
    | with_reducible apply Keeps.threads

theorem State_setDomx_keeps {m : Nat} {s0 : State} {a0 : State} {a1 : Nat} {a2 : DomX} (h : Keeps m s0 a0) (hs : sub 0x1000 m = true) : Keeps m s0 (State.setDomx a0 a1 a2) := by
  refine h.step ?_ hs
  dsimp only [State.setDomx]
  repeat' first
    | with_reducible first | assumption | exact Keeps.refl _ _
    | (with_reducible apply sub_intro); exact rfl
    | with_reducible exact State.Canonical.doms (by assumption)
    | with_reducible apply swf_sset
    | with_reducible apply swf_smap
    | with_reducible apply swf_sfilter
    | with_reducible apply swf_sdel
    | with_reducible exact swf_nil
    | with_reducible apply swf_foldl
    | with_reducible apply Keeps.foldl
    | intro _
    | with_reducible apply Keeps.ite
    | split
    | dsimp only
    | with_reducible apply Keeps.doms

theorem State_setRail_keeps {m : Nat} {s0 : State} {a0 : State} {a1 : Nat} {a2 : RailX} (h : Keeps m s0 a0) (hs : sub 0x2000 m = true) : Keeps m s0 (State.setRail a0 a1 a2) := by
  refine h.step ?_ hs
  dsimp only [State.setRail]
  repeat' first
    | with_reducible first | assumption | exact Keeps.refl _ _
    | (with_reducible apply sub_intro); exact rfl
    | with_reducible exact State.Canonical.rails (by assumption)
    | with_reducible apply swf_sset
    | with_reducible apply swf_smap
    | with_reducible apply swf_sfilter
    | with_reducible apply swf_sdel
    | with_reducible exact swf_nil
    | with_reducible apply swf_foldl
    | with_reducible apply Keeps.foldl
    | intro _
    | with_reducible apply Keeps.ite
    | split
    | dsimp only
    | with_reducible apply Keeps.rails

theorem State_setCx_keeps {m : Nat} {s0 : State} {a0 : State} {a1 : Nat} {a2 : CplxX} (h : Keeps m s0 a0) (hs : sub 0x10000 m = true) : Keeps m s0 (State.setCx a0 a1 a2) := by
  refine h.step ?_ hs
  dsimp only [State.setCx]
  repeat' first
    | with_reducible first | assumption | exact Keeps.refl _ _
    | (with_reducible apply sub_intro); exact rfl
    | with_reducible exact State.Canonical.cplx (by assumption)
    | with_reducible apply swf_sset
    | with_reducible apply swf_smap
    | with_reducible apply swf_sfilter
    | with_reducible apply swf_sdel
    | with_reducible exact swf_nil
    | with_reducible apply swf_foldl
    | with_reducible apply Keeps.foldl
    | intro _
    | with_reducible apply Keeps.ite
    | split
    | dsimp only
    | with_reducible apply Keeps.cplx

theorem State_setRingx_keeps {m : Nat} {s0 : State} {a0 : State} {a1 : Nat} {a2 : RingX} (h : Keeps m s0 a0) (hs : sub 0x400 m = true) : Keeps m s0 (State.setRingx a0 a1 a2) := by
  refine h.step ?_ hs
  dsimp only [State.setRingx]
  repeat' first
    | with_reducible first | assumption | exact Keeps.refl _ _
    | (with_reducible apply sub_intro); exact rfl
    | with_reducible exact State.Canonical.rings (by assumption)
    | with_reducible apply swf_sset
    | with_reducible apply swf_smap
    | with_reducible apply swf_sfilter
    | with_reducible apply swf_sdel
    | with_reducible exact swf_nil
    | with_reducible apply swf_foldl
    | with_reducible apply Keeps.foldl
    | intro _
    | with_reducible apply Keeps.ite
    | split
    | dsimp only
    | with_reducible apply Keeps.rings

theorem State_setBank_keeps {m : Nat} {s0 : State} {a0 : State} {a1 : Nat} {a2 : Nat} {a3 : Nat} (h : Keeps m s0 a0) (hs : sub 0x20 m = true) : Keeps m s0 (State.setBank a0 a1 a2 a3) := by
  refine h.step ?_ hs
  dsimp only [State.setBank]
  repeat' first
    | with_reducible first | assumption | exact Keeps.refl _ _
    | (with_reducible apply sub_intro); exact rfl
    | with_reducible exact State.Canonical.banks (by assumption)
    | with_reducible apply swf_sset
    | with_reducible apply swf_smap
    | with_reducible apply swf_sfilter
    | with_reducible apply swf_sdel
    | with_reducible exact swf_nil
    | with_reducible apply swf_foldl
    | with_reducible apply Keeps.foldl
    | intro _
    | with_reducible apply Keeps.ite
    | split
    | dsimp only
    | with_reducible apply Keeps.banks

theorem State_answer_keeps {m : Nat} {s0 : State} {a0 : State} {a1 : Nat} (h : Keeps m s0 a0) (hs : sub 0x4 m = true) : Keeps m s0 (State.answer a0 a1) := by
  refine h.step ?_ hs
  dsimp only [State.answer]
  repeat' first
    | with_reducible first | assumption | exact Keeps.refl _ _
    | (with_reducible apply sub_intro); exact rfl
    | with_reducible apply Keeps.ite
    | split
    | dsimp only
    | with_reducible apply Keeps.rdata

theorem State_useFree_keeps {m : Nat} {s0 : State} {a0 : State} (h : Keeps m s0 a0) (hs : sub 0x8 m = true) : Keeps m s0 (State.useFree a0) := by
  refine h.step ?_ hs
  dsimp only [State.useFree]
  repeat' first
    | with_reducible first | assumption | exact Keeps.refl _ _
    | (with_reducible apply sub_intro); exact rfl
    | with_reducible apply Keeps.ite
    | split
    | dsimp only
    | with_reducible apply Keeps.fresh

end Sys2Proof.Laws
end

