-- ==== Sys2Proof/Laws/Events.lean ====
section
/-! SUPPORT. What raising an event does (R413), said once: the status bit it sets and the registers it leaves alone. -/

namespace Sys2Proof.Machine

open Sys2Proof Sys2Proof.Laws

/-- The block of a register's key. -/
theorem keyBlk_regKey {b i o : Nat} (h : i * 2 ^ 16 + o < 2 ^ 33) : keyBlk (regKey b i o) = b := by
  simp only [keyBlk, regKey]; omega

/-- A key of another block differs. -/
theorem ne_of_keyBlk {k q : Nat} (h : keyBlk k ≠ keyBlk q) : k ≠ q := fun e => h (by rw [e])

/-- A field of a register that reads as before. -/
theorem rget_of_cell {s t : State} {r : Row} {i : Nat} {ix : List Nat} (h : t.cell (rowKey r i ix) = s.cell (rowKey r i ix)) :
    t.rget r i ix = s.rget r i ix := by
  unfold State.rget; rw [← rowKey, h]

/-- Setting a pair leaves the registers outside it. -/
theorem pput_cell {s : State} (h : swf regReset s.regs = true) (r : Row) (v i : Nat) (ix : List Nat) {k : Nat}
    (h1 : k ≠ rowKey r i ix) (h2 : k ≠ rowKey r i ix + 4) : (s.pput r v i ix).cell k = s.cell k := by
  simp only [State.pput]
  have e : k ≠ regKey r.blk i (rowAdr r ix + 4) := by
    intro q; apply h2; rw [q]; simp only [rowKey, regKey]; omega
  rw [cell_setCell_ne (setCell_swf h _ _) _ e, cell_setCell_ne h _ (by exact h1)]

/-- Setting a field leaves the other registers. -/
theorem rput_cell {s : State} (h : swf regReset s.regs = true) (r : Row) (v i : Nat) (ix : List Nat) {k : Nat}
    (h1 : k ≠ rowKey r i ix) : (s.rput r v i ix).cell k = s.cell k := cell_setCell_ne h _ h1

/-- Making a message pending leaves every register but the counter of vectors that no function holds. -/
theorem deliverVec_cell {s : State} (h : swf regReset s.regs = true) (v : Nat) {k : Nat} (hk : k ∉ lostVecKeys) :
    (s.deliverVec v).cell k = s.cell k := by
  simp only [lostVecKeys, List.mem_cons, List.not_mem_nil, or_false, not_or] at hk
  simp only [State.deliverVec]
  split
  · exact pput_cell h _ _ _ _ hk.1 hk.2
  · rfl

/-- Signalling a vector leaves every register but the counter of vectors that no function holds. -/
theorem signalVec_cell {s : State} (h : swf regReset s.regs = true) (v : Nat) {k : Nat} (hk : k ∉ lostVecKeys) :
    (s.signalVec v).cell k = s.cell k := by
  simp only [State.signalVec]
  split
  · exact deliverVec_cell h v hk
  · split
    · split
      · rfl
      · exact deliverVec_cell (s := s.setVec v _) h v hk
    · exact deliverVec_cell (s := s.setVec v _) h v hk

/-- A saturating counter leaves the other registers. -/
theorem sinc_cell {s : State} (h : swf regReset s.regs = true) (r : Row) (i : Nat) (ix : List Nat) {k : Nat}
    (h1 : k ≠ rowKey r i ix) : (s.sinc r i ix).cell k = s.cell k := rput_cell h _ _ _ _ h1

/-- A saturating counter keeps the map of the registers canonical. -/
theorem sinc_swf {s : State} (h : swf regReset s.regs = true) (r : Row) (i : Nat) (ix : List Nat) :
    swf regReset (s.sinc r i ix).regs = true := rput_swf h _ _ _ _

/-- Raising an event leaves every register outside block 3 (but the counter of vectors that no function holds). -/
theorem raise_cell {s : State} (h : swf regReset s.regs = true) {src : Nat} (hs : src < 1152) {k : Nat} (hb : keyBlk k ≠ 3)
    (hk : k ∉ lostVecKeys) : (s.raise src).cell k = s.cell k := by
  have a1 : k ≠ rowKey Reg.EVENT_STATUS 0 [src / 32] := ne_of_keyBlk (by
    rw [rowKey, keyBlk_regKey (by simp [rowAdr, Reg.EVENT_STATUS]; omega)]; exact hb)
  have a2 : k ≠ rowKey Reg.EVENT_EVT_COUNT 0 (evIx src) := ne_of_keyBlk (by
    rw [rowKey, keyBlk_regKey (by simp [rowAdr, Reg.EVENT_EVT_COUNT, evIx]; omega)]; exact hb)
  have e : ((s.rput Reg.EVENT_STATUS (setBit (s.rget Reg.EVENT_STATUS 0 [src / 32]) (src % 32) true) 0 [src / 32]).sinc
      Reg.EVENT_EVT_COUNT 0 (evIx src)).cell k = s.cell k := by
    rw [sinc_cell (rput_swf h _ _ _ _) _ _ _ a2, rput_cell h _ _ _ _ a1]
  simp only [State.raise]
  split
  · rw [signalVec_cell (sinc_swf (rput_swf h _ _ _ _) _ _ _) _ hk, e]
  · exact e

/-- Bit i of a number with bit i set. -/
theorem bit_setBit_same (x i : Nat) : bit (setBit x i true) i = true := by
  have := bits_setBits_same x i i 1
  simp only [bits] at this
  simp only [bit, setBit, if_true]
  have e : i + 1 - i = 1 := by omega
  rw [e] at this
  simpa using this

/-- A bit that is set stays set when another is set. -/
theorem bit_setBit_mono {x i j : Nat} (h : bit x j = true) : bit (setBit x i true) j = true := by
  by_cases e : j = i
  · rw [e]; exact bit_setBit_same x i
  · have one : ∀ y, bits y j j = y / 2 ^ j % 2 := fun y => by simp only [bits]; rw [show j + 1 - j = 1 by omega, Nat.pow_one]
    have : bits (setBit x i true) j j = bits x j j := by
      simp only [setBit]
      rcases Nat.lt_or_gt_of_ne e with g | g
      · exact bits_setBits_below g (Nat.le_refl _)
      · exact bits_setBits_above g (Nat.le_refl _)
    rw [one, one] at this
    simp only [bit] at h ⊢
    rw [this]; exact h

/-- A raised event has its status bit set (R413). -/
theorem raise_status {s : State} (h : swf regReset s.regs = true) {src : Nat} (hs : src < 1152) : (s.raise src).evStatus src = true := by
  have hk : rowKey Reg.EVENT_STATUS 0 [src / 32] ∉ lostVecKeys := by
    simp [lostVecKeys, rowKey, regKey, rowAdr, Reg.EVENT_STATUS, Reg.HOST_CNT]; omega
  have a2 : rowKey Reg.EVENT_STATUS 0 [src / 32] ≠ rowKey Reg.EVENT_EVT_COUNT 0 (evIx src) := by
    simp [rowKey, regKey, rowAdr, Reg.EVENT_STATUS, Reg.EVENT_EVT_COUNT, evIx]; omega
  have hw : ∀ t : State, t.cell (rowKey Reg.EVENT_STATUS 0 [src / 32]) =
      (s.rput Reg.EVENT_STATUS (setBit (s.rget Reg.EVENT_STATUS 0 [src / 32]) (src % 32) true) 0 [src / 32]).cell
        (rowKey Reg.EVENT_STATUS 0 [src / 32]) → t.evStatus src = true := by
    intro t e
    have g : t.rget Reg.EVENT_STATUS 0 [src / 32] = setBit (s.rget Reg.EVENT_STATUS 0 [src / 32]) (src % 32) true := by
      have := rget_rput_same h Reg.EVENT_STATUS (setBit (s.rget Reg.EVENT_STATUS 0 [src / 32]) (src % 32) true) 0 [src / 32]
        (by decide) (by decide)
      simp only [State.rget, rowKey] at e this ⊢
      rw [e, this]
      apply Nat.mod_eq_of_lt
      exact setBits_lt (n := 32) (by omega) (Nat.le_refl _) (bits_lt _ _ _)
    simp only [State.evStatus, g, bit_setBit_same]
  apply hw
  simp only [State.raise]
  split
  · rw [signalVec_cell (sinc_swf (rput_swf h _ _ _ _) _ _ _) _ hk, sinc_cell (rput_swf h _ _ _ _) _ _ _ a2]
  · rw [sinc_cell (rput_swf h _ _ _ _) _ _ _ a2]

/-- The status word of an event read after another event is raised. -/
theorem raise_statusWord {s : State} (h : swf regReset s.regs = true) {src : Nat} (hs : src < 1152) (w : Nat) (hw : w < 36) :
    (s.raise src).rget Reg.EVENT_STATUS 0 [w] =
      if w = src / 32 then setBit (s.rget Reg.EVENT_STATUS 0 [w]) (src % 32) true else s.rget Reg.EVENT_STATUS 0 [w] := by
  have hk : rowKey Reg.EVENT_STATUS 0 [w] ∉ lostVecKeys := by
    simp [lostVecKeys, rowKey, regKey, rowAdr, Reg.EVENT_STATUS, Reg.HOST_CNT]; omega
  have a2 : rowKey Reg.EVENT_STATUS 0 [w] ≠ rowKey Reg.EVENT_EVT_COUNT 0 (evIx src) := by
    simp [rowKey, regKey, rowAdr, Reg.EVENT_STATUS, Reg.EVENT_EVT_COUNT, evIx]; omega
  have e : (s.raise src).cell (rowKey Reg.EVENT_STATUS 0 [w]) =
      (s.rput Reg.EVENT_STATUS (setBit (s.rget Reg.EVENT_STATUS 0 [src / 32]) (src % 32) true) 0 [src / 32]).cell
        (rowKey Reg.EVENT_STATUS 0 [w]) := by
    simp only [State.raise]
    split
    · rw [signalVec_cell (sinc_swf (rput_swf h _ _ _ _) _ _ _) _ hk, sinc_cell (rput_swf h _ _ _ _) _ _ _ a2]
    · rw [sinc_cell (rput_swf h _ _ _ _) _ _ _ a2]
  have g : (s.raise src).rget Reg.EVENT_STATUS 0 [w] =
      (s.rput Reg.EVENT_STATUS (setBit (s.rget Reg.EVENT_STATUS 0 [src / 32]) (src % 32) true) 0 [src / 32]).rget Reg.EVENT_STATUS 0 [w] :=
    rget_of_cell e
  rw [g]
  split
  · next hw =>
    subst hw
    rw [rget_rput_same h _ _ _ _ (by decide) (by decide)]
    exact Nat.mod_eq_of_lt (setBits_lt (n := 32) (by omega) (Nat.le_refl _) (bits_lt _ _ _))
  · next hw =>
    rw [rget_rput_ne h]
    simp only [regKey, rowAdr, Reg.EVENT_STATUS, List.zip_cons_cons, List.zip_nil_right, List.map_cons, List.map_nil, List.sum_cons, List.sum_nil]
    omega

/-- An event that is set stays set when another is raised. -/
theorem raise_keeps_status {s : State} (h : swf regReset s.regs = true) {src a : Nat} (hs : src < 1152) (ha : a < 1152)
    (hb : s.evStatus a = true) : (s.raise src).evStatus a = true := by
  simp only [State.evStatus] at hb ⊢
  rw [raise_statusWord h hs _ (by omega)]
  split
  · exact bit_setBit_mono hb
  · exact hb

/-- Raising an event keeps the state canonical. -/
theorem raise_canonical {s : State} (h : s.Canonical) (src : Nat) : (s.raise src).Canonical :=
  (State_raise_keeps (Keeps.refl 0x80010 s) rfl).canon h

/-- Raising an event changes registers and vectors only. -/
theorem raise_only (s : State) (src : Nat) : OnlyChanges [.regs, .vecs] s (s.raise src) :=
  (State_raise_keeps (Keeps.refl 0x80010 s) rfl).only rfl

end Sys2Proof.Machine
end

