-- ==== Sys2Proof/Laws/Keep/Access.lean ====
section
/-! SUPPORT. What each definition of Machine/Access may change, and that it keeps the canonical form. -/

namespace Sys2Proof.Laws

open Sys2Proof Sys2Proof.Machine

theorem State_setChan_keeps {m : Nat} {s0 : State} {a0 : State} {a1 : Nat} {a2 : MbxX} (h : Keeps m s0 a0) (hs : sub 0x10000000000 m = true) : Keeps m s0 (State.setChan a0 a1 a2) := by
  refine h.step ?_ hs
  dsimp only [State.setChan]
  repeat' first
    | with_reducible first | assumption | exact Keeps.refl _ _
    | (with_reducible apply sub_intro); exact rfl
    | with_reducible exact State.Canonical.mbx (by assumption)
    | with_reducible apply swf_sset
    | with_reducible apply swf_smap
    | with_reducible apply swf_sfilter
    | with_reducible apply swf_sdel
    | with_reducible exact swf_nil
    | with_reducible apply swf_foldl
    | with_reducible apply Keeps.foldl
    | intro _
    | with_reducible apply Keeps.ite
    | split
    | dsimp only
    | with_reducible apply Keeps.mbx

theorem State_refuseWrite_keeps {m : Nat} {s0 : State} {a0 : State} {a1 : Nat} {a2 : Nat} {a3 : Nat} (h : Keeps m s0 a0) (hs : sub 0x80010 m = true) : Keeps m s0 (State.refuseWrite a0 a1 a2 a3) := by
  refine h.step ?_ hs
  dsimp only [State.refuseWrite]
  repeat' first
    | with_reducible first | assumption | exact Keeps.refl _ _
    | (with_reducible apply sub_intro); exact rfl
    | with_reducible apply State_raise_keeps
    | with_reducible apply State_sinc_keeps
    | with_reducible apply State_rput_keeps
    | with_reducible apply State_raiseIf_keeps
    | with_reducible apply Keeps.ite
    | split
    | dsimp only

theorem State_mergeWrite_keeps {m : Nat} {s0 : State} {a0 : State} {a1 : Nat} {a2 : Place} {a3 : Nat} {a4 : Nat} {a5 : Nat} (h : Keeps m s0 a0) (hs : sub 0x70 m = true) : Keeps m s0 (State.mergeWrite a0 a1 a2 a3 a4 a5) := by
  refine h.step ?_ hs
  dsimp only [State.mergeWrite]
  repeat' first
    | with_reducible first | assumption | exact Keeps.refl _ _
    | (with_reducible apply sub_intro); exact rfl
    | with_reducible apply State_setBank_keeps
    | with_reducible apply State_setCell_keeps
    | with_reducible apply Keeps.ite
    | split
    | dsimp only
    | with_reducible apply Keeps.failed

theorem State_holdAction_keeps {m : Nat} {s0 : State} {a0 : State} {a1 : Nat} {a2 : Nat} {a3 : Nat} {a4 : Nat} {a5 : Nat} {a6 : Nat} (h : Keeps m s0 a0) (hs : sub 0x1000 m = true) : Keeps m s0 (State.holdAction a0 a1 a2 a3 a4 a5 a6) := by
  refine h.step ?_ hs
  dsimp only [State.holdAction]
  repeat' first
    | with_reducible first | assumption | exact Keeps.refl _ _
    | (with_reducible apply sub_intro); exact rfl
    | with_reducible apply State_setDomx_keeps
    | with_reducible apply Keeps.ite
    | split
    | dsimp only

theorem State_moveBits_keeps {m : Nat} {s0 : State} {a0 : State} {a1 : Nat} {a2 : Nat} {a3 : Nat → Nat} (h : Keeps m s0 a0) (hs : sub 0x10 m = true) : Keeps m s0 (State.moveBits a0 a1 a2 a3) := by
  refine h.step ?_ hs
  dsimp only [State.moveBits]
  repeat' first
    | with_reducible first | assumption | exact Keeps.refl _ _
    | (with_reducible apply sub_intro); exact rfl
    | with_reducible exact State.Canonical.regs (by assumption)
    | with_reducible apply swf_sset
    | with_reducible apply swf_smap
    | with_reducible apply swf_sfilter
    | with_reducible apply swf_sdel
    | with_reducible exact swf_nil
    | with_reducible apply swf_foldl
    | with_reducible apply Keeps.foldl
    | intro _
    | with_reducible apply Keeps.ite
    | split
    | dsimp only
    | with_reducible apply Keeps.regs

end Sys2Proof.Laws
end

