-- ==== Sys2Proof/Laws/Keep/QueueOps.lean ====
section
/-! SUPPORT. What each definition of Machine/QueueOps may change, and that it keeps the canonical form. -/

namespace Sys2Proof.Laws

open Sys2Proof Sys2Proof.Machine

theorem State_setQ_keeps {m : Nat} {s0 : State} {a0 : State} {a1 : Nat} {a2 : Queue} (h : Keeps m s0 a0) (hs : sub 0x2000000 m = true) : Keeps m s0 (State.setQ a0 a1 a2) := by
  refine h.step ?_ hs
  dsimp only [State.setQ]
  repeat' first
    | with_reducible first | assumption | exact Keeps.refl _ _
    | (with_reducible apply sub_intro); exact rfl
    | with_reducible exact State.Canonical.queues (by assumption)
    | with_reducible apply swf_sset
    | with_reducible apply swf_smap
    | with_reducible apply swf_sfilter
    | with_reducible apply swf_sdel
    | with_reducible exact swf_nil
    | with_reducible apply swf_foldl
    | with_reducible apply Keeps.foldl
    | intro _
    | with_reducible apply Keeps.ite
    | split
    | dsimp only
    | with_reducible apply Keeps.queues

theorem State_setPx_keeps {m : Nat} {s0 : State} {a0 : State} {a1 : Nat} {a2 : PortX} (h : Keeps m s0 a0) (hs : sub 0x100000000 m = true) : Keeps m s0 (State.setPx a0 a1 a2) := by
  refine h.step ?_ hs
  dsimp only [State.setPx]
  repeat' first
    | with_reducible first | assumption | exact Keeps.refl _ _
    | (with_reducible apply sub_intro); exact rfl
    | with_reducible exact State.Canonical.ports (by assumption)
    | with_reducible apply swf_sset
    | with_reducible apply swf_smap
    | with_reducible apply swf_sfilter
    | with_reducible apply swf_sdel
    | with_reducible exact swf_nil
    | with_reducible apply swf_foldl
    | with_reducible apply Keeps.foldl
    | intro _
    | with_reducible apply Keeps.ite
    | split
    | dsimp only
    | with_reducible apply Keeps.ports

theorem State_setPipe_keeps {m : Nat} {s0 : State} {a0 : State} {a1 : Nat} {a2 : PipeX} (h : Keeps m s0 a0) (hs : sub 0x1000000000 m = true) : Keeps m s0 (State.setPipe a0 a1 a2) := by
  refine h.step ?_ hs
  dsimp only [State.setPipe]
  repeat' first
    | with_reducible first | assumption | exact Keeps.refl _ _
    | (with_reducible apply sub_intro); exact rfl
    | with_reducible exact State.Canonical.pipes (by assumption)
    | with_reducible apply swf_sset
    | with_reducible apply swf_smap
    | with_reducible apply swf_sfilter
    | with_reducible apply swf_sdel
    | with_reducible exact swf_nil
    | with_reducible apply swf_foldl
    | with_reducible apply Keeps.foldl
    | intro _
    | with_reducible apply Keeps.ite
    | split
    | dsimp only
    | with_reducible apply Keeps.pipes

theorem State_setPager_keeps {m : Nat} {s0 : State} {a0 : State} {a1 : Nat} {a2 : PagerX} (h : Keeps m s0 a0) (hs : sub 0x4000000 m = true) : Keeps m s0 (State.setPager a0 a1 a2) := by
  refine h.step ?_ hs
  dsimp only [State.setPager]
  repeat' first
    | with_reducible first | assumption | exact Keeps.refl _ _
    | (with_reducible apply sub_intro); exact rfl
    | with_reducible exact State.Canonical.pagers (by assumption)
    | with_reducible apply swf_sset
    | with_reducible apply swf_smap
    | with_reducible apply swf_sfilter
    | with_reducible apply swf_sdel
    | with_reducible exact swf_nil
    | with_reducible apply swf_foldl
    | with_reducible apply Keeps.foldl
    | intro _
    | with_reducible apply Keeps.ite
    | split
    | dsimp only
    | with_reducible apply Keeps.pagers

theorem State_setFr_keeps {m : Nat} {s0 : State} {a0 : State} {a1 : Nat} {a2 : Frame} (h : Keeps m s0 a0) (hs : sub 0x400000 m = true) : Keeps m s0 (State.setFr a0 a1 a2) := by
  refine h.step ?_ hs
  dsimp only [State.setFr]
  repeat' first
    | with_reducible first | assumption | exact Keeps.refl _ _
    | (with_reducible apply sub_intro); exact rfl
    | with_reducible exact State.Canonical.frames (by assumption)
    | with_reducible apply srise_sins
    | with_reducible apply srise_sset
    | with_reducible apply srise_sdel
    | with_reducible apply swf_sset
    | with_reducible apply swf_smap
    | with_reducible apply swf_sfilter
    | with_reducible apply swf_sdel
    | with_reducible exact swf_nil
    | with_reducible apply swf_foldl
    | with_reducible apply Keeps.foldl
    | intro _
    | with_reducible apply Keeps.ite
    | split
    | dsimp only
    | with_reducible apply Keeps.frames

theorem State_setCopy_keeps {m : Nat} {s0 : State} {a0 : State} {a1 : Nat} {a2 : Nat} {a3 : Copy} (h : Keeps m s0 a0) (hs : sub 0x1000000 m = true) : Keeps m s0 (State.setCopy a0 a1 a2 a3) := by
  refine h.step ?_ hs
  dsimp only [State.setCopy]
  repeat' first
    | with_reducible first | assumption | exact Keeps.refl _ _
    | (with_reducible apply sub_intro); exact rfl
    | with_reducible exact State.Canonical.copies (by assumption)
    | with_reducible apply swf_sset
    | with_reducible apply swf_smap
    | with_reducible apply swf_sfilter
    | with_reducible apply swf_sdel
    | with_reducible exact swf_nil
    | with_reducible apply swf_foldl
    | with_reducible apply Keeps.foldl
    | intro _
    | with_reducible apply Keeps.ite
    | split
    | dsimp only
    | with_reducible apply Keeps.copies

theorem State_setGate_keeps {m : Nat} {s0 : State} {a0 : State} {a1 : Nat} {a2 : GateX} (h : Keeps m s0 a0) (hs : sub 0x20000000 m = true) : Keeps m s0 (State.setGate a0 a1 a2) := by
  refine h.step ?_ hs
  dsimp only [State.setGate]
  repeat' first
    | with_reducible first | assumption | exact Keeps.refl _ _
    | (with_reducible apply sub_intro); exact rfl
    | with_reducible exact State.Canonical.gates (by assumption)
    | with_reducible apply swf_sset
    | with_reducible apply swf_smap
    | with_reducible apply swf_sfilter
    | with_reducible apply swf_sdel
    | with_reducible exact swf_nil
    | with_reducible apply swf_foldl
    | with_reducible apply Keeps.foldl
    | intro _
    | with_reducible apply Keeps.ite
    | split
    | dsimp only
    | with_reducible apply Keeps.gates

theorem State_setObj_keeps {m : Nat} {s0 : State} {a0 : State} {a1 : Nat} {a2 : Obj} (h : Keeps m s0 a0) (hs : sub 0x8000000 m = true) : Keeps m s0 (State.setObj a0 a1 a2) := by
  refine h.step ?_ hs
  dsimp only [State.setObj]
  repeat' first
    | with_reducible first | assumption | exact Keeps.refl _ _
    | (with_reducible apply sub_intro); exact rfl
    | with_reducible exact State.Canonical.objs (by assumption)
    | with_reducible apply swf_sset
    | with_reducible apply swf_smap
    | with_reducible apply swf_sfilter
    | with_reducible apply swf_sdel
    | with_reducible exact swf_nil
    | with_reducible apply swf_foldl
    | with_reducible apply Keeps.foldl
    | intro _
    | with_reducible apply Keeps.ite
    | split
    | dsimp only
    | with_reducible apply Keeps.objs

theorem State_refreshObj_keeps {m : Nat} {s0 : State} {a0 : State} {a1 : Nat} (h : Keeps m s0 a0) (hs : sub 0x8000000 m = true) : Keeps m s0 (State.refreshObj a0 a1) := by
  refine h.step ?_ hs
  dsimp only [State.refreshObj]
  repeat' first
    | with_reducible first | assumption | exact Keeps.refl _ _
    | (with_reducible apply sub_intro); exact rfl
    | with_reducible apply State_setObj_keeps
    | with_reducible apply Keeps.ite
    | split
    | dsimp only

end Sys2Proof.Laws
end

