-- ==== Sys2Proof/Laws/Keep/TapOps.lean ====
section
/-! SUPPORT. What each definition of Machine/TapOps may change, and that it keeps the canonical form. -/

namespace Sys2Proof.Laws

open Sys2Proof Sys2Proof.Machine

theorem State_setTap_keeps {m : Nat} {s0 : State} {a0 : State} {a1 : Nat} {a2 : TapX} (h : Keeps m s0 a0) (hs : sub 0x80000000000 m = true) : Keeps m s0 (State.setTap a0 a1 a2) := by
  refine h.step ?_ hs
  dsimp only [State.setTap]
  repeat' first
    | with_reducible first | assumption | exact Keeps.refl _ _
    | (with_reducible apply sub_intro); exact rfl
    | with_reducible exact State.Canonical.taps (by assumption)
    | with_reducible apply swf_sset
    | with_reducible apply swf_smap
    | with_reducible apply swf_sfilter
    | with_reducible apply swf_sdel
    | with_reducible exact swf_nil
    | with_reducible apply swf_foldl
    | with_reducible apply Keeps.foldl
    | intro _
    | with_reducible apply Keeps.ite
    | split
    | dsimp only
    | with_reducible apply Keeps.taps

theorem State_tapSend_keeps {m : Nat} {s0 : State} {a0 : State} {a1 : Nat} {a2 : CoalE} (h : Keeps m s0 a0) (hs : sub 0x180000000010 m = true) : Keeps m s0 (State.tapSend a0 a1 a2) := by
  refine h.step ?_ hs
  dsimp only [State.tapSend]
  repeat' first
    | with_reducible first | assumption | exact Keeps.refl _ _
    | (with_reducible apply sub_intro); exact rfl
    | with_reducible apply State_cadd_keeps
    | with_reducible apply State_setTap_keeps
    | with_reducible apply Keeps.ite
    | split
    | dsimp only
    | with_reducible apply Keeps.cart

theorem State_tapDiscard_keeps {m : Nat} {s0 : State} {a0 : State} {a1 : Nat} (h : Keeps m s0 a0) (hs : sub 0x80000080010 m = true) : Keeps m s0 (State.tapDiscard a0 a1) := by
  refine h.step ?_ hs
  dsimp only [State.tapDiscard]
  repeat' first
    | with_reducible first | assumption | exact Keeps.refl _ _
    | (with_reducible apply sub_intro); exact rfl
    | with_reducible apply State_raise_keeps
    | with_reducible apply State_cadd_keeps
    | with_reducible apply State_setTap_keeps
    | with_reducible apply Keeps.ite
    | split
    | dsimp only

theorem State_tapUnattr_keeps {m : Nat} {s0 : State} {a0 : State} {a1 : Nat} {a2 : TokKey} {a3 : Nat} (h : Keeps m s0 a0) (hs : sub 0x80000080010 m = true) : Keeps m s0 (State.tapUnattr a0 a1 a2 a3) := by
  refine h.step ?_ hs
  dsimp only [State.tapUnattr]
  repeat' first
    | with_reducible first | assumption | exact Keeps.refl _ _
    | (with_reducible apply sub_intro); exact rfl
    | with_reducible apply State_raise_keeps
    | with_reducible apply State_cinc_keeps
    | with_reducible apply State_setTap_keeps
    | with_reducible apply Keeps.ite
    | split
    | dsimp only

theorem State_token_keeps {m : Nat} {s0 : State} {a0 : State} {a1 : Nat} {a2 : TokKey} {a3 : Nat} (h : Keeps m s0 a0) (hs : sub 0x180000080010 m = true) : Keeps m s0 (State.token a0 a1 a2 a3) := by
  refine h.step ?_ hs
  dsimp only [State.token]
  repeat' first
    | with_reducible first | assumption | exact Keeps.refl _ _
    | (with_reducible apply sub_intro); exact rfl
    | with_reducible apply State_raise_keeps
    | with_reducible apply State_cinc_keeps
    | with_reducible apply State_setTap_keeps
    | with_reducible apply State_tapUnattr_keeps
    | with_reducible apply State_tapSend_keeps
    | with_reducible apply Keeps.ite
    | split
    | dsimp only

theorem State_issueSlot_keeps {m : Nat} {s0 : State} {a0 : State} {a1 : Nat} {a2 : Nat} (h : Keeps m s0 a0) (hs : sub 0x1000000000 m = true) : Keeps m s0 (State.issueSlot a0 a1 a2) := by
  refine h.step ?_ hs
  dsimp only [State.issueSlot]
  repeat' first
    | with_reducible first | assumption | exact Keeps.refl _ _
    | (with_reducible apply sub_intro); exact rfl
    | with_reducible apply State_setPipe_keeps
    | with_reducible apply Keeps.ite
    | split
    | dsimp only

theorem State_rxToken_keeps {m : Nat} {s0 : State} {a0 : State} {a1 : Nat} (h : Keeps m s0 a0) (hs : sub 0x180000480010 m = true) : Keeps m s0 (State.rxToken a0 a1) := by
  refine h.step ?_ hs
  dsimp only [State.rxToken]
  repeat' first
    | with_reducible first | assumption | exact Keeps.refl _ _
    | (with_reducible apply sub_intro); exact rfl
    | with_reducible apply State_token_keeps
    | with_reducible apply State_setFr_keeps
    | with_reducible apply Keeps.ite
    | split
    | dsimp only

theorem State_setFate_keeps {m : Nat} {s0 : State} {a0 : State} {a1 : Nat} {a2 : Bool} (h : Keeps m s0 a0) (hs : sub 0x181000480010 m = true) : Keeps m s0 (State.setFate a0 a1 a2) := by
  refine h.step ?_ hs
  dsimp only [State.setFate]
  repeat' first
    | with_reducible first | assumption | exact Keeps.refl _ _
    | (with_reducible apply sub_intro); exact rfl
    | with_reducible apply State_setFr_keeps
    | with_reducible apply State_setPipe_keeps
    | with_reducible apply State_cinc_keeps
    | with_reducible apply State_pput_keeps
    | with_reducible apply State_rxToken_keeps
    | with_reducible apply Keeps.ite
    | split
    | dsimp only

end Sys2Proof.Laws
end

