-- ==== Sys2Proof/Laws/Keep/Versions.lean ====
section
/-! SUPPORT. What each definition of Machine/Versions may change, and that it keeps the canonical form. -/

namespace Sys2Proof.Laws

open Sys2Proof Sys2Proof.Machine

theorem State_legApply_keeps {m : Nat} {s0 : State} {a0 : State} {a1 : LegMem → LegMem} (h : Keeps m s0 a0) (hs : sub 0x800000000 m = true) : Keeps m s0 (State.legApply a0 a1) := by
  refine h.step ?_ hs
  dsimp only [State.legApply]
  repeat' first
    | with_reducible first | assumption | exact Keeps.refl _ _
    | (with_reducible apply sub_intro); exact rfl
    | with_reducible apply Keeps.ite
    | split
    | dsimp only
    | with_reducible apply Keeps.legend

theorem State_setDraft_keeps {m : Nat} {s0 : State} {a0 : State} {a1 : Nat} {a2 : Nat} (h : Keeps m s0 a0) (hs : sub 0x800000000 m = true) : Keeps m s0 (State.setDraft a0 a1 a2) := by
  refine h.step ?_ hs
  dsimp only [State.setDraft]
  repeat' first
    | with_reducible first | assumption | exact Keeps.refl _ _
    | (with_reducible apply sub_intro); exact rfl
    | with_reducible apply Keeps.ite
    | split
    | dsimp only
    | with_reducible apply Keeps.legend

theorem State_vabort_keeps {m : Nat} {s0 : State} {a0 : State} {a1 : Nat} (h : Keeps m s0 a0) (hs : sub 0x800000000 m = true) : Keeps m s0 (State.vabort a0 a1) := by
  refine h.step ?_ hs
  dsimp only [State.vabort]
  repeat' first
    | with_reducible first | assumption | exact Keeps.refl _ _
    | (with_reducible apply sub_intro); exact rfl
    | with_reducible apply State_setDraft_keeps
    | with_reducible apply State_legApply_keeps
    | with_reducible apply Keeps.ite
    | split
    | dsimp only

theorem State_abortDrafts_keeps {m : Nat} {s0 : State} {a0 : State} {a1 : Nat} (h : Keeps m s0 a0) (hs : sub 0x800000000 m = true) : Keeps m s0 (State.abortDrafts a0 a1) := by
  refine h.step ?_ hs
  dsimp only [State.abortDrafts]
  repeat' first
    | with_reducible first | assumption | exact Keeps.refl _ _
    | (with_reducible apply sub_intro); exact rfl
    | with_reducible apply State_vabort_keeps
    | with_reducible apply Keeps.foldl
    | intro _
    | with_reducible apply Keeps.ite
    | split
    | dsimp only

theorem State_setInflight_keeps {m : Nat} {s0 : State} {a0 : State} {a1 : Nat} {a2 : Nat} {a3 : Nat} (h : Keeps m s0 a0) (hs : sub 0x800000000 m = true) : Keeps m s0 (State.setInflight a0 a1 a2 a3) := by
  refine h.step ?_ hs
  dsimp only [State.setInflight]
  repeat' first
    | with_reducible first | assumption | exact Keeps.refl _ _
    | (with_reducible apply sub_intro); exact rfl
    | with_reducible apply Keeps.ite
    | split
    | dsimp only
    | with_reducible apply Keeps.legend

theorem State_vcommit_keeps {m : Nat} {s0 : State} {a0 : State} {a1 : Nat} {a2 : Nat} {a3 : Nat} (h : Keeps m s0 a0) (hs : sub 0x800000010 m = true) : Keeps m s0 (State.vcommit a0 a1 a2 a3) := by
  refine h.step ?_ hs
  dsimp only [State.vcommit]
  repeat' first
    | with_reducible first | assumption | exact Keeps.refl _ _
    | (with_reducible apply sub_intro); exact rfl
    | with_reducible apply State_winc_keeps
    | with_reducible apply State_setDraft_keeps
    | with_reducible apply State_legApply_keeps
    | with_reducible apply Keeps.ite
    | split
    | dsimp only

theorem State_uncount_keeps {m : Nat} {s0 : State} {a0 : State} {a1 : Nat} (h : Keeps m s0 a0) (hs : sub 0x800400000 m = true) : Keeps m s0 (State.uncount a0 a1) := by
  refine h.step ?_ hs
  dsimp only [State.uncount]
  repeat' first
    | with_reducible first | assumption | exact Keeps.refl _ _
    | (with_reducible apply sub_intro); exact rfl
    | with_reducible apply State_setInflight_keeps
    | with_reducible apply State_setFr_keeps
    | with_reducible apply Keeps.ite
    | split
    | dsimp only

end Sys2Proof.Laws
end

