-- ==== Sys2Proof/Laws/Keep/Creel.lean ====
section
/-! SUPPORT. What each definition of Machine/Creel may change, and that it keeps the canonical form. -/

namespace Sys2Proof.Laws

open Sys2Proof Sys2Proof.Machine

theorem State_chargeUnit_keeps {m : Nat} {s0 : State} {a0 : State} {a1 : Option (Nat × Nat)} {a2 : Bool} {a3 : Nat} (h : Keeps m s0 a0) (hs : sub 0x10 m = true) : Keeps m s0 (State.chargeUnit a0 a1 a2 a3) := by
  refine h.step ?_ hs
  dsimp only [State.chargeUnit]
  repeat' first
    | with_reducible first | assumption | exact Keeps.refl _ _
    | (with_reducible apply sub_intro); exact rfl
    | with_reducible apply State_radd_keeps
    | with_reducible apply State_rsub_keeps
    | with_reducible apply Keeps.ite
    | split
    | dsimp only

theorem State_chargeItem_keeps {m : Nat} {s0 : State} {a0 : State} {a1 : Item} (h : Keeps m s0 a0) (hs : sub 0x10 m = true) : Keeps m s0 (State.chargeItem a0 a1) := by
  refine h.step ?_ hs
  dsimp only [State.chargeItem]
  repeat' first
    | with_reducible first | assumption | exact Keeps.refl _ _
    | (with_reducible apply sub_intro); exact rfl
    | with_reducible apply State_radd_keeps
    | with_reducible apply Keeps.ite
    | split
    | dsimp only

theorem State_unchargeItem_keeps {m : Nat} {s0 : State} {a0 : State} {a1 : Item} (h : Keeps m s0 a0) (hs : sub 0x10 m = true) : Keeps m s0 (State.unchargeItem a0 a1) := by
  refine h.step ?_ hs
  dsimp only [State.unchargeItem]
  repeat' first
    | with_reducible first | assumption | exact Keeps.refl _ _
    | (with_reducible apply sub_intro); exact rfl
    | with_reducible apply State_rsub_keeps
    | with_reducible apply Keeps.ite
    | split
    | dsimp only

theorem State_setCrl_keeps {m : Nat} {s0 : State} {a0 : State} {a1 : Nat} {a2 : CreelX} (h : Keeps m s0 a0) (hs : sub 0x80000000 m = true) : Keeps m s0 (State.setCrl a0 a1 a2) := by
  refine h.step ?_ hs
  dsimp only [State.setCrl]
  repeat' first
    | with_reducible first | assumption | exact Keeps.refl _ _
    | (with_reducible apply sub_intro); exact rfl
    | with_reducible exact State.Canonical.creel (by assumption)
    | with_reducible apply swf_sset
    | with_reducible apply swf_smap
    | with_reducible apply swf_sfilter
    | with_reducible apply swf_sdel
    | with_reducible exact swf_nil
    | with_reducible apply swf_foldl
    | with_reducible apply Keeps.foldl
    | intro _
    | with_reducible apply Keeps.ite
    | split
    | dsimp only
    | with_reducible apply Keeps.creel

theorem State_spillTake_keeps {m : Nat} {s0 : State} {a0 : State} {a1 : Nat} {a2 : Nat} {t : State} (e : State.spillTake a0 a1 a2 = some t) (h : Keeps m s0 a0) (hs : sub 0x80010 m = true) : Keeps m s0 t := by
  refine h.step ?_ hs
  revert e
  dsimp only [State.spillTake]
  repeat' first
    | with_reducible first | assumption | exact Keeps.refl _ _
    | (with_reducible apply sub_intro); exact rfl
    | (intro e; cases e)
    | with_reducible apply State_rsub_keeps
    | with_reducible apply State_rput_keeps
    | with_reducible apply State_raiseIf_keeps
    | with_reducible apply Keeps.ite
    | split
    | dsimp only

theorem State_spillGive_keeps {m : Nat} {s0 : State} {a0 : State} {a1 : Nat} {a2 : Nat} (h : Keeps m s0 a0) (hs : sub 0x80000010 m = true) : Keeps m s0 (State.spillGive a0 a1 a2) := by
  refine h.step ?_ hs
  dsimp only [State.spillGive]
  repeat' first
    | with_reducible first | assumption | exact Keeps.refl _ _
    | (with_reducible apply sub_intro); exact rfl
    | with_reducible apply State_radd_keeps
    | with_reducible apply State_rput_keeps
    | with_reducible apply State_setCrl_keeps
    | with_reducible apply Keeps.ite
    | split
    | dsimp only

theorem State_reap_keeps {m : Nat} {s0 : State} {a0 : State} {a1 : Nat} (h : Keeps m s0 a0) (hs : sub 0x181800480010 m = true) : Keeps m s0 (State.reap a0 a1) := by
  refine h.step ?_ hs
  dsimp only [State.reap]
  repeat' first
    | with_reducible first | assumption | exact Keeps.refl _ _
    | (with_reducible apply sub_intro); exact rfl
    | with_reducible apply State_uncount_keeps
    | with_reducible apply State_setFate_keeps
    | with_reducible exact State.Canonical.frames (by assumption)
    | with_reducible apply srise_sins
    | with_reducible apply srise_sset
    | with_reducible apply srise_sdel
    | with_reducible apply swf_sset
    | with_reducible apply swf_smap
    | with_reducible apply swf_sfilter
    | with_reducible apply swf_sdel
    | with_reducible exact swf_nil
    | with_reducible apply swf_foldl
    | with_reducible apply Keeps.foldl
    | intro _
    | with_reducible apply Keeps.ite
    | split
    | dsimp only
    | with_reducible apply Keeps.frames

theorem State_slathDrop_keeps {m : Nat} {s0 : State} {a0 : State} {a1 : Nat} {a2 : Nat} (h : Keeps m s0 a0) (hs : sub 0x40000000 m = true) : Keeps m s0 (State.slathDrop a0 a1 a2) := by
  refine h.step ?_ hs
  dsimp only [State.slathDrop]
  repeat' first
    | with_reducible first | assumption | exact Keeps.refl _ _
    | (with_reducible apply sub_intro); exact rfl
    | with_reducible apply Keeps.ite
    | split
    | dsimp only
    | with_reducible apply Keeps.slath

theorem State_copyFree_keeps {m : Nat} {s0 : State} {a0 : State} {a1 : Nat} {a2 : Nat} (h : Keeps m s0 a0) (hs : sub 0x1818c1480010 m = true) : Keeps m s0 (State.copyFree a0 a1 a2) := by
  refine h.step ?_ hs
  dsimp only [State.copyFree]
  repeat' first
    | with_reducible first | assumption | exact Keeps.refl _ _
    | (with_reducible apply sub_intro); exact rfl
    | with_reducible apply State_slathDrop_keeps
    | with_reducible apply State_chargeUnit_keeps
    | with_reducible apply State_radd_keeps
    | with_reducible apply State_spillGive_keeps
    | with_reducible apply State_reap_keeps
    | with_reducible exact State.Canonical.copies (by assumption)
    | with_reducible apply swf_sset
    | with_reducible apply swf_smap
    | with_reducible apply swf_sfilter
    | with_reducible apply swf_sdel
    | with_reducible exact swf_nil
    | with_reducible apply swf_foldl
    | with_reducible apply Keeps.foldl
    | intro _
    | with_reducible apply Keeps.ite
    | split
    | dsimp only
    | with_reducible apply Keeps.copies

theorem State_release_keeps {m : Nat} {s0 : State} {a0 : State} {a1 : Item} (h : Keeps m s0 a0) (hs : sub 0x1818c1480010 m = true) : Keeps m s0 (State.release a0 a1) := by
  refine h.step ?_ hs
  dsimp only [State.release]
  repeat' first
    | with_reducible first | assumption | exact Keeps.refl _ _
    | (with_reducible apply sub_intro); exact rfl
    | with_reducible apply State_radd_keeps
    | with_reducible apply State_unchargeItem_keeps
    | with_reducible apply State_copyFree_keeps
    | with_reducible apply State_setCopy_keeps
    | with_reducible apply Keeps.ite
    | split
    | dsimp only

theorem State_dropItem_keeps {m : Nat} {s0 : State} {a0 : State} {a1 : Item} (h : Keeps m s0 a0) (hs : sub 0x1818c3480010 m = true) : Keeps m s0 (State.dropItem a0 a1) := by
  refine h.step ?_ hs
  dsimp only [State.dropItem]
  repeat' first
    | with_reducible first | assumption | exact Keeps.refl _ _
    | (with_reducible apply sub_intro); exact rfl
    | with_reducible apply State_release_keeps
    | with_reducible apply State_setQ_keeps
    | with_reducible apply Keeps.ite
    | split
    | dsimp only

theorem State_nodesIdle_keeps {m : Nat} {s0 : State} {a0 : State} {a1 : Nat} (h : Keeps m s0 a0) (hs : sub 0x8000000 m = true) : Keeps m s0 (State.nodesIdle a0 a1) := by
  refine h.step ?_ hs
  dsimp only [State.nodesIdle]
  repeat' first
    | with_reducible first | assumption | exact Keeps.refl _ _
    | (with_reducible apply sub_intro); exact rfl
    | with_reducible apply State_setObj_keeps
    | with_reducible apply Keeps.ite
    | split
    | dsimp only

theorem State_firstCell_keeps {m : Nat} {s0 : State} {a0 : State} {a1 : Nat} {a2 : Nat} (h : Keeps m s0 a0) (hs : sub 0x2000000 m = true) : Keeps m s0 (State.firstCell a0 a1 a2) := by
  refine h.step ?_ hs
  dsimp only [State.firstCell]
  repeat' first
    | with_reducible first | assumption | exact Keeps.refl _ _
    | (with_reducible apply sub_intro); exact rfl
    | with_reducible exact State.Canonical.queues (by assumption)
    | with_reducible apply swf_smap
    | intro _
    | with_reducible apply Keeps.queues

theorem State_noteEmpty_keeps {m : Nat} {s0 : State} {a0 : State} {a1 : Nat} (h : Keeps m s0 a0) (hs : sub 0x8000000 m = true) : Keeps m s0 (State.noteEmpty a0 a1) := by
  refine h.step ?_ hs
  dsimp only [State.noteEmpty]
  repeat' first
    | with_reducible first | assumption | exact Keeps.refl _ _
    | (with_reducible apply sub_intro); exact rfl
    | with_reducible apply State_nodesIdle_keeps
    | with_reducible apply State_setObj_keeps
    | with_reducible apply Keeps.ite
    | split
    | dsimp only

theorem State_enqueue_keeps {m : Nat} {s0 : State} {a0 : State} {a1 : Item} (h : Keeps m s0 a0) (hs : sub 0xa000000 m = true) : Keeps m s0 (State.enqueue a0 a1) := by
  refine h.step ?_ hs
  dsimp only [State.enqueue]
  repeat' first
    | with_reducible first | assumption | exact Keeps.refl _ _
    | (with_reducible apply sub_intro); exact rfl
    | with_reducible apply State_setQ_keeps
    | with_reducible apply State_refreshObj_keeps
    | with_reducible apply Keeps.ite
    | split
    | dsimp only

theorem State_flushQueue_keeps {m : Nat} {s0 : State} {a0 : State} {a1 : Nat} {a2 : Nat} (h : Keeps m s0 a0) (hs : sub 0x1819cf480010 m = true) : Keeps m s0 (State.flushQueue a0 a1 a2) := by
  refine h.step ?_ hs
  dsimp only [State.flushQueue]
  repeat' first
    | with_reducible first | assumption | exact Keeps.refl _ _
    | (with_reducible apply sub_intro); exact rfl
    | with_reducible apply State_setQ_keeps
    | with_reducible apply State_rsub_keeps
    | with_reducible apply State_setPager_keeps
    | with_reducible apply State_setPx_keeps
    | with_reducible apply State_release_keeps
    | with_reducible apply State_cadd_keeps
    | with_reducible apply State_nodesIdle_keeps
    | with_reducible apply State_setObj_keeps
    | with_reducible apply Keeps.foldl
    | intro _
    | with_reducible apply Keeps.ite
    | split
    | dsimp only

theorem State_flushPort_keeps {m : Nat} {s0 : State} {a0 : State} {a1 : Nat} (h : Keeps m s0 a0) (hs : sub 0x1819cf480010 m = true) : Keeps m s0 (State.flushPort a0 a1) := by
  refine h.step ?_ hs
  dsimp only [State.flushPort]
  repeat' first
    | with_reducible first | assumption | exact Keeps.refl _ _
    | (with_reducible apply sub_intro); exact rfl
    | with_reducible apply State_flushQueue_keeps
    | with_reducible apply Keeps.foldl
    | intro _
    | with_reducible apply Keeps.ite
    | split
    | dsimp only

theorem State_loanPass_keeps {m : Nat} {s0 : State} {a0 : State} {a1 : Nat} {a2 : Nat} {a3 : Nat} (h : Keeps m s0 a0) (hs : sub 0x80000000 m = true) : Keeps m s0 (State.loanPass a0 a1 a2 a3) := by
  refine h.step ?_ hs
  dsimp only [State.loanPass]
  repeat' first
    | with_reducible first | assumption | exact Keeps.refl _ _
    | (with_reducible apply sub_intro); exact rfl
    | with_reducible apply State_setCrl_keeps
    | with_reducible apply Keeps.ite
    | split
    | dsimp only

theorem State_loanPut_keeps {m : Nat} {s0 : State} {a0 : State} {a1 : Nat} {a2 : Nat} {a3 : Loan} (h : Keeps m s0 a0) (hs : sub 0x80000010 m = true) : Keeps m s0 (State.loanPut a0 a1 a2 a3) := by
  refine h.step ?_ hs
  dsimp only [State.loanPut]
  repeat' first
    | with_reducible first | assumption | exact Keeps.refl _ _
    | (with_reducible apply sub_intro); exact rfl
    | with_reducible apply State_radd_keeps
    | with_reducible apply State_setCrl_keeps
    | with_reducible apply Keeps.ite
    | split
    | dsimp only

theorem State_loanNew_keeps {m : Nat} {s0 : State} {a0 : State} {a1 : Nat} {a2 : Nat} {a3 : Nat} {a4 : Nat} (h : Keeps m s0 a0) (hs : sub 0x80000018 m = true) : Keeps m s0 (State.loanNew a0 a1 a2 a3 a4).1 := by
  refine h.step ?_ hs
  dsimp only [State.loanNew]
  repeat' first
    | with_reducible first | assumption | exact Keeps.refl _ _
    | (with_reducible apply sub_intro); exact rfl
    | with_reducible apply State_rsub_keeps
    | with_reducible apply State_loanPut_keeps
    | with_reducible apply Keeps.ite
    | with_reducible apply Keeps.iteFst
    | split
    | dsimp only
    | with_reducible apply Keeps.fresh

theorem State_loanEnd_keeps {m : Nat} {s0 : State} {a0 : State} {a1 : Nat} {a2 : Nat} (h : Keeps m s0 a0) (hs : sub 0x1818c1480010 m = true) : Keeps m s0 (State.loanEnd a0 a1 a2) := by
  refine h.step ?_ hs
  dsimp only [State.loanEnd]
  repeat' first
    | with_reducible first | assumption | exact Keeps.refl _ _
    | (with_reducible apply sub_intro); exact rfl
    | with_reducible apply State_rsub_keeps
    | with_reducible apply State_setCrl_keeps
    | with_reducible apply State_release_keeps
    | with_reducible apply State_radd_keeps
    | with_reducible apply Keeps.ite
    | split
    | dsimp only

theorem State_loanReturn_keeps {m : Nat} {s0 : State} {a0 : State} {a1 : Nat} {a2 : Nat} {a3 : Nat} (h : Keeps m s0 a0) (hs : sub 0x1818c1480010 m = true) : Keeps m s0 (State.loanReturn a0 a1 a2 a3) := by
  refine h.step ?_ hs
  dsimp only [State.loanReturn]
  repeat' first
    | with_reducible first | assumption | exact Keeps.refl _ _
    | (with_reducible apply sub_intro); exact rfl
    | with_reducible apply State_loanEnd_keeps
    | with_reducible apply State_cinc_keeps
    | with_reducible apply State_rput_keeps
    | with_reducible apply State_raise_keeps
    | with_reducible apply Keeps.ite
    | split
    | dsimp only

theorem State_loanReclaim_keeps {m : Nat} {s0 : State} {a0 : State} {a1 : Nat} {a2 : Nat} (h : Keeps m s0 a0) (hs : sub 0x1818c1480010 m = true) : Keeps m s0 (State.loanReclaim a0 a1 a2) := by
  refine h.step ?_ hs
  dsimp only [State.loanReclaim]
  repeat' first
    | with_reducible first | assumption | exact Keeps.refl _ _
    | (with_reducible apply sub_intro); exact rfl
    | with_reducible apply State_loanEnd_keeps
    | with_reducible apply Keeps.foldl
    | intro _
    | with_reducible apply Keeps.ite
    | split
    | dsimp only

end Sys2Proof.Laws
end

