-- ==== Sys2Proof/Laws/Keep/Admit.lean ====
section
/-! SUPPORT. What each definition of Machine/Admit may change, and that it keeps the canonical form. -/

namespace Sys2Proof.Laws

open Sys2Proof Sys2Proof.Machine

theorem State_noteRefused_keeps {m : Nat} {s0 : State} {a0 : State} {a1 : Nat} {a2 : Nat} {a3 : Target} (h : Keeps m s0 a0) (hs : sub 0x80010 m = true) : Keeps m s0 (State.noteRefused a0 a1 a2 a3) := by
  refine h.step ?_ hs
  dsimp only [State.noteRefused]
  repeat' first
    | with_reducible first | assumption | exact Keeps.refl _ _
    | (with_reducible apply sub_intro); exact rfl
    | with_reducible apply State_cinc_keeps
    | with_reducible apply State_raise_keeps
    | with_reducible apply State_rput_keeps
    | with_reducible apply Keeps.ite
    | split
    | dsimp only

theorem State_placeItem_keeps {m : Nat} {s0 : State} {a0 : State} {a1 : Item} {a2 : SpillPath} {a3 : Bool} (h : Keeps m s0 a0) (hs : sub 0x1818cf480010 m = true) : Keeps m s0 (State.placeItem a0 a1 a2 a3) := by
  refine h.step ?_ hs
  dsimp only [State.placeItem]
  repeat' first
    | with_reducible first | assumption | exact Keeps.refl _ _
    | (with_reducible apply sub_intro); exact rfl
    | with_reducible apply State_setQ_keeps
    | with_reducible apply State_enqueue_keeps
    | with_reducible apply State_rput_keeps
    | with_reducible apply State_setPager_keeps
    | with_reducible apply State_raise_keeps
    | with_reducible apply State_cinc_keeps
    | with_reducible apply State_release_keeps
    | with_reducible apply Keeps.ite
    | split
    | dsimp only

theorem State_admitBasket_keeps {m : Nat} {s0 : State} {a0 : State} {a1 : Nat} {a2 : Nat} {a3 : List Target} (h : Keeps m s0 a0) (hs : sub 0x1818cf480018 m = true) : Keeps m s0 (State.admitBasket a0 a1 a2 a3).1 := by
  refine h.step ?_ hs
  dsimp only [State.admitBasket]
  repeat' first
    | with_reducible first | assumption | exact Keeps.refl _ _
    | (with_reducible apply sub_intro); exact rfl
    | with_reducible apply State_noteRefused_keeps
    | with_reducible apply State_cinc_keeps
    | with_reducible apply State_raise_keeps
    | with_reducible apply State_chargeUnit_keeps
    | with_reducible apply State_rsub_keeps
    | with_reducible apply State_setCopy_keeps
    | with_reducible apply State_cadd_keeps
    | with_reducible apply State_useFree_keeps
    | with_reducible apply State_rput_keeps
    | with_reducible apply State_placeItem_keeps
    | with_reducible apply State_chargeItem_keeps
    | with_reducible apply Keeps.foldl
    | with_reducible apply Keeps.foldlFst
    | intro _
    | with_reducible apply Keeps.ite
    | with_reducible apply Keeps.iteFst
    | split
    | dsimp only

theorem State_setSin_keeps {m : Nat} {s0 : State} {a0 : State} {a1 : Nat} {a2 : SlathIn} (h : Keeps m s0 a0) (hs : sub 0x40000000 m = true) : Keeps m s0 (State.setSin a0 a1 a2) := by
  refine h.step ?_ hs
  dsimp only [State.setSin]
  repeat' first
    | with_reducible first | assumption | exact Keeps.refl _ _
    | (with_reducible apply sub_intro); exact rfl
    | with_reducible apply Keeps.ite
    | split
    | dsimp only
    | with_reducible apply Keeps.slath

theorem State_crossTo_keeps {m : Nat} {s0 : State} {a0 : State} {a1 : Nat} {a2 : Nat} {a3 : List Nat} {a4 : Option Nat} (h : Keeps m s0 a0) (hs : sub 0x40000000 m = true) : Keeps m s0 (State.crossTo a0 a1 a2 a3 a4) := by
  refine h.step ?_ hs
  dsimp only [State.crossTo]
  repeat' first
    | with_reducible first | assumption | exact Keeps.refl _ _
    | (with_reducible apply sub_intro); exact rfl
    | with_reducible apply State_setSin_keeps
    | with_reducible apply Keeps.ite
    | split
    | dsimp only
    | with_reducible apply Keeps.slath

theorem State_deliver_keeps {m : Nat} {s0 : State} {a0 : State} {a1 : Nat} {a2 : Nat} {a3 : List Target} {a4 : Option Nat} (h : Keeps m s0 a0) (hs : sub 0x1818cf480018 m = true) : Keeps m s0 (State.deliver a0 a1 a2 a3 a4) := by
  refine h.step ?_ hs
  dsimp only [State.deliver]
  repeat' first
    | with_reducible first | assumption | exact Keeps.refl _ _
    | (with_reducible apply sub_intro); exact rfl
    | with_reducible apply State_cinc_keeps
    | with_reducible apply State_admitBasket_keeps
    | with_reducible apply State_crossTo_keeps
    | with_reducible apply State_setFate_keeps
    | with_reducible refine Keeps.fstEq (by assumption) ?_
    | with_reducible apply Keeps.foldl
    | with_reducible apply Keeps.foldlFst
    | intro _
    | with_reducible apply Keeps.ite
    | with_reducible apply Keeps.iteFst
    | split
    | dsimp only

end Sys2Proof.Laws
end

