-- ==== Sys2Proof/Laws/Keep/AxCore.lean ====
section
/-! SUPPORT. What each definition of Machine/AxCore may change, and that it keeps the canonical form. -/

namespace Sys2Proof.Laws

open Sys2Proof Sys2Proof.Machine

theorem State_noteCq_keeps {m : Nat} {s0 : State} {a0 : State} {a1 : Nat} (h : Keeps m s0 a0) (hs : sub 0x400 m = true) : Keeps m s0 (State.noteCq a0 a1) := by
  refine h.step ?_ hs
  dsimp only [State.noteCq]
  repeat' first
    | with_reducible first | assumption | exact Keeps.refl _ _
    | (with_reducible apply sub_intro); exact rfl
    | with_reducible apply State_setRingx_keeps
    | with_reducible apply Keeps.ite
    | split
    | dsimp only

theorem State_ringError_keeps {m : Nat} {s0 : State} {a0 : State} {a1 : Nat} {a2 : Nat} (h : Keeps m s0 a0) (hs : sub 0x80010 m = true) : Keeps m s0 (State.ringError a0 a1 a2) := by
  refine h.step ?_ hs
  dsimp only [State.ringError]
  repeat' first
    | with_reducible first | assumption | exact Keeps.refl _ _
    | (with_reducible apply sub_intro); exact rfl
    | with_reducible apply State_rputBoth_keeps
    | with_reducible apply State_rput_keeps
    | with_reducible apply State_raise_keeps
    | with_reducible apply Keeps.ite
    | split
    | dsimp only

theorem State_writeRecord_keeps {m : Nat} {s0 : State} {a0 : State} {a1 : Nat} {a2 : Nat} {a3 : Nat} {a4 : Nat} {a5 : Nat} {a6 : Nat} {a7 : Nat} {a8 : Nat} {a9 : Bool} (h : Keeps m s0 a0) (hs : sub 0x80090 m = true) : Keeps m s0 (State.writeRecord a0 a1 a2 a3 a4 a5 a6 a7 a8 a9) := by
  refine h.step ?_ hs
  dsimp only [State.writeRecord]
  repeat' first
    | with_reducible first | assumption | exact Keeps.refl _ _
    | (with_reducible apply sub_intro); exact rfl
    | with_reducible apply State_ringError_keeps
    | with_reducible apply State_mset64_keeps
    | with_reducible apply State_rput_keeps
    | with_reducible apply State_signalVec_keeps
    | with_reducible apply Keeps.ite
    | split
    | dsimp only

theorem State_setG_keeps {m : Nat} {s0 : State} {a0 : State} {a1 : Nat} {a2 : Nat} {a3 : DWord} (h : Keeps m s0 a0) (hs : sub 0x200 m = true) : Keeps m s0 (State.setG a0 a1 a2 a3) := by
  refine h.step ?_ hs
  dsimp only [State.setG]
  repeat' first
    | with_reducible first | assumption | exact Keeps.refl _ _
    | (with_reducible apply sub_intro); exact rfl
    | with_reducible apply State_setThr_keeps
    | with_reducible apply Keeps.ite
    | split
    | dsimp only

theorem State_settleThread_keeps {m : Nat} {s0 : State} {a0 : State} {a1 : Nat} {a2 : Bool} (h : Keeps m s0 a0) (hs : sub 0x10 m = true) : Keeps m s0 (State.settleThread a0 a1 a2) := by
  refine h.step ?_ hs
  dsimp only [State.settleThread]
  repeat' first
    | with_reducible first | assumption | exact Keeps.refl _ _
    | (with_reducible apply sub_intro); exact rfl
    | with_reducible apply State_pput_keeps
    | with_reducible apply State_cadd_keeps
    | with_reducible apply Keeps.ite
    | split
    | dsimp only

theorem State_endProg_keeps {m : Nat} {s0 : State} {a0 : State} {a1 : Nat} {a2 : Nat} {a3 : Nat} {a4 : Nat} (h : Keeps m s0 a0) (hs : sub 0x800080690 m = true) : Keeps m s0 (State.endProg a0 a1 a2 a3 a4) := by
  refine h.step ?_ hs
  dsimp only [State.endProg]
  repeat' first
    | with_reducible first | assumption | exact Keeps.refl _ _
    | (with_reducible apply sub_intro); exact rfl
    | with_reducible apply State_raiseIf_keeps
    | with_reducible apply State_abortDrafts_keeps
    | with_reducible apply State_settleThread_keeps
    | with_reducible apply State_setThr_keeps
    | with_reducible apply State_writeRecord_keeps
    | with_reducible apply State_noteCq_keeps
    | with_reducible apply Keeps.ite
    | split
    | dsimp only

theorem State_killProg_keeps {m : Nat} {s0 : State} {a0 : State} {a1 : Nat} (h : Keeps m s0 a0) (hs : sub 0x800080210 m = true) : Keeps m s0 (State.killProg a0 a1) := by
  refine h.step ?_ hs
  dsimp only [State.killProg]
  repeat' first
    | with_reducible first | assumption | exact Keeps.refl _ _
    | (with_reducible apply sub_intro); exact rfl
    | with_reducible apply State_setThr_keeps
    | with_reducible apply State_settleThread_keeps
    | with_reducible apply State_raise_keeps
    | with_reducible apply State_abortDrafts_keeps
    | with_reducible apply Keeps.ite
    | split
    | dsimp only

theorem State_finishAt_keeps {m : Nat} {s0 : State} {a0 : State} {a1 : Nat} {a2 : Nat} {a3 : Nat} (h : Keeps m s0 a0) (hs : sub 0x800080690 m = true) : Keeps m s0 (State.finishAt a0 a1 a2 a3) := by
  refine h.step ?_ hs
  dsimp only [State.finishAt]
  repeat' first
    | with_reducible first | assumption | exact Keeps.refl _ _
    | (with_reducible apply sub_intro); exact rfl
    | with_reducible apply State_setThr_keeps
    | with_reducible apply State_endProg_keeps
    | with_reducible apply Keeps.ite
    | split
    | dsimp only

theorem State_finish_keeps {m : Nat} {s0 : State} {a0 : State} {a1 : Nat} {a2 : Nat} {a3 : Nat} (h : Keeps m s0 a0) (hs : sub 0x800080690 m = true) : Keeps m s0 (State.finish a0 a1 a2 a3) := by
  refine h.step ?_ hs
  dsimp only [State.finish]
  repeat' first
    | with_reducible first | assumption | exact Keeps.refl _ _
    | (with_reducible apply sub_intro); exact rfl
    | with_reducible apply State_finishAt_keeps
    | with_reducible apply Keeps.ite
    | split
    | dsimp only

theorem State_result_keeps {m : Nat} {s0 : State} {a0 : State} {a1 : Nat} {a2 : Nat} {a3 : Nat} {a4 : Nat} {a5 : Bool} (h : Keeps m s0 a0) (hs : sub 0x800080690 m = true) : Keeps m s0 (State.result a0 a1 a2 a3 a4 a5) := by
  refine h.step ?_ hs
  dsimp only [State.result]
  repeat' first
    | with_reducible first | assumption | exact Keeps.refl _ _
    | (with_reducible apply sub_intro); exact rfl
    | with_reducible apply State_finish_keeps
    | with_reducible apply State_setThr_keeps
    | with_reducible apply State_endProg_keeps
    | with_reducible apply Keeps.ite
    | split
    | dsimp only

theorem State_startWait_keeps {m : Nat} {s0 : State} {a0 : State} {a1 : Nat} {a2 : WaitKind} {a3 : Option Nat} {a4 : Bool} {a5 : Nat} {a6 : Nat} (h : Keeps m s0 a0) (hs : sub 0x200 m = true) : Keeps m s0 (State.startWait a0 a1 a2 a3 a4 a5 a6) := by
  refine h.step ?_ hs
  dsimp only [State.startWait]
  repeat' first
    | with_reducible first | assumption | exact Keeps.refl _ _
    | (with_reducible apply sub_intro); exact rfl
    | with_reducible apply State_setThr_keeps
    | with_reducible apply Keeps.ite
    | split
    | dsimp only

theorem State_endWait_keeps {m : Nat} {s0 : State} {a0 : State} {a1 : Nat} {a2 : Nat} (h : Keeps m s0 a0) (hs : sub 0x800080690 m = true) : Keeps m s0 (State.endWait a0 a1 a2) := by
  refine h.step ?_ hs
  dsimp only [State.endWait]
  repeat' first
    | with_reducible first | assumption | exact Keeps.refl _ _
    | (with_reducible apply sub_intro); exact rfl
    | with_reducible apply State_result_keeps
    | with_reducible apply Keeps.ite
    | split
    | dsimp only

theorem State_endPdreq_keeps {m : Nat} {s0 : State} {a0 : State} {a1 : Nat} {a2 : Nat} (h : Keeps m s0 a0) (hs : sub 0x800080690 m = true) : Keeps m s0 (State.endPdreq a0 a1 a2) := by
  refine h.step ?_ hs
  dsimp only [State.endPdreq]
  repeat' first
    | with_reducible first | assumption | exact Keeps.refl _ _
    | (with_reducible apply sub_intro); exact rfl
    | with_reducible apply State_endWait_keeps
    | with_reducible apply Keeps.foldl
    | intro _
    | with_reducible apply Keeps.ite
    | split
    | dsimp only

end Sys2Proof.Laws
end

