-- ==== Sys2Proof/Laws/Keep/PowerOps.lean ====
section
/-! SUPPORT. What each definition of Machine/PowerOps may change, and that it keeps the canonical form. -/

namespace Sys2Proof.Laws

open Sys2Proof Sys2Proof.Machine

theorem State_lp4xUse_keeps {m : Nat} {s0 : State} {a0 : State} {a1 : Bool} (h : Keeps m s0 a0) (hs : sub 0x18 m = true) : Keeps m s0 (State.lp4xUse a0 a1) := by
  refine h.step ?_ hs
  dsimp only [State.lp4xUse]
  repeat' first
    | with_reducible first | assumption | exact Keeps.refl _ _
    | (with_reducible apply sub_intro); exact rfl
    | with_reducible apply State_useFree_keeps
    | with_reducible apply State_cadd_keeps
    | with_reducible apply Keeps.foldl
    | intro _
    | with_reducible apply Keeps.ite
    | split
    | dsimp only

theorem State_lp4xEcc_keeps {m : Nat} {s0 : State} {a0 : State} {a1 : Nat} (h : Keeps m s0 a0) (hs : sub 0x80010 m = true) : Keeps m s0 (State.lp4xEcc a0 a1) := by
  refine h.step ?_ hs
  dsimp only [State.lp4xEcc]
  repeat' first
    | with_reducible first | assumption | exact Keeps.refl _ _
    | (with_reducible apply sub_intro); exact rfl
    | with_reducible apply State_raise_keeps
    | with_reducible apply State_cinc_keeps
    | with_reducible apply State_rput_keeps
    | with_reducible apply Keeps.ite
    | split
    | dsimp only

theorem State_pdResult_keeps {m : Nat} {s0 : State} {a0 : State} {a1 : Nat} {a2 : Nat} (h : Keeps m s0 a0) (hs : sub 0x10 m = true) : Keeps m s0 (State.pdResult a0 a1 a2) := by
  refine h.step ?_ hs
  dsimp only [State.pdResult]
  repeat' first
    | with_reducible first | assumption | exact Keeps.refl _ _
    | (with_reducible apply sub_intro); exact rfl
    | with_reducible apply State_rput_keeps
    | with_reducible apply Keeps.ite
    | split
    | dsimp only

theorem State_pdRefuse_keeps {m : Nat} {s0 : State} {a0 : State} {a1 : Nat} {a2 : Nat} {a3 : Nat} {a4 : Nat} (h : Keeps m s0 a0) (hs : sub 0x800080690 m = true) : Keeps m s0 (State.pdRefuse a0 a1 a2 a3 a4) := by
  refine h.step ?_ hs
  dsimp only [State.pdRefuse]
  repeat' first
    | with_reducible first | assumption | exact Keeps.refl _ _
    | (with_reducible apply sub_intro); exact rfl
    | with_reducible apply State_rput_keeps
    | with_reducible apply State_cinc_keeps
    | with_reducible apply State_endPdreq_keeps
    | with_reducible apply State_raise_keeps
    | with_reducible apply State_pdResult_keeps
    | with_reducible apply Keeps.ite
    | split
    | dsimp only

theorem State_pdRequest_keeps {m : Nat} {s0 : State} {a0 : State} {a1 : Nat} {a2 : Nat} {a3 : Nat} (h : Keeps m s0 a0) (hs : sub 0x800081690 m = true) : Keeps m s0 (State.pdRequest a0 a1 a2 a3) := by
  refine h.step ?_ hs
  dsimp only [State.pdRequest]
  repeat' first
    | with_reducible first | assumption | exact Keeps.refl _ _
    | (with_reducible apply sub_intro); exact rfl
    | with_reducible apply State_pdRefuse_keeps
    | with_reducible apply State_endPdreq_keeps
    | with_reducible apply State_pdResult_keeps
    | with_reducible apply State_raise_keeps
    | with_reducible apply State_cinc_keeps
    | with_reducible apply State_setDomx_keeps
    | with_reducible apply State_rput_keeps
    | with_reducible apply Keeps.ite
    | split
    | dsimp only

theorem State_pdUnqueue_keeps {m : Nat} {s0 : State} {a0 : State} {a1 : Nat} (h : Keeps m s0 a0) (hs : sub 0x1010 m = true) : Keeps m s0 (State.pdUnqueue a0 a1) := by
  refine h.step ?_ hs
  dsimp only [State.pdUnqueue]
  repeat' first
    | with_reducible first | assumption | exact Keeps.refl _ _
    | (with_reducible apply sub_intro); exact rfl
    | with_reducible apply State_setDomx_keeps
    | with_reducible apply State_rput_keeps
    | with_reducible apply Keeps.ite
    | split
    | dsimp only

theorem State_wakeFire_keeps {m : Nat} {s0 : State} {a0 : State} {a1 : Nat} (h : Keeps m s0 a0) (hs : sub 0x800081690 m = true) : Keeps m s0 (State.wakeFire a0 a1) := by
  refine h.step ?_ hs
  dsimp only [State.wakeFire]
  repeat' first
    | with_reducible first | assumption | exact Keeps.refl _ _
    | (with_reducible apply sub_intro); exact rfl
    | with_reducible apply State_raise_keeps
    | with_reducible apply State_pdRequest_keeps
    | with_reducible apply Keeps.foldl
    | intro _
    | with_reducible apply Keeps.ite
    | split
    | dsimp only

theorem State_dropUnready_keeps {m : Nat} {s0 : State} {a0 : State} (h : Keeps m s0 a0) (hs : sub 0x80010 m = true) : Keeps m s0 (State.dropUnready a0) := by
  refine h.step ?_ hs
  dsimp only [State.dropUnready]
  repeat' first
    | with_reducible first | assumption | exact Keeps.refl _ _
    | (with_reducible apply sub_intro); exact rfl
    | with_reducible apply State_setReady_keeps
    | with_reducible apply Keeps.foldl
    | intro _
    | with_reducible apply Keeps.ite
    | split
    | dsimp only

end Sys2Proof.Laws
end

