-- ==== Sys2Proof/Laws/Keep/Events.lean ====
section
/-! SUPPORT. What each definition of Machine/Events may change, and that it keeps the canonical form. -/

namespace Sys2Proof.Laws

open Sys2Proof Sys2Proof.Machine

theorem State_guardWrite_keeps {m : Nat} {s0 : State} {a0 : State} {a1 : Master} {a2 : Nat} {a3 : Nat} {a4 : Word} {a5 : State → Nat → State} (h : Keeps m s0 a0) (hs : sub 0x81070 m = true) (g5 : ∀ x0 x1, Keeps m s0 x0 → Keeps m s0 (a5 x0 x1)) : Keeps m s0 (State.guardWrite a0 a1 a2 a3 a4 a5) := by
  dsimp only [State.guardWrite]
  repeat' first
    | with_reducible first | assumption | exact Keeps.refl _ _
    | (with_reducible apply sub_intro); exact rfl
    | with_reducible apply g5
    | exact sub_trans (sub_intro rfl) hs
    | with_reducible apply State_refuseWrite_keeps
    | with_reducible apply State_mergeWrite_keeps
    | with_reducible apply State_holdAction_keeps
    | with_reducible apply Keeps.ite
    | split
    | dsimp only

theorem execStatusClear_keeps {m : Nat} {s0 : State} {a0 : Master} {a1 : Nat} {a2 : Word} {a3 : State} (h : Keeps m s0 a3) (hs : sub 0x81070 m = true) : OutKeeps m s0 (execStatusClear a0 a1 a2 a3) := by
  refine OutKeeps.step h ?_ hs
  dsimp only [execStatusClear]
  repeat' first
    | with_reducible first | assumption | exact Keeps.refl _ _
    | (with_reducible apply sub_intro); exact rfl
    | with_reducible apply OutKeeps.next
    | with_reducible apply State_guardWrite_keeps
    | with_reducible apply State_clearStatus_keeps
    | with_reducible apply Keeps.foldl
    | intro _
    | with_reducible apply OutKeeps.ite
    | with_reducible apply Keeps.ite
    | split
    | dsimp only

theorem execCoalesceEnd_keeps {m : Nat} {s0 : State} {a0 : Nat} {a1 : State} (h : Keeps m s0 a1) (hs : sub 0x80010 m = true) : OutKeeps m s0 (execCoalesceEnd a0 a1) := by
  refine OutKeeps.step h ?_ hs
  dsimp only [execCoalesceEnd]
  repeat' first
    | with_reducible first | assumption | exact Keeps.refl _ _
    | (with_reducible apply sub_intro); exact rfl
    | with_reducible apply OutKeeps.next
    | with_reducible apply State_setVec_keeps
    | with_reducible apply State_signalVec_keeps
    | with_reducible apply OutKeeps.ite
    | with_reducible apply Keeps.ite
    | split
    | dsimp only

theorem execMsixMessage_keeps {m : Nat} {s0 : State} {a0 : Nat} {a1 : State} (h : Keeps m s0 a1) (hs : sub 0x80080 m = true) : OutKeeps m s0 (execMsixMessage a0 a1) := by
  refine OutKeeps.step h ?_ hs
  dsimp only [execMsixMessage]
  repeat' first
    | with_reducible first | assumption | exact Keeps.refl _ _
    | (with_reducible apply sub_intro); exact rfl
    | with_reducible apply OutKeeps.next
    | with_reducible apply State_setVec_keeps
    | with_reducible apply State_mwrite_keeps
    | with_reducible apply OutKeeps.ite
    | with_reducible apply Keeps.ite
    | split
    | dsimp only

theorem execBusMasterEnable_keeps {m : Nat} {s0 : State} {a0 : Nat} {a1 : Bool} {a2 : Bool} {a3 : State} (h : Keeps m s0 a3) (hs : sub 0x88010 m = true) : OutKeeps m s0 (execBusMasterEnable a0 a1 a2 a3) := by
  refine OutKeeps.step h ?_ hs
  dsimp only [execBusMasterEnable]
  repeat' first
    | with_reducible first | assumption | exact Keeps.refl _ _
    | (with_reducible apply sub_intro); exact rfl
    | with_reducible apply OutKeeps.next
    | with_reducible apply State_dropUnready_keeps
    | with_reducible apply OutKeeps.ite
    | with_reducible apply Keeps.ite
    | split
    | dsimp only
    | with_reducible apply Keeps.boot

theorem State_tallySnap_keeps {m : Nat} {s0 : State} {a0 : State} (h : Keeps m s0 a0) (hs : sub 0x100010 m = true) : Keeps m s0 (State.tallySnap a0).1 := by
  refine h.step ?_ hs
  dsimp only [State.tallySnap]
  repeat' first
    | with_reducible first | assumption | exact Keeps.refl _ _
    | (with_reducible apply sub_intro); exact rfl
    | with_reducible apply State_cinc_keeps
    | with_reducible apply Keeps.ite
    | with_reducible apply Keeps.iteFst
    | split
    | dsimp only
    | with_reducible apply Keeps.tally

theorem execTallyPeriod_keeps {m : Nat} {s0 : State} {a0 : State} (h : Keeps m s0 a0) (hs : sub 0x100010 m = true) : OutKeeps m s0 (execTallyPeriod a0) := by
  refine OutKeeps.step h ?_ hs
  dsimp only [execTallyPeriod]
  repeat' first
    | with_reducible first | assumption | exact Keeps.refl _ _
    | (with_reducible apply sub_intro); exact rfl
    | with_reducible apply OutKeeps.next
    | with_reducible apply State_tallySnap_keeps
    | with_reducible refine Keeps.fstEq (by assumption) ?_
    | with_reducible apply OutKeeps.ite
    | with_reducible apply Keeps.iteFst
    | with_reducible apply Keeps.ite
    | split
    | dsimp only
    | with_reducible apply Keeps.tally

theorem State_mwriteWords_keeps {m : Nat} {s0 : State} {a0 : State} {a1 : Nat} {a2 : List Nat} (h : Keeps m s0 a0) (hs : sub 0x80 m = true) : Keeps m s0 (State.mwriteWords a0 a1 a2) := by
  refine h.step ?_ hs
  dsimp only [State.mwriteWords]
  repeat' first
    | with_reducible first | assumption | exact Keeps.refl _ _
    | (with_reducible apply sub_intro); exact rfl
    | with_reducible apply State_mwrite_keeps
    | with_reducible apply Keeps.ite
    | split
    | dsimp only

theorem execTallyEntryWritten_keeps {m : Nat} {s0 : State} {a0 : State} (h : Keeps m s0 a0) (hs : sub 0x180098 m = true) : OutKeeps m s0 (execTallyEntryWritten a0) := by
  refine OutKeeps.step h ?_ hs
  dsimp only [execTallyEntryWritten]
  repeat' first
    | with_reducible first | assumption | exact Keeps.refl _ _
    | (with_reducible apply sub_intro); exact rfl
    | with_reducible apply OutKeeps.next
    | with_reducible apply State_cinc_keeps
    | with_reducible apply State_mwriteWords_keeps
    | with_reducible apply State_mset64_keeps
    | with_reducible apply State_lp4xUse_keeps
    | with_reducible apply State_winc_keeps
    | with_reducible apply State_signalVec_keeps
    | with_reducible apply OutKeeps.ite
    | with_reducible apply Keeps.ite
    | split
    | dsimp only
    | with_reducible apply Keeps.tally

theorem State_tallyAtTime_keeps {m : Nat} {s0 : State} {a0 : State} (h : Keeps m s0 a0) (hs : sub 0x800180690 m = true) : Keeps m s0 (State.tallyAtTime a0) := by
  refine h.step ?_ hs
  dsimp only [State.tallyAtTime]
  repeat' first
    | with_reducible first | assumption | exact Keeps.refl _ _
    | (with_reducible apply sub_intro); exact rfl
    | with_reducible apply State_tallySnap_keeps
    | with_reducible apply State_endWait_keeps
    | with_reducible refine Keeps.fstEq (by assumption) ?_
    | with_reducible apply Keeps.foldl
    | with_reducible apply Keeps.foldlFst
    | intro _
    | with_reducible apply Keeps.ite
    | with_reducible apply Keeps.iteFst
    | split
    | dsimp only

theorem execTallySnapshotAtTime_keeps {m : Nat} {s0 : State} {a0 : State} (h : Keeps m s0 a0) (hs : sub 0x800180690 m = true) : OutKeeps m s0 (execTallySnapshotAtTime a0) := by
  refine OutKeeps.step h ?_ hs
  dsimp only [execTallySnapshotAtTime]
  repeat' first
    | with_reducible first | assumption | exact Keeps.refl _ _
    | (with_reducible apply sub_intro); exact rfl
    | with_reducible apply OutKeeps.next
    | with_reducible apply State_tallyAtTime_keeps
    | with_reducible apply OutKeeps.ite
    | with_reducible apply Keeps.ite
    | split
    | dsimp only

end Sys2Proof.Laws
end

