-- ==== Sys2Proof/Laws/Keep/Mailbox.lean ====
section
/-! SUPPORT. What each definition of Machine/Mailbox may change, and that it keeps the canonical form. -/

namespace Sys2Proof.Laws

open Sys2Proof Sys2Proof.Machine

theorem State_sideWrite_keeps {m : Nat} {s0 : State} {a0 : State} {a1 : Master} {a2 : Nat} {a3 : Nat} {a4 : State → Bool → State} (h : Keeps m s0 a0) (hs : sub 0x80010 m = true) (g4 : ∀ x0 x1, Keeps m s0 x0 → Keeps m s0 (a4 x0 x1)) : Keeps m s0 (State.sideWrite a0 a1 a2 a3 a4) := by
  dsimp only [State.sideWrite]
  repeat' first
    | with_reducible first | assumption | exact Keeps.refl _ _
    | (with_reducible apply sub_intro); exact rfl
    | with_reducible apply g4
    | exact sub_trans (sub_intro rfl) hs
    | with_reducible apply State_refuseWrite_keeps
    | with_reducible apply Keeps.ite
    | split
    | dsimp only

theorem State_setSide_keeps {m : Nat} {s0 : State} {a0 : State} {a1 : Nat} {a2 : Bool} {a3 : MbxSide} (h : Keeps m s0 a0) (hs : sub 0x10000000000 m = true) : Keeps m s0 (State.setSide a0 a1 a2 a3) := by
  refine h.step ?_ hs
  dsimp only [State.setSide]
  repeat' first
    | with_reducible first | assumption | exact Keeps.refl _ _
    | (with_reducible apply sub_intro); exact rfl
    | with_reducible apply State_setChan_keeps
    | with_reducible apply Keeps.ite
    | split
    | dsimp only

theorem State_setFlag_keeps {m : Nat} {s0 : State} {a0 : State} {a1 : Nat} {a2 : Bool} {a3 : Nat} (h : Keeps m s0 a0) (hs : sub 0x10000080010 m = true) : Keeps m s0 (State.setFlag a0 a1 a2 a3) := by
  refine h.step ?_ hs
  dsimp only [State.setFlag]
  repeat' first
    | with_reducible first | assumption | exact Keeps.refl _ _
    | (with_reducible apply sub_intro); exact rfl
    | with_reducible apply State_raiseIf_keeps
    | with_reducible apply State_setSide_keeps
    | with_reducible apply Keeps.ite
    | split
    | dsimp only

theorem State_mbxPost_keeps {m : Nat} {s0 : State} {a0 : State} {a1 : Master} {a2 : Nat} {a3 : Bool} {a4 : Nat} (h : Keeps m s0 a0) (hs : sub 0x10000080010 m = true) : Keeps m s0 (State.mbxPost a0 a1 a2 a3 a4) := by
  refine h.step ?_ hs
  dsimp only [State.mbxPost]
  repeat' first
    | with_reducible first | assumption | exact Keeps.refl _ _
    | (with_reducible apply sub_intro); exact rfl
    | with_reducible apply State_raiseIf_keeps
    | with_reducible apply State_cinc_keeps
    | with_reducible apply State_setFlag_keeps
    | with_reducible apply State_setSide_keeps
    | with_reducible apply Keeps.ite
    | split
    | dsimp only

theorem State_mbxCancel_keeps {m : Nat} {s0 : State} {a0 : State} {a1 : Nat} {a2 : Bool} (h : Keeps m s0 a0) (hs : sub 0x10000000000 m = true) : Keeps m s0 (State.mbxCancel a0 a1 a2) := by
  refine h.step ?_ hs
  dsimp only [State.mbxCancel]
  repeat' first
    | with_reducible first | assumption | exact Keeps.refl _ _
    | (with_reducible apply sub_intro); exact rfl
    | with_reducible apply State_setSide_keeps
    | with_reducible apply Keeps.ite
    | split
    | dsimp only

theorem State_postWrite_keeps {m : Nat} {s0 : State} {a0 : State} {a1 : Master} {a2 : Nat} {a3 : Bool} {a4 : Nat} (h : Keeps m s0 a0) (hs : sub 0x10000080010 m = true) : Keeps m s0 (State.postWrite a0 a1 a2 a3 a4) := by
  refine h.step ?_ hs
  dsimp only [State.postWrite]
  repeat' first
    | with_reducible first | assumption | exact Keeps.refl _ _
    | (with_reducible apply sub_intro); exact rfl
    | with_reducible apply State_setSide_keeps
    | with_reducible apply State_mbxCancel_keeps
    | with_reducible apply State_mbxPost_keeps
    | with_reducible apply Keeps.ite
    | split
    | dsimp only

theorem execGo_keeps {m : Nat} {s0 : State} {a0 : Master} {a1 : Nat} {a2 : Word} {a3 : State} (h : Keeps m s0 a3) (hs : sub 0x10000080010 m = true) : OutKeeps m s0 (execGo a0 a1 a2 a3) := by
  refine OutKeeps.step h ?_ hs
  dsimp only [execGo]
  repeat' first
    | with_reducible first | assumption | exact Keeps.refl _ _
    | (with_reducible apply sub_intro); exact rfl
    | with_reducible apply OutKeeps.next
    | with_reducible apply State_sideWrite_keeps
    | with_reducible apply State_postWrite_keeps
    | with_reducible apply Keeps.foldl
    | intro _
    | with_reducible apply OutKeeps.ite
    | with_reducible apply Keeps.ite
    | split
    | dsimp only

theorem execCancel_keeps {m : Nat} {s0 : State} {a0 : Master} {a1 : Nat} {a2 : State} (h : Keeps m s0 a2) (hs : sub 0x10000080010 m = true) : OutKeeps m s0 (execCancel a0 a1 a2) := by
  refine OutKeeps.step h ?_ hs
  dsimp only [execCancel]
  repeat' first
    | with_reducible first | assumption | exact Keeps.refl _ _
    | (with_reducible apply sub_intro); exact rfl
    | with_reducible apply OutKeeps.next
    | with_reducible apply State_sideWrite_keeps
    | with_reducible apply State_postWrite_keeps
    | with_reducible apply Keeps.foldl
    | intro _
    | with_reducible apply OutKeeps.ite
    | with_reducible apply Keeps.ite
    | split
    | dsimp only

theorem execMbxTimeout_keeps {m : Nat} {s0 : State} {a0 : Nat} {a1 : Bool} {a2 : State} (h : Keeps m s0 a2) (hs : sub 0x10000080010 m = true) : OutKeeps m s0 (execMbxTimeout a0 a1 a2) := by
  refine OutKeeps.step h ?_ hs
  dsimp only [execMbxTimeout]
  repeat' first
    | with_reducible first | assumption | exact Keeps.refl _ _
    | (with_reducible apply sub_intro); exact rfl
    | with_reducible apply OutKeeps.next
    | with_reducible apply State_cinc_keeps
    | with_reducible apply State_setFlag_keeps
    | with_reducible apply State_setSide_keeps
    | with_reducible apply OutKeeps.ite
    | with_reducible apply Keeps.ite
    | split
    | dsimp only

theorem State_rxWord0_keeps {m : Nat} {s0 : State} {a0 : State} {a1 : Master} {a2 : Nat} {a3 : Bool} (h : Keeps m s0 a0) (hs : sub 0x10080080034 m = true) : Keeps m s0 (State.rxWord0 a0 a1 a2 a3) := by
  refine h.step ?_ hs
  dsimp only [State.rxWord0]
  repeat' first
    | with_reducible first | assumption | exact Keeps.refl _ _
    | (with_reducible apply sub_intro); exact rfl
    | with_reducible apply State_answer_keeps
    | with_reducible apply State_setBank_keeps
    | with_reducible apply State_loanPass_keeps
    | with_reducible apply State_setFlag_keeps
    | with_reducible apply State_setSide_keeps
    | with_reducible apply Keeps.foldl
    | intro _
    | with_reducible apply Keeps.ite
    | split
    | dsimp only

theorem execRxWord0Read_keeps {m : Nat} {s0 : State} {a0 : Master} {a1 : Nat} {a2 : State} (h : Keeps m s0 a2) (hs : sub 0x10080080034 m = true) : OutKeeps m s0 (execRxWord0Read a0 a1 a2) := by
  refine OutKeeps.step h ?_ hs
  dsimp only [execRxWord0Read]
  repeat' first
    | with_reducible first | assumption | exact Keeps.refl _ _
    | (with_reducible apply sub_intro); exact rfl
    | with_reducible apply OutKeeps.next
    | with_reducible apply State_rxWord0_keeps
    | with_reducible apply State_answer_keeps
    | with_reducible apply OutKeeps.ite
    | with_reducible apply Keeps.ite
    | split
    | dsimp only

theorem State_lockRead_keeps {m : Nat} {s0 : State} {a0 : State} {a1 : Master} {a2 : Nat} (h : Keeps m s0 a0) (hs : sub 0x10000080014 m = true) : Keeps m s0 (State.lockRead a0 a1 a2) := by
  refine h.step ?_ hs
  dsimp only [State.lockRead]
  repeat' first
    | with_reducible first | assumption | exact Keeps.refl _ _
    | (with_reducible apply sub_intro); exact rfl
    | with_reducible apply State_answer_keeps
    | with_reducible apply State_raise_keeps
    | with_reducible apply State_setChan_keeps
    | with_reducible apply Keeps.ite
    | split
    | dsimp only

theorem execLockRead_keeps {m : Nat} {s0 : State} {a0 : Master} {a1 : Nat} {a2 : State} (h : Keeps m s0 a2) (hs : sub 0x10000080014 m = true) : OutKeeps m s0 (execLockRead a0 a1 a2) := by
  refine OutKeeps.step h ?_ hs
  dsimp only [execLockRead]
  repeat' first
    | with_reducible first | assumption | exact Keeps.refl _ _
    | (with_reducible apply sub_intro); exact rfl
    | with_reducible apply OutKeeps.next
    | with_reducible apply State_lockRead_keeps
    | with_reducible apply State_answer_keeps
    | with_reducible apply OutKeeps.ite
    | with_reducible apply Keeps.ite
    | split
    | dsimp only

theorem State_lockWrite_keeps {m : Nat} {s0 : State} {a0 : State} {a1 : Master} {a2 : Nat} {a3 : Nat} (h : Keeps m s0 a0) (hs : sub 0x10000000000 m = true) : Keeps m s0 (State.lockWrite a0 a1 a2 a3) := by
  refine h.step ?_ hs
  dsimp only [State.lockWrite]
  repeat' first
    | with_reducible first | assumption | exact Keeps.refl _ _
    | (with_reducible apply sub_intro); exact rfl
    | with_reducible apply State_setChan_keeps
    | with_reducible apply Keeps.ite
    | split
    | dsimp only

theorem execLockRelease_keeps {m : Nat} {s0 : State} {a0 : Master} {a1 : Nat} {a2 : Word} {a3 : State} (h : Keeps m s0 a3) (hs : sub 0x10000080010 m = true) : OutKeeps m s0 (execLockRelease a0 a1 a2 a3) := by
  refine OutKeeps.step h ?_ hs
  dsimp only [execLockRelease]
  repeat' first
    | with_reducible first | assumption | exact Keeps.refl _ _
    | (with_reducible apply sub_intro); exact rfl
    | with_reducible apply OutKeeps.next
    | with_reducible apply State_sideWrite_keeps
    | with_reducible apply State_lockWrite_keeps
    | with_reducible apply Keeps.foldl
    | intro _
    | with_reducible apply OutKeeps.ite
    | with_reducible apply Keeps.ite
    | split
    | dsimp only

theorem State_attStatus_keeps {m : Nat} {s0 : State} {a0 : State} {a1 : Master} {a2 : Nat} {a3 : Nat} {a4 : Nat} (h : Keeps m s0 a0) (hs : sub 0x20 m = true) : Keeps m s0 (State.attStatus a0 a1 a2 a3 a4) := by
  refine h.step ?_ hs
  dsimp only [State.attStatus]
  repeat' first
    | with_reducible first | assumption | exact Keeps.refl _ _
    | (with_reducible apply sub_intro); exact rfl
    | with_reducible apply State_setBank_keeps
    | with_reducible apply Keeps.ite
    | split
    | dsimp only

theorem State_attNew_keeps {m : Nat} {s0 : State} {a0 : State} {a1 : Master} {a2 : Nat} (h : Keeps m s0 a0) (hs : sub 0x80000038 m = true) : Keeps m s0 (State.attNew a0 a1 a2) := by
  refine h.step ?_ hs
  dsimp only [State.attNew]
  repeat' first
    | with_reducible first | assumption | exact Keeps.refl _ _
    | (with_reducible apply sub_intro); exact rfl
    | with_reducible apply State_loanNew_keeps
    | with_reducible apply State_attStatus_keeps
    | with_reducible refine Keeps.fstEq (by assumption) ?_
    | with_reducible apply Keeps.ite
    | with_reducible apply Keeps.iteFst
    | split
    | dsimp only

theorem State_attReturn_keeps {m : Nat} {s0 : State} {a0 : State} {a1 : Master} {a2 : Nat} {a3 : Nat} (h : Keeps m s0 a0) (hs : sub 0x1818c1480030 m = true) : Keeps m s0 (State.attReturn a0 a1 a2 a3) := by
  refine h.step ?_ hs
  dsimp only [State.attReturn]
  repeat' first
    | with_reducible first | assumption | exact Keeps.refl _ _
    | (with_reducible apply sub_intro); exact rfl
    | with_reducible apply State_attStatus_keeps
    | with_reducible apply State_loanReturn_keeps
    | with_reducible apply Keeps.ite
    | split
    | dsimp only

theorem execAttNew_keeps {m : Nat} {s0 : State} {a0 : Master} {a1 : Nat} {a2 : Nat} {a3 : State} (h : Keeps m s0 a3) (hs : sub 0x80080038 m = true) : OutKeeps m s0 (execAttNew a0 a1 a2 a3) := by
  refine OutKeeps.step h ?_ hs
  dsimp only [execAttNew]
  repeat' first
    | with_reducible first | assumption | exact Keeps.refl _ _
    | (with_reducible apply sub_intro); exact rfl
    | with_reducible apply OutKeeps.next
    | with_reducible apply State_sideWrite_keeps
    | with_reducible apply State_attNew_keeps
    | with_reducible apply Keeps.foldl
    | intro _
    | with_reducible apply OutKeeps.ite
    | with_reducible apply Keeps.ite
    | split
    | dsimp only

theorem execAttReturn_keeps {m : Nat} {s0 : State} {a0 : Master} {a1 : Nat} {a2 : Nat} {a3 : Nat} {a4 : State} (h : Keeps m s0 a4) (hs : sub 0x1818c1480030 m = true) : OutKeeps m s0 (execAttReturn a0 a1 a2 a3 a4) := by
  refine OutKeeps.step h ?_ hs
  dsimp only [execAttReturn]
  repeat' first
    | with_reducible first | assumption | exact Keeps.refl _ _
    | (with_reducible apply sub_intro); exact rfl
    | with_reducible apply OutKeeps.next
    | with_reducible apply State_sideWrite_keeps
    | with_reducible apply State_attReturn_keeps
    | with_reducible apply Keeps.foldl
    | intro _
    | with_reducible apply OutKeeps.ite
    | with_reducible apply Keeps.ite
    | split
    | dsimp only

theorem State_attWrite_keeps {m : Nat} {s0 : State} {a0 : State} {a1 : Master} {a2 : Nat} (h : Keeps m s0 a0) (hs : sub 0x1818c1480038 m = true) : Keeps m s0 (State.attWrite a0 a1 a2) := by
  refine h.step ?_ hs
  dsimp only [State.attWrite]
  repeat' first
    | with_reducible first | assumption | exact Keeps.refl _ _
    | (with_reducible apply sub_intro); exact rfl
    | with_reducible apply State_attNew_keeps
    | with_reducible apply State_attReturn_keeps
    | with_reducible apply Keeps.ite
    | split
    | dsimp only

theorem State_bellWrite_keeps {m : Nat} {s0 : State} {a0 : State} {a1 : Nat} {a2 : Bool} {a3 : Nat} (h : Keeps m s0 a0) (hs : sub 0x10000080010 m = true) : Keeps m s0 (State.bellWrite a0 a1 a2 a3) := by
  refine h.step ?_ hs
  dsimp only [State.bellWrite]
  repeat' first
    | with_reducible first | assumption | exact Keeps.refl _ _
    | (with_reducible apply sub_intro); exact rfl
    | with_reducible apply State_raiseIf_keeps
    | with_reducible apply State_setSide_keeps
    | with_reducible apply Keeps.ite
    | split
    | dsimp only

theorem execDoorbellWrite_keeps {m : Nat} {s0 : State} {a0 : Master} {a1 : Nat} {a2 : Word} {a3 : State} (h : Keeps m s0 a3) (hs : sub 0x10000080010 m = true) : OutKeeps m s0 (execDoorbellWrite a0 a1 a2 a3) := by
  refine OutKeeps.step h ?_ hs
  dsimp only [execDoorbellWrite]
  repeat' first
    | with_reducible first | assumption | exact Keeps.refl _ _
    | (with_reducible apply sub_intro); exact rfl
    | with_reducible apply OutKeeps.next
    | with_reducible apply State_sideWrite_keeps
    | with_reducible apply State_bellWrite_keeps
    | with_reducible apply Keeps.foldl
    | intro _
    | with_reducible apply OutKeeps.ite
    | with_reducible apply Keeps.ite
    | split
    | dsimp only

theorem State_bellRead_keeps {m : Nat} {s0 : State} {a0 : State} {a1 : Nat} {a2 : Bool} (h : Keeps m s0 a0) (hs : sub 0x10000000004 m = true) : Keeps m s0 (State.bellRead a0 a1 a2) := by
  refine h.step ?_ hs
  dsimp only [State.bellRead]
  repeat' first
    | with_reducible first | assumption | exact Keeps.refl _ _
    | (with_reducible apply sub_intro); exact rfl
    | with_reducible apply State_answer_keeps
    | with_reducible apply State_setSide_keeps
    | with_reducible apply Keeps.ite
    | split
    | dsimp only

theorem execDbInRead_keeps {m : Nat} {s0 : State} {a0 : Master} {a1 : Nat} {a2 : State} (h : Keeps m s0 a2) (hs : sub 0x10000000004 m = true) : OutKeeps m s0 (execDbInRead a0 a1 a2) := by
  refine OutKeeps.step h ?_ hs
  dsimp only [execDbInRead]
  repeat' first
    | with_reducible first | assumption | exact Keeps.refl _ _
    | (with_reducible apply sub_intro); exact rfl
    | with_reducible apply OutKeeps.next
    | with_reducible apply State_bellRead_keeps
    | with_reducible apply State_answer_keeps
    | with_reducible apply OutKeeps.ite
    | with_reducible apply Keeps.ite
    | split
    | dsimp only

theorem State_resetChan_keeps {m : Nat} {s0 : State} {a0 : State} {a1 : Nat} {a2 : Nat} (h : Keeps m s0 a0) (hs : sub 0x10000080010 m = true) : Keeps m s0 (State.resetChan a0 a1 a2) := by
  refine h.step ?_ hs
  dsimp only [State.resetChan]
  repeat' first
    | with_reducible first | assumption | exact Keeps.refl _ _
    | (with_reducible apply sub_intro); exact rfl
    | with_reducible apply State_setSide_keeps
    | with_reducible apply State_cinc_keeps
    | with_reducible apply State_setFlag_keeps
    | with_reducible apply State_setChan_keeps
    | with_reducible apply Keeps.ite
    | split
    | dsimp only

theorem State_resetIdentity_keeps {m : Nat} {s0 : State} {a0 : State} {a1 : Nat} (h : Keeps m s0 a0) (hs : sub 0x10000080030 m = true) : Keeps m s0 (State.resetIdentity a0 a1) := by
  refine h.step ?_ hs
  dsimp only [State.resetIdentity]
  repeat' first
    | with_reducible first | assumption | exact Keeps.refl _ _
    | (with_reducible apply sub_intro); exact rfl
    | with_reducible apply State_resetChan_keeps
    | with_reducible apply State_setBank_keeps
    | with_reducible apply Keeps.foldl
    | intro _
    | with_reducible apply Keeps.ite
    | split
    | dsimp only

end Sys2Proof.Laws
end

