-- ==== Sys2Proof/Laws/Keep/Cplx.lean ====
section
/-! SUPPORT. What each definition of Machine/Cplx may change, and that it keeps the canonical form. -/

namespace Sys2Proof.Laws

open Sys2Proof Sys2Proof.Machine

theorem State_doomRings_keeps {m : Nat} {s0 : State} {a0 : State} (h : Keeps m s0 a0) (hs : sub 0x400 m = true) : Keeps m s0 (State.doomRings a0) := by
  refine h.step ?_ hs
  dsimp only [State.doomRings]
  repeat' first
    | with_reducible first | assumption | exact Keeps.refl _ _
    | (with_reducible apply sub_intro); exact rfl
    | with_reducible apply State_setRingx_keeps
    | with_reducible apply Keeps.foldl
    | intro _
    | with_reducible apply Keeps.ite
    | split
    | dsimp only

theorem State_enterState_keeps {m : Nat} {s0 : State} {a0 : State} {a1 : Nat} {a2 : Nat} (h : Keeps m s0 a0) (hs : sub 0x90410 m = true) : Keeps m s0 (State.enterState a0 a1 a2) := by
  refine h.step ?_ hs
  dsimp only [State.enterState]
  repeat' first
    | with_reducible first | assumption | exact Keeps.refl _ _
    | (with_reducible apply sub_intro); exact rfl
    | with_reducible apply State_setCx_keeps
    | with_reducible apply State_rput_keeps
    | with_reducible apply State_setReady_keeps
    | with_reducible apply State_raise_keeps
    | with_reducible apply State_raiseIf_keeps
    | with_reducible apply State_doomRings_keeps
    | with_reducible apply Keeps.ite
    | split
    | dsimp only

theorem State_declareFault_keeps {m : Nat} {s0 : State} {a0 : State} {a1 : Nat} {a2 : Nat} (h : Keeps m s0 a0) (hs : sub 0x10000090430 m = true) : Keeps m s0 (State.declareFault a0 a1 a2) := by
  refine h.step ?_ hs
  dsimp only [State.declareFault]
  repeat' first
    | with_reducible first | assumption | exact Keeps.refl _ _
    | (with_reducible apply sub_intro); exact rfl
    | with_reducible apply State_pput_keeps
    | with_reducible apply State_rput_keeps
    | with_reducible apply State_enterState_keeps
    | with_reducible apply State_setCx_keeps
    | with_reducible apply State_cinc_keeps
    | with_reducible apply State_raise_keeps
    | with_reducible apply State_resetIdentity_keeps
    | with_reducible apply Keeps.ite
    | split
    | dsimp only

theorem State_cplxOn_keeps {m : Nat} {s0 : State} {a0 : State} {a1 : Nat} (h : Keeps m s0 a0) (hs : sub 0x90410 m = true) : Keeps m s0 (State.cplxOn a0 a1) := by
  refine h.step ?_ hs
  dsimp only [State.cplxOn]
  repeat' first
    | with_reducible first | assumption | exact Keeps.refl _ _
    | (with_reducible apply sub_intro); exact rfl
    | with_reducible apply State_enterState_keeps
    | with_reducible apply Keeps.ite
    | split
    | dsimp only

theorem State_cplxOff_keeps {m : Nat} {s0 : State} {a0 : State} {a1 : Nat} (h : Keeps m s0 a0) (hs : sub 0x90410 m = true) : Keeps m s0 (State.cplxOff a0 a1) := by
  refine h.step ?_ hs
  dsimp only [State.cplxOff]
  repeat' first
    | with_reducible first | assumption | exact Keeps.refl _ _
    | (with_reducible apply sub_intro); exact rfl
    | with_reducible apply State_enterState_keeps
    | with_reducible apply State_setCx_keeps
    | with_reducible apply Keeps.ite
    | split
    | dsimp only

theorem execSelftestDone_keeps {m : Nat} {s0 : State} {a0 : Nat} {a1 : Bool} {a2 : Nat} {a3 : State} (h : Keeps m s0 a3) (hs : sub 0x10000090430 m = true) : OutKeeps m s0 (execSelftestDone a0 a1 a2 a3) := by
  refine OutKeeps.step h ?_ hs
  dsimp only [execSelftestDone]
  repeat' first
    | with_reducible first | assumption | exact Keeps.refl _ _
    | (with_reducible apply sub_intro); exact rfl
    | with_reducible apply OutKeeps.next
    | with_reducible apply State_setCx_keeps
    | with_reducible apply State_winc_keeps
    | with_reducible apply State_rput_keeps
    | with_reducible apply State_cinc_keeps
    | with_reducible apply State_pput_keeps
    | with_reducible apply State_enterState_keeps
    | with_reducible apply State_declareFault_keeps
    | with_reducible apply State_raise_keeps
    | with_reducible apply OutKeeps.ite
    | with_reducible apply Keeps.ite
    | split
    | dsimp only

theorem execSelftestPeriodic_keeps {m : Nat} {s0 : State} {a0 : Nat} {a1 : State} (h : Keeps m s0 a1) (hs : sub 0x10000 m = true) : OutKeeps m s0 (execSelftestPeriodic a0 a1) := by
  refine OutKeeps.step h ?_ hs
  dsimp only [execSelftestPeriodic]
  repeat' first
    | with_reducible first | assumption | exact Keeps.refl _ _
    | (with_reducible apply sub_intro); exact rfl
    | with_reducible apply OutKeeps.next
    | with_reducible apply State_setCx_keeps
    | with_reducible apply OutKeeps.ite
    | with_reducible apply Keeps.ite
    | split
    | dsimp only

theorem execComplexStart_keeps {m : Nat} {s0 : State} {a0 : Nat} {a1 : State} (h : Keeps m s0 a1) (hs : sub 0x10000090430 m = true) : OutKeeps m s0 (execComplexStart a0 a1) := by
  refine OutKeeps.step h ?_ hs
  dsimp only [execComplexStart]
  repeat' first
    | with_reducible first | assumption | exact Keeps.refl _ _
    | (with_reducible apply sub_intro); exact rfl
    | with_reducible apply OutKeeps.next
    | with_reducible apply State_enterState_keeps
    | with_reducible apply State_resetIdentity_keeps
    | with_reducible apply State_setCx_keeps
    | with_reducible apply OutKeeps.ite
    | with_reducible apply Keeps.ite
    | split
    | dsimp only

theorem execImageCopyCheck_keeps {m : Nat} {s0 : State} {a0 : Nat} {a1 : Bool} {a2 : State} (h : Keeps m s0 a2) (hs : sub 0x10000090430 m = true) : OutKeeps m s0 (execImageCopyCheck a0 a1 a2) := by
  refine OutKeeps.step h ?_ hs
  dsimp only [execImageCopyCheck]
  repeat' first
    | with_reducible first | assumption | exact Keeps.refl _ _
    | (with_reducible apply sub_intro); exact rfl
    | with_reducible apply OutKeeps.next
    | with_reducible apply State_setCx_keeps
    | with_reducible apply State_declareFault_keeps
    | with_reducible apply OutKeeps.ite
    | with_reducible apply Keeps.ite
    | split
    | dsimp only

theorem State_selfWrite_keeps {m : Nat} {s0 : State} {a0 : State} {a1 : Nat} {a2 : Nat} (h : Keeps m s0 a0) (hs : sub 0x10000090430 m = true) : Keeps m s0 (State.selfWrite a0 a1 a2) := by
  refine h.step ?_ hs
  dsimp only [State.selfWrite]
  repeat' first
    | with_reducible first | assumption | exact Keeps.refl _ _
    | (with_reducible apply sub_intro); exact rfl
    | with_reducible apply State_setCx_keeps
    | with_reducible apply State_declareFault_keeps
    | with_reducible apply State_enterState_keeps
    | with_reducible apply State_cinc_keeps
    | with_reducible apply Keeps.ite
    | split
    | dsimp only

theorem State_ctlWrite_keeps {m : Nat} {s0 : State} {a0 : State} {a1 : Nat} {a2 : Nat} (h : Keeps m s0 a0) (hs : sub 0x10000090430 m = true) : Keeps m s0 (State.ctlWrite a0 a1 a2) := by
  refine h.step ?_ hs
  dsimp only [State.ctlWrite]
  repeat' first
    | with_reducible first | assumption | exact Keeps.refl _ _
    | (with_reducible apply sub_intro); exact rfl
    | with_reducible apply State_declareFault_keeps
    | with_reducible apply State_enterState_keeps
    | with_reducible apply State_setCx_keeps
    | with_reducible apply Keeps.ite
    | split
    | dsimp only

theorem execPromote_keeps {m : Nat} {s0 : State} {a0 : Master} {a1 : Nat} {a2 : State} (h : Keeps m s0 a2) (hs : sub 0x10000091470 m = true) : OutKeeps m s0 (execPromote a0 a1 a2) := by
  refine OutKeeps.step h ?_ hs
  dsimp only [execPromote]
  repeat' first
    | with_reducible first | assumption | exact Keeps.refl _ _
    | (with_reducible apply sub_intro); exact rfl
    | with_reducible apply OutKeeps.next
    | with_reducible apply State_guardWrite_keeps
    | with_reducible apply State_selfWrite_keeps
    | with_reducible apply Keeps.foldl
    | intro _
    | with_reducible apply OutKeeps.ite
    | with_reducible apply Keeps.ite
    | split
    | dsimp only

theorem execKick_keeps {m : Nat} {s0 : State} {a0 : Master} {a1 : Nat} {a2 : State} (h : Keeps m s0 a2) (hs : sub 0x10000091470 m = true) : OutKeeps m s0 (execKick a0 a1 a2) := by
  refine OutKeeps.step h ?_ hs
  dsimp only [execKick]
  repeat' first
    | with_reducible first | assumption | exact Keeps.refl _ _
    | (with_reducible apply sub_intro); exact rfl
    | with_reducible apply OutKeeps.next
    | with_reducible apply State_guardWrite_keeps
    | with_reducible apply State_selfWrite_keeps
    | with_reducible apply Keeps.foldl
    | intro _
    | with_reducible apply OutKeeps.ite
    | with_reducible apply Keeps.ite
    | split
    | dsimp only

theorem execSelfFault_keeps {m : Nat} {s0 : State} {a0 : Master} {a1 : Nat} {a2 : State} (h : Keeps m s0 a2) (hs : sub 0x10000091470 m = true) : OutKeeps m s0 (execSelfFault a0 a1 a2) := by
  refine OutKeeps.step h ?_ hs
  dsimp only [execSelfFault]
  repeat' first
    | with_reducible first | assumption | exact Keeps.refl _ _
    | (with_reducible apply sub_intro); exact rfl
    | with_reducible apply OutKeeps.next
    | with_reducible apply State_guardWrite_keeps
    | with_reducible apply State_selfWrite_keeps
    | with_reducible apply Keeps.foldl
    | intro _
    | with_reducible apply OutKeeps.ite
    | with_reducible apply Keeps.ite
    | split
    | dsimp only

theorem execForceFault_keeps {m : Nat} {s0 : State} {a0 : Master} {a1 : Nat} {a2 : State} (h : Keeps m s0 a2) (hs : sub 0x10000091470 m = true) : OutKeeps m s0 (execForceFault a0 a1 a2) := by
  refine OutKeeps.step h ?_ hs
  dsimp only [execForceFault]
  repeat' first
    | with_reducible first | assumption | exact Keeps.refl _ _
    | (with_reducible apply sub_intro); exact rfl
    | with_reducible apply OutKeeps.next
    | with_reducible apply State_guardWrite_keeps
    | with_reducible apply State_ctlWrite_keeps
    | with_reducible apply Keeps.foldl
    | intro _
    | with_reducible apply OutKeeps.ite
    | with_reducible apply Keeps.ite
    | split
    | dsimp only

theorem execRestart_keeps {m : Nat} {s0 : State} {a0 : Master} {a1 : Nat} {a2 : State} (h : Keeps m s0 a2) (hs : sub 0x10000091470 m = true) : OutKeeps m s0 (execRestart a0 a1 a2) := by
  refine OutKeeps.step h ?_ hs
  dsimp only [execRestart]
  repeat' first
    | with_reducible first | assumption | exact Keeps.refl _ _
    | (with_reducible apply sub_intro); exact rfl
    | with_reducible apply OutKeeps.next
    | with_reducible apply State_guardWrite_keeps
    | with_reducible apply State_ctlWrite_keeps
    | with_reducible apply Keeps.foldl
    | intro _
    | with_reducible apply OutKeeps.ite
    | with_reducible apply Keeps.ite
    | split
    | dsimp only

theorem execStart_keeps {m : Nat} {s0 : State} {a0 : Master} {a1 : Nat} {a2 : State} (h : Keeps m s0 a2) (hs : sub 0x10000091470 m = true) : OutKeeps m s0 (execStart a0 a1 a2) := by
  refine OutKeeps.step h ?_ hs
  dsimp only [execStart]
  repeat' first
    | with_reducible first | assumption | exact Keeps.refl _ _
    | (with_reducible apply sub_intro); exact rfl
    | with_reducible apply OutKeeps.next
    | with_reducible apply State_guardWrite_keeps
    | with_reducible apply State_ctlWrite_keeps
    | with_reducible apply Keeps.foldl
    | intro _
    | with_reducible apply OutKeeps.ite
    | with_reducible apply Keeps.ite
    | split
    | dsimp only

theorem execBootTimeout_keeps {m : Nat} {s0 : State} {a0 : Nat} {a1 : State} (h : Keeps m s0 a1) (hs : sub 0x10000090430 m = true) : OutKeeps m s0 (execBootTimeout a0 a1) := by
  refine OutKeeps.step h ?_ hs
  dsimp only [execBootTimeout]
  repeat' first
    | with_reducible first | assumption | exact Keeps.refl _ _
    | (with_reducible apply sub_intro); exact rfl
    | with_reducible apply OutKeeps.next
    | with_reducible apply State_declareFault_keeps
    | with_reducible apply OutKeeps.ite
    | with_reducible apply Keeps.ite
    | split
    | dsimp only

theorem execLockstep_keeps {m : Nat} {s0 : State} {a0 : Nat} {a1 : State} (h : Keeps m s0 a1) (hs : sub 0x10000090430 m = true) : OutKeeps m s0 (execLockstep a0 a1) := by
  refine OutKeeps.step h ?_ hs
  dsimp only [execLockstep]
  repeat' first
    | with_reducible first | assumption | exact Keeps.refl _ _
    | (with_reducible apply sub_intro); exact rfl
    | with_reducible apply OutKeeps.next
    | with_reducible apply State_cinc_keeps
    | with_reducible apply State_declareFault_keeps
    | with_reducible apply OutKeeps.ite
    | with_reducible apply Keeps.ite
    | split
    | dsimp only

theorem execComplexEcc_keeps {m : Nat} {s0 : State} {a0 : Nat} {a1 : Bool} {a2 : State} (h : Keeps m s0 a2) (hs : sub 0x10000090430 m = true) : OutKeeps m s0 (execComplexEcc a0 a1 a2) := by
  refine OutKeeps.step h ?_ hs
  dsimp only [execComplexEcc]
  repeat' first
    | with_reducible first | assumption | exact Keeps.refl _ _
    | (with_reducible apply sub_intro); exact rfl
    | with_reducible apply OutKeeps.next
    | with_reducible apply State_raise_keeps
    | with_reducible apply State_cinc_keeps
    | with_reducible apply State_declareFault_keeps
    | with_reducible apply OutKeeps.ite
    | with_reducible apply Keeps.ite
    | split
    | dsimp only

theorem execWatchdog_keeps {m : Nat} {s0 : State} {a0 : Nat} {a1 : State} (h : Keeps m s0 a1) (hs : sub 0x10000090430 m = true) : OutKeeps m s0 (execWatchdog a0 a1) := by
  refine OutKeeps.step h ?_ hs
  dsimp only [execWatchdog]
  repeat' first
    | with_reducible first | assumption | exact Keeps.refl _ _
    | (with_reducible apply sub_intro); exact rfl
    | with_reducible apply OutKeeps.next
    | with_reducible apply State_cinc_keeps
    | with_reducible apply State_declareFault_keeps
    | with_reducible apply OutKeeps.ite
    | with_reducible apply Keeps.ite
    | split
    | dsimp only

theorem execAutoRestart_keeps {m : Nat} {s0 : State} {a0 : Nat} {a1 : State} (h : Keeps m s0 a1) (hs : sub 0x90410 m = true) : OutKeeps m s0 (execAutoRestart a0 a1) := by
  refine OutKeeps.step h ?_ hs
  dsimp only [execAutoRestart]
  repeat' first
    | with_reducible first | assumption | exact Keeps.refl _ _
    | (with_reducible apply sub_intro); exact rfl
    | with_reducible apply OutKeeps.next
    | with_reducible apply State_enterState_keeps
    | with_reducible apply State_setCx_keeps
    | with_reducible apply OutKeeps.ite
    | with_reducible apply Keeps.ite
    | split
    | dsimp only

theorem State_ckptGo_keeps {m : Nat} {s0 : State} {a0 : State} {a1 : Nat} {a2 : List Byte} (h : Keeps m s0 a0) (hs : sub 0x20010 m = true) : Keeps m s0 (State.ckptGo a0 a1 a2) := by
  refine h.step ?_ hs
  dsimp only [State.ckptGo]
  repeat' first
    | with_reducible first | assumption | exact Keeps.refl _ _
    | (with_reducible apply sub_intro); exact rfl
    | with_reducible apply State_rput_keeps
    | with_reducible apply Keeps.ite
    | split
    | dsimp only
    | with_reducible apply Keeps.store

theorem execCkptGo_keeps {m : Nat} {s0 : State} {a0 : Master} {a1 : Nat} {a2 : List Byte} {a3 : State} (h : Keeps m s0 a3) (hs : sub 0xa1070 m = true) : OutKeeps m s0 (execCkptGo a0 a1 a2 a3) := by
  refine OutKeeps.step h ?_ hs
  dsimp only [execCkptGo]
  repeat' first
    | with_reducible first | assumption | exact Keeps.refl _ _
    | (with_reducible apply sub_intro); exact rfl
    | with_reducible apply OutKeeps.next
    | with_reducible apply State_guardWrite_keeps
    | with_reducible apply State_ckptGo_keeps
    | with_reducible apply Keeps.foldl
    | intro _
    | with_reducible apply OutKeeps.ite
    | with_reducible apply Keeps.ite
    | split
    | dsimp only

theorem execCkptRetained_keeps {m : Nat} {s0 : State} {a0 : State} (h : Keeps m s0 a0) (hs : sub 0x30010 m = true) : OutKeeps m s0 (execCkptRetained a0) := by
  refine OutKeeps.step h ?_ hs
  dsimp only [execCkptRetained]
  repeat' first
    | with_reducible first | assumption | exact Keeps.refl _ _
    | (with_reducible apply sub_intro); exact rfl
    | with_reducible apply OutKeeps.next
    | with_reducible apply State_cinc_keeps
    | with_reducible apply State_rput_keeps
    | with_reducible apply State_setCx_keeps
    | with_reducible apply Keeps.foldl
    | intro _
    | with_reducible apply OutKeeps.ite
    | with_reducible apply Keeps.ite
    | split
    | dsimp only
    | with_reducible apply Keeps.store

theorem execCkptLp4xDone_keeps {m : Nat} {s0 : State} {a0 : State} (h : Keeps m s0 a0) (hs : sub 0x20098 m = true) : OutKeeps m s0 (execCkptLp4xDone a0) := by
  refine OutKeeps.step h ?_ hs
  dsimp only [execCkptLp4xDone]
  repeat' first
    | with_reducible first | assumption | exact Keeps.refl _ _
    | (with_reducible apply sub_intro); exact rfl
    | with_reducible apply OutKeeps.next
    | with_reducible apply State_rput_keeps
    | with_reducible apply State_lp4xUse_keeps
    | with_reducible apply State_mwrite_keeps
    | with_reducible apply State_cinc_keeps
    | with_reducible apply OutKeeps.ite
    | with_reducible apply Keeps.ite
    | split
    | dsimp only
    | with_reducible apply Keeps.store

theorem execCkptStale_keeps {m : Nat} {s0 : State} {a0 : State} (h : Keeps m s0 a0) (hs : sub 0xa0010 m = true) : OutKeeps m s0 (execCkptStale a0) := by
  refine OutKeeps.step h ?_ hs
  dsimp only [execCkptStale]
  repeat' first
    | with_reducible first | assumption | exact Keeps.refl _ _
    | (with_reducible apply sub_intro); exact rfl
    | with_reducible apply OutKeeps.next
    | with_reducible apply State_raise_keeps
    | with_reducible apply OutKeeps.ite
    | with_reducible apply Keeps.ite
    | split
    | dsimp only
    | with_reducible apply Keeps.store

theorem execCheckpointRestore_keeps {m : Nat} {s0 : State} {a0 : Nat} {a1 : Bool} {a2 : State} (h : Keeps m s0 a2) (hs : sub 0x90018 m = true) : OutKeeps m s0 (execCheckpointRestore a0 a1 a2) := by
  refine OutKeeps.step h ?_ hs
  dsimp only [execCheckpointRestore]
  repeat' first
    | with_reducible first | assumption | exact Keeps.refl _ _
    | (with_reducible apply sub_intro); exact rfl
    | with_reducible apply OutKeeps.next
    | with_reducible apply State_setCx_keeps
    | with_reducible apply State_rput_keeps
    | with_reducible apply State_lp4xEcc_keeps
    | with_reducible apply State_lp4xUse_keeps
    | with_reducible apply OutKeeps.ite
    | with_reducible apply Keeps.ite
    | split
    | dsimp only

theorem State_imgBegin_keeps {m : Nat} {s0 : State} {a0 : State} {a1 : Nat} {a2 : Nat} (h : Keeps m s0 a0) (hs : sub 0x20010 m = true) : Keeps m s0 (State.imgBegin a0 a1 a2) := by
  refine h.step ?_ hs
  dsimp only [State.imgBegin]
  repeat' first
    | with_reducible first | assumption | exact Keeps.refl _ _
    | (with_reducible apply sub_intro); exact rfl
    | with_reducible apply State_rput_keeps
    | with_reducible apply Keeps.ite
    | split
    | dsimp only
    | with_reducible apply Keeps.store

theorem State_imgEnd_keeps {m : Nat} {s0 : State} {a0 : State} {a1 : Bool} {a2 : Nat} (h : Keeps m s0 a0) (hs : sub 0xa0010 m = true) : Keeps m s0 (State.imgEnd a0 a1 a2) := by
  refine h.step ?_ hs
  dsimp only [State.imgEnd]
  repeat' first
    | with_reducible first | assumption | exact Keeps.refl _ _
    | (with_reducible apply sub_intro); exact rfl
    | with_reducible apply State_rput_keeps
    | with_reducible apply State_raiseIf_keeps
    | with_reducible apply Keeps.ite
    | split
    | dsimp only
    | with_reducible apply Keeps.store

theorem execImgGo_keeps {m : Nat} {s0 : State} {a0 : Master} {a1 : Nat} {a2 : State} (h : Keeps m s0 a2) (hs : sub 0xa1070 m = true) : OutKeeps m s0 (execImgGo a0 a1 a2) := by
  refine OutKeeps.step h ?_ hs
  dsimp only [execImgGo]
  repeat' first
    | with_reducible first | assumption | exact Keeps.refl _ _
    | (with_reducible apply sub_intro); exact rfl
    | with_reducible apply OutKeeps.next
    | with_reducible apply State_guardWrite_keeps
    | with_reducible apply State_imgBegin_keeps
    | with_reducible apply Keeps.foldl
    | intro _
    | with_reducible apply OutKeeps.ite
    | with_reducible apply Keeps.ite
    | split
    | dsimp only

theorem execImageLoadDone_keeps {m : Nat} {s0 : State} {a0 : Bool} {a1 : Bool} {a2 : Word} {a3 : State} (h : Keeps m s0 a3) (hs : sub 0xa0010 m = true) : OutKeeps m s0 (execImageLoadDone a0 a1 a2 a3) := by
  refine OutKeeps.step h ?_ hs
  dsimp only [execImageLoadDone]
  repeat' first
    | with_reducible first | assumption | exact Keeps.refl _ _
    | (with_reducible apply sub_intro); exact rfl
    | with_reducible apply OutKeeps.next
    | with_reducible apply State_imgEnd_keeps
    | with_reducible apply OutKeeps.ite
    | with_reducible apply Keeps.ite
    | split
    | dsimp only
    | with_reducible apply Keeps.store

end Sys2Proof.Laws
end

