-- ==== Sys2Proof/Laws/Keep/Meridian.lean ====
section
/-! SUPPORT. What each definition of Machine/Meridian may change, and that it keeps the canonical form. -/

namespace Sys2Proof.Laws

open Sys2Proof Sys2Proof.Machine

theorem State_setTime_keeps {m : Nat} {s0 : State} {a0 : State} {a1 : Int} (h : Keeps m s0 a0) (hs : sub 0x40000 m = true) : Keeps m s0 (State.setTime a0 a1) := by
  refine h.step ?_ hs
  dsimp only [State.setTime]
  repeat' first
    | with_reducible first | assumption | exact Keeps.refl _ _
    | (with_reducible apply sub_intro); exact rfl
    | with_reducible apply Keeps.ite
    | split
    | dsimp only
    | with_reducible apply Keeps.mer

theorem State_meridTick_keeps {m : Nat} {s0 : State} {a0 : State} (h : Keeps m s0 a0) (hs : sub 0x40010 m = true) : Keeps m s0 (State.meridTick a0) := by
  refine h.step ?_ hs
  dsimp only [State.meridTick]
  repeat' first
    | with_reducible first | assumption | exact Keeps.refl _ _
    | (with_reducible apply sub_intro); exact rfl
    | with_reducible apply State_rput_keeps
    | with_reducible apply Keeps.ite
    | split
    | dsimp only
    | with_reducible apply Keeps.mer

theorem State_noteStep_keeps {m : Nat} {s0 : State} {a0 : State} {a1 : Int} (h : Keeps m s0 a0) (hs : sub 0x80010 m = true) : Keeps m s0 (State.noteStep a0 a1) := by
  refine h.step ?_ hs
  dsimp only [State.noteStep]
  repeat' first
    | with_reducible first | assumption | exact Keeps.refl _ _
    | (with_reducible apply sub_intro); exact rfl
    | with_reducible apply State_raise_keeps
    | with_reducible apply State_cinc_keeps
    | with_reducible apply State_pput_keeps
    | with_reducible apply Keeps.ite
    | split
    | dsimp only

theorem State_applySet_keeps {m : Nat} {s0 : State} {a0 : State} {a1 : TimeChange} (h : Keeps m s0 a0) (hs : sub 0x8000c0690 m = true) : Keeps m s0 (State.applySet a0 a1) := by
  refine h.step ?_ hs
  dsimp only [State.applySet]
  repeat' first
    | with_reducible first | assumption | exact Keeps.refl _ _
    | (with_reducible apply sub_intro); exact rfl
    | with_reducible apply State_endWait_keeps
    | with_reducible apply State_raise_keeps
    | with_reducible apply State_cinc_keeps
    | with_reducible apply State_noteStep_keeps
    | with_reducible apply State_rput_keeps
    | with_reducible apply State_setTime_keeps
    | with_reducible apply Keeps.ite
    | split
    | dsimp only

theorem State_applyStep_keeps {m : Nat} {s0 : State} {a0 : State} {a1 : TimeChange} (h : Keeps m s0 a0) (hs : sub 0x8000c0690 m = true) : Keeps m s0 (State.applyStep a0 a1) := by
  refine h.step ?_ hs
  dsimp only [State.applyStep]
  repeat' first
    | with_reducible first | assumption | exact Keeps.refl _ _
    | (with_reducible apply sub_intro); exact rfl
    | with_reducible apply State_endWait_keeps
    | with_reducible apply State_noteStep_keeps
    | with_reducible apply State_setTime_keeps
    | with_reducible apply Keeps.ite
    | split
    | dsimp only

theorem execTimeChangeApply_keeps {m : Nat} {s0 : State} {a0 : State} (h : Keeps m s0 a0) (hs : sub 0x8000c0690 m = true) : OutKeeps m s0 (execTimeChangeApply a0) := by
  refine OutKeeps.step h ?_ hs
  dsimp only [execTimeChangeApply]
  repeat' first
    | with_reducible first | assumption | exact Keeps.refl _ _
    | (with_reducible apply sub_intro); exact rfl
    | with_reducible apply OutKeeps.next
    | with_reducible apply State_applySet_keeps
    | with_reducible apply State_applyStep_keeps
    | with_reducible apply State_endWait_keeps
    | with_reducible apply OutKeeps.ite
    | with_reducible apply Keeps.ite
    | split
    | dsimp only
    | with_reducible apply Keeps.mer

theorem State_nowFracRead_keeps {m : Nat} {s0 : State} {a0 : State} {a1 : Master} (h : Keeps m s0 a0) (hs : sub 0x24 m = true) : Keeps m s0 (State.nowFracRead a0 a1) := by
  refine h.step ?_ hs
  dsimp only [State.nowFracRead]
  repeat' first
    | with_reducible first | assumption | exact Keeps.refl _ _
    | (with_reducible apply sub_intro); exact rfl
    | with_reducible apply State_answer_keeps
    | with_reducible apply State_setBank_keeps
    | with_reducible apply Keeps.ite
    | split
    | dsimp only

theorem execNowFracRead_keeps {m : Nat} {s0 : State} {a0 : Master} {a1 : State} (h : Keeps m s0 a1) (hs : sub 0x24 m = true) : OutKeeps m s0 (execNowFracRead a0 a1) := by
  refine OutKeeps.step h ?_ hs
  dsimp only [execNowFracRead]
  repeat' first
    | with_reducible first | assumption | exact Keeps.refl _ _
    | (with_reducible apply sub_intro); exact rfl
    | with_reducible apply OutKeeps.next
    | with_reducible apply State_nowFracRead_keeps
    | with_reducible apply OutKeeps.ite
    | with_reducible apply Keeps.ite
    | split
    | dsimp only

theorem State_tsPop_keeps {m : Nat} {s0 : State} {a0 : State} {a1 : Master} (h : Keeps m s0 a0) (hs : sub 0x40034 m = true) : Keeps m s0 (State.tsPop a0 a1) := by
  refine h.step ?_ hs
  dsimp only [State.tsPop]
  repeat' first
    | with_reducible first | assumption | exact Keeps.refl _ _
    | (with_reducible apply sub_intro); exact rfl
    | with_reducible apply State_answer_keeps
    | with_reducible apply State_setBank_keeps
    | with_reducible apply State_rput_keeps
    | with_reducible apply Keeps.foldl
    | intro _
    | with_reducible apply Keeps.ite
    | split
    | dsimp only
    | with_reducible apply Keeps.mer

theorem execTsPop_keeps {m : Nat} {s0 : State} {a0 : Master} {a1 : State} (h : Keeps m s0 a1) (hs : sub 0x40034 m = true) : OutKeeps m s0 (execTsPop a0 a1) := by
  refine OutKeeps.step h ?_ hs
  dsimp only [execTsPop]
  repeat' first
    | with_reducible first | assumption | exact Keeps.refl _ _
    | (with_reducible apply sub_intro); exact rfl
    | with_reducible apply OutKeeps.next
    | with_reducible apply State_tsPop_keeps
    | with_reducible apply OutKeeps.ite
    | with_reducible apply Keeps.ite
    | split
    | dsimp only

theorem State_tsCapture_keeps {m : Nat} {s0 : State} {a0 : State} {a1 : Nat} {a2 : Nat} {a3 : Nat} {a4 : Nat} {a5 : Nat} {a6 : Nat} (h : Keeps m s0 a0) (hs : sub 0xc0010 m = true) : Keeps m s0 (State.tsCapture a0 a1 a2 a3 a4 a5 a6) := by
  refine h.step ?_ hs
  dsimp only [State.tsCapture]
  repeat' first
    | with_reducible first | assumption | exact Keeps.refl _ _
    | (with_reducible apply sub_intro); exact rfl
    | with_reducible apply State_raise_keeps
    | with_reducible apply State_cinc_keeps
    | with_reducible apply State_rput_keeps
    | with_reducible apply State_raiseIf_keeps
    | with_reducible apply Keeps.ite
    | split
    | dsimp only
    | with_reducible apply Keeps.mer

theorem State_ppsEnable_keeps {m : Nat} {s0 : State} {a0 : State} (h : Keeps m s0 a0) (hs : sub 0x40000 m = true) : Keeps m s0 (State.ppsEnable a0) := by
  refine h.step ?_ hs
  dsimp only [State.ppsEnable]
  repeat' first
    | with_reducible first | assumption | exact Keeps.refl _ _
    | (with_reducible apply sub_intro); exact rfl
    | with_reducible apply Keeps.ite
    | split
    | dsimp only
    | with_reducible apply Keeps.mer

theorem execPpsOutPulse_keeps {m : Nat} {s0 : State} {a0 : State} (h : Keeps m s0 a0) (hs : sub 0x40000 m = true) : OutKeeps m s0 (execPpsOutPulse a0) := by
  refine OutKeeps.step h ?_ hs
  dsimp only [execPpsOutPulse]
  repeat' first
    | with_reducible first | assumption | exact Keeps.refl _ _
    | (with_reducible apply sub_intro); exact rfl
    | with_reducible apply OutKeeps.next
    | with_reducible apply OutKeeps.ite
    | with_reducible apply Keeps.ite
    | split
    | dsimp only
    | with_reducible apply Keeps.mer

theorem execPpsIn_keeps {m : Nat} {s0 : State} {a0 : Bool} {a1 : State} (h : Keeps m s0 a1) (hs : sub 0xc0010 m = true) : OutKeeps m s0 (execPpsIn a0 a1) := by
  refine OutKeeps.step h ?_ hs
  dsimp only [execPpsIn]
  repeat' first
    | with_reducible first | assumption | exact Keeps.refl _ _
    | (with_reducible apply sub_intro); exact rfl
    | with_reducible apply OutKeeps.next
    | with_reducible apply State_rput_keeps
    | with_reducible apply State_pput_keeps
    | with_reducible apply State_raise_keeps
    | with_reducible apply State_cinc_keeps
    | with_reducible apply OutKeeps.ite
    | with_reducible apply Keeps.ite
    | split
    | dsimp only
    | with_reducible apply Keeps.mer

theorem execPpsLoss_keeps {m : Nat} {s0 : State} {a0 : State} (h : Keeps m s0 a0) (hs : sub 0xc0010 m = true) : OutKeeps m s0 (execPpsLoss a0) := by
  refine OutKeeps.step h ?_ hs
  dsimp only [execPpsLoss]
  repeat' first
    | with_reducible first | assumption | exact Keeps.refl _ _
    | (with_reducible apply sub_intro); exact rfl
    | with_reducible apply OutKeeps.next
    | with_reducible apply State_raise_keeps
    | with_reducible apply OutKeeps.ite
    | with_reducible apply Keeps.ite
    | split
    | dsimp only
    | with_reducible apply Keeps.mer

theorem execCap_keeps {m : Nat} {s0 : State} {a0 : Nat} {a1 : Bool} {a2 : State} (h : Keeps m s0 a2) (hs : sub 0x80010 m = true) : OutKeeps m s0 (execCap a0 a1 a2) := by
  refine OutKeeps.step h ?_ hs
  dsimp only [execCap]
  repeat' first
    | with_reducible first | assumption | exact Keeps.refl _ _
    | (with_reducible apply sub_intro); exact rfl
    | with_reducible apply OutKeeps.next
    | with_reducible apply State_cinc_keeps
    | with_reducible apply State_raise_keeps
    | with_reducible apply State_rput_keeps
    | with_reducible apply State_pput_keeps
    | with_reducible apply OutKeeps.ite
    | with_reducible apply Keeps.ite
    | split
    | dsimp only

theorem State_setTrg_keeps {m : Nat} {s0 : State} {a0 : State} {a1 : Nat} {a2 : TrigX} (h : Keeps m s0 a0) (hs : sub 0x40000 m = true) : Keeps m s0 (State.setTrg a0 a1 a2) := by
  refine h.step ?_ hs
  dsimp only [State.setTrg]
  repeat' first
    | with_reducible first | assumption | exact Keeps.refl _ _
    | (with_reducible apply sub_intro); exact rfl
    | with_reducible apply Keeps.ite
    | split
    | dsimp only
    | with_reducible apply Keeps.mer

theorem State_trigArm_keeps {m : Nat} {s0 : State} {a0 : State} {a1 : Nat} {a2 : Nat} {a3 : Nat} (h : Keeps m s0 a0) (hs : sub 0x40010 m = true) : Keeps m s0 (State.trigArm a0 a1 a2 a3) := by
  refine h.step ?_ hs
  dsimp only [State.trigArm]
  repeat' first
    | with_reducible first | assumption | exact Keeps.refl _ _
    | (with_reducible apply sub_intro); exact rfl
    | with_reducible apply State_pput_keeps
    | with_reducible apply State_rput_keeps
    | with_reducible apply State_setTrg_keeps
    | with_reducible apply Keeps.ite
    | split
    | dsimp only

theorem State_trigDisarm_keeps {m : Nat} {s0 : State} {a0 : State} {a1 : Nat} (h : Keeps m s0 a0) (hs : sub 0x10 m = true) : Keeps m s0 (State.trigDisarm a0 a1) := by
  refine h.step ?_ hs
  dsimp only [State.trigDisarm]
  repeat' first
    | with_reducible first | assumption | exact Keeps.refl _ _
    | (with_reducible apply sub_intro); exact rfl
    | with_reducible apply State_pput_keeps
    | with_reducible apply State_rput_keeps
    | with_reducible apply Keeps.ite
    | split
    | dsimp only

theorem execTrig_keeps {m : Nat} {s0 : State} {a0 : Nat} {a1 : State} (h : Keeps m s0 a1) (hs : sub 0xc0010 m = true) : OutKeeps m s0 (execTrig a0 a1) := by
  refine OutKeeps.step h ?_ hs
  dsimp only [execTrig]
  repeat' first
    | with_reducible first | assumption | exact Keeps.refl _ _
    | (with_reducible apply sub_intro); exact rfl
    | with_reducible apply OutKeeps.next
    | with_reducible apply State_setTrg_keeps
    | with_reducible apply State_cinc_keeps
    | with_reducible apply State_raise_keeps
    | with_reducible apply State_trigDisarm_keeps
    | with_reducible apply State_pput_keeps
    | with_reducible apply OutKeeps.ite
    | with_reducible apply Keeps.ite
    | split
    | dsimp only

theorem execTodRx_keeps {m : Nat} {s0 : State} {a0 : Byte} {a1 : Bool} {a2 : State} (h : Keeps m s0 a2) (hs : sub 0x80010 m = true) : OutKeeps m s0 (execTodRx a0 a1 a2) := by
  refine OutKeeps.step h ?_ hs
  dsimp only [execTodRx]
  repeat' first
    | with_reducible first | assumption | exact Keeps.refl _ _
    | (with_reducible apply sub_intro); exact rfl
    | with_reducible apply OutKeeps.next
    | with_reducible apply State_rput_keeps
    | with_reducible apply State_raiseIf_keeps
    | with_reducible apply State_cinc_keeps
    | with_reducible apply OutKeeps.ite
    | with_reducible apply Keeps.ite
    | split
    | dsimp only

theorem State_todArm_keeps {m : Nat} {s0 : State} {a0 : State} (h : Keeps m s0 a0) (hs : sub 0x40010 m = true) : Keeps m s0 (State.todArm a0) := by
  refine h.step ?_ hs
  dsimp only [State.todArm]
  repeat' first
    | with_reducible first | assumption | exact Keeps.refl _ _
    | (with_reducible apply sub_intro); exact rfl
    | with_reducible apply State_rput_keeps
    | with_reducible apply Keeps.ite
    | split
    | dsimp only
    | with_reducible apply Keeps.mer

theorem execTxArm_keeps {m : Nat} {s0 : State} {a0 : Master} {a1 : Word} {a2 : State} (h : Keeps m s0 a2) (hs : sub 0xc1070 m = true) : OutKeeps m s0 (execTxArm a0 a1 a2) := by
  refine OutKeeps.step h ?_ hs
  dsimp only [execTxArm]
  repeat' first
    | with_reducible first | assumption | exact Keeps.refl _ _
    | (with_reducible apply sub_intro); exact rfl
    | with_reducible apply OutKeeps.next
    | with_reducible apply State_guardWrite_keeps
    | with_reducible apply State_todArm_keeps
    | with_reducible apply Keeps.foldl
    | intro _
    | with_reducible apply OutKeeps.ite
    | with_reducible apply Keeps.ite
    | split
    | dsimp only

theorem execTodTxStart_keeps {m : Nat} {s0 : State} {a0 : State} (h : Keeps m s0 a0) (hs : sub 0x40000 m = true) : OutKeeps m s0 (execTodTxStart a0) := by
  refine OutKeeps.step h ?_ hs
  dsimp only [execTodTxStart]
  repeat' first
    | with_reducible first | assumption | exact Keeps.refl _ _
    | (with_reducible apply sub_intro); exact rfl
    | with_reducible apply OutKeeps.next
    | with_reducible apply OutKeeps.ite
    | with_reducible apply Keeps.ite
    | split
    | dsimp only
    | with_reducible apply Keeps.mer

theorem execTodTxDone_keeps {m : Nat} {s0 : State} {a0 : State} (h : Keeps m s0 a0) (hs : sub 0xc0010 m = true) : OutKeeps m s0 (execTodTxDone a0) := by
  refine OutKeeps.step h ?_ hs
  dsimp only [execTodTxDone]
  repeat' first
    | with_reducible first | assumption | exact Keeps.refl _ _
    | (with_reducible apply sub_intro); exact rfl
    | with_reducible apply OutKeeps.next
    | with_reducible apply State_raise_keeps
    | with_reducible apply State_rput_keeps
    | with_reducible apply OutKeeps.ite
    | with_reducible apply Keeps.ite
    | split
    | dsimp only
    | with_reducible apply Keeps.mer

end Sys2Proof.Laws
end

