-- ==== Sys2Proof/Laws/Keep/TableOps.lean ====
section
/-! SUPPORT. What each definition of Machine/TableOps may change, and that it keeps the canonical form. -/

namespace Sys2Proof.Laws

open Sys2Proof Sys2Proof.Machine

theorem State_setTab_keeps {m : Nat} {s0 : State} {a0 : State} {a1 : Nat} {a2 : Nat} {a3 : Nat} {a4 : Nat} (h : Keeps m s0 a0) (hs : sub 0x100 m = true) : Keeps m s0 (State.setTab a0 a1 a2 a3 a4) := by
  refine h.step ?_ hs
  dsimp only [State.setTab]
  repeat' first
    | with_reducible first | assumption | exact Keeps.refl _ _
    | (with_reducible apply sub_intro); exact rfl
    | with_reducible exact State.Canonical.tabs (by assumption)
    | with_reducible apply swf_sset
    | with_reducible apply swf_smap
    | with_reducible apply swf_sfilter
    | with_reducible apply swf_sdel
    | with_reducible exact swf_nil
    | with_reducible apply swf_foldl
    | with_reducible apply Keeps.foldl
    | intro _
    | with_reducible apply Keeps.ite
    | split
    | dsimp only
    | with_reducible apply Keeps.tabs

theorem State_setOverflow_keeps {m : Nat} {s0 : State} {a0 : State} {a1 : Nat} {a2 : Nat} (h : Keeps m s0 a0) (hs : sub 0x200000000 m = true) : Keeps m s0 (State.setOverflow a0 a1 a2) := by
  refine h.step ?_ hs
  dsimp only [State.setOverflow]
  repeat' first
    | with_reducible first | assumption | exact Keeps.refl _ _
    | (with_reducible apply sub_intro); exact rfl
    | with_reducible apply Keeps.ite
    | split
    | dsimp only
    | with_reducible apply Keeps.fwd

theorem State_unpoison_keeps {m : Nat} {s0 : State} {a0 : State} {a1 : Nat} {a2 : Nat} {a3 : Nat} (h : Keeps m s0 a0) (hs : sub 0x2000000000 m = true) : Keeps m s0 (State.unpoison a0 a1 a2 a3) := by
  refine h.step ?_ hs
  dsimp only [State.unpoison]
  repeat' first
    | with_reducible first | assumption | exact Keeps.refl _ _
    | (with_reducible apply sub_intro); exact rfl
    | with_reducible apply Keeps.ite
    | split
    | dsimp only
    | with_reducible apply Keeps.poison

theorem State_countAddr_keeps {m : Nat} {s0 : State} {a0 : State} {a1 : Nat} {a2 : Nat} {a3 : Bool} (h : Keeps m s0 a0) (hs : sub 0x200000010 m = true) : Keeps m s0 (State.countAddr a0 a1 a2 a3) := by
  refine h.step ?_ hs
  dsimp only [State.countAddr]
  repeat' first
    | with_reducible first | assumption | exact Keeps.refl _ _
    | (with_reducible apply sub_intro); exact rfl
    | with_reducible apply State_radd_keeps
    | with_reducible apply State_rsub_keeps
    | with_reducible apply State_setOverflow_keeps
    | with_reducible apply Keeps.ite
    | split
    | dsimp only

theorem State_setAddr_keeps {m : Nat} {s0 : State} {a0 : State} {a1 : Nat} {a2 : Nat} (h : Keeps m s0 a0) (hs : sub 0x2200000110 m = true) : Keeps m s0 (State.setAddr a0 a1 a2) := by
  refine h.step ?_ hs
  dsimp only [State.setAddr]
  repeat' first
    | with_reducible first | assumption | exact Keeps.refl _ _
    | (with_reducible apply sub_intro); exact rfl
    | with_reducible apply State_unpoison_keeps
    | with_reducible apply State_setTab_keeps
    | with_reducible apply State_countAddr_keeps
    | with_reducible apply Keeps.ite
    | split
    | dsimp only

end Sys2Proof.Laws
end

