-- ==== Sys2Proof/Laws/Keep/Classify.lean ====
section
/-! SUPPORT. What each definition of Machine/Classify may change, and that it keeps the canonical form. -/

namespace Sys2Proof.Laws

open Sys2Proof Sys2Proof.Machine

theorem State_capture_keeps {m : Nat} {s0 : State} {a0 : State} {a1 : Nat} {a2 : Nat} (h : Keeps m s0 a0) (hs : sub 0x800400000 m = true) : Keeps m s0 (State.capture a0 a1 a2) := by
  refine h.step ?_ hs
  dsimp only [State.capture]
  repeat' first
    | with_reducible first | assumption | exact Keeps.refl _ _
    | (with_reducible apply sub_intro); exact rfl
    | with_reducible apply State_setFr_keeps
    | with_reducible apply State_setInflight_keeps
    | with_reducible apply Keeps.ite
    | split
    | dsimp only

theorem State_legendWalk_keeps {m : Nat} {s0 : State} {a0 : State} {a1 : Nat} (h : Keeps m s0 a0) (hs : sub 0x80110 m = true) : Keeps m s0 (State.legendWalk a0 a1).1 := by
  refine h.step ?_ hs
  dsimp only [State.legendWalk]
  repeat' first
    | with_reducible first | assumption | exact Keeps.refl _ _
    | (with_reducible apply sub_intro); exact rfl
    | with_reducible apply State_cinc_keeps
    | with_reducible apply State_setTab_keeps
    | with_reducible apply State_raiseIf_keeps
    | with_reducible apply Keeps.ite
    | with_reducible apply Keeps.iteFst
    | split
    | dsimp only

end Sys2Proof.Laws
end

