-- ==== Sys2Proof/Laws/Keep/Counters.lean ====
section
/-! SUPPORT. What each definition of Machine/Counters may change, and that it keeps the canonical form. -/

namespace Sys2Proof.Laws

open Sys2Proof Sys2Proof.Machine

theorem State_ctrClear_keeps {m : Nat} {s0 : State} {a0 : State} {a1 : CtrRef} (h : Keeps m s0 a0) (hs : sub 0x20000000010 m = true) : Keeps m s0 (State.ctrClear a0 a1) := by
  refine h.step ?_ hs
  dsimp only [State.ctrClear]
  repeat' first
    | with_reducible first | assumption | exact Keeps.refl _ _
    | (with_reducible apply sub_intro); exact rfl
    | with_reducible apply State_pput_keeps
    | with_reducible exact State.Canonical.ruleCnt (by assumption)
    | with_reducible apply swf_sset
    | with_reducible apply swf_smap
    | with_reducible apply swf_sfilter
    | with_reducible apply swf_sdel
    | with_reducible exact swf_nil
    | with_reducible apply swf_foldl
    | with_reducible apply Keeps.foldl
    | intro _
    | with_reducible apply Keeps.ite
    | split
    | dsimp only
    | with_reducible apply Keeps.ruleCnt

theorem State_ruleAdd_keeps {m : Nat} {s0 : State} {a0 : State} {a1 : Nat} {a2 : Nat} (h : Keeps m s0 a0) (hs : sub 0x20000000000 m = true) : Keeps m s0 (State.ruleAdd a0 a1 a2) := by
  refine h.step ?_ hs
  dsimp only [State.ruleAdd]
  repeat' first
    | with_reducible first | assumption | exact Keeps.refl _ _
    | (with_reducible apply sub_intro); exact rfl
    | with_reducible exact State.Canonical.ruleCnt (by assumption)
    | with_reducible apply swf_sset
    | with_reducible apply swf_smap
    | with_reducible apply swf_sfilter
    | with_reducible apply swf_sdel
    | with_reducible exact swf_nil
    | with_reducible apply swf_foldl
    | with_reducible apply Keeps.foldl
    | intro _
    | with_reducible apply Keeps.ite
    | split
    | dsimp only
    | with_reducible apply Keeps.ruleCnt

end Sys2Proof.Laws
end

