-- ==== Sys2Proof/Laws/Keep/Survey.lean ====
section
/-! SUPPORT. What each definition of Machine/Survey may change, and that it keeps the canonical form. -/

namespace Sys2Proof.Laws

open Sys2Proof Sys2Proof.Machine

theorem State_setSv_keeps {m : Nat} {s0 : State} {a0 : State} {a1 : Nat} {a2 : SurveyX} (h : Keeps m s0 a0) (hs : sub 0x400000000 m = true) : Keeps m s0 (State.setSv a0 a1 a2) := by
  refine h.step ?_ hs
  dsimp only [State.setSv]
  repeat' first
    | with_reducible first | assumption | exact Keeps.refl _ _
    | (with_reducible apply sub_intro); exact rfl
    | with_reducible exact State.Canonical.surveys (by assumption)
    | with_reducible apply swf_sset
    | with_reducible apply swf_smap
    | with_reducible apply swf_sfilter
    | with_reducible apply swf_sdel
    | with_reducible exact swf_nil
    | with_reducible apply swf_foldl
    | with_reducible apply Keeps.foldl
    | intro _
    | with_reducible apply Keeps.ite
    | split
    | dsimp only
    | with_reducible apply Keeps.surveys

theorem State_loadShadow_keeps {m : Nat} {s0 : State} {a0 : State} {a1 : Nat} {a2 : List Nat} (h : Keeps m s0 a0) (hs : sub 0x400000010 m = true) : Keeps m s0 (State.loadShadow a0 a1 a2) := by
  refine h.step ?_ hs
  dsimp only [State.loadShadow]
  repeat' first
    | with_reducible first | assumption | exact Keeps.refl _ _
    | (with_reducible apply sub_intro); exact rfl
    | with_reducible apply State_rput_keeps
    | with_reducible apply State_setSv_keeps
    | with_reducible apply Keeps.ite
    | split
    | dsimp only

theorem State_progSwitch_keeps {m : Nat} {s0 : State} {a0 : State} {a1 : Nat} (h : Keeps m s0 a0) (hs : sub 0x400080010 m = true) : Keeps m s0 (State.progSwitch a0 a1) := by
  refine h.step ?_ hs
  dsimp only [State.progSwitch]
  repeat' first
    | with_reducible first | assumption | exact Keeps.refl _ _
    | (with_reducible apply sub_intro); exact rfl
    | with_reducible apply State_setSv_keeps
    | with_reducible apply State_rput_keeps
    | with_reducible apply State_raise_keeps
    | with_reducible apply State_cinc_keeps
    | with_reducible apply Keeps.ite
    | split
    | dsimp only

theorem State_loadSupplied_keeps {m : Nat} {s0 : State} {a0 : State} {a1 : Nat} (h : Keeps m s0 a0) (hs : sub 0x400000010 m = true) : Keeps m s0 (State.loadSupplied a0 a1) := by
  refine h.step ?_ hs
  dsimp only [State.loadSupplied]
  repeat' first
    | with_reducible first | assumption | exact Keeps.refl _ _
    | (with_reducible apply sub_intro); exact rfl
    | with_reducible apply State_rput_keeps
    | with_reducible apply State_setSv_keeps
    | with_reducible apply Keeps.ite
    | split
    | dsimp only

end Sys2Proof.Laws
end

