-- ==== Sys2Proof/Laws/Keep/Forward.lean ====
section
/-! SUPPORT. What each definition of Machine/Forward may change, and that it keeps the canonical form. -/

namespace Sys2Proof.Laws

open Sys2Proof Sys2Proof.Machine

theorem State_discard_keeps {m : Nat} {s0 : State} {a0 : State} {a1 : Nat} (h : Keeps m s0 a0) (hs : sub 0x181800480010 m = true) : Keeps m s0 (State.discard a0 a1) := by
  refine h.step ?_ hs
  dsimp only [State.discard]
  repeat' first
    | with_reducible first | assumption | exact Keeps.refl _ _
    | (with_reducible apply sub_intro); exact rfl
    | with_reducible apply State_setFate_keeps
    | with_reducible apply State_uncount_keeps
    | with_reducible apply State_reap_keeps
    | with_reducible apply State_setFr_keeps
    | with_reducible apply Keeps.ite
    | split
    | dsimp only

theorem State_learnToken_keeps {m : Nat} {s0 : State} {a0 : State} {a1 : Nat} (h : Keeps m s0 a0) (hs : sub 0x200000000 m = true) : Keeps m s0 (State.learnToken a0 a1).1 := by
  refine h.step ?_ hs
  dsimp only [State.learnToken]
  repeat' first
    | with_reducible first | assumption | exact Keeps.refl _ _
    | (with_reducible apply sub_intro); exact rfl
    | with_reducible apply Keeps.ite
    | with_reducible apply Keeps.iteFst
    | split
    | dsimp only
    | with_reducible apply Keeps.fwd

theorem State_queueLearn_keeps {m : Nat} {s0 : State} {a0 : State} {a1 : LearnW} (h : Keeps m s0 a0) (hs : sub 0x200000000 m = true) : Keeps m s0 (State.queueLearn a0 a1) := by
  refine h.step ?_ hs
  dsimp only [State.queueLearn]
  repeat' first
    | with_reducible first | assumption | exact Keeps.refl _ _
    | (with_reducible apply sub_intro); exact rfl
    | with_reducible apply Keeps.ite
    | split
    | dsimp only
    | with_reducible apply Keeps.fwd

theorem State_l2Source_keeps {m : Nat} {s0 : State} {a0 : State} {a1 : Frame} (h : Keeps m s0 a0) (hs : sub 0x200080110 m = true) : Keeps m s0 (State.l2Source a0 a1).1 := by
  refine h.step ?_ hs
  dsimp only [State.l2Source]
  repeat' first
    | with_reducible first | assumption | exact Keeps.refl _ _
    | (with_reducible apply sub_intro); exact rfl
    | with_reducible apply State_learnToken_keeps
    | with_reducible apply State_cinc_keeps
    | with_reducible apply State_raise_keeps
    | with_reducible apply State_queueLearn_keeps
    | with_reducible apply State_setTab_keeps
    | with_reducible refine Keeps.fstEq (by assumption) ?_
    | with_reducible apply Keeps.ite
    | with_reducible apply Keeps.iteFst
    | split
    | dsimp only

theorem State_l2Dest_keeps {m : Nat} {s0 : State} {a0 : State} {a1 : Frame} (h : Keeps m s0 a0) (hs : sub 0x10 m = true) : Keeps m s0 (State.l2Dest a0 a1).1 := by
  refine h.step ?_ hs
  dsimp only [State.l2Dest]
  repeat' first
    | with_reducible first | assumption | exact Keeps.refl _ _
    | (with_reducible apply sub_intro); exact rfl
    | with_reducible apply State_cinc_keeps
    | with_reducible apply Keeps.ite
    | with_reducible apply Keeps.iteFst
    | split
    | dsimp only

theorem State_polStore_keeps {m : Nat} {s0 : State} {a0 : State} {a1 : Nat} {a2 : Int} {a3 : Int} {a4 : Bool} (h : Keeps m s0 a0) (hs : sub 0x200000100 m = true) : Keeps m s0 (State.polStore a0 a1 a2 a3 a4) := by
  refine h.step ?_ hs
  dsimp only [State.polStore]
  repeat' first
    | with_reducible first | assumption | exact Keeps.refl _ _
    | (with_reducible apply sub_intro); exact rfl
    | with_reducible apply State_setTab_keeps
    | with_reducible apply Keeps.ite
    | split
    | dsimp only
    | with_reducible apply Keeps.fwd

theorem State_meter_keeps {m : Nat} {s0 : State} {a0 : State} {a1 : Nat} {a2 : Nat} {a3 : Nat} (h : Keeps m s0 a0) (hs : sub 0x200000100 m = true) : Keeps m s0 (State.meter a0 a1 a2 a3).1 := by
  refine h.step ?_ hs
  dsimp only [State.meter]
  repeat' first
    | with_reducible first | assumption | exact Keeps.refl _ _
    | (with_reducible apply sub_intro); exact rfl
    | with_reducible apply State_polStore_keeps
    | with_reducible apply Keeps.ite
    | with_reducible apply Keeps.iteFst
    | split
    | dsimp only

theorem State_police_keeps {m : Nat} {s0 : State} {a0 : State} {a1 : Nat} (h : Keeps m s0 a0) (hs : sub 0x200400110 m = true) : Keeps m s0 (State.police a0 a1).1 := by
  refine h.step ?_ hs
  dsimp only [State.police]
  repeat' first
    | with_reducible first | assumption | exact Keeps.refl _ _
    | (with_reducible apply sub_intro); exact rfl
    | with_reducible apply State_cinc_keeps
    | with_reducible apply State_setFr_keeps
    | with_reducible apply State_meter_keeps
    | with_reducible refine Keeps.fstEq (by assumption) ?_
    | with_reducible apply Keeps.ite
    | with_reducible apply Keeps.iteFst
    | split
    | dsimp only

theorem State_mirrorTrigger_keeps {m : Nat} {s0 : State} {a0 : State} {a1 : Nat} {a2 : Nat} {a3 : Bool} {a4 : Bool} (h : Keeps m s0 a0) (hs : sub 0x200080010 m = true) : Keeps m s0 (State.mirrorTrigger a0 a1 a2 a3 a4) := by
  refine h.step ?_ hs
  dsimp only [State.mirrorTrigger]
  repeat' first
    | with_reducible first | assumption | exact Keeps.refl _ _
    | (with_reducible apply sub_intro); exact rfl
    | with_reducible apply State_raise_keeps
    | with_reducible apply State_cinc_keeps
    | with_reducible apply State_winc_keeps
    | with_reducible apply Keeps.ite
    | split
    | dsimp only
    | with_reducible apply Keeps.fwd

theorem State_mirrorFill_keeps {m : Nat} {s0 : State} {a0 : State} {a1 : Nat} (h : Keeps m s0 a0) (hs : sub 0x200000000 m = true) : Keeps m s0 (State.mirrorFill a0 a1) := by
  refine h.step ?_ hs
  dsimp only [State.mirrorFill]
  repeat' first
    | with_reducible first | assumption | exact Keeps.refl _ _
    | (with_reducible apply sub_intro); exact rfl
    | with_reducible apply Keeps.ite
    | split
    | dsimp only
    | with_reducible apply Keeps.fwd

theorem execMirrorEntryWrite_keeps {m : Nat} {s0 : State} {a0 : State} (h : Keeps m s0 a0) (hs : sub 0x181a00480098 m = true) : OutKeeps m s0 (execMirrorEntryWrite a0) := by
  refine OutKeeps.step h ?_ hs
  dsimp only [execMirrorEntryWrite]
  repeat' first
    | with_reducible first | assumption | exact Keeps.refl _ _
    | (with_reducible apply sub_intro); exact rfl
    | with_reducible apply OutKeeps.next
    | with_reducible apply State_mwrite_keeps
    | with_reducible apply State_useFree_keeps
    | with_reducible apply State_lp4xUse_keeps
    | with_reducible apply State_reap_keeps
    | with_reducible apply OutKeeps.ite
    | with_reducible apply Keeps.ite
    | split
    | dsimp only
    | with_reducible apply Keeps.fwd

theorem State_setExc_keeps {m : Nat} {s0 : State} {a0 : State} {a1 : Nat} {a2 : Nat} (h : Keeps m s0 a0) (hs : sub 0x400000 m = true) : Keeps m s0 (State.setExc a0 a1 a2) := by
  refine h.step ?_ hs
  dsimp only [State.setExc]
  repeat' first
    | with_reducible first | assumption | exact Keeps.refl _ _
    | (with_reducible apply sub_intro); exact rfl
    | with_reducible apply State_setFr_keeps
    | with_reducible apply Keeps.ite
    | split
    | dsimp only

theorem State_fwdL2_keeps {m : Nat} {s0 : State} {a0 : State} {a1 : Nat} {a2 : Frame} (h : Keeps m s0 a0) (hs : sub 0x200480110 m = true) : Keeps m s0 (State.fwdL2 a0 a1 a2).1 := by
  refine h.step ?_ hs
  dsimp only [State.fwdL2]
  repeat' first
    | with_reducible first | assumption | exact Keeps.refl _ _
    | (with_reducible apply sub_intro); exact rfl
    | with_reducible apply State_l2Source_keeps
    | with_reducible apply State_cinc_keeps
    | with_reducible apply State_l2Dest_keeps
    | with_reducible apply State_setExc_keeps
    | with_reducible refine Keeps.fstEq (by assumption) ?_
    | with_reducible apply Keeps.ite
    | with_reducible apply Keeps.iteFst
    | split
    | dsimp only

theorem State_fwdResolve_keeps {m : Nat} {s0 : State} {a0 : State} {a1 : Nat} {a2 : Dest} {a3 : Frame} (h : Keeps m s0 a0) (hs : sub 0x400000 m = true) : Keeps m s0 (State.fwdResolve a0 a1 a2 a3) := by
  refine h.step ?_ hs
  dsimp only [State.fwdResolve]
  repeat' first
    | with_reducible first | assumption | exact Keeps.refl _ _
    | (with_reducible apply sub_intro); exact rfl
    | with_reducible apply State_setExc_keeps
    | with_reducible apply Keeps.ite
    | split
    | dsimp only

theorem State_fwdPolice_keeps {m : Nat} {s0 : State} {a0 : State} {a1 : Nat} {a2 : Nat} {a3 : Dest} {a4 : List Nat} (h : Keeps m s0 a0) (hs : sub 0x200400110 m = true) : Keeps m s0 (State.fwdPolice a0 a1 a2 a3 a4).1 := by
  refine h.step ?_ hs
  dsimp only [State.fwdPolice]
  repeat' first
    | with_reducible first | assumption | exact Keeps.refl _ _
    | (with_reducible apply sub_intro); exact rfl
    | with_reducible apply State_police_keeps
    | with_reducible refine Keeps.fstEq (by assumption) ?_
    | with_reducible apply Keeps.ite
    | with_reducible apply Keeps.iteFst
    | split
    | dsimp only

theorem State_fwdDeliver_keeps {m : Nat} {s0 : State} {a0 : State} {a1 : Nat} {a2 : Nat} {a3 : Frame} {a4 : Dest} {a5 : List Nat} {a6 : Bool} (h : Keeps m s0 a0) (hs : sub 0x1818cf480018 m = true) : Keeps m s0 (State.fwdDeliver a0 a1 a2 a3 a4 a5 a6).1 := by
  refine h.step ?_ hs
  dsimp only [State.fwdDeliver]
  repeat' first
    | with_reducible first | assumption | exact Keeps.refl _ _
    | (with_reducible apply sub_intro); exact rfl
    | with_reducible apply State_cinc_keeps
    | with_reducible apply State_deliver_keeps
    | with_reducible apply Keeps.ite
    | with_reducible apply Keeps.iteFst
    | split
    | dsimp only

theorem State_fwdMirror_keeps {m : Nat} {s0 : State} {a0 : State} {a1 : Nat} {a2 : Nat} {a3 : Nat} (h : Keeps m s0 a0) (hs : sub 0x200080010 m = true) : Keeps m s0 (State.fwdMirror a0 a1 a2 a3) := by
  refine h.step ?_ hs
  dsimp only [State.fwdMirror]
  repeat' first
    | with_reducible first | assumption | exact Keeps.refl _ _
    | (with_reducible apply sub_intro); exact rfl
    | with_reducible apply State_mirrorTrigger_keeps
    | with_reducible apply Keeps.ite
    | split
    | dsimp only

theorem State_fwdCounters_keeps {m : Nat} {s0 : State} {a0 : State} {a1 : Nat} {a2 : Nat} {a3 : Frame} (h : Keeps m s0 a0) (hs : sub 0x20000000010 m = true) : Keeps m s0 (State.fwdCounters a0 a1 a2 a3) := by
  refine h.step ?_ hs
  dsimp only [State.fwdCounters]
  repeat' first
    | with_reducible first | assumption | exact Keeps.refl _ _
    | (with_reducible apply sub_intro); exact rfl
    | with_reducible apply State_ruleAdd_keeps
    | with_reducible apply State_cinc_keeps
    | with_reducible apply Keeps.ite
    | split
    | dsimp only

theorem State_fwdEnd_keeps {m : Nat} {s0 : State} {a0 : State} {a1 : Nat} {a2 : Frame} {a3 : Option Nat} (h : Keeps m s0 a0) (hs : sub 0x181800480010 m = true) : Keeps m s0 (State.fwdEnd a0 a1 a2 a3) := by
  refine h.step ?_ hs
  dsimp only [State.fwdEnd]
  repeat' first
    | with_reducible first | assumption | exact Keeps.refl _ _
    | (with_reducible apply sub_intro); exact rfl
    | with_reducible apply State_uncount_keeps
    | with_reducible apply State_setFate_keeps
    | with_reducible apply State_reap_keeps
    | with_reducible apply State_setFr_keeps
    | with_reducible apply Keeps.ite
    | split
    | dsimp only

theorem State_forward_keeps {m : Nat} {s0 : State} {a0 : State} {a1 : Nat} (h : Keeps m s0 a0) (hs : sub 0x1a1acf480118 m = true) : Keeps m s0 (State.forward a0 a1) := by
  refine h.step ?_ hs
  dsimp only [State.forward]
  repeat' first
    | with_reducible first | assumption | exact Keeps.refl _ _
    | (with_reducible apply sub_intro); exact rfl
    | with_reducible apply State_fwdL2_keeps
    | with_reducible apply State_fwdResolve_keeps
    | with_reducible apply State_fwdPolice_keeps
    | with_reducible apply State_fwdDeliver_keeps
    | with_reducible apply State_fwdEnd_keeps
    | with_reducible apply State_fwdCounters_keeps
    | with_reducible apply State_fwdMirror_keeps
    | with_reducible refine Keeps.fstEq (by assumption) ?_
    | with_reducible apply Keeps.ite
    | with_reducible apply Keeps.iteFst
    | split
    | dsimp only

theorem State_forwardOrWait_keeps {m : Nat} {s0 : State} {a0 : State} {a1 : Nat} (h : Keeps m s0 a0) (hs : sub 0x1a1acf480118 m = true) : Keeps m s0 (State.forwardOrWait a0 a1) := by
  refine h.step ?_ hs
  dsimp only [State.forwardOrWait]
  repeat' first
    | with_reducible first | assumption | exact Keeps.refl _ _
    | (with_reducible apply sub_intro); exact rfl
    | with_reducible apply State_setFr_keeps
    | with_reducible apply State_forward_keeps
    | with_reducible apply Keeps.ite
    | split
    | dsimp only

theorem State_countLength_keeps {m : Nat} {s0 : State} {a0 : State} {a1 : Nat} {a2 : Nat} (h : Keeps m s0 a0) (hs : sub 0x10 m = true) : Keeps m s0 (State.countLength a0 a1 a2) := by
  refine h.step ?_ hs
  dsimp only [State.countLength]
  repeat' first
    | with_reducible first | assumption | exact Keeps.refl _ _
    | (with_reducible apply sub_intro); exact rfl
    | with_reducible apply State_cinc_keeps
    | with_reducible apply Keeps.ite
    | split
    | dsimp only

theorem State_captureRecord_keeps {m : Nat} {s0 : State} {a0 : State} {a1 : Nat} {a2 : Nat} {a3 : List Byte} (h : Keeps m s0 a0) (hs : sub 0x400000010 m = true) : Keeps m s0 (State.captureRecord a0 a1 a2 a3) := by
  refine h.step ?_ hs
  dsimp only [State.captureRecord]
  repeat' first
    | with_reducible first | assumption | exact Keeps.refl _ _
    | (with_reducible apply sub_intro); exact rfl
    | with_reducible apply State_rput_keeps
    | with_reducible apply State_setSv_keeps
    | with_reducible apply Keeps.foldl
    | intro _
    | with_reducible apply Keeps.ite
    | split
    | dsimp only

theorem execSurveyParse_keeps {m : Nat} {s0 : State} {a0 : Nat} {a1 : State} (h : Keeps m s0 a1) (hs : sub 0x1a1ecf480118 m = true) : OutKeeps m s0 (execSurveyParse a0 a1) := by
  refine OutKeeps.step h ?_ hs
  dsimp only [execSurveyParse]
  repeat' first
    | with_reducible first | assumption | exact Keeps.refl _ _
    | (with_reducible apply sub_intro); exact rfl
    | with_reducible apply OutKeeps.next
    | with_reducible apply State_discard_keeps
    | with_reducible apply State_raise_keeps
    | with_reducible apply State_cinc_keeps
    | with_reducible apply State_setFr_keeps
    | with_reducible apply State_legendWalk_keeps
    | with_reducible apply State_captureRecord_keeps
    | with_reducible apply State_forwardOrWait_keeps
    | with_reducible apply State_countLength_keeps
    | with_reducible refine Keeps.fstEq (by assumption) ?_
    | with_reducible apply OutKeeps.ite
    | with_reducible apply Keeps.iteFst
    | with_reducible apply Keeps.ite
    | split
    | dsimp only

theorem State_forwardHeld_keeps {m : Nat} {s0 : State} {a0 : State} {a1 : Nat} (h : Keeps m s0 a0) (hs : sub 0x1a1acf480118 m = true) : Keeps m s0 (State.forwardHeld a0 a1) := by
  refine h.step ?_ hs
  dsimp only [State.forwardHeld]
  repeat' first
    | with_reducible first | assumption | exact Keeps.refl _ _
    | (with_reducible apply sub_intro); exact rfl
    | with_reducible apply State_setFr_keeps
    | with_reducible apply State_forwardOrWait_keeps
    | with_reducible apply State_countLength_keeps
    | with_reducible apply Keeps.ite
    | split
    | dsimp only

theorem execAddrExtReadDone_keeps {m : Nat} {s0 : State} {a0 : Nat} {a1 : Option Nat} {a2 : State} (h : Keeps m s0 a2) (hs : sub 0x1a3acf480118 m = true) : OutKeeps m s0 (execAddrExtReadDone a0 a1 a2) := by
  refine OutKeeps.step h ?_ hs
  dsimp only [execAddrExtReadDone]
  repeat' first
    | with_reducible first | assumption | exact Keeps.refl _ _
    | (with_reducible apply sub_intro); exact rfl
    | with_reducible apply OutKeeps.next
    | with_reducible apply State_lp4xEcc_keeps
    | with_reducible apply State_lp4xUse_keeps
    | with_reducible apply State_cinc_keeps
    | with_reducible apply State_setFr_keeps
    | with_reducible apply State_discard_keeps
    | with_reducible apply State_forward_keeps
    | with_reducible apply OutKeeps.ite
    | with_reducible apply Keeps.ite
    | split
    | dsimp only
    | with_reducible apply Keeps.poison

theorem execLearnWrite_keeps {m : Nat} {s0 : State} {a0 : State} (h : Keeps m s0 a0) (hs : sub 0x2200000118 m = true) : OutKeeps m s0 (execLearnWrite a0) := by
  refine OutKeeps.step h ?_ hs
  dsimp only [execLearnWrite]
  repeat' first
    | with_reducible first | assumption | exact Keeps.refl _ _
    | (with_reducible apply sub_intro); exact rfl
    | with_reducible apply OutKeeps.next
    | with_reducible apply State_lp4xUse_keeps
    | with_reducible apply State_cinc_keeps
    | with_reducible apply State_setAddr_keeps
    | with_reducible apply State_setTab_keeps
    | with_reducible apply OutKeeps.ite
    | with_reducible apply Keeps.ite
    | split
    | dsimp only
    | with_reducible apply Keeps.fwd

theorem execAgeVisit_keeps {m : Nat} {s0 : State} {a0 : Nat} {a1 : State} (h : Keeps m s0 a1) (hs : sub 0x2200000118 m = true) : OutKeeps m s0 (execAgeVisit a0 a1) := by
  refine OutKeeps.step h ?_ hs
  dsimp only [execAgeVisit]
  repeat' first
    | with_reducible first | assumption | exact Keeps.refl _ _
    | (with_reducible apply sub_intro); exact rfl
    | with_reducible apply OutKeeps.next
    | with_reducible apply State_lp4xUse_keeps
    | with_reducible apply State_setAddr_keeps
    | with_reducible apply State_cinc_keeps
    | with_reducible apply State_queueLearn_keeps
    | with_reducible apply OutKeeps.ite
    | with_reducible apply Keeps.ite
    | split
    | dsimp only

theorem execProgSwitch_keeps {m : Nat} {s0 : State} {a0 : Nat} {a1 : State} (h : Keeps m s0 a1) (hs : sub 0xc00080690 m = true) : OutKeeps m s0 (execProgSwitch a0 a1) := by
  refine OutKeeps.step h ?_ hs
  dsimp only [execProgSwitch]
  repeat' first
    | with_reducible first | assumption | exact Keeps.refl _ _
    | (with_reducible apply sub_intro); exact rfl
    | with_reducible apply OutKeeps.next
    | with_reducible apply State_progSwitch_keeps
    | with_reducible apply State_endWait_keeps
    | with_reducible apply State_setThr_keeps
    | with_reducible apply State_loadShadow_keeps
    | with_reducible apply Keeps.foldl
    | intro _
    | with_reducible apply OutKeeps.ite
    | with_reducible apply Keeps.ite
    | split
    | dsimp only

theorem execVersionRetire_keeps {m : Nat} {s0 : State} {a0 : Nat} {a1 : Nat} {a2 : State} (h : Keeps m s0 a2) (hs : sub 0x800080690 m = true) : OutKeeps m s0 (execVersionRetire a0 a1 a2) := by
  refine OutKeeps.step h ?_ hs
  dsimp only [execVersionRetire]
  repeat' first
    | with_reducible first | assumption | exact Keeps.refl _ _
    | (with_reducible apply sub_intro); exact rfl
    | with_reducible apply OutKeeps.next
    | with_reducible apply State_legApply_keeps
    | with_reducible apply State_endWait_keeps
    | with_reducible apply Keeps.foldl
    | intro _
    | with_reducible apply OutKeeps.ite
    | with_reducible apply Keeps.ite
    | split
    | dsimp only

end Sys2Proof.Laws
end

