-- ==== Sys2Proof/Laws/Keep/Ports.lean ====
section
/-! SUPPORT. What each definition of Machine/Ports may change, and that it keeps the canonical form. -/

namespace Sys2Proof.Laws

open Sys2Proof Sys2Proof.Machine

theorem State_rxAdd_keeps {m : Nat} {s0 : State} {a0 : State} {a1 : Nat} {a2 : Nat} {a3 : Nat} (h : Keeps m s0 a0) (hs : sub 0x10 m = true) : Keeps m s0 (State.rxAdd a0 a1 a2 a3) := by
  refine h.step ?_ hs
  dsimp only [State.rxAdd]
  repeat' first
    | with_reducible first | assumption | exact Keeps.refl _ _
    | (with_reducible apply sub_intro); exact rfl
    | with_reducible apply State_cadd_keeps
    | with_reducible apply Keeps.ite
    | split
    | dsimp only

theorem State_txAdd_keeps {m : Nat} {s0 : State} {a0 : State} {a1 : Nat} {a2 : Nat} {a3 : Nat} (h : Keeps m s0 a0) (hs : sub 0x10 m = true) : Keeps m s0 (State.txAdd a0 a1 a2 a3) := by
  refine h.step ?_ hs
  dsimp only [State.txAdd]
  repeat' first
    | with_reducible first | assumption | exact Keeps.refl _ _
    | (with_reducible apply sub_intro); exact rfl
    | with_reducible apply State_cadd_keeps
    | with_reducible apply Keeps.ite
    | split
    | dsimp only

theorem State_rxStats_keeps {m : Nat} {s0 : State} {a0 : State} {a1 : Nat} {a2 : List Byte} {a3 : Nat} {a4 : Bool} (h : Keeps m s0 a0) (hs : sub 0x10 m = true) : Keeps m s0 (State.rxStats a0 a1 a2 a3 a4) := by
  refine h.step ?_ hs
  dsimp only [State.rxStats]
  repeat' first
    | with_reducible first | assumption | exact Keeps.refl _ _
    | (with_reducible apply sub_intro); exact rfl
    | with_reducible apply State_rxAdd_keeps
    | with_reducible apply Keeps.ite
    | split
    | dsimp only

theorem State_txStats_keeps {m : Nat} {s0 : State} {a0 : State} {a1 : Nat} {a2 : List Byte} {a3 : Nat} {a4 : Bool} (h : Keeps m s0 a0) (hs : sub 0x10 m = true) : Keeps m s0 (State.txStats a0 a1 a2 a3 a4) := by
  refine h.step ?_ hs
  dsimp only [State.txStats]
  repeat' first
    | with_reducible first | assumption | exact Keeps.refl _ _
    | (with_reducible apply sub_intro); exact rfl
    | with_reducible apply State_txAdd_keeps
    | with_reducible apply Keeps.ite
    | split
    | dsimp only

theorem State_portSnap_keeps {m : Nat} {s0 : State} {a0 : State} {a1 : Nat} (h : Keeps m s0 a0) (hs : sub 0x10 m = true) : Keeps m s0 (State.portSnap a0 a1) := by
  refine h.step ?_ hs
  dsimp only [State.portSnap]
  repeat' first
    | with_reducible first | assumption | exact Keeps.refl _ _
    | (with_reducible apply sub_intro); exact rfl
    | with_reducible apply State_pput_keeps
    | with_reducible apply Keeps.foldl
    | intro _
    | with_reducible apply Keeps.ite
    | split
    | dsimp only

theorem execSnap_keeps {m : Nat} {s0 : State} {a0 : Master} {a1 : Word} {a2 : State} (h : Keeps m s0 a2) (hs : sub 0x81070 m = true) : OutKeeps m s0 (execSnap a0 a1 a2) := by
  refine OutKeeps.step h ?_ hs
  dsimp only [execSnap]
  repeat' first
    | with_reducible first | assumption | exact Keeps.refl _ _
    | (with_reducible apply sub_intro); exact rfl
    | with_reducible apply OutKeeps.next
    | with_reducible apply State_guardWrite_keeps
    | with_reducible apply State_portSnap_keeps
    | with_reducible apply Keeps.foldl
    | intro _
    | with_reducible apply OutKeeps.ite
    | with_reducible apply Keeps.ite
    | split
    | dsimp only

theorem State_showPause_keeps {m : Nat} {s0 : State} {a0 : State} {a1 : Nat} (h : Keeps m s0 a0) (hs : sub 0x100000010 m = true) : Keeps m s0 (State.showPause a0 a1) := by
  refine h.step ?_ hs
  dsimp only [State.showPause]
  repeat' first
    | with_reducible first | assumption | exact Keeps.refl _ _
    | (with_reducible apply sub_intro); exact rfl
    | with_reducible apply State_rput_keeps
    | with_reducible apply State_txAdd_keeps
    | with_reducible apply State_setPx_keeps
    | with_reducible apply Keeps.ite
    | split
    | dsimp only

theorem State_setPause_keeps {m : Nat} {s0 : State} {a0 : State} {a1 : Nat} {a2 : Nat} {a3 : Nat} (h : Keeps m s0 a0) (hs : sub 0x100000010 m = true) : Keeps m s0 (State.setPause a0 a1 a2 a3) := by
  refine h.step ?_ hs
  dsimp only [State.setPause]
  repeat' first
    | with_reducible first | assumption | exact Keeps.refl _ _
    | (with_reducible apply sub_intro); exact rfl
    | with_reducible apply State_showPause_keeps
    | with_reducible apply State_setPx_keeps
    | with_reducible apply Keeps.ite
    | split
    | dsimp only

theorem State_macControl_keeps {m : Nat} {s0 : State} {a0 : State} {a1 : Nat} {a2 : List Byte} (h : Keeps m s0 a0) (hs : sub 0x100000010 m = true) : Keeps m s0 (State.macControl a0 a1 a2) := by
  refine h.step ?_ hs
  dsimp only [State.macControl]
  repeat' first
    | with_reducible first | assumption | exact Keeps.refl _ _
    | (with_reducible apply sub_intro); exact rfl
    | with_reducible apply State_rxAdd_keeps
    | with_reducible apply State_setPause_keeps
    | with_reducible apply Keeps.foldl
    | intro _
    | with_reducible apply Keeps.ite
    | split
    | dsimp only

theorem execPauseReceive_keeps {m : Nat} {s0 : State} {a0 : Nat} {a1 : List Byte} {a2 : State} (h : Keeps m s0 a2) (hs : sub 0x100000010 m = true) : OutKeeps m s0 (execPauseReceive a0 a1 a2) := by
  refine OutKeeps.step h ?_ hs
  dsimp only [execPauseReceive]
  repeat' first
    | with_reducible first | assumption | exact Keeps.refl _ _
    | (with_reducible apply sub_intro); exact rfl
    | with_reducible apply OutKeeps.next
    | with_reducible apply State_macControl_keeps
    | with_reducible apply State_rxStats_keeps
    | with_reducible apply OutKeeps.ite
    | with_reducible apply Keeps.ite
    | split
    | dsimp only

theorem execPauseExpiry_keeps {m : Nat} {s0 : State} {a0 : Nat} {a1 : Nat} {a2 : State} (h : Keeps m s0 a2) (hs : sub 0x100000010 m = true) : OutKeeps m s0 (execPauseExpiry a0 a1 a2) := by
  refine OutKeeps.step h ?_ hs
  dsimp only [execPauseExpiry]
  repeat' first
    | with_reducible first | assumption | exact Keeps.refl _ _
    | (with_reducible apply sub_intro); exact rfl
    | with_reducible apply OutKeeps.next
    | with_reducible apply State_setPause_keeps
    | with_reducible apply OutKeeps.ite
    | with_reducible apply Keeps.ite
    | split
    | dsimp only

theorem execPauseWdog_keeps {m : Nat} {s0 : State} {a0 : Nat} {a1 : Nat} {a2 : State} (h : Keeps m s0 a2) (hs : sub 0x100080010 m = true) : OutKeeps m s0 (execPauseWdog a0 a1 a2) := by
  refine OutKeeps.step h ?_ hs
  dsimp only [execPauseWdog]
  repeat' first
    | with_reducible first | assumption | exact Keeps.refl _ _
    | (with_reducible apply sub_intro); exact rfl
    | with_reducible apply OutKeeps.next
    | with_reducible apply State_txAdd_keeps
    | with_reducible apply State_raise_keeps
    | with_reducible apply State_showPause_keeps
    | with_reducible apply State_setPx_keeps
    | with_reducible apply OutKeeps.ite
    | with_reducible apply Keeps.ite
    | split
    | dsimp only

theorem execHoldoffEnd_keeps {m : Nat} {s0 : State} {a0 : Nat} {a1 : Nat} {a2 : State} (h : Keeps m s0 a2) (hs : sub 0x100000010 m = true) : OutKeeps m s0 (execHoldoffEnd a0 a1 a2) := by
  refine OutKeeps.step h ?_ hs
  dsimp only [execHoldoffEnd]
  repeat' first
    | with_reducible first | assumption | exact Keeps.refl _ _
    | (with_reducible apply sub_intro); exact rfl
    | with_reducible apply OutKeeps.next
    | with_reducible apply State_showPause_keeps
    | with_reducible apply State_setPx_keeps
    | with_reducible apply OutKeeps.ite
    | with_reducible apply Keeps.ite
    | split
    | dsimp only

theorem State_pauseRequest_keeps {m : Nat} {s0 : State} {a0 : State} {a1 : Nat} (h : Keeps m s0 a0) (hs : sub 0x100000000 m = true) : Keeps m s0 (State.pauseRequest a0 a1) := by
  refine h.step ?_ hs
  dsimp only [State.pauseRequest]
  repeat' first
    | with_reducible first | assumption | exact Keeps.refl _ _
    | (with_reducible apply sub_intro); exact rfl
    | with_reducible apply State_setPx_keeps
    | with_reducible apply Keeps.foldl
    | intro _
    | with_reducible apply Keeps.ite
    | split
    | dsimp only

theorem execPauseRefresh_keeps {m : Nat} {s0 : State} {a0 : Nat} {a1 : State} (h : Keeps m s0 a1) (hs : sub 0x100000000 m = true) : OutKeeps m s0 (execPauseRefresh a0 a1) := by
  refine OutKeeps.step h ?_ hs
  dsimp only [execPauseRefresh]
  repeat' first
    | with_reducible first | assumption | exact Keeps.refl _ _
    | (with_reducible apply sub_intro); exact rfl
    | with_reducible apply OutKeeps.next
    | with_reducible apply State_setPx_keeps
    | with_reducible apply OutKeeps.ite
    | with_reducible apply Keeps.ite
    | split
    | dsimp only

theorem State_verifyStart_keeps {m : Nat} {s0 : State} {a0 : State} {a1 : Nat} (h : Keeps m s0 a0) (hs : sub 0x100000010 m = true) : Keeps m s0 (State.verifyStart a0 a1) := by
  refine h.step ?_ hs
  dsimp only [State.verifyStart]
  repeat' first
    | with_reducible first | assumption | exact Keeps.refl _ _
    | (with_reducible apply sub_intro); exact rfl
    | with_reducible apply State_txAdd_keeps
    | with_reducible apply State_rput_keeps
    | with_reducible apply State_setPx_keeps
    | with_reducible apply Keeps.ite
    | split
    | dsimp only

theorem execVerifyTimer_keeps {m : Nat} {s0 : State} {a0 : Nat} {a1 : State} (h : Keeps m s0 a1) (hs : sub 0x100000010 m = true) : OutKeeps m s0 (execVerifyTimer a0 a1) := by
  refine OutKeeps.step h ?_ hs
  dsimp only [execVerifyTimer]
  repeat' first
    | with_reducible first | assumption | exact Keeps.refl _ _
    | (with_reducible apply sub_intro); exact rfl
    | with_reducible apply OutKeeps.next
    | with_reducible apply State_txAdd_keeps
    | with_reducible apply State_setPx_keeps
    | with_reducible apply State_rput_keeps
    | with_reducible apply OutKeeps.ite
    | with_reducible apply Keeps.ite
    | split
    | dsimp only

theorem State_purge_keeps {m : Nat} {s0 : State} {a0 : State} {a1 : Nat} (h : Keeps m s0 a0) (hs : sub 0x1819cf480010 m = true) : Keeps m s0 (State.purge a0 a1) := by
  refine h.step ?_ hs
  dsimp only [State.purge]
  repeat' first
    | with_reducible first | assumption | exact Keeps.refl _ _
    | (with_reducible apply sub_intro); exact rfl
    | with_reducible apply State_setQ_keeps
    | with_reducible apply State_noteEmpty_keeps
    | with_reducible apply State_release_keeps
    | with_reducible apply State_rsub_keeps
    | with_reducible apply State_setPager_keeps
    | with_reducible apply State_setPx_keeps
    | with_reducible apply Keeps.foldl
    | intro _
    | with_reducible apply Keeps.ite
    | split
    | dsimp only

theorem State_stomp_keeps {m : Nat} {s0 : State} {a0 : State} {a1 : Nat} (h : Keeps m s0 a0) (hs : sub 0x100000000 m = true) : Keeps m s0 (State.stomp a0 a1) := by
  refine h.step ?_ hs
  dsimp only [State.stomp]
  repeat' first
    | with_reducible first | assumption | exact Keeps.refl _ _
    | (with_reducible apply sub_intro); exact rfl
    | with_reducible exact State.Canonical.ports (by assumption)
    | with_reducible apply swf_sset
    | with_reducible apply swf_smap
    | with_reducible apply swf_sfilter
    | with_reducible apply swf_sdel
    | with_reducible exact swf_nil
    | with_reducible apply swf_foldl
    | with_reducible apply Keeps.foldl
    | intro _
    | with_reducible apply Keeps.ite
    | split
    | dsimp only
    | with_reducible apply Keeps.ports

theorem State_failFrame_keeps {m : Nat} {s0 : State} {a0 : State} {a1 : Nat} (h : Keeps m s0 a0) (hs : sub 0x1819cf480010 m = true) : Keeps m s0 (State.failFrame a0 a1) := by
  refine h.step ?_ hs
  dsimp only [State.failFrame]
  repeat' first
    | with_reducible first | assumption | exact Keeps.refl _ _
    | (with_reducible apply sub_intro); exact rfl
    | with_reducible apply State_setFr_keeps
    | with_reducible apply State_purge_keeps
    | with_reducible apply State_stomp_keeps
    | with_reducible apply State_reap_keeps
    | with_reducible apply State_discard_keeps
    | with_reducible apply Keeps.ite
    | split
    | dsimp only

theorem State_txRelease_keeps {m : Nat} {s0 : State} {a0 : State} {a1 : Tx} (h : Keeps m s0 a0) (hs : sub 0x1818c1480010 m = true) : Keeps m s0 (State.txRelease a0 a1) := by
  refine h.step ?_ hs
  dsimp only [State.txRelease]
  repeat' first
    | with_reducible first | assumption | exact Keeps.refl _ _
    | (with_reducible apply sub_intro); exact rfl
    | with_reducible apply State_release_keeps
    | with_reducible apply State_reap_keeps
    | with_reducible apply Keeps.ite
    | split
    | dsimp only

theorem State_txCut_keeps {m : Nat} {s0 : State} {a0 : State} {a1 : Nat} {a2 : Option Tx} (h : Keeps m s0 a0) (hs : sub 0x1818c1480010 m = true) : Keeps m s0 (State.txCut a0 a1 a2) := by
  refine h.step ?_ hs
  dsimp only [State.txCut]
  repeat' first
    | with_reducible first | assumption | exact Keeps.refl _ _
    | (with_reducible apply sub_intro); exact rfl
    | with_reducible apply State_txAdd_keeps
    | with_reducible apply State_token_keeps
    | with_reducible apply State_txRelease_keeps
    | with_reducible apply Keeps.ite
    | split
    | dsimp only

theorem State_flushExpress_keeps {m : Nat} {s0 : State} {a0 : State} {a1 : Nat} (h : Keeps m s0 a0) (hs : sub 0x181900480010 m = true) : Keeps m s0 (State.flushExpress a0 a1) := by
  refine h.step ?_ hs
  dsimp only [State.flushExpress]
  repeat' first
    | with_reducible first | assumption | exact Keeps.refl _ _
    | (with_reducible apply sub_intro); exact rfl
    | with_reducible apply State_txAdd_keeps
    | with_reducible apply State_setPx_keeps
    | with_reducible apply State_reap_keeps
    | with_reducible apply Keeps.foldl
    | intro _
    | with_reducible apply Keeps.ite
    | split
    | dsimp only

theorem State_mapObjs_keeps {m : Nat} {s0 : State} {a0 : State} {a1 : Nat} {a2 : Obj → Obj} (h : Keeps m s0 a0) (hs : sub 0x8000000 m = true) : Keeps m s0 (State.mapObjs a0 a1 a2) := by
  refine h.step ?_ hs
  dsimp only [State.mapObjs]
  repeat' first
    | with_reducible first | assumption | exact Keeps.refl _ _
    | (with_reducible apply sub_intro); exact rfl
    | with_reducible exact State.Canonical.objs (by assumption)
    | with_reducible apply swf_sset
    | with_reducible apply swf_smap
    | with_reducible apply swf_sfilter
    | with_reducible apply swf_sdel
    | with_reducible exact swf_nil
    | with_reducible apply swf_foldl
    | with_reducible apply Keeps.foldl
    | intro _
    | with_reducible apply Keeps.ite
    | split
    | dsimp only
    | with_reducible apply Keeps.objs

theorem State_leaveUp_keeps {m : Nat} {s0 : State} {a0 : State} {a1 : Nat} (h : Keeps m s0 a0) (hs : sub 0x1819cf480010 m = true) : Keeps m s0 (State.leaveUp a0 a1) := by
  refine h.step ?_ hs
  dsimp only [State.leaveUp]
  repeat' first
    | with_reducible first | assumption | exact Keeps.refl _ _
    | (with_reducible apply sub_intro); exact rfl
    | with_reducible apply State_setPx_keeps
    | with_reducible apply State_txCut_keeps
    | with_reducible apply State_failFrame_keeps
    | with_reducible apply State_rxAdd_keeps
    | with_reducible apply State_flushExpress_keeps
    | with_reducible apply State_showPause_keeps
    | with_reducible apply State_raise_keeps
    | with_reducible apply State_cinc_keeps
    | with_reducible apply State_rput_keeps
    | with_reducible apply State_flushPort_keeps
    | with_reducible apply State_mapObjs_keeps
    | with_reducible apply Keeps.ite
    | split
    | dsimp only

theorem State_rclkSettle_keeps {m : Nat} {s0 : State} {a0 : State} (h : Keeps m s0 a0) (hs : sub 0x80010 m = true) : Keeps m s0 (State.rclkSettle a0) := by
  refine h.step ?_ hs
  dsimp only [State.rclkSettle]
  repeat' first
    | with_reducible first | assumption | exact Keeps.refl _ _
    | (with_reducible apply sub_intro); exact rfl
    | with_reducible apply State_raise_keeps
    | with_reducible apply State_rput_keeps
    | with_reducible apply Keeps.ite
    | split
    | dsimp only

theorem State_linkTo_keeps {m : Nat} {s0 : State} {a0 : State} {a1 : Nat} {a2 : Nat} (h : Keeps m s0 a0) (hs : sub 0x1819cf480010 m = true) : Keeps m s0 (State.linkTo a0 a1 a2) := by
  refine h.step ?_ hs
  dsimp only [State.linkTo]
  repeat' first
    | with_reducible first | assumption | exact Keeps.refl _ _
    | (with_reducible apply sub_intro); exact rfl
    | with_reducible apply State_leaveUp_keeps
    | with_reducible apply State_rput_keeps
    | with_reducible apply State_rclkSettle_keeps
    | with_reducible apply State_setPx_keeps
    | with_reducible apply Keeps.ite
    | split
    | dsimp only

theorem State_enterUp_keeps {m : Nat} {s0 : State} {a0 : State} {a1 : Nat} {a2 : Nat} (h : Keeps m s0 a0) (hs : sub 0x108080010 m = true) : Keeps m s0 (State.enterUp a0 a1 a2) := by
  refine h.step ?_ hs
  dsimp only [State.enterUp]
  repeat' first
    | with_reducible first | assumption | exact Keeps.refl _ _
    | (with_reducible apply sub_intro); exact rfl
    | with_reducible apply State_mapObjs_keeps
    | with_reducible apply State_rput_keeps
    | with_reducible apply State_setPx_keeps
    | with_reducible apply State_rclkSettle_keeps
    | with_reducible apply State_raise_keeps
    | with_reducible apply State_verifyStart_keeps
    | with_reducible apply Keeps.ite
    | split
    | dsimp only

theorem execPortDisableDone_keeps {m : Nat} {s0 : State} {a0 : Nat} {a1 : State} (h : Keeps m s0 a1) (hs : sub 0x1819cf480010 m = true) : OutKeeps m s0 (execPortDisableDone a0 a1) := by
  refine OutKeeps.step h ?_ hs
  dsimp only [execPortDisableDone]
  repeat' first
    | with_reducible first | assumption | exact Keeps.refl _ _
    | (with_reducible apply sub_intro); exact rfl
    | with_reducible apply OutKeeps.next
    | with_reducible apply State_linkTo_keeps
    | with_reducible apply State_setPx_keeps
    | with_reducible apply OutKeeps.ite
    | with_reducible apply Keeps.ite
    | split
    | dsimp only

theorem execAnComplete_keeps {m : Nat} {s0 : State} {a0 : Nat} {a1 : Nat} {a2 : State} (h : Keeps m s0 a2) (hs : sub 0x1819cf480010 m = true) : OutKeeps m s0 (execAnComplete a0 a1 a2) := by
  refine OutKeeps.step h ?_ hs
  dsimp only [execAnComplete]
  repeat' first
    | with_reducible first | assumption | exact Keeps.refl _ _
    | (with_reducible apply sub_intro); exact rfl
    | with_reducible apply OutKeeps.next
    | with_reducible apply State_rput_keeps
    | with_reducible apply State_linkTo_keeps
    | with_reducible apply State_cinc_keeps
    | with_reducible apply OutKeeps.ite
    | with_reducible apply Keeps.ite
    | split
    | dsimp only

theorem execLtDone_keeps {m : Nat} {s0 : State} {a0 : Nat} {a1 : Bool} {a2 : State} (h : Keeps m s0 a2) (hs : sub 0x1819cf480010 m = true) : OutKeeps m s0 (execLtDone a0 a1 a2) := by
  refine OutKeeps.step h ?_ hs
  dsimp only [execLtDone]
  repeat' first
    | with_reducible first | assumption | exact Keeps.refl _ _
    | (with_reducible apply sub_intro); exact rfl
    | with_reducible apply OutKeeps.next
    | with_reducible apply State_linkTo_keeps
    | with_reducible apply State_cinc_keeps
    | with_reducible apply OutKeeps.ite
    | with_reducible apply Keeps.ite
    | split
    | dsimp only

theorem execLinkUp_keeps {m : Nat} {s0 : State} {a0 : Nat} {a1 : Nat} {a2 : State} (h : Keeps m s0 a2) (hs : sub 0x108080010 m = true) : OutKeeps m s0 (execLinkUp a0 a1 a2) := by
  refine OutKeeps.step h ?_ hs
  dsimp only [execLinkUp]
  repeat' first
    | with_reducible first | assumption | exact Keeps.refl _ _
    | (with_reducible apply sub_intro); exact rfl
    | with_reducible apply OutKeeps.next
    | with_reducible apply State_enterUp_keeps
    | with_reducible apply OutKeeps.ite
    | with_reducible apply Keeps.ite
    | split
    | dsimp only

theorem execLockTimeout_keeps {m : Nat} {s0 : State} {a0 : Nat} {a1 : State} (h : Keeps m s0 a1) (hs : sub 0x1819cf480010 m = true) : OutKeeps m s0 (execLockTimeout a0 a1) := by
  refine OutKeeps.step h ?_ hs
  dsimp only [execLockTimeout]
  repeat' first
    | with_reducible first | assumption | exact Keeps.refl _ _
    | (with_reducible apply sub_intro); exact rfl
    | with_reducible apply OutKeeps.next
    | with_reducible apply State_linkTo_keeps
    | with_reducible apply OutKeeps.ite
    | with_reducible apply Keeps.ite
    | split
    | dsimp only

theorem execLocalFault_keeps {m : Nat} {s0 : State} {a0 : Nat} {a1 : State} (h : Keeps m s0 a1) (hs : sub 0x1819cf480010 m = true) : OutKeeps m s0 (execLocalFault a0 a1) := by
  refine OutKeeps.step h ?_ hs
  dsimp only [execLocalFault]
  repeat' first
    | with_reducible first | assumption | exact Keeps.refl _ _
    | (with_reducible apply sub_intro); exact rfl
    | with_reducible apply OutKeeps.next
    | with_reducible apply State_raise_keeps
    | with_reducible apply State_rput_keeps
    | with_reducible apply State_linkTo_keeps
    | with_reducible apply OutKeeps.ite
    | with_reducible apply Keeps.ite
    | split
    | dsimp only

theorem execRemoteFault_keeps {m : Nat} {s0 : State} {a0 : Nat} {a1 : State} (h : Keeps m s0 a1) (hs : sub 0x1819cf480010 m = true) : OutKeeps m s0 (execRemoteFault a0 a1) := by
  refine OutKeeps.step h ?_ hs
  dsimp only [execRemoteFault]
  repeat' first
    | with_reducible first | assumption | exact Keeps.refl _ _
    | (with_reducible apply sub_intro); exact rfl
    | with_reducible apply OutKeeps.next
    | with_reducible apply State_raise_keeps
    | with_reducible apply State_rput_keeps
    | with_reducible apply State_setPx_keeps
    | with_reducible apply State_linkTo_keeps
    | with_reducible apply OutKeeps.ite
    | with_reducible apply Keeps.ite
    | split
    | dsimp only

theorem execRfaultClear_keeps {m : Nat} {s0 : State} {a0 : Nat} {a1 : Nat} {a2 : State} (h : Keeps m s0 a2) (hs : sub 0x108080010 m = true) : OutKeeps m s0 (execRfaultClear a0 a1 a2) := by
  refine OutKeeps.step h ?_ hs
  dsimp only [execRfaultClear]
  repeat' first
    | with_reducible first | assumption | exact Keeps.refl _ _
    | (with_reducible apply sub_intro); exact rfl
    | with_reducible apply OutKeeps.next
    | with_reducible apply State_enterUp_keeps
    | with_reducible apply OutKeeps.ite
    | with_reducible apply Keeps.ite
    | split
    | dsimp only

theorem execFecCodeword_keeps {m : Nat} {s0 : State} {a0 : Nat} {a1 : Nat} {a2 : Bool} {a3 : Nat} {a4 : State} (h : Keeps m s0 a4) (hs : sub 0x100080010 m = true) : OutKeeps m s0 (execFecCodeword a0 a1 a2 a3 a4) := by
  refine OutKeeps.step h ?_ hs
  dsimp only [execFecCodeword]
  repeat' first
    | with_reducible first | assumption | exact Keeps.refl _ _
    | (with_reducible apply sub_intro); exact rfl
    | with_reducible apply OutKeeps.next
    | with_reducible apply State_cadd_keeps
    | with_reducible apply State_cinc_keeps
    | with_reducible apply State_raiseIf_keeps
    | with_reducible apply State_setPx_keeps
    | with_reducible apply OutKeeps.ite
    | with_reducible apply Keeps.ite
    | split
    | dsimp only

end Sys2Proof.Laws
end

