-- ==== Sys2Proof/Laws/Keep/Bridge.lean ====
section
/-! SUPPORT. What each definition of Machine/Bridge may change, and that it keeps the canonical form. -/

namespace Sys2Proof.Laws

open Sys2Proof Sys2Proof.Machine

theorem State_setLane_keeps {m : Nat} {s0 : State} {a0 : State} {a1 : Nat} {a2 : LaneX} (h : Keeps m s0 a0) (hs : sub 0x200000 m = true) : Keeps m s0 (State.setLane a0 a1 a2) := by
  refine h.step ?_ hs
  dsimp only [State.setLane]
  repeat' first
    | with_reducible first | assumption | exact Keeps.refl _ _
    | (with_reducible apply sub_intro); exact rfl
    | with_reducible exact State.Canonical.lanes (by assumption)
    | with_reducible apply swf_sset
    | with_reducible apply swf_smap
    | with_reducible apply swf_sfilter
    | with_reducible apply swf_sdel
    | with_reducible exact swf_nil
    | with_reducible apply swf_foldl
    | with_reducible apply Keeps.foldl
    | intro _
    | with_reducible apply Keeps.ite
    | split
    | dsimp only
    | with_reducible apply Keeps.lanes

theorem State_contEvent_keeps {m : Nat} {s0 : State} {a0 : State} {a1 : Nat} (h : Keeps m s0 a0) (hs : sub 0x80010 m = true) : Keeps m s0 (State.contEvent a0 a1) := by
  refine h.step ?_ hs
  dsimp only [State.contEvent]
  repeat' first
    | with_reducible first | assumption | exact Keeps.refl _ _
    | (with_reducible apply sub_intro); exact rfl
    | with_reducible apply State_raise_keeps
    | with_reducible apply Keeps.ite
    | split
    | dsimp only

theorem State_defectEvent_keeps {m : Nat} {s0 : State} {a0 : State} {a1 : Nat} (h : Keeps m s0 a0) (hs : sub 0x80010 m = true) : Keeps m s0 (State.defectEvent a0 a1) := by
  refine h.step ?_ hs
  dsimp only [State.defectEvent]
  repeat' first
    | with_reducible first | assumption | exact Keeps.refl _ _
    | (with_reducible apply sub_intro); exact rfl
    | with_reducible apply State_raise_keeps
    | with_reducible apply Keeps.ite
    | split
    | dsimp only

theorem State_laneCnt_keeps {m : Nat} {s0 : State} {a0 : State} {a1 : Nat} {a2 : Nat} {a3 : Nat} (h : Keeps m s0 a0) (hs : sub 0x10 m = true) : Keeps m s0 (State.laneCnt a0 a1 a2 a3) := by
  refine h.step ?_ hs
  dsimp only [State.laneCnt]
  repeat' first
    | with_reducible first | assumption | exact Keeps.refl _ _
    | (with_reducible apply sub_intro); exact rfl
    | with_reducible apply State_cadd_keeps
    | with_reducible apply Keeps.ite
    | split
    | dsimp only

theorem State_laneEnable_keeps {m : Nat} {s0 : State} {a0 : State} {a1 : Nat} (h : Keeps m s0 a0) (hs : sub 0x280050 m = true) : Keeps m s0 (State.laneEnable a0 a1) := by
  refine h.step ?_ hs
  dsimp only [State.laneEnable]
  repeat' first
    | with_reducible first | assumption | exact Keeps.refl _ _
    | (with_reducible apply sub_intro); exact rfl
    | with_reducible apply State_rput_keeps
    | with_reducible apply State_rclkSettle_keeps
    | with_reducible apply State_setLane_keeps
    | with_reducible apply Keeps.ite
    | split
    | dsimp only
    | with_reducible apply Keeps.failed

theorem State_laneDisable_keeps {m : Nat} {s0 : State} {a0 : State} {a1 : Nat} (h : Keeps m s0 a0) (hs : sub 0x280010 m = true) : Keeps m s0 (State.laneDisable a0 a1) := by
  refine h.step ?_ hs
  dsimp only [State.laneDisable]
  repeat' first
    | with_reducible first | assumption | exact Keeps.refl _ _
    | (with_reducible apply sub_intro); exact rfl
    | with_reducible apply State_rclkSettle_keeps
    | with_reducible apply State_setLane_keeps
    | with_reducible apply State_rput_keeps
    | with_reducible apply Keeps.foldl
    | intro _
    | with_reducible apply Keeps.ite
    | split
    | dsimp only

theorem State_putDefect_keeps {m : Nat} {s0 : State} {a0 : State} {a1 : Nat} {a2 : Nat} {a3 : Bool} (h : Keeps m s0 a0) (hs : sub 0x80010 m = true) : Keeps m s0 (State.putDefect a0 a1 a2 a3) := by
  refine h.step ?_ hs
  dsimp only [State.putDefect]
  repeat' first
    | with_reducible first | assumption | exact Keeps.refl _ _
    | (with_reducible apply sub_intro); exact rfl
    | with_reducible apply State_rclkSettle_keeps
    | with_reducible apply State_defectEvent_keeps
    | with_reducible apply State_rput_keeps
    | with_reducible apply State_laneCnt_keeps
    | with_reducible apply Keeps.ite
    | split
    | dsimp only

theorem State_laneRx_keeps {m : Nat} {s0 : State} {a0 : State} {a1 : Nat} {a2 : LineRx} (h : Keeps m s0 a0) (hs : sub 0x280010 m = true) : Keeps m s0 (State.laneRx a0 a1 a2) := by
  refine h.step ?_ hs
  dsimp only [State.laneRx]
  repeat' first
    | with_reducible first | assumption | exact Keeps.refl _ _
    | (with_reducible apply sub_intro); exact rfl
    | with_reducible apply State_laneCnt_keeps
    | with_reducible apply State_setLane_keeps
    | with_reducible apply State_rput_keeps
    | with_reducible apply State_defectEvent_keeps
    | with_reducible apply Keeps.foldl
    | intro _
    | with_reducible apply Keeps.ite
    | split
    | dsimp only

theorem execStartPattern_keeps {m : Nat} {s0 : State} {a0 : Nat} {a1 : LineRx} {a2 : State} (h : Keeps m s0 a2) (hs : sub 0x280010 m = true) : OutKeeps m s0 (execStartPattern a0 a1 a2) := by
  refine OutKeeps.step h ?_ hs
  dsimp only [execStartPattern]
  repeat' first
    | with_reducible first | assumption | exact Keeps.refl _ _
    | (with_reducible apply sub_intro); exact rfl
    | with_reducible apply OutKeeps.next
    | with_reducible apply State_laneRx_keeps
    | with_reducible apply OutKeeps.ite
    | with_reducible apply Keeps.ite
    | split
    | dsimp only

theorem execCandidateCheck_keeps {m : Nat} {s0 : State} {a0 : Nat} {a1 : LineRx} {a2 : State} (h : Keeps m s0 a2) (hs : sub 0x280010 m = true) : OutKeeps m s0 (execCandidateCheck a0 a1 a2) := by
  refine OutKeeps.step h ?_ hs
  dsimp only [execCandidateCheck]
  repeat' first
    | with_reducible first | assumption | exact Keeps.refl _ _
    | (with_reducible apply sub_intro); exact rfl
    | with_reducible apply OutKeeps.next
    | with_reducible apply State_laneRx_keeps
    | with_reducible apply OutKeeps.ite
    | with_reducible apply Keeps.ite
    | split
    | dsimp only

theorem execHyperframeCheck_keeps {m : Nat} {s0 : State} {a0 : Nat} {a1 : LineRx} {a2 : State} (h : Keeps m s0 a2) (hs : sub 0x280010 m = true) : OutKeeps m s0 (execHyperframeCheck a0 a1 a2) := by
  refine OutKeeps.step h ?_ hs
  dsimp only [execHyperframeCheck]
  repeat' first
    | with_reducible first | assumption | exact Keeps.refl _ _
    | (with_reducible apply sub_intro); exact rfl
    | with_reducible apply OutKeeps.next
    | with_reducible apply State_laneRx_keeps
    | with_reducible apply OutKeeps.ite
    | with_reducible apply Keeps.ite
    | split
    | dsimp only

theorem execSdWindowEnd_keeps {m : Nat} {s0 : State} {a0 : Nat} {a1 : LineRx} {a2 : State} (h : Keeps m s0 a2) (hs : sub 0x280010 m = true) : OutKeeps m s0 (execSdWindowEnd a0 a1 a2) := by
  refine OutKeeps.step h ?_ hs
  dsimp only [execSdWindowEnd]
  repeat' first
    | with_reducible first | assumption | exact Keeps.refl _ _
    | (with_reducible apply sub_intro); exact rfl
    | with_reducible apply OutKeeps.next
    | with_reducible apply State_laneRx_keeps
    | with_reducible apply OutKeeps.ite
    | with_reducible apply Keeps.ite
    | split
    | dsimp only

theorem execMapBufferOverflow_keeps {m : Nat} {s0 : State} {a0 : Nat} {a1 : LineRx} {a2 : State} (h : Keeps m s0 a2) (hs : sub 0x280010 m = true) : OutKeeps m s0 (execMapBufferOverflow a0 a1 a2) := by
  refine OutKeeps.step h ?_ hs
  dsimp only [execMapBufferOverflow]
  repeat' first
    | with_reducible first | assumption | exact Keeps.refl _ _
    | (with_reducible apply sub_intro); exact rfl
    | with_reducible apply OutKeeps.next
    | with_reducible apply State_laneRx_keeps
    | with_reducible apply OutKeeps.ite
    | with_reducible apply Keeps.ite
    | split
    | dsimp only

theorem State_defectStep_keeps {m : Nat} {s0 : State} {a0 : State} {a1 : Nat} {a2 : Nat} {a3 : Bool} (h : Keeps m s0 a0) (hs : sub 0x280010 m = true) : Keeps m s0 (State.defectStep a0 a1 a2 a3) := by
  refine h.step ?_ hs
  dsimp only [State.defectStep]
  repeat' first
    | with_reducible first | assumption | exact Keeps.refl _ _
    | (with_reducible apply sub_intro); exact rfl
    | with_reducible apply State_putDefect_keeps
    | with_reducible apply State_setLane_keeps
    | with_reducible apply Keeps.ite
    | split
    | dsimp only

theorem execDefectTick_keeps {m : Nat} {s0 : State} {a0 : Nat} {a1 : LineRx} {a2 : Bool} {a3 : Bool} {a4 : Int} {a5 : State} (h : Keeps m s0 a5) (hs : sub 0x280010 m = true) : OutKeeps m s0 (execDefectTick a0 a1 a2 a3 a4 a5) := by
  refine OutKeeps.step h ?_ hs
  dsimp only [execDefectTick]
  repeat' first
    | with_reducible first | assumption | exact Keeps.refl _ _
    | (with_reducible apply sub_intro); exact rfl
    | with_reducible apply OutKeeps.next
    | with_reducible apply State_laneRx_keeps
    | with_reducible apply State_setLane_keeps
    | with_reducible apply State_defectStep_keeps
    | with_reducible apply State_contEvent_keeps
    | with_reducible apply State_rput_keeps
    | with_reducible apply OutKeeps.ite
    | with_reducible apply Keeps.ite
    | split
    | dsimp only

theorem State_bridgeFrame_keeps {m : Nat} {s0 : State} {a0 : State} {a1 : Nat} {a2 : List Byte} {a3 : Bool} (h : Keeps m s0 a0) (hs : sub 0x1800c00000 m = true) : Keeps m s0 (State.bridgeFrame a0 a1 a2 a3) := by
  refine h.step ?_ hs
  dsimp only [State.bridgeFrame]
  repeat' first
    | with_reducible first | assumption | exact Keeps.refl _ _
    | (with_reducible apply sub_intro); exact rfl
    | with_reducible apply State_capture_keeps
    | with_reducible apply State_issueSlot_keeps
    | with_reducible exact State.Canonical.frames (by assumption)
    | with_reducible apply srise_sins
    | with_reducible apply srise_sset
    | with_reducible apply srise_sdel
    | with_reducible apply swf_sset
    | with_reducible apply swf_smap
    | with_reducible apply swf_sfilter
    | with_reducible apply swf_sdel
    | with_reducible exact swf_nil
    | with_reducible apply swf_foldl
    | with_reducible apply Keeps.foldl
    | intro _
    | with_reducible apply Keeps.ite
    | split
    | dsimp only
    | with_reducible apply Keeps.frames_nextFrame

theorem execCmExtract_keeps {m : Nat} {s0 : State} {a0 : Nat} {a1 : Bool} {a2 : List Byte} {a3 : State} (h : Keeps m s0 a3) (hs : sub 0x1800c00010 m = true) : OutKeeps m s0 (execCmExtract a0 a1 a2 a3) := by
  refine OutKeeps.step h ?_ hs
  dsimp only [execCmExtract]
  repeat' first
    | with_reducible first | assumption | exact Keeps.refl _ _
    | (with_reducible apply sub_intro); exact rfl
    | with_reducible apply OutKeeps.next
    | with_reducible apply State_bridgeFrame_keeps
    | with_reducible apply State_laneCnt_keeps
    | with_reducible apply OutKeeps.ite
    | with_reducible apply Keeps.ite
    | split
    | dsimp only

theorem execMapperEmit_keeps {m : Nat} {s0 : State} {a0 : Nat} {a1 : LineRx} {a2 : State} (h : Keeps m s0 a2) (hs : sub 0x1800e80010 m = true) : OutKeeps m s0 (execMapperEmit a0 a1 a2) := by
  refine OutKeeps.step h ?_ hs
  dsimp only [execMapperEmit]
  repeat' first
    | with_reducible first | assumption | exact Keeps.refl _ _
    | (with_reducible apply sub_intro); exact rfl
    | with_reducible apply OutKeeps.next
    | with_reducible apply State_laneRx_keeps
    | with_reducible apply State_setLane_keeps
    | with_reducible apply State_laneCnt_keeps
    | with_reducible apply State_contEvent_keeps
    | with_reducible apply State_rput_keeps
    | with_reducible apply State_bridgeFrame_keeps
    | with_reducible apply OutKeeps.ite
    | with_reducible apply Keeps.ite
    | split
    | dsimp only

theorem State_playOut_keeps {m : Nat} {s0 : State} {a0 : State} {a1 : Nat} {a2 : Nat} (h : Keeps m s0 a0) (hs : sub 0x200010 m = true) : Keeps m s0 (State.playOut a0 a1 a2) := by
  refine h.step ?_ hs
  dsimp only [State.playOut]
  repeat' first
    | with_reducible first | assumption | exact Keeps.refl _ _
    | (with_reducible apply sub_intro); exact rfl
    | with_reducible apply State_laneCnt_keeps
    | with_reducible apply State_setLane_keeps
    | with_reducible apply State_rput_keeps
    | with_reducible apply Keeps.foldl
    | intro _
    | with_reducible apply Keeps.ite
    | split
    | dsimp only

theorem State_desync_keeps {m : Nat} {s0 : State} {a0 : State} {a1 : Nat} {a2 : Int} {a3 : Nat} (h : Keeps m s0 a0) (hs : sub 0x200010 m = true) : Keeps m s0 (State.desync a0 a1 a2 a3) := by
  refine h.step ?_ hs
  dsimp only [State.desync]
  repeat' first
    | with_reducible first | assumption | exact Keeps.refl _ _
    | (with_reducible apply sub_intro); exact rfl
    | with_reducible apply State_rput_keeps
    | with_reducible apply State_setLane_keeps
    | with_reducible apply Keeps.ite
    | split
    | dsimp only

theorem State_demapRun_keeps {m : Nat} {s0 : State} {a0 : State} {a1 : Nat} (h : Keeps m s0 a0) (hs : sub 0x200010 m = true) : Keeps m s0 (State.demapRun a0 a1) := by
  refine h.step ?_ hs
  dsimp only [State.demapRun]
  repeat' first
    | with_reducible first | assumption | exact Keeps.refl _ _
    | (with_reducible apply sub_intro); exact rfl
    | with_reducible apply State_rput_keeps
    | with_reducible apply State_setLane_keeps
    | with_reducible apply Keeps.ite
    | split
    | dsimp only

theorem State_contWrite_keeps {m : Nat} {s0 : State} {a0 : State} {a1 : Nat} {a2 : List Byte} {a3 : Nat} {a4 : Bool} {a5 : Nat} (h : Keeps m s0 a0) (hs : sub 0x200010 m = true) : Keeps m s0 (State.contWrite a0 a1 a2 a3 a4 a5) := by
  refine h.step ?_ hs
  dsimp only [State.contWrite]
  repeat' first
    | with_reducible first | assumption | exact Keeps.refl _ _
    | (with_reducible apply sub_intro); exact rfl
    | with_reducible apply State_setLane_keeps
    | with_reducible apply State_demapRun_keeps
    | with_reducible apply State_rput_keeps
    | with_reducible apply Keeps.ite
    | split
    | dsimp only

theorem State_contFlags_keeps {m : Nat} {s0 : State} {a0 : State} {a1 : Nat} {a2 : Bool} {a3 : Bool} {a4 : Bool} (h : Keeps m s0 a0) (hs : sub 0x80010 m = true) : Keeps m s0 (State.contFlags a0 a1 a2 a3 a4) := by
  refine h.step ?_ hs
  dsimp only [State.contFlags]
  repeat' first
    | with_reducible first | assumption | exact Keeps.refl _ _
    | (with_reducible apply sub_intro); exact rfl
    | with_reducible apply State_rput_keeps
    | with_reducible apply State_contEvent_keeps
    | with_reducible apply Keeps.ite
    | split
    | dsimp only

theorem State_contAccept_keeps {m : Nat} {s0 : State} {a0 : State} {a1 : Nat} {a2 : List Byte} {a3 : List Byte} (h : Keeps m s0 a0) (hs : sub 0x280010 m = true) : Keeps m s0 (State.contAccept a0 a1 a2 a3) := by
  refine h.step ?_ hs
  dsimp only [State.contAccept]
  repeat' first
    | with_reducible first | assumption | exact Keeps.refl _ _
    | (with_reducible apply sub_intro); exact rfl
    | with_reducible apply State_laneCnt_keeps
    | with_reducible apply State_rput_keeps
    | with_reducible apply State_contFlags_keeps
    | with_reducible apply State_contEvent_keeps
    | with_reducible apply State_setLane_keeps
    | with_reducible apply State_contWrite_keeps
    | with_reducible apply State_desync_keeps
    | with_reducible apply Keeps.foldl
    | intro _
    | with_reducible apply Keeps.ite
    | split
    | dsimp only

theorem execContainerDequeue_keeps {m : Nat} {s0 : State} {a0 : Nat} {a1 : Nat} {a2 : State} (h : Keeps m s0 a2) (hs : sub 0x1819c1680010 m = true) : OutKeeps m s0 (execContainerDequeue a0 a1 a2) := by
  refine OutKeeps.step h ?_ hs
  dsimp only [execContainerDequeue]
  repeat' first
    | with_reducible first | assumption | exact Keeps.refl _ _
    | (with_reducible apply sub_intro); exact rfl
    | with_reducible apply OutKeeps.next
    | with_reducible apply State_playOut_keeps
    | with_reducible apply State_setPx_keeps
    | with_reducible apply State_cinc_keeps
    | with_reducible apply State_release_keeps
    | with_reducible apply State_laneCnt_keeps
    | with_reducible apply State_cadd_keeps
    | with_reducible apply State_contAccept_keeps
    | with_reducible apply OutKeeps.ite
    | with_reducible apply Keeps.ite
    | split
    | dsimp only

theorem execPoUnderrun_keeps {m : Nat} {s0 : State} {a0 : Nat} {a1 : Nat} {a2 : State} (h : Keeps m s0 a2) (hs : sub 0x280010 m = true) : OutKeeps m s0 (execPoUnderrun a0 a1 a2) := by
  refine OutKeeps.step h ?_ hs
  dsimp only [execPoUnderrun]
  repeat' first
    | with_reducible first | assumption | exact Keeps.refl _ _
    | (with_reducible apply sub_intro); exact rfl
    | with_reducible apply OutKeeps.next
    | with_reducible apply State_playOut_keeps
    | with_reducible apply State_contEvent_keeps
    | with_reducible apply State_laneCnt_keeps
    | with_reducible apply State_rput_keeps
    | with_reducible apply OutKeeps.ite
    | with_reducible apply Keeps.ite
    | split
    | dsimp only

end Sys2Proof.Laws
end

