-- ==== Sys2Proof/Laws/Keep/Clocks.lean ====
section
/-! SUPPORT. What each definition of Machine/Clocks may change, and that it keeps the canonical form. -/

namespace Sys2Proof.Laws

open Sys2Proof Sys2Proof.Machine

theorem State_setRefOk_keeps {m : Nat} {s0 : State} {a0 : State} {a1 : Nat} {a2 : Bool} (h : Keeps m s0 a0) (hs : sub 0x80010 m = true) : Keeps m s0 (State.setRefOk a0 a1 a2) := by
  refine h.step ?_ hs
  dsimp only [State.setRefOk]
  repeat' first
    | with_reducible first | assumption | exact Keeps.refl _ _
    | (with_reducible apply sub_intro); exact rfl
    | with_reducible apply State_raise_keeps
    | with_reducible apply State_rput_keeps
    | with_reducible apply Keeps.ite
    | split
    | dsimp only

theorem State_showRef_keeps {m : Nat} {s0 : State} {a0 : State} {a1 : Nat} (h : Keeps m s0 a0) (hs : sub 0x10 m = true) : Keeps m s0 (State.showRef a0 a1) := by
  refine h.step ?_ hs
  dsimp only [State.showRef]
  repeat' first
    | with_reducible first | assumption | exact Keeps.refl _ _
    | (with_reducible apply sub_intro); exact rfl
    | with_reducible apply State_rput_keeps
    | with_reducible apply Keeps.ite
    | split
    | dsimp only

theorem State_settleRef_keeps {m : Nat} {s0 : State} {a0 : State} (h : Keeps m s0 a0) (hs : sub 0x88010 m = true) : Keeps m s0 (State.settleRef a0) := by
  refine h.step ?_ hs
  dsimp only [State.settleRef]
  repeat' first
    | with_reducible first | assumption | exact Keeps.refl _ _
    | (with_reducible apply sub_intro); exact rfl
    | with_reducible apply State_raise_keeps
    | with_reducible apply State_sinc_keeps
    | with_reducible apply State_showRef_keeps
    | with_reducible apply State_rput_keeps
    | with_reducible apply Keeps.ite
    | split
    | dsimp only
    | with_reducible apply Keeps.boot

end Sys2Proof.Laws
end

