-- ==== Sys2Proof/Laws/Keep/SlowPath.lean ====
section
/-! SUPPORT. What each definition of Machine/SlowPath may change, and that it keeps the canonical form. -/

namespace Sys2Proof.Laws

open Sys2Proof Sys2Proof.Machine

theorem State_rxRingError_keeps {m : Nat} {s0 : State} {a0 : State} {a1 : Nat} {a2 : Nat} (h : Keeps m s0 a0) (hs : sub 0x10 m = true) : Keeps m s0 (State.rxRingError a0 a1 a2) := by
  refine h.step ?_ hs
  dsimp only [State.rxRingError]
  repeat' first
    | with_reducible first | assumption | exact Keeps.refl _ _
    | (with_reducible apply sub_intro); exact rfl
    | with_reducible apply State_rputBoth_keeps
    | with_reducible apply State_rput_keeps
    | with_reducible apply Keeps.ite
    | split
    | dsimp only

theorem State_txRingError_keeps {m : Nat} {s0 : State} {a0 : State} {a1 : Nat} {a2 : Nat} (h : Keeps m s0 a0) (hs : sub 0x10 m = true) : Keeps m s0 (State.txRingError a0 a1 a2) := by
  refine h.step ?_ hs
  dsimp only [State.txRingError]
  repeat' first
    | with_reducible first | assumption | exact Keeps.refl _ _
    | (with_reducible apply sub_intro); exact rfl
    | with_reducible apply State_rputBoth_keeps
    | with_reducible apply State_rput_keeps
    | with_reducible apply Keeps.ite
    | split
    | dsimp only

theorem State_slowRingsOff_keeps {m : Nat} {s0 : State} {a0 : State} (h : Keeps m s0 a0) (hs : sub 0x10 m = true) : Keeps m s0 (State.slowRingsOff a0) := by
  refine h.step ?_ hs
  dsimp only [State.slowRingsOff]
  repeat' first
    | with_reducible first | assumption | exact Keeps.refl _ _
    | (with_reducible apply sub_intro); exact rfl
    | with_reducible apply State_rput_keeps
    | with_reducible apply State_rputBoth_keeps
    | with_reducible apply Keeps.foldl
    | intro _
    | with_reducible apply Keeps.ite
    | split
    | dsimp only

theorem State_bufTail_keeps {m : Nat} {s0 : State} {a0 : State} {a1 : Nat} {a2 : Nat} (h : Keeps m s0 a0) (hs : sub 0x10 m = true) : Keeps m s0 (State.bufTail a0 a1 a2) := by
  refine h.step ?_ hs
  dsimp only [State.bufTail]
  repeat' first
    | with_reducible first | assumption | exact Keeps.refl _ _
    | (with_reducible apply sub_intro); exact rfl
    | with_reducible apply State_rputBoth_keeps
    | with_reducible apply State_rxRingError_keeps
    | with_reducible apply Keeps.ite
    | split
    | dsimp only

theorem State_txTail_keeps {m : Nat} {s0 : State} {a0 : State} {a1 : Nat} {a2 : Nat} (h : Keeps m s0 a0) (hs : sub 0x10 m = true) : Keeps m s0 (State.txTail a0 a1 a2) := by
  refine h.step ?_ hs
  dsimp only [State.txTail]
  repeat' first
    | with_reducible first | assumption | exact Keeps.refl _ _
    | (with_reducible apply sub_intro); exact rfl
    | with_reducible apply State_rputBoth_keeps
    | with_reducible apply State_txRingError_keeps
    | with_reducible apply Keeps.ite
    | split
    | dsimp only

theorem execBufTailWrite_keeps {m : Nat} {s0 : State} {a0 : Master} {a1 : Nat} {a2 : Word} {a3 : List HostStore} {a4 : State} (h : Keeps m s0 a4) (hs : sub 0x810f0 m = true) : OutKeeps m s0 (execBufTailWrite a0 a1 a2 a3 a4) := by
  refine OutKeeps.step h ?_ hs
  dsimp only [execBufTailWrite]
  repeat' first
    | with_reducible first | assumption | exact Keeps.refl _ _
    | (with_reducible apply sub_intro); exact rfl
    | with_reducible apply OutKeeps.next
    | with_reducible apply State_guardWrite_keeps
    | with_reducible apply State_applyStores_keeps
    | with_reducible apply State_bufTail_keeps
    | with_reducible apply Keeps.foldl
    | intro _
    | with_reducible apply OutKeeps.ite
    | with_reducible apply Keeps.ite
    | split
    | dsimp only

theorem execTxTailWrite_keeps {m : Nat} {s0 : State} {a0 : Master} {a1 : Nat} {a2 : Word} {a3 : List HostStore} {a4 : State} (h : Keeps m s0 a4) (hs : sub 0x810f0 m = true) : OutKeeps m s0 (execTxTailWrite a0 a1 a2 a3 a4) := by
  refine OutKeeps.step h ?_ hs
  dsimp only [execTxTailWrite]
  repeat' first
    | with_reducible first | assumption | exact Keeps.refl _ _
    | (with_reducible apply sub_intro); exact rfl
    | with_reducible apply OutKeeps.next
    | with_reducible apply State_guardWrite_keeps
    | with_reducible apply State_applyStores_keeps
    | with_reducible apply State_txTail_keeps
    | with_reducible apply Keeps.foldl
    | intro _
    | with_reducible apply OutKeeps.ite
    | with_reducible apply Keeps.ite
    | split
    | dsimp only

theorem State_slowPop_keeps {m : Nat} {s0 : State} {a0 : State} {a1 : Nat} (h : Keeps m s0 a0) (hs : sub 0x2000000 m = true) : Keeps m s0 (State.slowPop a0 a1) := by
  refine h.step ?_ hs
  dsimp only [State.slowPop]
  repeat' first
    | with_reducible first | assumption | exact Keeps.refl _ _
    | (with_reducible apply sub_intro); exact rfl
    | with_reducible apply State_setQ_keeps
    | with_reducible apply Keeps.ite
    | split
    | dsimp only

theorem State_rxToHost_keeps {m : Nat} {s0 : State} {a0 : State} {a1 : Nat} {a2 : Nat} {a3 : Nat} {a4 : Item} {a5 : Bool} (h : Keeps m s0 a0) (hs : sub 0x1818c3480090 m = true) : Keeps m s0 (State.rxToHost a0 a1 a2 a3 a4 a5) := by
  refine h.step ?_ hs
  dsimp only [State.rxToHost]
  repeat' first
    | with_reducible first | assumption | exact Keeps.refl _ _
    | (with_reducible apply sub_intro); exact rfl
    | with_reducible apply State_slowPop_keeps
    | with_reducible apply State_release_keeps
    | with_reducible apply State_cinc_keeps
    | with_reducible apply State_rxRingError_keeps
    | with_reducible apply State_mwrite_keeps
    | with_reducible apply State_mset64_keeps
    | with_reducible apply State_rput_keeps
    | with_reducible apply State_signalVec_keeps
    | with_reducible apply Keeps.ite
    | split
    | dsimp only

theorem State_rxToComplex_keeps {m : Nat} {s0 : State} {a0 : State} {a1 : Nat} {a2 : Nat} {a3 : Item} (h : Keeps m s0 a0) (hs : sub 0x82010018 m = true) : Keeps m s0 (State.rxToComplex a0 a1 a2 a3) := by
  refine h.step ?_ hs
  dsimp only [State.rxToComplex]
  repeat' first
    | with_reducible first | assumption | exact Keeps.refl _ _
    | (with_reducible apply sub_intro); exact rfl
    | with_reducible apply State_loanPut_keeps
    | with_reducible apply State_slowPop_keeps
    | with_reducible apply State_cinc_keeps
    | with_reducible apply State_setCx_keeps
    | with_reducible apply Keeps.ite
    | split
    | dsimp only
    | with_reducible apply Keeps.fresh

theorem execSlowpathRxDeliver_keeps {m : Nat} {s0 : State} {a0 : Nat} {a1 : Nat} {a2 : Bool} {a3 : State} (h : Keeps m s0 a3) (hs : sub 0x1818c3490098 m = true) : OutKeeps m s0 (execSlowpathRxDeliver a0 a1 a2 a3) := by
  refine OutKeeps.step h ?_ hs
  dsimp only [execSlowpathRxDeliver]
  repeat' first
    | with_reducible first | assumption | exact Keeps.refl _ _
    | (with_reducible apply sub_intro); exact rfl
    | with_reducible apply OutKeeps.next
    | with_reducible apply State_cinc_keeps
    | with_reducible apply State_release_keeps
    | with_reducible apply State_slowPop_keeps
    | with_reducible apply State_rxToComplex_keeps
    | with_reducible apply State_rxToHost_keeps
    | with_reducible apply OutKeeps.ite
    | with_reducible apply Keeps.ite
    | split
    | dsimp only

theorem execSlowpathTx_keeps {m : Nat} {s0 : State} {a0 : Nat} {a1 : Bool} {a2 : State} (h : Keeps m s0 a2) (hs : sub 0x1000c00010 m = true) : OutKeeps m s0 (execSlowpathTx a0 a1 a2) := by
  refine OutKeeps.step h ?_ hs
  dsimp only [execSlowpathTx]
  repeat' first
    | with_reducible first | assumption | exact Keeps.refl _ _
    | (with_reducible apply sub_intro); exact rfl
    | with_reducible apply OutKeeps.next
    | with_reducible apply State_txRingError_keeps
    | with_reducible apply State_setPipe_keeps
    | with_reducible apply State_cinc_keeps
    | with_reducible apply State_rput_keeps
    | with_reducible exact State.Canonical.frames (by assumption)
    | with_reducible apply srise_sins
    | with_reducible apply srise_sset
    | with_reducible apply srise_sdel
    | with_reducible apply swf_sset
    | with_reducible apply swf_smap
    | with_reducible apply swf_sfilter
    | with_reducible apply swf_sdel
    | with_reducible exact swf_nil
    | with_reducible apply swf_foldl
    | with_reducible apply Keeps.foldl
    | intro _
    | with_reducible apply OutKeeps.ite
    | with_reducible apply Keeps.ite
    | split
    | dsimp only
    | with_reducible apply Keeps.frames_nextFrame

theorem execHostInject_keeps {m : Nat} {s0 : State} {a0 : Nat} {a1 : State} (h : Keeps m s0 a1) (hs : sub 0x1800400000 m = true) : OutKeeps m s0 (execHostInject a0 a1) := by
  refine OutKeeps.step h ?_ hs
  dsimp only [execHostInject]
  repeat' first
    | with_reducible first | assumption | exact Keeps.refl _ _
    | (with_reducible apply sub_intro); exact rfl
    | with_reducible apply OutKeeps.next
    | with_reducible apply State_capture_keeps
    | with_reducible apply State_issueSlot_keeps
    | with_reducible apply State_setPipe_keeps
    | with_reducible apply OutKeeps.ite
    | with_reducible apply Keeps.ite
    | split
    | dsimp only

theorem execHeadWriteback_keeps {m : Nat} {s0 : State} {a0 : Nat} {a1 : Bool} {a2 : State} (h : Keeps m s0 a2) (hs : sub 0x80090 m = true) : OutKeeps m s0 (execHeadWriteback a0 a1 a2) := by
  refine OutKeeps.step h ?_ hs
  dsimp only [execHeadWriteback]
  repeat' first
    | with_reducible first | assumption | exact Keeps.refl _ _
    | (with_reducible apply sub_intro); exact rfl
    | with_reducible apply OutKeeps.next
    | with_reducible apply State_txRingError_keeps
    | with_reducible apply State_mset64_keeps
    | with_reducible apply State_signalVec_keeps
    | with_reducible apply OutKeeps.ite
    | with_reducible apply Keeps.ite
    | split
    | dsimp only

theorem State_crxPop_keeps {m : Nat} {s0 : State} {a0 : State} {a1 : Master} (h : Keeps m s0 a0) (hs : sub 0x10024 m = true) : Keeps m s0 (State.crxPop a0 a1) := by
  refine h.step ?_ hs
  dsimp only [State.crxPop]
  repeat' first
    | with_reducible first | assumption | exact Keeps.refl _ _
    | (with_reducible apply sub_intro); exact rfl
    | with_reducible apply State_answer_keeps
    | with_reducible apply State_setCx_keeps
    | with_reducible apply State_setBank_keeps
    | with_reducible apply Keeps.foldl
    | intro _
    | with_reducible apply Keeps.ite
    | split
    | dsimp only

theorem execCrxPop_keeps {m : Nat} {s0 : State} {a0 : Master} {a1 : State} (h : Keeps m s0 a1) (hs : sub 0x10024 m = true) : OutKeeps m s0 (execCrxPop a0 a1) := by
  refine OutKeeps.step h ?_ hs
  dsimp only [execCrxPop]
  repeat' first
    | with_reducible first | assumption | exact Keeps.refl _ _
    | (with_reducible apply sub_intro); exact rfl
    | with_reducible apply OutKeeps.next
    | with_reducible apply State_crxPop_keeps
    | with_reducible apply State_answer_keeps
    | with_reducible apply OutKeeps.ite
    | with_reducible apply Keeps.ite
    | split
    | dsimp only

theorem State_loanRead_keeps {m : Nat} {s0 : State} {a0 : State} {a1 : Master} {a2 : Nat} {a3 : Nat} (h : Keeps m s0 a0) (hs : sub 0x14 m = true) : Keeps m s0 (State.loanRead a0 a1 a2 a3) := by
  refine h.step ?_ hs
  dsimp only [State.loanRead]
  repeat' first
    | with_reducible first | assumption | exact Keeps.refl _ _
    | (with_reducible apply sub_intro); exact rfl
    | with_reducible apply State_answer_keeps
    | with_reducible apply State_cinc_keeps
    | with_reducible apply Keeps.ite
    | split
    | dsimp only

theorem State_loanWrite_keeps {m : Nat} {s0 : State} {a0 : State} {a1 : Master} {a2 : Nat} {a3 : Nat} {a4 : Nat} (h : Keeps m s0 a0) (hs : sub 0x80000010 m = true) : Keeps m s0 (State.loanWrite a0 a1 a2 a3 a4) := by
  refine h.step ?_ hs
  dsimp only [State.loanWrite]
  repeat' first
    | with_reducible first | assumption | exact Keeps.refl _ _
    | (with_reducible apply sub_intro); exact rfl
    | with_reducible apply State_setCrl_keeps
    | with_reducible apply State_cinc_keeps
    | with_reducible apply Keeps.ite
    | split
    | dsimp only

theorem execLoanDataAccess_keeps {m : Nat} {s0 : State} {a0 : Master} {a1 : Nat} {a2 : Option Word} {a3 : State} (h : Keeps m s0 a3) (hs : sub 0x80080014 m = true) : OutKeeps m s0 (execLoanDataAccess a0 a1 a2 a3) := by
  refine OutKeeps.step h ?_ hs
  dsimp only [execLoanDataAccess]
  repeat' first
    | with_reducible first | assumption | exact Keeps.refl _ _
    | (with_reducible apply sub_intro); exact rfl
    | with_reducible apply OutKeeps.next
    | with_reducible apply State_answer_keeps
    | with_reducible apply State_loanRead_keeps
    | with_reducible apply State_refuseWrite_keeps
    | with_reducible apply State_loanWrite_keeps
    | with_reducible apply OutKeeps.ite
    | with_reducible apply Keeps.ite
    | split
    | dsimp only

end Sys2Proof.Laws
end

