-- ==== Sys2Proof/Laws/Keep/Boundary.lean ====
section
/-! SUPPORT. What each definition of Machine/Boundary may change, and that it keeps the canonical form. -/

namespace Sys2Proof.Laws

open Sys2Proof Sys2Proof.Machine

theorem State_takeDisabled_keeps {m : Nat} {s0 : State} {a0 : State} {a1 : Nat} {a2 : Nat} {a3 : Nat} {a4 : Nat} (h : Keeps m s0 a0) (hs : sub 0x10 m = true) : Keeps m s0 (State.takeDisabled a0 a1 a2 a3 a4) := by
  refine h.step ?_ hs
  dsimp only [State.takeDisabled]
  repeat' first
    | with_reducible first | assumption | exact Keeps.refl _ _
    | (with_reducible apply sub_intro); exact rfl
    | with_reducible apply State_moveBits_keeps
    | with_reducible apply Keeps.ite
    | split
    | dsimp only

theorem State_ringEnable_keeps {m : Nat} {s0 : State} {a0 : State} {a1 : Nat} (h : Keeps m s0 a0) (hs : sub 0x80010 m = true) : Keeps m s0 (State.ringEnable a0 a1) := by
  refine h.step ?_ hs
  dsimp only [State.ringEnable]
  repeat' first
    | with_reducible first | assumption | exact Keeps.refl _ _
    | (with_reducible apply sub_intro); exact rfl
    | with_reducible apply State_takeDisabled_keeps
    | with_reducible apply State_ringError_keeps
    | with_reducible apply Keeps.ite
    | split
    | dsimp only

theorem State_useSeq_keeps {m : Nat} {s0 : State} {a0 : State} {a1 : State} (h : Keeps m s0 a1) (hs : sub 0x80010 m = true) : Keeps m s0 (State.useSeq a0 a1) := by
  refine h.step ?_ hs
  dsimp only [State.useSeq]
  repeat' first
    | with_reducible first | assumption | exact Keeps.refl _ _
    | (with_reducible apply sub_intro); exact rfl
    | with_reducible apply State_ringEnable_keeps
    | with_reducible apply State_ringError_keeps
    | with_reducible apply Keeps.foldl
    | intro _
    | with_reducible apply Keeps.ite
    | split
    | dsimp only

theorem State_useHost_keeps {m : Nat} {s0 : State} {a0 : State} {a1 : State} (h : Keeps m s0 a1) (hs : sub 0x10 m = true) : Keeps m s0 (State.useHost a0 a1) := by
  refine h.step ?_ hs
  dsimp only [State.useHost]
  repeat' first
    | with_reducible first | assumption | exact Keeps.refl _ _
    | (with_reducible apply sub_intro); exact rfl
    | with_reducible apply State_takeDisabled_keeps
    | with_reducible apply State_rxRingError_keeps
    | with_reducible apply State_txRingError_keeps
    | with_reducible apply Keeps.foldl
    | intro _
    | with_reducible apply Keeps.ite
    | split
    | dsimp only

theorem State_portEnable_keeps {m : Nat} {s0 : State} {a0 : State} {w : State} {a1 : Nat} (h : Keeps m s0 a0) (hs : sub 0x1819cf480050 m = true) : Keeps m s0 (State.portEnable a0 w a1) := by
  refine h.step ?_ hs
  dsimp only [State.portEnable]
  repeat' first
    | with_reducible first | assumption | exact Keeps.refl _ _
    | (with_reducible apply sub_intro); exact rfl
    | with_reducible apply State_takeDisabled_keeps
    | with_reducible apply State_rput_keeps
    | with_reducible apply State_setPx_keeps
    | with_reducible apply State_linkTo_keeps
    | with_reducible apply Keeps.ite
    | split
    | dsimp only
    | with_reducible apply Keeps.failed

theorem State_usePort_keeps {m : Nat} {s0 : State} {a0 : State} {a1 : State} {a2 : Nat} (h : Keeps m s0 a1) (hs : sub 0x1819cf480050 m = true) : Keeps m s0 (State.usePort a0 a1 a2) := by
  refine h.step ?_ hs
  dsimp only [State.usePort]
  repeat' first
    | with_reducible first | assumption | exact Keeps.refl _ _
    | (with_reducible apply sub_intro); exact rfl
    | with_reducible apply State_portEnable_keeps
    | with_reducible apply State_setPx_keeps
    | with_reducible apply Keeps.ite
    | split
    | dsimp only

theorem State_useLane_keeps {m : Nat} {s0 : State} {a0 : State} {a1 : State} {a2 : Nat} (h : Keeps m s0 a1) (hs : sub 0x280050 m = true) : Keeps m s0 (State.useLane a0 a1 a2) := by
  refine h.step ?_ hs
  dsimp only [State.useLane]
  repeat' first
    | with_reducible first | assumption | exact Keeps.refl _ _
    | (with_reducible apply sub_intro); exact rfl
    | with_reducible apply State_laneEnable_keeps
    | with_reducible apply State_takeDisabled_keeps
    | with_reducible apply State_laneDisable_keeps
    | with_reducible apply State_setLane_keeps
    | with_reducible apply Keeps.ite
    | split
    | dsimp only

theorem State_useSpill_keeps {m : Nat} {s0 : State} {a0 : State} {a1 : State} {a2 : Nat} (h : Keeps m s0 a1) (hs : sub 0x80000010 m = true) : Keeps m s0 (State.useSpill a0 a1 a2) := by
  refine h.step ?_ hs
  dsimp only [State.useSpill]
  repeat' first
    | with_reducible first | assumption | exact Keeps.refl _ _
    | (with_reducible apply sub_intro); exact rfl
    | with_reducible apply State_takeDisabled_keeps
    | with_reducible apply State_setCrl_keeps
    | with_reducible apply State_rsub_keeps
    | with_reducible apply State_rput_keeps
    | with_reducible apply State_radd_keeps
    | with_reducible apply Keeps.ite
    | split
    | dsimp only

theorem State_usePaging_keeps {m : Nat} {s0 : State} {a0 : State} {a1 : State} (h : Keeps m s0 a1) (hs : sub 0x10 m = true) : Keeps m s0 (State.usePaging a0 a1) := by
  refine h.step ?_ hs
  dsimp only [State.usePaging]
  repeat' first
    | with_reducible first | assumption | exact Keeps.refl _ _
    | (with_reducible apply sub_intro); exact rfl
    | with_reducible apply State_takeDisabled_keeps
    | with_reducible apply State_rput_keeps
    | with_reducible apply Keeps.ite
    | split
    | dsimp only

theorem State_useExt_keeps {m : Nat} {s0 : State} {a0 : State} {a1 : State} (h : Keeps m s0 a1) (hs : sub 0x10 m = true) : Keeps m s0 (State.useExt a0 a1) := by
  refine h.step ?_ hs
  dsimp only [State.useExt]
  repeat' first
    | with_reducible first | assumption | exact Keeps.refl _ _
    | (with_reducible apply sub_intro); exact rfl
    | with_reducible apply State_takeDisabled_keeps
    | with_reducible apply State_rput_keeps
    | with_reducible apply Keeps.ite
    | split
    | dsimp only

theorem State_useMerid_keeps {m : Nat} {s0 : State} {a0 : State} {a1 : State} (h : Keeps m s0 a1) (hs : sub 0xc0010 m = true) : Keeps m s0 (State.useMerid a0 a1) := by
  refine h.step ?_ hs
  dsimp only [State.useMerid]
  repeat' first
    | with_reducible first | assumption | exact Keeps.refl _ _
    | (with_reducible apply sub_intro); exact rfl
    | with_reducible apply State_rclkSettle_keeps
    | with_reducible apply State_ppsEnable_keeps
    | with_reducible apply Keeps.ite
    | split
    | dsimp only

theorem State_useEvents_keeps {m : Nat} {s0 : State} {a0 : State} {a1 : State} (h : Keeps m s0 a1) (hs : sub 0x80010 m = true) : Keeps m s0 (State.useEvents a0 a1) := by
  refine h.step ?_ hs
  dsimp only [State.useEvents]
  repeat' first
    | with_reducible first | assumption | exact Keeps.refl _ _
    | (with_reducible apply sub_intro); exact rfl
    | with_reducible apply State_signalVec_keeps
    | with_reducible apply Keeps.foldl
    | intro _
    | with_reducible apply Keeps.ite
    | split
    | dsimp only

theorem State_useTally_keeps {m : Nat} {s0 : State} {a0 : State} {a1 : State} (h : Keeps m s0 a1) (hs : sub 0x100010 m = true) : Keeps m s0 (State.useTally a0 a1) := by
  refine h.step ?_ hs
  dsimp only [State.useTally]
  repeat' first
    | with_reducible first | assumption | exact Keeps.refl _ _
    | (with_reducible apply sub_intro); exact rfl
    | with_reducible apply State_takeDisabled_keeps
    | with_reducible apply Keeps.ite
    | split
    | dsimp only
    | with_reducible apply Keeps.tally

theorem State_useCplx_keeps {m : Nat} {s0 : State} {a0 : State} {a1 : State} (h : Keeps m s0 a1) (hs : sub 0x90010 m = true) : Keeps m s0 (State.useCplx a0 a1) := by
  refine h.step ?_ hs
  dsimp only [State.useCplx]
  repeat' first
    | with_reducible first | assumption | exact Keeps.refl _ _
    | (with_reducible apply sub_intro); exact rfl
    | with_reducible apply State_setCx_keeps
    | with_reducible apply State_raiseIf_keeps
    | with_reducible apply Keeps.ite
    | split
    | dsimp only

theorem State_useAvs_keeps {m : Nat} {s0 : State} {a0 : State} {a1 : State} (h : Keeps m s0 a1) (hs : sub 0x3010 m = true) : Keeps m s0 (State.useAvs a0 a1) := by
  refine h.step ?_ hs
  dsimp only [State.useAvs]
  repeat' first
    | with_reducible first | assumption | exact Keeps.refl _ _
    | (with_reducible apply sub_intro); exact rfl
    | with_reducible apply State_setRail_keeps
    | with_reducible apply State_rput_keeps
    | with_reducible apply State_setDomx_keeps
    | with_reducible apply Keeps.foldl
    | intro _
    | with_reducible apply Keeps.ite
    | split
    | dsimp only

theorem State_ringsFreed_keeps {m : Nat} {s0 : State} {a0 : State} {a1 : State} (h : Keeps m s0 a1) (hs : sub 0x80010 m = true) : Keeps m s0 (State.ringsFreed a0 a1) := by
  refine h.step ?_ hs
  dsimp only [State.ringsFreed]
  repeat' first
    | with_reducible first | assumption | exact Keeps.refl _ _
    | (with_reducible apply sub_intro); exact rfl
    | with_reducible apply State_moveBits_keeps
    | with_reducible apply State_useSeq_keeps
    | with_reducible apply Keeps.ite
    | split
    | dsimp only

theorem State_afterUse_keeps {m : Nat} {s0 : State} {a0 : State} {a1 : State} {a2 : Nat} {a3 : Nat} (h : Keeps m s0 a1) (hs : sub 0x1819cf7db050 m = true) : Keeps m s0 (State.afterUse a0 a1 a2 a3) := by
  refine h.step ?_ hs
  dsimp only [State.afterUse]
  repeat' first
    | with_reducible first | assumption | exact Keeps.refl _ _
    | (with_reducible apply sub_intro); exact rfl
    | with_reducible apply State_dropUnready_keeps
    | with_reducible apply State_settleRef_keeps
    | with_reducible apply State_useExt_keeps
    | with_reducible apply State_useAvs_keeps
    | with_reducible apply State_useEvents_keeps
    | with_reducible apply State_useSeq_keeps
    | with_reducible apply State_useHost_keeps
    | with_reducible apply State_usePort_keeps
    | with_reducible apply State_useLane_keeps
    | with_reducible apply State_takeDisabled_keeps
    | with_reducible apply State_useSpill_keeps
    | with_reducible apply State_usePaging_keeps
    | with_reducible apply State_useMerid_keeps
    | with_reducible apply State_ringsFreed_keeps
    | with_reducible apply State_useCplx_keeps
    | with_reducible apply State_useTally_keeps
    | with_reducible apply Keeps.ite
    | split
    | dsimp only

theorem State_boundary_keeps {m : Nat} {s0 : State} {a0 : State} {a1 : Boundary} {a2 : Nat} {a3 : Nat} {a4 : Nat} (h : Keeps m s0 a0) (hs : sub 0x1819cf7db050 m = true) : Keeps m s0 (State.boundary a0 a1 a2 a3 a4) := by
  refine h.step ?_ hs
  dsimp only [State.boundary]
  repeat' first
    | with_reducible first | assumption | exact Keeps.refl _ _
    | (with_reducible apply sub_intro); exact rfl
    | with_reducible apply State_afterUse_keeps
    | with_reducible apply State_moveBits_keeps
    | with_reducible apply Keeps.ite
    | split
    | dsimp only

theorem State_enablesIn_keeps {m : Nat} {s0 : State} {a0 : State} {a1 : State} {a2 : Nat} {a3 : Nat} (h : Keeps m s0 a1) (hs : sub 0x1819cf7db050 m = true) : Keeps m s0 (State.enablesIn a0 a1 a2 a3) := by
  refine h.step ?_ hs
  dsimp only [State.enablesIn]
  repeat' first
    | with_reducible first | assumption | exact Keeps.refl _ _
    | (with_reducible apply sub_intro); exact rfl
    | with_reducible apply State_moveBits_keeps
    | with_reducible apply State_usePort_keeps
    | with_reducible apply State_afterUse_keeps
    | with_reducible apply State_rputBoth_keeps
    | with_reducible apply Keeps.ite
    | split
    | dsimp only

theorem State_enablesOut_keeps {m : Nat} {s0 : State} {a0 : State} {a1 : State} {a2 : Nat} {a3 : Nat} (h : Keeps m s0 a1) (hs : sub 0x1819cf7db050 m = true) : Keeps m s0 (State.enablesOut a0 a1 a2 a3) := by
  refine h.step ?_ hs
  dsimp only [State.enablesOut]
  repeat' first
    | with_reducible first | assumption | exact Keeps.refl _ _
    | (with_reducible apply sub_intro); exact rfl
    | with_reducible apply State_afterUse_keeps
    | with_reducible exact State.Canonical.regs (by assumption)
    | with_reducible apply swf_sset
    | with_reducible apply swf_smap
    | with_reducible apply swf_sfilter
    | with_reducible apply swf_sdel
    | with_reducible exact swf_nil
    | with_reducible apply swf_foldl
    | with_reducible apply Keeps.foldl
    | intro _
    | with_reducible apply Keeps.ite
    | split
    | dsimp only
    | with_reducible apply Keeps.regs

theorem State_boundaryOn_keeps {m : Nat} {s0 : State} {a0 : State} {a1 : Boundary} {a2 : Nat} {a3 : Nat} {a4 : Nat} (h : Keeps m s0 a0) (hs : sub 0x1819cf7db050 m = true) : Keeps m s0 (State.boundaryOn a0 a1 a2 a3 a4) := by
  refine h.step ?_ hs
  dsimp only [State.boundaryOn]
  repeat' first
    | with_reducible first | assumption | exact Keeps.refl _ _
    | (with_reducible apply sub_intro); exact rfl
    | with_reducible apply State_afterUse_keeps
    | with_reducible apply State_moveBits_keeps
    | with_reducible apply Keeps.ite
    | split
    | dsimp only

theorem execBoundaryApply_keeps {m : Nat} {s0 : State} {a0 : Boundary} {a1 : Nat} {a2 : Nat} {a3 : Nat} {a4 : State} (h : Keeps m s0 a4) (hs : sub 0x1819cf7db050 m = true) : OutKeeps m s0 (execBoundaryApply a0 a1 a2 a3 a4) := by
  refine OutKeeps.step h ?_ hs
  dsimp only [execBoundaryApply]
  repeat' first
    | with_reducible first | assumption | exact Keeps.refl _ _
    | (with_reducible apply sub_intro); exact rfl
    | with_reducible apply OutKeeps.next
    | with_reducible apply State_boundaryOn_keeps
    | with_reducible apply OutKeeps.ite
    | with_reducible apply Keeps.ite
    | split
    | dsimp only

end Sys2Proof.Laws
end

