-- ==== Sys2Proof/Laws/Keep/Rings.lean ====
section
/-! SUPPORT. What each definition of Machine/Rings may change, and that it keeps the canonical form. -/

namespace Sys2Proof.Laws

open Sys2Proof Sys2Proof.Machine

theorem State_ringDoor_keeps {m : Nat} {s0 : State} {a0 : State} {a1 : Master} {a2 : Nat} {a3 : Nat} {a4 : State → State} (h : Keeps m s0 a0) (hs : sub 0x80010 m = true) (g4 : ∀ x0, Keeps m s0 x0 → Keeps m s0 (a4 x0)) : Keeps m s0 (State.ringDoor a0 a1 a2 a3 a4) := by
  dsimp only [State.ringDoor]
  repeat' first
    | with_reducible first | assumption | exact Keeps.refl _ _
    | (with_reducible apply sub_intro); exact rfl
    | with_reducible apply g4
    | exact sub_trans (sub_intro rfl) hs
    | with_reducible apply State_refuseWrite_keeps
    | with_reducible apply State_raiseIf_keeps
    | with_reducible apply State_raise_keeps
    | with_reducible apply State_sinc_keeps
    | with_reducible apply Keeps.ite
    | split
    | dsimp only

theorem State_ringTail_keeps {m : Nat} {s0 : State} {a0 : State} {a1 : Nat} {a2 : Nat} (h : Keeps m s0 a0) (hs : sub 0x80010 m = true) : Keeps m s0 (State.ringTail a0 a1 a2) := by
  refine h.step ?_ hs
  dsimp only [State.ringTail]
  repeat' first
    | with_reducible first | assumption | exact Keeps.refl _ _
    | (with_reducible apply sub_intro); exact rfl
    | with_reducible apply State_rputBoth_keeps
    | with_reducible apply State_ringError_keeps
    | with_reducible apply Keeps.ite
    | split
    | dsimp only

theorem State_ringCqHead_keeps {m : Nat} {s0 : State} {a0 : State} {a1 : Nat} {a2 : Nat} (h : Keeps m s0 a0) (hs : sub 0x410 m = true) : Keeps m s0 (State.ringCqHead a0 a1 a2) := by
  refine h.step ?_ hs
  dsimp only [State.ringCqHead]
  repeat' first
    | with_reducible first | assumption | exact Keeps.refl _ _
    | (with_reducible apply sub_intro); exact rfl
    | with_reducible apply State_noteCq_keeps
    | with_reducible apply State_rputBoth_keeps
    | with_reducible apply Keeps.ite
    | split
    | dsimp only

theorem execTailWrite_keeps {m : Nat} {s0 : State} {a0 : Master} {a1 : Nat} {a2 : Word} {a3 : List HostStore} {a4 : State} (h : Keeps m s0 a4) (hs : sub 0x80090 m = true) : OutKeeps m s0 (execTailWrite a0 a1 a2 a3 a4) := by
  refine OutKeeps.step h ?_ hs
  dsimp only [execTailWrite]
  repeat' first
    | with_reducible first | assumption | exact Keeps.refl _ _
    | (with_reducible apply sub_intro); exact rfl
    | with_reducible apply OutKeeps.next
    | with_reducible apply State_ringDoor_keeps
    | with_reducible apply State_applyStores_keeps
    | with_reducible apply State_ringTail_keeps
    | with_reducible apply Keeps.foldl
    | intro _
    | with_reducible apply OutKeeps.ite
    | with_reducible apply Keeps.ite
    | split
    | dsimp only

theorem execCqHeadWrite_keeps {m : Nat} {s0 : State} {a0 : Master} {a1 : Nat} {a2 : Word} {a3 : State} (h : Keeps m s0 a3) (hs : sub 0x80410 m = true) : OutKeeps m s0 (execCqHeadWrite a0 a1 a2 a3) := by
  refine OutKeeps.step h ?_ hs
  dsimp only [execCqHeadWrite]
  repeat' first
    | with_reducible first | assumption | exact Keeps.refl _ _
    | (with_reducible apply sub_intro); exact rfl
    | with_reducible apply OutKeeps.next
    | with_reducible apply State_ringDoor_keeps
    | with_reducible apply State_ringCqHead_keeps
    | with_reducible apply Keeps.foldl
    | intro _
    | with_reducible apply OutKeeps.ite
    | with_reducible apply Keeps.ite
    | split
    | dsimp only

theorem State_ringErrClear_keeps {m : Nat} {s0 : State} {a0 : State} {a1 : Nat} (h : Keeps m s0 a0) (hs : sub 0x10 m = true) : Keeps m s0 (State.ringErrClear a0 a1) := by
  refine h.step ?_ hs
  dsimp only [State.ringErrClear]
  repeat' first
    | with_reducible first | assumption | exact Keeps.refl _ _
    | (with_reducible apply sub_intro); exact rfl
    | with_reducible apply State_rput_keeps
    | with_reducible apply Keeps.ite
    | split
    | dsimp only

theorem execRingErrClear_keeps {m : Nat} {s0 : State} {a0 : Master} {a1 : Nat} {a2 : State} (h : Keeps m s0 a2) (hs : sub 0x81070 m = true) : OutKeeps m s0 (execRingErrClear a0 a1 a2) := by
  refine OutKeeps.step h ?_ hs
  dsimp only [execRingErrClear]
  repeat' first
    | with_reducible first | assumption | exact Keeps.refl _ _
    | (with_reducible apply sub_intro); exact rfl
    | with_reducible apply OutKeeps.next
    | with_reducible apply State_guardWrite_keeps
    | with_reducible apply State_ringErrClear_keeps
    | with_reducible apply Keeps.foldl
    | intro _
    | with_reducible apply OutKeeps.ite
    | with_reducible apply Keeps.ite
    | split
    | dsimp only

theorem State_fetchBoundary_keeps {m : Nat} {s0 : State} {a0 : State} (h : Keeps m s0 a0) (hs : sub 0x1819cf7db050 m = true) : Keeps m s0 (State.fetchBoundary a0) := by
  refine h.step ?_ hs
  dsimp only [State.fetchBoundary]
  repeat' first
    | with_reducible first | assumption | exact Keeps.refl _ _
    | (with_reducible apply sub_intro); exact rfl
    | with_reducible apply State_boundary_keeps
    | with_reducible apply Keeps.foldl
    | intro _
    | with_reducible apply Keeps.ite
    | split
    | dsimp only

theorem State_startProgram_keeps {m : Nat} {s0 : State} {a0 : State} {a1 : Nat} {a2 : Nat} {a3 : Nat} {a4 : Nat} {a5 : Nat} {a6 : Nat} (h : Keeps m s0 a0) (hs : sub 0x800080690 m = true) : Keeps m s0 (State.startProgram a0 a1 a2 a3 a4 a5 a6) := by
  refine h.step ?_ hs
  dsimp only [State.startProgram]
  repeat' first
    | with_reducible first | assumption | exact Keeps.refl _ _
    | (with_reducible apply sub_intro); exact rfl
    | with_reducible apply State_noteCq_keeps
    | with_reducible apply State_winc_keeps
    | with_reducible apply State_setThr_keeps
    | with_reducible apply State_endProg_keeps
    | with_reducible apply Keeps.ite
    | split
    | dsimp only

theorem State_fetchStart_keeps {m : Nat} {s0 : State} {a0 : State} {a1 : Nat} {a2 : Nat} {a3 : AxFault} (h : Keeps m s0 a0) (hs : sub 0x800080e90 m = true) : Keeps m s0 (State.fetchStart a0 a1 a2 a3) := by
  refine h.step ?_ hs
  dsimp only [State.fetchStart]
  repeat' first
    | with_reducible first | assumption | exact Keeps.refl _ _
    | (with_reducible apply sub_intro); exact rfl
    | with_reducible apply State_ringError_keeps
    | with_reducible apply State_setRingx_keeps
    | with_reducible apply State_winc_keeps
    | with_reducible apply State_noteCq_keeps
    | with_reducible apply State_writeRecord_keeps
    | with_reducible apply State_startProgram_keeps
    | with_reducible exact State.Canonical.lastStarted (by assumption)
    | with_reducible apply swf_sset
    | with_reducible apply swf_smap
    | with_reducible apply swf_sfilter
    | with_reducible apply swf_sdel
    | with_reducible exact swf_nil
    | with_reducible apply swf_foldl
    | with_reducible apply Keeps.foldl
    | intro _
    | with_reducible apply Keeps.ite
    | split
    | dsimp only
    | with_reducible apply Keeps.lastStarted

theorem execProgramStart_keeps {m : Nat} {s0 : State} {a0 : AxFault} {a1 : State} (h : Keeps m s0 a1) (hs : sub 0x1819cf7dbed0 m = true) : OutKeeps m s0 (execProgramStart a0 a1) := by
  refine OutKeeps.step h ?_ hs
  dsimp only [execProgramStart]
  repeat' first
    | with_reducible first | assumption | exact Keeps.refl _ _
    | (with_reducible apply sub_intro); exact rfl
    | with_reducible apply OutKeeps.next
    | with_reducible apply State_fetchBoundary_keeps
    | with_reducible apply State_fetchStart_keeps
    | with_reducible apply OutKeeps.ite
    | with_reducible apply Keeps.ite
    | split
    | dsimp only

theorem execCqStall_keeps {m : Nat} {s0 : State} {a0 : Nat} {a1 : State} (h : Keeps m s0 a1) (hs : sub 0x80410 m = true) : OutKeeps m s0 (execCqStall a0 a1) := by
  refine OutKeeps.step h ?_ hs
  dsimp only [execCqStall]
  repeat' first
    | with_reducible first | assumption | exact Keeps.refl _ _
    | (with_reducible apply sub_intro); exact rfl
    | with_reducible apply OutKeeps.next
    | with_reducible apply State_raise_keeps
    | with_reducible apply State_setRingx_keeps
    | with_reducible apply OutKeeps.ite
    | with_reducible apply Keeps.ite
    | split
    | dsimp only

theorem State_stopProg_keeps {m : Nat} {s0 : State} {a0 : State} {a1 : Nat} {a2 : Nat} (h : Keeps m s0 a0) (hs : sub 0x800080690 m = true) : Keeps m s0 (State.stopProg a0 a1 a2) := by
  refine h.step ?_ hs
  dsimp only [State.stopProg]
  repeat' first
    | with_reducible first | assumption | exact Keeps.refl _ _
    | (with_reducible apply sub_intro); exact rfl
    | with_reducible apply State_endProg_keeps
    | with_reducible apply State_setThr_keeps
    | with_reducible apply Keeps.ite
    | split
    | dsimp only

theorem execThreadHalt_keeps {m : Nat} {s0 : State} {a0 : Nat} {a1 : State} (h : Keeps m s0 a1) (hs : sub 0x800080690 m = true) : OutKeeps m s0 (execThreadHalt a0 a1) := by
  refine OutKeeps.step h ?_ hs
  dsimp only [execThreadHalt]
  repeat' first
    | with_reducible first | assumption | exact Keeps.refl _ _
    | (with_reducible apply sub_intro); exact rfl
    | with_reducible apply OutKeeps.next
    | with_reducible apply State_stopProg_keeps
    | with_reducible apply OutKeeps.ite
    | with_reducible apply Keeps.ite
    | split
    | dsimp only

theorem execBudgetExpiry_keeps {m : Nat} {s0 : State} {a0 : Nat} {a1 : State} (h : Keeps m s0 a1) (hs : sub 0x800080690 m = true) : OutKeeps m s0 (execBudgetExpiry a0 a1) := by
  refine OutKeeps.step h ?_ hs
  dsimp only [execBudgetExpiry]
  repeat' first
    | with_reducible first | assumption | exact Keeps.refl _ _
    | (with_reducible apply sub_intro); exact rfl
    | with_reducible apply OutKeeps.next
    | with_reducible apply State_stopProg_keeps
    | with_reducible apply OutKeeps.ite
    | with_reducible apply Keeps.ite
    | split
    | dsimp only

theorem execWaitTimeout_keeps {m : Nat} {s0 : State} {a0 : Nat} {a1 : State} (h : Keeps m s0 a1) (hs : sub 0x800080690 m = true) : OutKeeps m s0 (execWaitTimeout a0 a1) := by
  refine OutKeeps.step h ?_ hs
  dsimp only [execWaitTimeout]
  repeat' first
    | with_reducible first | assumption | exact Keeps.refl _ _
    | (with_reducible apply sub_intro); exact rfl
    | with_reducible apply OutKeeps.next
    | with_reducible apply State_endWait_keeps
    | with_reducible apply OutKeeps.ite
    | with_reducible apply Keeps.ite
    | split
    | dsimp only

theorem State_resetRing_keeps {m : Nat} {s0 : State} {a0 : State} {a1 : Nat} (h : Keeps m s0 a0) (hs : sub 0x800080610 m = true) : Keeps m s0 (State.resetRing a0 a1) := by
  refine h.step ?_ hs
  dsimp only [State.resetRing]
  repeat' first
    | with_reducible first | assumption | exact Keeps.refl _ _
    | (with_reducible apply sub_intro); exact rfl
    | with_reducible apply State_killProg_keeps
    | with_reducible apply State_rputBoth_keeps
    | with_reducible apply State_setRingx_keeps
    | with_reducible apply State_rput_keeps
    | with_reducible apply Keeps.foldl
    | intro _
    | with_reducible apply Keeps.ite
    | split
    | dsimp only

theorem State_resetRingsOf_keeps {m : Nat} {s0 : State} {a0 : State} {a1 : Nat} (h : Keeps m s0 a0) (hs : sub 0x800080610 m = true) : Keeps m s0 (State.resetRingsOf a0 a1) := by
  refine h.step ?_ hs
  dsimp only [State.resetRingsOf]
  repeat' first
    | with_reducible first | assumption | exact Keeps.refl _ _
    | (with_reducible apply sub_intro); exact rfl
    | with_reducible apply State_resetRing_keeps
    | with_reducible apply Keeps.foldl
    | intro _
    | with_reducible apply Keeps.ite
    | split
    | dsimp only

end Sys2Proof.Laws
end

