-- ==== Sys2Proof/Laws/Keep/Registers.lean ====
section
/-! SUPPORT. What each definition of Machine/Registers may change, and that it keeps the canonical form. -/

namespace Sys2Proof.Laws

open Sys2Proof Sys2Proof.Machine

theorem State_startLock_keeps {m : Nat} {s0 : State} {a0 : State} (h : Keeps m s0 a0) (hs : sub 0x8010 m = true) : Keeps m s0 (State.startLock a0) := by
  refine h.step ?_ hs
  dsimp only [State.startLock]
  repeat' first
    | with_reducible first | assumption | exact Keeps.refl _ _
    | (with_reducible apply sub_intro); exact rfl
    | with_reducible apply State_rput_keeps
    | with_reducible apply Keeps.ite
    | split
    | dsimp only
    | with_reducible apply Keeps.boot

theorem State_trainStart_keeps {m : Nat} {s0 : State} {a0 : State} {a1 : Nat} (h : Keeps m s0 a0) (hs : sub 0x10 m = true) : Keeps m s0 (State.trainStart a0 a1) := by
  refine h.step ?_ hs
  dsimp only [State.trainStart]
  repeat' first
    | with_reducible first | assumption | exact Keeps.refl _ _
    | (with_reducible apply sub_intro); exact rfl
    | with_reducible apply State_cinc_keeps
    | with_reducible apply State_rput_keeps
    | with_reducible apply Keeps.ite
    | split
    | dsimp only

theorem State_w1cClear_keeps {m : Nat} {s0 : State} {a0 : State} {a1 : Nat} {a2 : Nat} {a3 : Nat} {a4 : Nat} (h : Keeps m s0 a0) (hs : sub 0x10 m = true) : Keeps m s0 (State.w1cClear a0 a1 a2 a3 a4) := by
  refine h.step ?_ hs
  dsimp only [State.w1cClear]
  repeat' first
    | with_reducible first | assumption | exact Keeps.refl _ _
    | (with_reducible apply sub_intro); exact rfl
    | with_reducible apply State_setCell_keeps
    | with_reducible apply Keeps.ite
    | split
    | dsimp only

theorem State_regAction_keeps {m : Nat} {s0 : State} {a0 : State} {a1 : Nat} {a2 : Nat} {a3 : Nat} {a4 : Nat} {a5 : Nat} (h : Keeps m s0 a0) (hs : sub 0x193cc14f96b0 m = true) : Keeps m s0 (State.regAction a0 a1 a2 a3 a4 a5) := by
  refine h.step ?_ hs
  dsimp only [State.regAction]
  repeat' first
    | with_reducible first | assumption | exact Keeps.refl _ _
    | (with_reducible apply sub_intro); exact rfl
    | with_reducible apply State_w1cClear_keeps
    | with_reducible apply State_rput_keeps
    | with_reducible apply State_startLock_keeps
    | with_reducible apply State_pdRequest_keeps
    | with_reducible apply State_clearStatus_keeps
    | with_reducible apply State_ringErrClear_keeps
    | with_reducible apply State_loanReturn_keeps
    | with_reducible apply State_txTail_keeps
    | with_reducible apply State_bufTail_keeps
    | with_reducible apply State_portSnap_keeps
    | with_reducible apply State_setSv_keeps
    | with_reducible apply State_loanReclaim_keeps
    | with_reducible apply State_unpoison_keeps
    | with_reducible apply State_todArm_keeps
    | with_reducible apply State_trainStart_keeps
    | with_reducible apply State_imgBegin_keeps
    | with_reducible apply State_ctlWrite_keeps
    | with_reducible apply State_selfWrite_keeps
    | with_reducible apply Keeps.ite
    | split
    | dsimp only

theorem State_heldDone_keeps {m : Nat} {s0 : State} {a0 : State} {a1 : HeldWrite} (h : Keeps m s0 a0) (hs : sub 0x193cc14f96b0 m = true) : Keeps m s0 (State.heldDone a0 a1) := by
  refine h.step ?_ hs
  dsimp only [State.heldDone]
  repeat' first
    | with_reducible first | assumption | exact Keeps.refl _ _
    | (with_reducible apply sub_intro); exact rfl
    | with_reducible apply State_regAction_keeps
    | with_reducible apply Keeps.ite
    | split
    | dsimp only

theorem State_regWrite_keeps {m : Nat} {s0 : State} {a0 : State} {a1 : Master} {a2 : Nat} {a3 : Nat} {a4 : Nat} (h : Keeps m s0 a0) (hs : sub 0x193cc14f96f0 m = true) : Keeps m s0 (State.regWrite a0 a1 a2 a3 a4).1 := by
  refine h.step ?_ hs
  dsimp only [State.regWrite]
  repeat' first
    | with_reducible first | assumption | exact Keeps.refl _ _
    | (with_reducible apply sub_intro); exact rfl
    | with_reducible apply State_refuseWrite_keeps
    | with_reducible apply State_loanWrite_keeps
    | with_reducible apply State_mergeWrite_keeps
    | with_reducible apply State_holdAction_keeps
    | with_reducible apply State_regAction_keeps
    | with_reducible apply Keeps.ite
    | with_reducible apply Keeps.iteFst
    | split
    | dsimp only

theorem State_msixWrite_keeps {m : Nat} {s0 : State} {a0 : State} {a1 : Nat} {a2 : Nat} {a3 : Nat} {a4 : Nat} (h : Keeps m s0 a0) (hs : sub 0x40000000000 m = true) : Keeps m s0 (State.msixWrite a0 a1 a2 a3 a4) := by
  refine h.step ?_ hs
  dsimp only [State.msixWrite]
  repeat' first
    | with_reducible first | assumption | exact Keeps.refl _ _
    | (with_reducible apply sub_intro); exact rfl
    | with_reducible exact State.Canonical.msix (by assumption)
    | with_reducible apply swf_sset
    | with_reducible apply swf_smap
    | with_reducible apply swf_sfilter
    | with_reducible apply swf_sdel
    | with_reducible exact swf_nil
    | with_reducible apply swf_foldl
    | with_reducible apply Keeps.foldl
    | intro _
    | with_reducible apply Keeps.ite
    | split
    | dsimp only
    | with_reducible apply Keeps.msix

theorem State_mbxWrite_keeps {m : Nat} {s0 : State} {a0 : State} {a1 : Master} {a2 : Nat} {a3 : Bool} {a4 : Nat} {a5 : Nat} (h : Keeps m s0 a0) (hs : sub 0x1918c1480038 m = true) : Keeps m s0 (State.mbxWrite a0 a1 a2 a3 a4 a5) := by
  refine h.step ?_ hs
  dsimp only [State.mbxWrite]
  repeat' first
    | with_reducible first | assumption | exact Keeps.refl _ _
    | (with_reducible apply sub_intro); exact rfl
    | with_reducible apply State_setSide_keeps
    | with_reducible apply State_postWrite_keeps
    | with_reducible apply State_lockWrite_keeps
    | with_reducible apply State_attWrite_keeps
    | with_reducible apply State_setBank_keeps
    | with_reducible apply State_loanWrite_keeps
    | with_reducible apply Keeps.ite
    | split
    | dsimp only

theorem State_bar2Write_keeps {m : Nat} {s0 : State} {a0 : State} {a1 : Master} {a2 : Nat} {a3 : Nat} (h : Keeps m s0 a0) (hs : sub 0x1d18c1480438 m = true) : Keeps m s0 (State.bar2Write a0 a1 a2 a3) := by
  refine h.step ?_ hs
  dsimp only [State.bar2Write]
  repeat' first
    | with_reducible first | assumption | exact Keeps.refl _ _
    | (with_reducible apply sub_intro); exact rfl
    | with_reducible apply State_sideWrite_keeps
    | with_reducible apply State_mbxWrite_keeps
    | with_reducible apply State_refuseWrite_keeps
    | with_reducible apply State_msixWrite_keeps
    | with_reducible apply State_bellWrite_keeps
    | with_reducible apply State_ringDoor_keeps
    | with_reducible apply State_ringTail_keeps
    | with_reducible apply State_ringCqHead_keeps
    | with_reducible apply Keeps.foldl
    | intro _
    | with_reducible apply Keeps.ite
    | split
    | dsimp only

theorem execRegisterWrite_keeps {m : Nat} {s0 : State} {a0 : Master} {a1 : BusWrite} {a2 : State} (h : Keeps m s0 a2) (hs : sub 0x1d3cc14f96f8 m = true) : OutKeeps m s0 (execRegisterWrite a0 a1 a2) := by
  refine OutKeeps.step h ?_ hs
  dsimp only [execRegisterWrite]
  repeat' first
    | with_reducible first | assumption | exact Keeps.refl _ _
    | (with_reducible apply sub_intro); exact rfl
    | with_reducible apply OutKeeps.next
    | with_reducible apply State_regWrite_keeps
    | with_reducible apply State_refuseWrite_keeps
    | with_reducible apply State_bar2Write_keeps
    | with_reducible refine Keeps.fstEq (by assumption) ?_
    | with_reducible apply OutKeeps.ite
    | with_reducible apply Keeps.iteFst
    | with_reducible apply Keeps.ite
    | split
    | dsimp only

theorem execBindLock_keeps {m : Nat} {s0 : State} {a0 : Master} {a1 : State} (h : Keeps m s0 a1) (hs : sub 0x193cc14f96f0 m = true) : OutKeeps m s0 (execBindLock a0 a1) := by
  refine OutKeeps.step h ?_ hs
  dsimp only [execBindLock]
  repeat' first
    | with_reducible first | assumption | exact Keeps.refl _ _
    | (with_reducible apply sub_intro); exact rfl
    | with_reducible apply OutKeeps.next
    | with_reducible apply State_guardWrite_keeps
    | with_reducible apply State_regAction_keeps
    | with_reducible apply Keeps.foldl
    | intro _
    | with_reducible apply OutKeeps.ite
    | with_reducible apply Keeps.ite
    | split
    | dsimp only

theorem execBootRetry_keeps {m : Nat} {s0 : State} {a0 : Master} {a1 : State} (h : Keeps m s0 a1) (hs : sub 0x193cc14f96f0 m = true) : OutKeeps m s0 (execBootRetry a0 a1) := by
  refine OutKeeps.step h ?_ hs
  dsimp only [execBootRetry]
  repeat' first
    | with_reducible first | assumption | exact Keeps.refl _ _
    | (with_reducible apply sub_intro); exact rfl
    | with_reducible apply OutKeeps.next
    | with_reducible apply State_guardWrite_keeps
    | with_reducible apply State_regAction_keeps
    | with_reducible apply Keeps.foldl
    | intro _
    | with_reducible apply OutKeeps.ite
    | with_reducible apply Keeps.ite
    | split
    | dsimp only

theorem State_readSide_keeps {m : Nat} {s0 : State} {a0 : State} {a1 : Nat} {a2 : Nat} (h : Keeps m s0 a0) (hs : sub 0x10 m = true) : Keeps m s0 (State.readSide a0 a1 a2) := by
  refine h.step ?_ hs
  dsimp only [State.readSide]
  repeat' first
    | with_reducible first | assumption | exact Keeps.refl _ _
    | (with_reducible apply sub_intro); exact rfl
    | with_reducible apply State_rput_keeps
    | with_reducible apply Keeps.ite
    | split
    | dsimp only

theorem State_rcClear_keeps {m : Nat} {s0 : State} {a0 : State} {a1 : Nat} {a2 : Nat} {a3 : Nat} (h : Keeps m s0 a0) (hs : sub 0x10 m = true) : Keeps m s0 (State.rcClear a0 a1 a2 a3) := by
  refine h.step ?_ hs
  dsimp only [State.rcClear]
  repeat' first
    | with_reducible first | assumption | exact Keeps.refl _ _
    | (with_reducible apply sub_intro); exact rfl
    | with_reducible apply State_setCell_keeps
    | with_reducible apply Keeps.ite
    | split
    | dsimp only

theorem State_cellRead_keeps {m : Nat} {s0 : State} {a0 : State} {a1 : Master} {a2 : Nat} {a3 : Nat} {a4 : Nat} (h : Keeps m s0 a0) (hs : sub 0x34 m = true) : Keeps m s0 (State.cellRead a0 a1 a2 a3 a4) := by
  refine h.step ?_ hs
  dsimp only [State.cellRead]
  repeat' first
    | with_reducible first | assumption | exact Keeps.refl _ _
    | (with_reducible apply sub_intro); exact rfl
    | with_reducible apply State_answer_keeps
    | with_reducible apply State_readSide_keeps
    | with_reducible apply State_rcClear_keeps
    | with_reducible apply State_setBank_keeps
    | with_reducible apply Keeps.ite
    | split
    | dsimp only

theorem State_placeRead_keeps {m : Nat} {s0 : State} {a0 : State} {a1 : Master} {a2 : Nat} {a3 : Nat} {a4 : Nat} (h : Keeps m s0 a0) (hs : sub 0x50034 m = true) : Keeps m s0 (State.placeRead a0 a1 a2 a3 a4) := by
  refine h.step ?_ hs
  dsimp only [State.placeRead]
  repeat' first
    | with_reducible first | assumption | exact Keeps.refl _ _
    | (with_reducible apply sub_intro); exact rfl
    | with_reducible apply State_answer_keeps
    | with_reducible apply State_nowFracRead_keeps
    | with_reducible apply State_tsPop_keeps
    | with_reducible apply State_crxPop_keeps
    | with_reducible apply State_loanRead_keeps
    | with_reducible apply State_cellRead_keeps
    | with_reducible apply Keeps.ite
    | split
    | dsimp only

theorem State_regRead_keeps {m : Nat} {s0 : State} {a0 : State} {a1 : Master} {a2 : Nat} (h : Keeps m s0 a0) (hs : sub 0x50034 m = true) : Keeps m s0 (State.regRead a0 a1 a2) := by
  refine h.step ?_ hs
  dsimp only [State.regRead]
  repeat' first
    | with_reducible first | assumption | exact Keeps.refl _ _
    | (with_reducible apply sub_intro); exact rfl
    | with_reducible apply State_answer_keeps
    | with_reducible apply State_placeRead_keeps
    | with_reducible apply Keeps.ite
    | split
    | dsimp only
    | with_reducible apply Keeps.rdata

theorem State_mbxRead_keeps {m : Nat} {s0 : State} {a0 : State} {a1 : Master} {a2 : Nat} {a3 : Bool} {a4 : Nat} (h : Keeps m s0 a0) (hs : sub 0x10080080034 m = true) : Keeps m s0 (State.mbxRead a0 a1 a2 a3 a4) := by
  refine h.step ?_ hs
  dsimp only [State.mbxRead]
  repeat' first
    | with_reducible first | assumption | exact Keeps.refl _ _
    | (with_reducible apply sub_intro); exact rfl
    | with_reducible apply State_answer_keeps
    | with_reducible apply State_rxWord0_keeps
    | with_reducible apply State_lockRead_keeps
    | with_reducible apply State_loanRead_keeps
    | with_reducible apply Keeps.ite
    | split
    | dsimp only

theorem State_bar2Read_keeps {m : Nat} {s0 : State} {a0 : State} {a1 : Master} {a2 : Nat} (h : Keeps m s0 a0) (hs : sub 0x10080080034 m = true) : Keeps m s0 (State.bar2Read a0 a1 a2) := by
  refine h.step ?_ hs
  dsimp only [State.bar2Read]
  repeat' first
    | with_reducible first | assumption | exact Keeps.refl _ _
    | (with_reducible apply sub_intro); exact rfl
    | with_reducible apply State_answer_keeps
    | with_reducible apply State_mbxRead_keeps
    | with_reducible apply State_bellRead_keeps
    | with_reducible apply Keeps.ite
    | split
    | dsimp only

theorem State_bar4Read_keeps {m : Nat} {s0 : State} {a0 : State} {a1 : Nat} {a2 : Nat} (h : Keeps m s0 a0) (hs : sub 0x4 m = true) : Keeps m s0 (State.bar4Read a0 a1 a2) := by
  refine h.step ?_ hs
  dsimp only [State.bar4Read]
  repeat' first
    | with_reducible first | assumption | exact Keeps.refl _ _
    | (with_reducible apply sub_intro); exact rfl
    | with_reducible apply State_answer_keeps
    | with_reducible apply Keeps.ite
    | split
    | dsimp only

theorem State_busRead_keeps {m : Nat} {s0 : State} {a0 : State} {a1 : Master} {a2 : Nat} {a3 : Nat} (h : Keeps m s0 a0) (hs : sub 0x100800d0034 m = true) : Keeps m s0 (State.busRead a0 a1 a2 a3) := by
  refine h.step ?_ hs
  dsimp only [State.busRead]
  repeat' first
    | with_reducible first | assumption | exact Keeps.refl _ _
    | (with_reducible apply sub_intro); exact rfl
    | with_reducible apply State_regRead_keeps
    | with_reducible apply State_bar2Read_keeps
    | with_reducible apply State_bar4Read_keeps
    | with_reducible apply Keeps.ite
    | split
    | dsimp only

theorem execRcRead_keeps {m : Nat} {s0 : State} {a0 : Master} {a1 : Nat} {a2 : Nat} {a3 : State} (h : Keeps m s0 a3) (hs : sub 0x100800d0034 m = true) : OutKeeps m s0 (execRcRead a0 a1 a2 a3) := by
  refine OutKeeps.step h ?_ hs
  dsimp only [execRcRead]
  repeat' first
    | with_reducible first | assumption | exact Keeps.refl _ _
    | (with_reducible apply sub_intro); exact rfl
    | with_reducible apply OutKeeps.next
    | with_reducible apply State_busRead_keeps
    | with_reducible apply OutKeeps.ite
    | with_reducible apply Keeps.ite
    | split
    | dsimp only

theorem execPairLowRead_keeps {m : Nat} {s0 : State} {a0 : Master} {a1 : Nat} {a2 : Nat} {a3 : State} (h : Keeps m s0 a3) (hs : sub 0x100800d0034 m = true) : OutKeeps m s0 (execPairLowRead a0 a1 a2 a3) := by
  refine OutKeeps.step h ?_ hs
  dsimp only [execPairLowRead]
  repeat' first
    | with_reducible first | assumption | exact Keeps.refl _ _
    | (with_reducible apply sub_intro); exact rfl
    | with_reducible apply OutKeeps.next
    | with_reducible apply State_busRead_keeps
    | with_reducible apply OutKeeps.ite
    | with_reducible apply Keeps.ite
    | split
    | dsimp only

end Sys2Proof.Laws
end

