-- ==== Sys2Proof/Laws/Keep/AxBase.lean ====
section
/-! SUPPORT. What each definition of Machine/AxBase may change, and that it keeps the canonical form. -/

namespace Sys2Proof.Laws

open Sys2Proof Sys2Proof.Machine

theorem State_wg_keeps {m : Nat} {s0 : State} {a0 : State} {a1 : Ax} {a2 : Nat} {a3 : Nat} (h : Keeps m s0 a0) (hs : sub 0x200 m = true) : Keeps m s0 (State.wg a0 a1 a2 a3) := by
  refine h.step ?_ hs
  dsimp only [State.wg]
  repeat' first
    | with_reducible first | assumption | exact Keeps.refl _ _
    | (with_reducible apply sub_intro); exact rfl
    | with_reducible apply State_setG_keeps
    | with_reducible apply Keeps.ite
    | split
    | dsimp only

theorem State_axDone_keeps {m : Nat} {s0 : State} {a0 : State} {a1 : Ax} {a2 : Nat} {a3 : Nat} (h : Keeps m s0 a0) (hs : sub 0x800080690 m = true) : Keeps m s0 (State.axDone a0 a1 a2 a3) := by
  refine h.step ?_ hs
  dsimp only [State.axDone]
  repeat' first
    | with_reducible first | assumption | exact Keeps.refl _ _
    | (with_reducible apply sub_intro); exact rfl
    | with_reducible apply State_result_keeps
    | with_reducible apply Keeps.ite
    | split
    | dsimp only

theorem State_axEnd_keeps {m : Nat} {s0 : State} {a0 : State} {a1 : Ax} {a2 : Nat} {a3 : Nat} {a4 : Nat} (h : Keeps m s0 a0) (hs : sub 0x800080690 m = true) : Keeps m s0 (State.axEnd a0 a1 a2 a3 a4) := by
  refine h.step ?_ hs
  dsimp only [State.axEnd]
  repeat' first
    | with_reducible first | assumption | exact Keeps.refl _ _
    | (with_reducible apply sub_intro); exact rfl
    | with_reducible apply State_endProg_keeps
    | with_reducible apply State_setThr_keeps
    | with_reducible apply Keeps.ite
    | split
    | dsimp only

theorem State_axFail_keeps {m : Nat} {s0 : State} {a0 : State} {a1 : Nat} {a2 : Nat} (h : Keeps m s0 a0) (hs : sub 0x800080690 m = true) : Keeps m s0 (State.axFail a0 a1 a2) := by
  refine h.step ?_ hs
  dsimp only [State.axFail]
  repeat' first
    | with_reducible first | assumption | exact Keeps.refl _ _
    | (with_reducible apply sub_intro); exact rfl
    | with_reducible apply State_endProg_keeps
    | with_reducible apply State_raise_keeps
    | with_reducible apply Keeps.ite
    | split
    | dsimp only

theorem State_axWait_keeps {m : Nat} {s0 : State} {a0 : State} {a1 : Ax} {a2 : WaitKind} {a3 : Nat} (h : Keeps m s0 a0) (hs : sub 0x800080690 m = true) : Keeps m s0 (State.axWait a0 a1 a2 a3) := by
  refine h.step ?_ hs
  dsimp only [State.axWait]
  repeat' first
    | with_reducible first | assumption | exact Keeps.refl _ _
    | (with_reducible apply sub_intro); exact rfl
    | with_reducible apply State_startWait_keeps
    | with_reducible apply State_axDone_keeps
    | with_reducible apply Keeps.ite
    | split
    | dsimp only

theorem State_axHold_keeps {m : Nat} {s0 : State} {a0 : State} {a1 : Ax} {a2 : WaitKind} {a3 : Nat} (h : Keeps m s0 a0) (hs : sub 0x200 m = true) : Keeps m s0 (State.axHold a0 a1 a2 a3) := by
  refine h.step ?_ hs
  dsimp only [State.axHold]
  repeat' first
    | with_reducible first | assumption | exact Keeps.refl _ _
    | (with_reducible apply sub_intro); exact rfl
    | with_reducible apply State_startWait_keeps
    | with_reducible apply Keeps.ite
    | split
    | dsimp only

theorem State_axRun_keeps {m : Nat} {s0 : State} {a0 : State} {a1 : AxOp} {a2 : Nat → Bool} {a3 : Nat → Nat} {a4 : Nat → List Nat → Bool} {a5 : State → Ax → State} (h : Keeps m s0 a0) (hs : sub 0x800080690 m = true) (g5 : ∀ x0 x1, Keeps m s0 x0 → Keeps m s0 (a5 x0 x1)) : Keeps m s0 (State.axRun a0 a1 a2 a3 a4 a5) := by
  dsimp only [State.axRun]
  repeat' first
    | with_reducible first | assumption | exact Keeps.refl _ _
    | (with_reducible apply sub_intro); exact rfl
    | with_reducible apply g5
    | exact sub_trans (sub_intro rfl) hs
    | with_reducible apply State_axFail_keeps
    | with_reducible apply State_endProg_keeps
    | with_reducible apply Keeps.ite
    | split
    | dsimp only

theorem State_axClass_keeps {m : Nat} {s0 : State} {a0 : State} {a1 : AxOp} {a2 : Nat} {a3 : Nat} {a4 : Nat → Nat} {a5 : Nat → List Nat → Bool} {a6 : State → Ax → State} (h : Keeps m s0 a0) (hs : sub 0x800080690 m = true) (g6 : ∀ x0 x1, Keeps m s0 x0 → Keeps m s0 (a6 x0 x1)) : Keeps m s0 (State.axClass a0 a1 a2 a3 a4 a5 a6) := by
  dsimp only [State.axClass]
  repeat' first
    | with_reducible first | assumption | exact Keeps.refl _ _
    | (with_reducible apply sub_intro); exact rfl
    | with_reducible apply g6
    | exact sub_trans (sub_intro rfl) hs
    | with_reducible apply State_axRun_keeps
    | with_reducible apply State_axEnd_keeps
    | with_reducible apply Keeps.foldl
    | intro _
    | with_reducible apply Keeps.ite
    | split
    | dsimp only

theorem State_axMemFail_keeps {m : Nat} {s0 : State} {a0 : State} {a1 : Ax} {a2 : Nat} {a3 : Nat} (h : Keeps m s0 a0) (hs : sub 0x800080690 m = true) : Keeps m s0 (State.axMemFail a0 a1 a2 a3) := by
  refine h.step ?_ hs
  dsimp only [State.axMemFail]
  repeat' first
    | with_reducible first | assumption | exact Keeps.refl _ _
    | (with_reducible apply sub_intro); exact rfl
    | with_reducible apply State_axEnd_keeps
    | with_reducible apply State_raise_keeps
    | with_reducible apply Keeps.ite
    | split
    | dsimp only

theorem State_axRead_keeps {m : Nat} {s0 : State} {a0 : State} {a1 : Ax} {a2 : Bool} {a3 : Nat} {a4 : Nat} {a5 : Nat} {a6 : State → List Byte → State} (h : Keeps m s0 a0) (hs : sub 0x800080690 m = true) (g6 : ∀ x0 x1, Keeps m s0 x0 → Keeps m s0 (a6 x0 x1)) : Keeps m s0 (State.axRead a0 a1 a2 a3 a4 a5 a6) := by
  dsimp only [State.axRead]
  repeat' first
    | with_reducible first | assumption | exact Keeps.refl _ _
    | (with_reducible apply sub_intro); exact rfl
    | with_reducible apply g6
    | exact sub_trans (sub_intro rfl) hs
    | with_reducible apply State_axEnd_keeps
    | with_reducible apply State_axMemFail_keeps
    | with_reducible apply Keeps.ite
    | split
    | dsimp only

theorem State_axWrite_keeps {m : Nat} {s0 : State} {a0 : State} {a1 : Ax} {a2 : Bool} {a3 : Nat} {a4 : List Byte} {a5 : Option Nat} {a6 : Nat} {a7 : State → State} (h : Keeps m s0 a0) (hs : sub 0x800080690 m = true) (g7 : ∀ x0, Keeps m s0 x0 → Keeps m s0 (a7 x0)) : Keeps m s0 (State.axWrite a0 a1 a2 a3 a4 a5 a6 a7) := by
  dsimp only [State.axWrite]
  repeat' first
    | with_reducible first | assumption | exact Keeps.refl _ _
    | (with_reducible apply sub_intro); exact rfl
    | with_reducible apply g7
    | exact sub_trans (sub_intro rfl) hs
    | with_reducible apply State_axEnd_keeps
    | with_reducible apply State_axMemFail_keeps
    | with_reducible apply State_mwrite_keeps
    | with_reducible apply Keeps.ite
    | split
    | dsimp only

theorem State_seqRead_keeps {m : Nat} {s0 : State} {a0 : State} {a1 : Master} {a2 : Nat} (h : Keeps m s0 a0) (hs : sub 0x50034 m = true) : Keeps m s0 (State.seqRead a0 a1 a2).1 := by
  refine h.step ?_ hs
  dsimp only [State.seqRead]
  repeat' first
    | with_reducible first | assumption | exact Keeps.refl _ _
    | (with_reducible apply sub_intro); exact rfl
    | with_reducible apply State_regRead_keeps
    | with_reducible apply Keeps.ite
    | with_reducible apply Keeps.iteFst
    | split
    | dsimp only
    | with_reducible apply Keeps.rdata

theorem State_noteWrite_keeps {m : Nat} {s0 : State} {a0 : State} {a1 : Nat} {a2 : Nat} {a3 : Nat} {a4 : Nat} {a5 : Nat} (h : Keeps m s0 a0) (hs : sub 0x200 m = true) : Keeps m s0 (State.noteWrite a0 a1 a2 a3 a4 a5) := by
  refine h.step ?_ hs
  dsimp only [State.noteWrite]
  repeat' first
    | with_reducible first | assumption | exact Keeps.refl _ _
    | (with_reducible apply sub_intro); exact rfl
    | with_reducible apply State_setThr_keeps
    | with_reducible apply Keeps.ite
    | split
    | dsimp only

theorem State_seqWrite_keeps {m : Nat} {s0 : State} {a0 : State} {a1 : Nat} {a2 : Nat} {a3 : Nat} {a4 : Nat} (h : Keeps m s0 a0) (hs : sub 0x193cc14f96f0 m = true) : Keeps m s0 (State.seqWrite a0 a1 a2 a3 a4).1 := by
  refine h.step ?_ hs
  dsimp only [State.seqWrite]
  repeat' first
    | with_reducible first | assumption | exact Keeps.refl _ _
    | (with_reducible apply sub_intro); exact rfl
    | with_reducible apply State_regWrite_keeps
    | with_reducible apply State_noteWrite_keeps
    | with_reducible refine Keeps.fstEq (by assumption) ?_
    | with_reducible apply Keeps.ite
    | with_reducible apply Keeps.iteFst
    | split
    | dsimp only

theorem State_bankIn_keeps {m : Nat} {s0 : State} {a0 : State} {a1 : Nat} {a2 : List (Nat × Nat)} (h : Keeps m s0 a0) (hs : sub 0x20 m = true) : Keeps m s0 (State.bankIn a0 a1 a2) := by
  refine h.step ?_ hs
  dsimp only [State.bankIn]
  repeat' first
    | with_reducible first | assumption | exact Keeps.refl _ _
    | (with_reducible apply sub_intro); exact rfl
    | with_reducible exact State.Canonical.banks (by assumption)
    | with_reducible apply swf_sset
    | with_reducible apply swf_smap
    | with_reducible apply swf_sfilter
    | with_reducible apply swf_sdel
    | with_reducible exact swf_nil
    | with_reducible apply swf_foldl
    | with_reducible apply Keeps.foldl
    | intro _
    | with_reducible apply Keeps.ite
    | split
    | dsimp only
    | with_reducible apply Keeps.banks

end Sys2Proof.Laws
end

