-- ==== Sys2Proof/Laws/Keep/AxAlu.lean ====
section
/-! SUPPORT. What each definition of Machine/AxAlu may change, and that it keeps the canonical form. -/

namespace Sys2Proof.Laws

open Sys2Proof Sys2Proof.Machine

theorem execUndefinedOpcode_keeps {m : Nat} {s0 : State} {a0 : AxOp} {a1 : State} (h : Keeps m s0 a1) (hs : sub 0x800080690 m = true) : OutKeeps m s0 (execUndefinedOpcode a0 a1) := by
  refine OutKeeps.step h ?_ hs
  dsimp only [execUndefinedOpcode]
  repeat' first
    | with_reducible first | assumption | exact Keeps.refl _ _
    | (with_reducible apply sub_intro); exact rfl
    | with_reducible apply OutKeeps.next
    | with_reducible apply State_axRun_keeps
    | with_reducible apply Keeps.foldl
    | intro _
    | with_reducible apply OutKeeps.ite
    | with_reducible apply Keeps.ite
    | split
    | dsimp only

theorem State_aluDone_keeps {m : Nat} {s0 : State} {a0 : State} {a1 : Ax} {a2 : DWord} {a3 : Bool} {a4 : Bool} {a5 : Nat} (h : Keeps m s0 a0) (hs : sub 0x800080690 m = true) : Keeps m s0 (State.aluDone a0 a1 a2 a3 a4 a5) := by
  refine h.step ?_ hs
  dsimp only [State.aluDone]
  repeat' first
    | with_reducible first | assumption | exact Keeps.refl _ _
    | (with_reducible apply sub_intro); exact rfl
    | with_reducible apply State_axDone_keeps
    | with_reducible apply State_setThr_keeps
    | with_reducible apply Keeps.ite
    | split
    | dsimp only

theorem execLdi_keeps {m : Nat} {s0 : State} {a0 : AxOp} {a1 : State} (h : Keeps m s0 a1) (hs : sub 0x800080690 m = true) : OutKeeps m s0 (execLdi a0 a1) := by
  refine OutKeeps.step h ?_ hs
  dsimp only [execLdi]
  repeat' first
    | with_reducible first | assumption | exact Keeps.refl _ _
    | (with_reducible apply sub_intro); exact rfl
    | with_reducible apply OutKeeps.next
    | with_reducible apply State_axRun_keeps
    | with_reducible apply State_aluDone_keeps
    | with_reducible apply Keeps.foldl
    | intro _
    | with_reducible apply OutKeeps.ite
    | with_reducible apply Keeps.ite
    | split
    | dsimp only

theorem execMov_keeps {m : Nat} {s0 : State} {a0 : AxOp} {a1 : State} (h : Keeps m s0 a1) (hs : sub 0x800080690 m = true) : OutKeeps m s0 (execMov a0 a1) := by
  refine OutKeeps.step h ?_ hs
  dsimp only [execMov]
  repeat' first
    | with_reducible first | assumption | exact Keeps.refl _ _
    | (with_reducible apply sub_intro); exact rfl
    | with_reducible apply OutKeeps.next
    | with_reducible apply State_axRun_keeps
    | with_reducible apply State_aluDone_keeps
    | with_reducible apply Keeps.foldl
    | intro _
    | with_reducible apply OutKeeps.ite
    | with_reducible apply Keeps.ite
    | split
    | dsimp only

theorem execAdd_keeps {m : Nat} {s0 : State} {a0 : AxOp} {a1 : State} (h : Keeps m s0 a1) (hs : sub 0x800080690 m = true) : OutKeeps m s0 (execAdd a0 a1) := by
  refine OutKeeps.step h ?_ hs
  dsimp only [execAdd]
  repeat' first
    | with_reducible first | assumption | exact Keeps.refl _ _
    | (with_reducible apply sub_intro); exact rfl
    | with_reducible apply OutKeeps.next
    | with_reducible apply State_axRun_keeps
    | with_reducible apply State_aluDone_keeps
    | with_reducible apply Keeps.foldl
    | intro _
    | with_reducible apply OutKeeps.ite
    | with_reducible apply Keeps.ite
    | split
    | dsimp only

theorem execSub_keeps {m : Nat} {s0 : State} {a0 : AxOp} {a1 : State} (h : Keeps m s0 a1) (hs : sub 0x800080690 m = true) : OutKeeps m s0 (execSub a0 a1) := by
  refine OutKeeps.step h ?_ hs
  dsimp only [execSub]
  repeat' first
    | with_reducible first | assumption | exact Keeps.refl _ _
    | (with_reducible apply sub_intro); exact rfl
    | with_reducible apply OutKeeps.next
    | with_reducible apply State_axRun_keeps
    | with_reducible apply State_aluDone_keeps
    | with_reducible apply Keeps.foldl
    | intro _
    | with_reducible apply OutKeeps.ite
    | with_reducible apply Keeps.ite
    | split
    | dsimp only

theorem execAnd_keeps {m : Nat} {s0 : State} {a0 : AxOp} {a1 : State} (h : Keeps m s0 a1) (hs : sub 0x800080690 m = true) : OutKeeps m s0 (execAnd a0 a1) := by
  refine OutKeeps.step h ?_ hs
  dsimp only [execAnd]
  repeat' first
    | with_reducible first | assumption | exact Keeps.refl _ _
    | (with_reducible apply sub_intro); exact rfl
    | with_reducible apply OutKeeps.next
    | with_reducible apply State_axRun_keeps
    | with_reducible apply State_aluDone_keeps
    | with_reducible apply Keeps.foldl
    | intro _
    | with_reducible apply OutKeeps.ite
    | with_reducible apply Keeps.ite
    | split
    | dsimp only

theorem execOr_keeps {m : Nat} {s0 : State} {a0 : AxOp} {a1 : State} (h : Keeps m s0 a1) (hs : sub 0x800080690 m = true) : OutKeeps m s0 (execOr a0 a1) := by
  refine OutKeeps.step h ?_ hs
  dsimp only [execOr]
  repeat' first
    | with_reducible first | assumption | exact Keeps.refl _ _
    | (with_reducible apply sub_intro); exact rfl
    | with_reducible apply OutKeeps.next
    | with_reducible apply State_axRun_keeps
    | with_reducible apply State_aluDone_keeps
    | with_reducible apply Keeps.foldl
    | intro _
    | with_reducible apply OutKeeps.ite
    | with_reducible apply Keeps.ite
    | split
    | dsimp only

theorem execXor_keeps {m : Nat} {s0 : State} {a0 : AxOp} {a1 : State} (h : Keeps m s0 a1) (hs : sub 0x800080690 m = true) : OutKeeps m s0 (execXor a0 a1) := by
  refine OutKeeps.step h ?_ hs
  dsimp only [execXor]
  repeat' first
    | with_reducible first | assumption | exact Keeps.refl _ _
    | (with_reducible apply sub_intro); exact rfl
    | with_reducible apply OutKeeps.next
    | with_reducible apply State_axRun_keeps
    | with_reducible apply State_aluDone_keeps
    | with_reducible apply Keeps.foldl
    | intro _
    | with_reducible apply OutKeeps.ite
    | with_reducible apply Keeps.ite
    | split
    | dsimp only

theorem execShl_keeps {m : Nat} {s0 : State} {a0 : AxOp} {a1 : State} (h : Keeps m s0 a1) (hs : sub 0x800080690 m = true) : OutKeeps m s0 (execShl a0 a1) := by
  refine OutKeeps.step h ?_ hs
  dsimp only [execShl]
  repeat' first
    | with_reducible first | assumption | exact Keeps.refl _ _
    | (with_reducible apply sub_intro); exact rfl
    | with_reducible apply OutKeeps.next
    | with_reducible apply State_axRun_keeps
    | with_reducible apply State_aluDone_keeps
    | with_reducible apply Keeps.foldl
    | intro _
    | with_reducible apply OutKeeps.ite
    | with_reducible apply Keeps.ite
    | split
    | dsimp only

theorem execShr_keeps {m : Nat} {s0 : State} {a0 : AxOp} {a1 : State} (h : Keeps m s0 a1) (hs : sub 0x800080690 m = true) : OutKeeps m s0 (execShr a0 a1) := by
  refine OutKeeps.step h ?_ hs
  dsimp only [execShr]
  repeat' first
    | with_reducible first | assumption | exact Keeps.refl _ _
    | (with_reducible apply sub_intro); exact rfl
    | with_reducible apply OutKeeps.next
    | with_reducible apply State_axRun_keeps
    | with_reducible apply State_aluDone_keeps
    | with_reducible apply Keeps.foldl
    | intro _
    | with_reducible apply OutKeeps.ite
    | with_reducible apply Keeps.ite
    | split
    | dsimp only

theorem execCmp_keeps {m : Nat} {s0 : State} {a0 : AxOp} {a1 : State} (h : Keeps m s0 a1) (hs : sub 0x800080690 m = true) : OutKeeps m s0 (execCmp a0 a1) := by
  refine OutKeeps.step h ?_ hs
  dsimp only [execCmp]
  repeat' first
    | with_reducible first | assumption | exact Keeps.refl _ _
    | (with_reducible apply sub_intro); exact rfl
    | with_reducible apply OutKeeps.next
    | with_reducible apply State_axRun_keeps
    | with_reducible apply State_axDone_keeps
    | with_reducible apply State_setThr_keeps
    | with_reducible apply Keeps.foldl
    | intro _
    | with_reducible apply OutKeeps.ite
    | with_reducible apply Keeps.ite
    | split
    | dsimp only

theorem State_branchTo_keeps {m : Nat} {s0 : State} {a0 : State} {a1 : Ax} (h : Keeps m s0 a0) (hs : sub 0x800080690 m = true) : Keeps m s0 (State.branchTo a0 a1) := by
  refine h.step ?_ hs
  dsimp only [State.branchTo]
  repeat' first
    | with_reducible first | assumption | exact Keeps.refl _ _
    | (with_reducible apply sub_intro); exact rfl
    | with_reducible apply State_finishAt_keeps
    | with_reducible apply State_axEnd_keeps
    | with_reducible apply Keeps.ite
    | split
    | dsimp only

theorem execBr_keeps {m : Nat} {s0 : State} {a0 : AxOp} {a1 : State} (h : Keeps m s0 a1) (hs : sub 0x800080690 m = true) : OutKeeps m s0 (execBr a0 a1) := by
  refine OutKeeps.step h ?_ hs
  dsimp only [execBr]
  repeat' first
    | with_reducible first | assumption | exact Keeps.refl _ _
    | (with_reducible apply sub_intro); exact rfl
    | with_reducible apply OutKeeps.next
    | with_reducible apply State_axRun_keeps
    | with_reducible apply State_branchTo_keeps
    | with_reducible apply Keeps.foldl
    | intro _
    | with_reducible apply OutKeeps.ite
    | with_reducible apply Keeps.ite
    | split
    | dsimp only

theorem execBcc_keeps {m : Nat} {s0 : State} {a0 : AxOp} {a1 : State} (h : Keeps m s0 a1) (hs : sub 0x800080690 m = true) : OutKeeps m s0 (execBcc a0 a1) := by
  refine OutKeeps.step h ?_ hs
  dsimp only [execBcc]
  repeat' first
    | with_reducible first | assumption | exact Keeps.refl _ _
    | (with_reducible apply sub_intro); exact rfl
    | with_reducible apply OutKeeps.next
    | with_reducible apply State_axRun_keeps
    | with_reducible apply State_setThr_keeps
    | with_reducible apply State_branchTo_keeps
    | with_reducible apply State_axDone_keeps
    | with_reducible apply Keeps.foldl
    | intro _
    | with_reducible apply OutKeeps.ite
    | with_reducible apply Keeps.ite
    | split
    | dsimp only

theorem execCall_keeps {m : Nat} {s0 : State} {a0 : AxOp} {a1 : State} (h : Keeps m s0 a1) (hs : sub 0x800080690 m = true) : OutKeeps m s0 (execCall a0 a1) := by
  refine OutKeeps.step h ?_ hs
  dsimp only [execCall]
  repeat' first
    | with_reducible first | assumption | exact Keeps.refl _ _
    | (with_reducible apply sub_intro); exact rfl
    | with_reducible apply OutKeeps.next
    | with_reducible apply State_axRun_keeps
    | with_reducible apply State_axEnd_keeps
    | with_reducible apply State_branchTo_keeps
    | with_reducible apply State_setThr_keeps
    | with_reducible apply Keeps.foldl
    | intro _
    | with_reducible apply OutKeeps.ite
    | with_reducible apply Keeps.ite
    | split
    | dsimp only

theorem execRet_keeps {m : Nat} {s0 : State} {a0 : AxOp} {a1 : State} (h : Keeps m s0 a1) (hs : sub 0x800080690 m = true) : OutKeeps m s0 (execRet a0 a1) := by
  refine OutKeeps.step h ?_ hs
  dsimp only [execRet]
  repeat' first
    | with_reducible first | assumption | exact Keeps.refl _ _
    | (with_reducible apply sub_intro); exact rfl
    | with_reducible apply OutKeeps.next
    | with_reducible apply State_axRun_keeps
    | with_reducible apply State_axEnd_keeps
    | with_reducible apply State_finishAt_keeps
    | with_reducible apply State_setThr_keeps
    | with_reducible apply Keeps.foldl
    | intro _
    | with_reducible apply OutKeeps.ite
    | with_reducible apply Keeps.ite
    | split
    | dsimp only

theorem execHalt_keeps {m : Nat} {s0 : State} {a0 : AxOp} {a1 : State} (h : Keeps m s0 a1) (hs : sub 0x800080690 m = true) : OutKeeps m s0 (execHalt a0 a1) := by
  refine OutKeeps.step h ?_ hs
  dsimp only [execHalt]
  repeat' first
    | with_reducible first | assumption | exact Keeps.refl _ _
    | (with_reducible apply sub_intro); exact rfl
    | with_reducible apply OutKeeps.next
    | with_reducible apply State_axRun_keeps
    | with_reducible apply State_axEnd_keeps
    | with_reducible apply Keeps.foldl
    | intro _
    | with_reducible apply OutKeeps.ite
    | with_reducible apply Keeps.ite
    | split
    | dsimp only

theorem execTrap_keeps {m : Nat} {s0 : State} {a0 : AxOp} {a1 : State} (h : Keeps m s0 a1) (hs : sub 0x800080690 m = true) : OutKeeps m s0 (execTrap a0 a1) := by
  refine OutKeeps.step h ?_ hs
  dsimp only [execTrap]
  repeat' first
    | with_reducible first | assumption | exact Keeps.refl _ _
    | (with_reducible apply sub_intro); exact rfl
    | with_reducible apply OutKeeps.next
    | with_reducible apply State_axRun_keeps
    | with_reducible apply State_axEnd_keeps
    | with_reducible apply Keeps.foldl
    | intro _
    | with_reducible apply OutKeeps.ite
    | with_reducible apply Keeps.ite
    | split
    | dsimp only

end Sys2Proof.Laws
end

