-- ==== Sys2Proof/Laws/Keep/AxMem.lean ====
section
/-! SUPPORT. What each definition of Machine/AxMem may change, and that it keeps the canonical form. -/

namespace Sys2Proof.Laws

open Sys2Proof Sys2Proof.Machine

theorem execRrd_keeps {m : Nat} {s0 : State} {a0 : AxOp} {a1 : State} (h : Keeps m s0 a1) (hs : sub 0x8000d06b4 m = true) : OutKeeps m s0 (execRrd a0 a1) := by
  refine OutKeeps.step h ?_ hs
  dsimp only [execRrd]
  repeat' first
    | with_reducible first | assumption | exact Keeps.refl _ _
    | (with_reducible apply sub_intro); exact rfl
    | with_reducible apply OutKeeps.next
    | with_reducible apply State_axRun_keeps
    | with_reducible apply State_axEnd_keeps
    | with_reducible apply State_seqRead_keeps
    | with_reducible apply State_axDone_keeps
    | with_reducible apply State_wg_keeps
    | with_reducible refine Keeps.fstEq (by assumption) ?_
    | with_reducible apply Keeps.foldl
    | with_reducible apply Keeps.foldlFst
    | intro _
    | with_reducible apply OutKeeps.ite
    | with_reducible apply Keeps.iteFst
    | with_reducible apply Keeps.ite
    | split
    | dsimp only

theorem State_holdBatch_keeps {m : Nat} {s0 : State} {a0 : State} {a1 : Ax} {a2 : List HeldWrite} {a3 : Nat} {a4 : Nat} {a5 : Nat} (h : Keeps m s0 a0) (hs : sub 0x800080690 m = true) : Keeps m s0 (State.holdBatch a0 a1 a2 a3 a4 a5) := by
  refine h.step ?_ hs
  dsimp only [State.holdBatch]
  repeat' first
    | with_reducible first | assumption | exact Keeps.refl _ _
    | (with_reducible apply sub_intro); exact rfl
    | with_reducible apply State_axEnd_keeps
    | with_reducible apply State_raise_keeps
    | with_reducible apply State_axDone_keeps
    | with_reducible apply State_setThr_keeps
    | with_reducible apply Keeps.ite
    | split
    | dsimp only

theorem execRwm_keeps {m : Nat} {s0 : State} {a0 : AxOp} {a1 : State} (h : Keeps m s0 a1) (hs : sub 0x193cc14f96f0 m = true) : OutKeeps m s0 (execRwm a0 a1) := by
  refine OutKeeps.step h ?_ hs
  dsimp only [execRwm]
  repeat' first
    | with_reducible first | assumption | exact Keeps.refl _ _
    | (with_reducible apply sub_intro); exact rfl
    | with_reducible apply OutKeeps.next
    | with_reducible apply State_axRun_keeps
    | with_reducible apply State_axEnd_keeps
    | with_reducible apply State_holdBatch_keeps
    | with_reducible apply State_seqWrite_keeps
    | with_reducible apply State_axDone_keeps
    | with_reducible refine Keeps.fstEq (by assumption) ?_
    | with_reducible apply Keeps.foldl
    | with_reducible apply Keeps.foldlFst
    | intro _
    | with_reducible apply OutKeeps.ite
    | with_reducible apply Keeps.iteFst
    | with_reducible apply Keeps.ite
    | split
    | dsimp only

theorem execRpoll_keeps {m : Nat} {s0 : State} {a0 : AxOp} {a1 : State} (h : Keeps m s0 a1) (hs : sub 0x8000d06b4 m = true) : OutKeeps m s0 (execRpoll a0 a1) := by
  refine OutKeeps.step h ?_ hs
  dsimp only [execRpoll]
  repeat' first
    | with_reducible first | assumption | exact Keeps.refl _ _
    | (with_reducible apply sub_intro); exact rfl
    | with_reducible apply OutKeeps.next
    | with_reducible apply State_axRun_keeps
    | with_reducible apply State_axEnd_keeps
    | with_reducible apply State_seqRead_keeps
    | with_reducible apply State_wg_keeps
    | with_reducible apply State_axDone_keeps
    | with_reducible apply State_axWait_keeps
    | with_reducible refine Keeps.fstEq (by assumption) ?_
    | with_reducible apply Keeps.foldl
    | with_reducible apply Keeps.foldlFst
    | intro _
    | with_reducible apply OutKeeps.ite
    | with_reducible apply Keeps.iteFst
    | with_reducible apply Keeps.ite
    | split
    | dsimp only

theorem execRpollRead_keeps {m : Nat} {s0 : State} {a0 : Nat} {a1 : State} (h : Keeps m s0 a1) (hs : sub 0x8000d06b4 m = true) : OutKeeps m s0 (execRpollRead a0 a1) := by
  refine OutKeeps.step h ?_ hs
  dsimp only [execRpollRead]
  repeat' first
    | with_reducible first | assumption | exact Keeps.refl _ _
    | (with_reducible apply sub_intro); exact rfl
    | with_reducible apply OutKeeps.next
    | with_reducible apply State_seqRead_keeps
    | with_reducible apply State_setG_keeps
    | with_reducible apply State_endWait_keeps
    | with_reducible apply State_setThr_keeps
    | with_reducible refine Keeps.fstEq (by assumption) ?_
    | with_reducible apply OutKeeps.ite
    | with_reducible apply Keeps.iteFst
    | with_reducible apply Keeps.ite
    | split
    | dsimp only

theorem execLd_keeps {m : Nat} {s0 : State} {a0 : AxOp} {a1 : State} (h : Keeps m s0 a1) (hs : sub 0x800080690 m = true) : OutKeeps m s0 (execLd a0 a1) := by
  refine OutKeeps.step h ?_ hs
  dsimp only [execLd]
  repeat' first
    | with_reducible first | assumption | exact Keeps.refl _ _
    | (with_reducible apply sub_intro); exact rfl
    | with_reducible apply OutKeeps.next
    | with_reducible apply State_axRun_keeps
    | with_reducible apply State_axEnd_keeps
    | with_reducible apply State_axRead_keeps
    | with_reducible apply State_axDone_keeps
    | with_reducible apply State_wg_keeps
    | with_reducible apply Keeps.foldl
    | intro _
    | with_reducible apply OutKeeps.ite
    | with_reducible apply Keeps.ite
    | split
    | dsimp only

theorem execSt_keeps {m : Nat} {s0 : State} {a0 : AxOp} {a1 : State} (h : Keeps m s0 a1) (hs : sub 0x800080690 m = true) : OutKeeps m s0 (execSt a0 a1) := by
  refine OutKeeps.step h ?_ hs
  dsimp only [execSt]
  repeat' first
    | with_reducible first | assumption | exact Keeps.refl _ _
    | (with_reducible apply sub_intro); exact rfl
    | with_reducible apply OutKeeps.next
    | with_reducible apply State_axRun_keeps
    | with_reducible apply State_axWrite_keeps
    | with_reducible apply State_axDone_keeps
    | with_reducible apply Keeps.foldl
    | intro _
    | with_reducible apply OutKeeps.ite
    | with_reducible apply Keeps.ite
    | split
    | dsimp only

theorem execCopy_keeps {m : Nat} {s0 : State} {a0 : AxOp} {a1 : State} (h : Keeps m s0 a1) (hs : sub 0x800080690 m = true) : OutKeeps m s0 (execCopy a0 a1) := by
  refine OutKeeps.step h ?_ hs
  dsimp only [execCopy]
  repeat' first
    | with_reducible first | assumption | exact Keeps.refl _ _
    | (with_reducible apply sub_intro); exact rfl
    | with_reducible apply OutKeeps.next
    | with_reducible apply State_axRun_keeps
    | with_reducible apply State_axEnd_keeps
    | with_reducible apply State_axDone_keeps
    | with_reducible apply State_mwrite_keeps
    | with_reducible apply State_axMemFail_keeps
    | with_reducible apply Keeps.foldl
    | intro _
    | with_reducible apply OutKeeps.ite
    | with_reducible apply Keeps.ite
    | split
    | dsimp only

end Sys2Proof.Laws
end

