-- ==== Sys2Proof/Laws/Keep/Plait.lean ====
section
/-! SUPPORT. What each definition of Machine/Plait may change, and that it keeps the canonical form. -/

namespace Sys2Proof.Laws

open Sys2Proof Sys2Proof.Machine

theorem State_setPc_keeps {m : Nat} {s0 : State} {a0 : State} {a1 : Nat} {a2 : PlaitCtx} (h : Keeps m s0 a0) (hs : sub 0x4000000000 m = true) : Keeps m s0 (State.setPc a0 a1 a2) := by
  refine h.step ?_ hs
  dsimp only [State.setPc]
  repeat' first
    | with_reducible first | assumption | exact Keeps.refl _ _
    | (with_reducible apply sub_intro); exact rfl
    | with_reducible exact State.Canonical.plait (by assumption)
    | with_reducible apply swf_sset
    | with_reducible apply swf_smap
    | with_reducible apply swf_sfilter
    | with_reducible apply swf_sdel
    | with_reducible exact swf_nil
    | with_reducible apply swf_foldl
    | with_reducible apply Keeps.foldl
    | intro _
    | with_reducible apply Keeps.ite
    | split
    | dsimp only
    | with_reducible apply Keeps.plait

theorem State_plaitSettle_keeps {m : Nat} {s0 : State} {a0 : State} {a1 : Nat} (h : Keeps m s0 a0) (hs : sub 0x4000000000 m = true) : Keeps m s0 (State.plaitSettle a0 a1) := by
  refine h.step ?_ hs
  dsimp only [State.plaitSettle]
  repeat' first
    | with_reducible first | assumption | exact Keeps.refl _ _
    | (with_reducible apply sub_intro); exact rfl
    | with_reducible apply State_setPc_keeps
    | with_reducible apply Keeps.ite
    | split
    | dsimp only

theorem State_plaitCause_keeps {m : Nat} {s0 : State} {a0 : State} {a1 : Nat} {a2 : Row} (h : Keeps m s0 a0) (hs : sub 0x80010 m = true) : Keeps m s0 (State.plaitCause a0 a1 a2) := by
  refine h.step ?_ hs
  dsimp only [State.plaitCause]
  repeat' first
    | with_reducible first | assumption | exact Keeps.refl _ _
    | (with_reducible apply sub_intro); exact rfl
    | with_reducible apply State_raise_keeps
    | with_reducible apply State_rput_keeps
    | with_reducible apply Keeps.ite
    | split
    | dsimp only

theorem State_plaitCnt_keeps {m : Nat} {s0 : State} {a0 : State} {a1 : Nat} {a2 : Nat} {a3 : Nat} (h : Keeps m s0 a0) (hs : sub 0x10 m = true) : Keeps m s0 (State.plaitCnt a0 a1 a2 a3) := by
  refine h.step ?_ hs
  dsimp only [State.plaitCnt]
  repeat' first
    | with_reducible first | assumption | exact Keeps.refl _ _
    | (with_reducible apply sub_intro); exact rfl
    | with_reducible apply State_cadd_keeps
    | with_reducible apply Keeps.ite
    | split
    | dsimp only

theorem State_plaitAccumulate_keeps {m : Nat} {s0 : State} {a0 : State} {a1 : Nat} {a2 : Nat} {a3 : Nat} {a4 : Nat} {a5 : Nat} {a6 : Nat} {a7 : Nat} {a8 : Nat} {a9 : List PlSect} (h : Keeps m s0 a0) (hs : sub 0x4000080010 m = true) : Keeps m s0 (State.plaitAccumulate a0 a1 a2 a3 a4 a5 a6 a7 a8 a9) := by
  refine h.step ?_ hs
  dsimp only [State.plaitAccumulate]
  repeat' first
    | with_reducible first | assumption | exact Keeps.refl _ _
    | (with_reducible apply sub_intro); exact rfl
    | with_reducible apply State_setPc_keeps
    | with_reducible apply State_plaitCnt_keeps
    | with_reducible apply State_plaitCause_keeps
    | with_reducible apply Keeps.foldl
    | intro _
    | with_reducible apply Keeps.ite
    | split
    | dsimp only

theorem State_plaitStream_keeps {m : Nat} {s0 : State} {a0 : State} {a1 : Row} {a2 : Nat} {a3 : Nat} {a4 : Nat} (h : Keeps m s0 a0) (hs : sub 0x10 m = true) : Keeps m s0 (State.plaitStream a0 a1 a2 a3 a4) := by
  refine h.step ?_ hs
  dsimp only [State.plaitStream]
  repeat' first
    | with_reducible first | assumption | exact Keeps.refl _ _
    | (with_reducible apply sub_intro); exact rfl
    | with_reducible apply State_rput_keeps
    | with_reducible apply Keeps.ite
    | split
    | dsimp only

theorem State_plaitFrame_keeps {m : Nat} {s0 : State} {a0 : State} {a1 : Nat} {a2 : Nat} {a3 : Nat} (h : Keeps m s0 a0) (hs : sub 0x4000080010 m = true) : Keeps m s0 (State.plaitFrame a0 a1 a2 a3) := by
  refine h.step ?_ hs
  dsimp only [State.plaitFrame]
  repeat' first
    | with_reducible first | assumption | exact Keeps.refl _ _
    | (with_reducible apply sub_intro); exact rfl
    | with_reducible apply State_plaitCause_keeps
    | with_reducible apply State_plaitCnt_keeps
    | with_reducible apply State_plaitStream_keeps
    | with_reducible apply State_plaitAccumulate_keeps
    | with_reducible apply Keeps.ite
    | split
    | dsimp only

theorem execPlaitTake_keeps {m : Nat} {s0 : State} {a0 : Nat} {a1 : State} (h : Keeps m s0 a1) (hs : sub 0x18d800480010 m = true) : OutKeeps m s0 (execPlaitTake a0 a1) := by
  refine OutKeeps.step h ?_ hs
  dsimp only [execPlaitTake]
  repeat' first
    | with_reducible first | assumption | exact Keeps.refl _ _
    | (with_reducible apply sub_intro); exact rfl
    | with_reducible apply OutKeeps.next
    | with_reducible apply State_plaitCause_keeps
    | with_reducible apply State_plaitCnt_keeps
    | with_reducible apply State_plaitFrame_keeps
    | with_reducible apply State_plaitSettle_keeps
    | with_reducible apply State_reap_keeps
    | with_reducible exact State.Canonical.plaitIn (by assumption)
    | with_reducible apply swf_sset
    | with_reducible apply swf_smap
    | with_reducible apply swf_sfilter
    | with_reducible apply swf_sdel
    | with_reducible exact swf_nil
    | with_reducible apply swf_foldl
    | with_reducible apply Keeps.foldl
    | intro _
    | with_reducible apply OutKeeps.ite
    | with_reducible apply Keeps.ite
    | split
    | dsimp only
    | with_reducible apply Keeps.plaitIn

theorem execWindowOpen_keeps {m : Nat} {s0 : State} {a0 : Nat} {a1 : State} (h : Keeps m s0 a1) (hs : sub 0x4000000000 m = true) : OutKeeps m s0 (execWindowOpen a0 a1) := by
  refine OutKeeps.step h ?_ hs
  dsimp only [execWindowOpen]
  repeat' first
    | with_reducible first | assumption | exact Keeps.refl _ _
    | (with_reducible apply sub_intro); exact rfl
    | with_reducible apply OutKeeps.next
    | with_reducible apply State_plaitSettle_keeps
    | with_reducible apply OutKeeps.ite
    | with_reducible apply Keeps.ite
    | split
    | dsimp only

theorem State_emitSection_keeps {m : Nat} {s0 : State} {a0 : State} {a1 : Nat} {a2 : PlaitWin} {a3 : Nat} (h : Keeps m s0 a0) (hs : sub 0x1858cfc80018 m = true) : Keeps m s0 (State.emitSection a0 a1 a2 a3) := by
  refine h.step ?_ hs
  dsimp only [State.emitSection]
  repeat' first
    | with_reducible first | assumption | exact Keeps.refl _ _
    | (with_reducible apply sub_intro); exact rfl
    | with_reducible apply State_setPc_keeps
    | with_reducible apply State_plaitCause_keeps
    | with_reducible apply State_plaitCnt_keeps
    | with_reducible apply State_deliver_keeps
    | with_reducible apply State_noteRefused_keeps
    | with_reducible apply State_reap_keeps
    | with_reducible exact State.Canonical.frames (by assumption)
    | with_reducible apply srise_sins
    | with_reducible apply srise_sset
    | with_reducible apply srise_sdel
    | with_reducible apply swf_sset
    | with_reducible apply swf_smap
    | with_reducible apply swf_sfilter
    | with_reducible apply swf_sdel
    | with_reducible exact swf_nil
    | with_reducible apply swf_foldl
    | with_reducible apply Keeps.foldl
    | intro _
    | with_reducible apply Keeps.ite
    | split
    | dsimp only
    | with_reducible apply Keeps.frames_nextFrame

theorem execWindowClose_keeps {m : Nat} {s0 : State} {a0 : Nat} {a1 : State} (h : Keeps m s0 a1) (hs : sub 0x1858cfc80018 m = true) : OutKeeps m s0 (execWindowClose a0 a1) := by
  refine OutKeeps.step h ?_ hs
  dsimp only [execWindowClose]
  repeat' first
    | with_reducible first | assumption | exact Keeps.refl _ _
    | (with_reducible apply sub_intro); exact rfl
    | with_reducible apply OutKeeps.next
    | with_reducible apply State_plaitCnt_keeps
    | with_reducible apply State_plaitCause_keeps
    | with_reducible apply State_sinc_keeps
    | with_reducible apply State_rput_keeps
    | with_reducible apply State_setPc_keeps
    | with_reducible apply State_emitSection_keeps
    | with_reducible apply Keeps.foldl
    | intro _
    | with_reducible apply OutKeeps.ite
    | with_reducible apply Keeps.ite
    | split
    | dsimp only

end Sys2Proof.Laws
end

