-- ==== Sys2Proof/Laws/Keep/AxMisc.lean ====
section
/-! SUPPORT. What each definition of Machine/AxMisc may change, and that it keeps the canonical form. -/

namespace Sys2Proof.Laws

open Sys2Proof Sys2Proof.Machine

theorem State_csnapTally_keeps {m : Nat} {s0 : State} {a0 : State} {a1 : Ax} (h : Keeps m s0 a0) (hs : sub 0x800180690 m = true) : Keeps m s0 (State.csnapTally a0 a1) := by
  refine h.step ?_ hs
  dsimp only [State.csnapTally]
  repeat' first
    | with_reducible first | assumption | exact Keeps.refl _ _
    | (with_reducible apply sub_intro); exact rfl
    | with_reducible apply State_tallySnap_keeps
    | with_reducible apply State_axDone_keeps
    | with_reducible apply State_axWait_keeps
    | with_reducible refine Keeps.fstEq (by assumption) ?_
    | with_reducible apply Keeps.ite
    | with_reducible apply Keeps.iteFst
    | split
    | dsimp only

theorem State_csnapGroup_keeps {m : Nat} {s0 : State} {a0 : State} {a1 : Ax} {a2 : Nat} {a3 : List CtrRef} (h : Keeps m s0 a0) (hs : sub 0x20800080690 m = true) : Keeps m s0 (State.csnapGroup a0 a1 a2 a3) := by
  refine h.step ?_ hs
  dsimp only [State.csnapGroup]
  repeat' first
    | with_reducible first | assumption | exact Keeps.refl _ _
    | (with_reducible apply sub_intro); exact rfl
    | with_reducible apply State_axWrite_keeps
    | with_reducible apply State_axDone_keeps
    | with_reducible apply State_wg_keeps
    | with_reducible apply State_ctrClear_keeps
    | with_reducible apply Keeps.foldl
    | intro _
    | with_reducible apply Keeps.ite
    | split
    | dsimp only

theorem execCsnap_keeps {m : Nat} {s0 : State} {a0 : AxOp} {a1 : State} (h : Keeps m s0 a1) (hs : sub 0x20800180690 m = true) : OutKeeps m s0 (execCsnap a0 a1) := by
  refine OutKeeps.step h ?_ hs
  dsimp only [execCsnap]
  repeat' first
    | with_reducible first | assumption | exact Keeps.refl _ _
    | (with_reducible apply sub_intro); exact rfl
    | with_reducible apply OutKeeps.next
    | with_reducible apply State_axClass_keeps
    | with_reducible apply State_csnapTally_keeps
    | with_reducible apply State_axEnd_keeps
    | with_reducible apply State_csnapGroup_keeps
    | with_reducible apply Keeps.foldl
    | intro _
    | with_reducible apply OutKeeps.ite
    | with_reducible apply Keeps.ite
    | split
    | dsimp only

theorem State_plaitSettleAll_keeps {m : Nat} {s0 : State} {a0 : State} {a1 : Nat} (h : Keeps m s0 a0) (hs : sub 0x4000000000 m = true) : Keeps m s0 (State.plaitSettleAll a0 a1) := by
  refine h.step ?_ hs
  dsimp only [State.plaitSettleAll]
  repeat' first
    | with_reducible first | assumption | exact Keeps.refl _ _
    | (with_reducible apply sub_intro); exact rfl
    | with_reducible apply State_plaitSettle_keeps
    | with_reducible apply Keeps.foldl
    | intro _
    | with_reducible apply Keeps.ite
    | split
    | dsimp only

theorem State_plctxLoad_keeps {m : Nat} {s0 : State} {a0 : State} {a1 : Ax} {a2 : Nat} {a3 : Nat} (h : Keeps m s0 a0) (hs : sub 0x4800080690 m = true) : Keeps m s0 (State.plctxLoad a0 a1 a2 a3) := by
  refine h.step ?_ hs
  dsimp only [State.plctxLoad]
  repeat' first
    | with_reducible first | assumption | exact Keeps.refl _ _
    | (with_reducible apply sub_intro); exact rfl
    | with_reducible apply State_plaitSettleAll_keeps
    | with_reducible apply State_axEnd_keeps
    | with_reducible apply State_axDone_keeps
    | with_reducible apply State_setPc_keeps
    | with_reducible apply Keeps.ite
    | split
    | dsimp only

theorem execPlctx_keeps {m : Nat} {s0 : State} {a0 : AxOp} {a1 : State} (h : Keeps m s0 a1) (hs : sub 0x4800080690 m = true) : OutKeeps m s0 (execPlctx a0 a1) := by
  refine OutKeeps.step h ?_ hs
  dsimp only [execPlctx]
  repeat' first
    | with_reducible first | assumption | exact Keeps.refl _ _
    | (with_reducible apply sub_intro); exact rfl
    | with_reducible apply OutKeeps.next
    | with_reducible apply State_axClass_keeps
    | with_reducible apply State_plaitSettle_keeps
    | with_reducible apply State_axDone_keeps
    | with_reducible apply State_setPc_keeps
    | with_reducible apply State_axRead_keeps
    | with_reducible apply State_plctxLoad_keeps
    | with_reducible apply Keeps.foldl
    | intro _
    | with_reducible apply OutKeeps.ite
    | with_reducible apply Keeps.ite
    | split
    | dsimp only

theorem State_loadp_keeps {m : Nat} {s0 : State} {a0 : State} {a1 : Ax} {a2 : List Nat} {a3 : List Nat} {a4 : Nat} (h : Keeps m s0 a0) (hs : sub 0xc00080690 m = true) : Keeps m s0 (State.loadp a0 a1 a2 a3 a4) := by
  refine h.step ?_ hs
  dsimp only [State.loadp]
  repeat' first
    | with_reducible first | assumption | exact Keeps.refl _ _
    | (with_reducible apply sub_intro); exact rfl
    | with_reducible apply State_axDone_keeps
    | with_reducible apply State_axHold_keeps
    | with_reducible apply State_loadShadow_keeps
    | with_reducible apply Keeps.foldl
    | intro _
    | with_reducible apply Keeps.ite
    | split
    | dsimp only

theorem execLoadp_keeps {m : Nat} {s0 : State} {a0 : AxOp} {a1 : State} (h : Keeps m s0 a1) (hs : sub 0xc00080690 m = true) : OutKeeps m s0 (execLoadp a0 a1) := by
  refine OutKeeps.step h ?_ hs
  dsimp only [execLoadp]
  repeat' first
    | with_reducible first | assumption | exact Keeps.refl _ _
    | (with_reducible apply sub_intro); exact rfl
    | with_reducible apply OutKeeps.next
    | with_reducible apply State_axClass_keeps
    | with_reducible apply State_axEnd_keeps
    | with_reducible apply State_axRead_keeps
    | with_reducible apply State_axDone_keeps
    | with_reducible apply State_loadp_keeps
    | with_reducible apply Keeps.foldl
    | intro _
    | with_reducible apply OutKeeps.ite
    | with_reducible apply Keeps.ite
    | split
    | dsimp only

end Sys2Proof.Laws
end

