-- ==== Sys2Proof/Laws/Keep/Pager.lean ====
section
/-! SUPPORT. What each definition of Machine/Pager may change, and that it keeps the canonical form. -/

namespace Sys2Proof.Laws

open Sys2Proof Sys2Proof.Machine

theorem State_choose_keeps {m : Nat} {s0 : State} {a0 : State} {a1 : List Nat} (h : Keeps m s0 a0) (hs : sub 0x8 m = true) : Keeps m s0 (State.choose a0 a1).1 := by
  refine h.step ?_ hs
  dsimp only [State.choose]
  repeat' first
    | with_reducible first | assumption | exact Keeps.refl _ _
    | (with_reducible apply sub_intro); exact rfl
    | with_reducible apply State_useFree_keeps
    | with_reducible apply Keeps.ite
    | with_reducible apply Keeps.iteFst
    | split
    | dsimp only

theorem State_ctxInit_keeps {m : Nat} {s0 : State} {a0 : State} {a1 : Nat} (h : Keeps m s0 a0) (hs : sub 0xa000000 m = true) : Keeps m s0 (State.ctxInit a0 a1) := by
  refine h.step ?_ hs
  dsimp only [State.ctxInit]
  repeat' first
    | with_reducible first | assumption | exact Keeps.refl _ _
    | (with_reducible apply sub_intro); exact rfl
    | with_reducible apply State_setQ_keeps
    | with_reducible apply State_setObj_keeps
    | with_reducible apply Keeps.ite
    | split
    | dsimp only

theorem State_takeSlot_keeps {m : Nat} {s0 : State} {a0 : State} {a1 : Nat} (h : Keeps m s0 a0) (hs : sub 0x8 m = true) : Keeps m s0 (State.takeSlot a0 a1).1 := by
  refine h.step ?_ hs
  dsimp only [State.takeSlot]
  repeat' first
    | with_reducible first | assumption | exact Keeps.refl _ _
    | (with_reducible apply sub_intro); exact rfl
    | with_reducible apply State_choose_keeps
    | with_reducible refine Keeps.fstEq (by assumption) ?_
    | with_reducible apply Keeps.ite
    | with_reducible apply Keeps.iteFst
    | split
    | dsimp only

theorem State_evictQueue_keeps {m : Nat} {s0 : State} {a0 : State} {a1 : Nat} {a2 : Nat} (h : Keeps m s0 a0) (hs : sub 0x2000098 m = true) : Keeps m s0 (State.evictQueue a0 a1 a2) := by
  refine h.step ?_ hs
  dsimp only [State.evictQueue]
  repeat' first
    | with_reducible first | assumption | exact Keeps.refl _ _
    | (with_reducible apply sub_intro); exact rfl
    | with_reducible apply State_lp4xUse_keeps
    | with_reducible apply State_mwrite_keeps
    | with_reducible apply State_cinc_keeps
    | with_reducible apply State_setQ_keeps
    | with_reducible apply Keeps.ite
    | split
    | dsimp only

theorem State_evictOne_keeps {m : Nat} {s0 : State} {a0 : State} {a1 : Nat} (h : Keeps m s0 a0) (hs : sub 0x2000098 m = true) : Keeps m s0 (State.evictOne a0 a1).1 := by
  refine h.step ?_ hs
  dsimp only [State.evictOne]
  repeat' first
    | with_reducible first | assumption | exact Keeps.refl _ _
    | (with_reducible apply sub_intro); exact rfl
    | with_reducible apply State_choose_keeps
    | with_reducible apply State_evictQueue_keeps
    | with_reducible refine Keeps.fstEq (by assumption) ?_
    | with_reducible apply Keeps.ite
    | with_reducible apply Keeps.iteFst
    | split
    | dsimp only

theorem execEviction_keeps {m : Nat} {s0 : State} {a0 : Nat} {a1 : State} (h : Keeps m s0 a1) (hs : sub 0x2000098 m = true) : OutKeeps m s0 (execEviction a0 a1) := by
  refine OutKeeps.step h ?_ hs
  dsimp only [execEviction]
  repeat' first
    | with_reducible first | assumption | exact Keeps.refl _ _
    | (with_reducible apply sub_intro); exact rfl
    | with_reducible apply OutKeeps.next
    | with_reducible apply State_evictOne_keeps
    | with_reducible refine Keeps.fstEq (by assumption) ?_
    | with_reducible apply OutKeeps.ite
    | with_reducible apply Keeps.iteFst
    | with_reducible apply Keeps.ite
    | split
    | dsimp only

theorem State_pageWait_keeps {m : Nat} {s0 : State} {a0 : State} {a1 : Nat} {a2 : Nat} (h : Keeps m s0 a0) (hs : sub 0x4000000 m = true) : Keeps m s0 (State.pageWait a0 a1 a2) := by
  refine h.step ?_ hs
  dsimp only [State.pageWait]
  repeat' first
    | with_reducible first | assumption | exact Keeps.refl _ _
    | (with_reducible apply sub_intro); exact rfl
    | with_reducible apply State_setPager_keeps
    | with_reducible apply Keeps.ite
    | split
    | dsimp only

theorem execPageInStart_keeps {m : Nat} {s0 : State} {a0 : Nat} {a1 : State} (h : Keeps m s0 a1) (hs : sub 0x6000098 m = true) : OutKeeps m s0 (execPageInStart a0 a1) := by
  refine OutKeeps.step h ?_ hs
  dsimp only [execPageInStart]
  repeat' first
    | with_reducible first | assumption | exact Keeps.refl _ _
    | (with_reducible apply sub_intro); exact rfl
    | with_reducible apply OutKeeps.next
    | with_reducible apply State_pageWait_keeps
    | with_reducible apply State_evictOne_keeps
    | with_reducible apply State_takeSlot_keeps
    | with_reducible apply State_setQ_keeps
    | with_reducible apply State_setPager_keeps
    | with_reducible apply State_cinc_keeps
    | with_reducible refine Keeps.fstEq (by assumption) ?_
    | with_reducible apply OutKeeps.ite
    | with_reducible apply Keeps.iteFst
    | with_reducible apply Keeps.ite
    | split
    | dsimp only

theorem State_unstage_keeps {m : Nat} {s0 : State} {a0 : State} {a1 : Nat} {a2 : Nat} (h : Keeps m s0 a0) (hs : sub 0xe000010 m = true) : Keeps m s0 (State.unstage a0 a1 a2) := by
  refine h.step ?_ hs
  dsimp only [State.unstage]
  repeat' first
    | with_reducible first | assumption | exact Keeps.refl _ _
    | (with_reducible apply sub_intro); exact rfl
    | with_reducible apply State_rsub_keeps
    | with_reducible apply State_setPager_keeps
    | with_reducible apply State_enqueue_keeps
    | with_reducible apply Keeps.foldl
    | intro _
    | with_reducible apply Keeps.ite
    | split
    | dsimp only

theorem execPageInDone_keeps {m : Nat} {s0 : State} {a0 : Nat} {a1 : Bool} {a2 : State} (h : Keeps m s0 a2) (hs : sub 0x80e080698 m = true) : OutKeeps m s0 (execPageInDone a0 a1 a2) := by
  refine OutKeeps.step h ?_ hs
  dsimp only [execPageInDone]
  repeat' first
    | with_reducible first | assumption | exact Keeps.refl _ _
    | (with_reducible apply sub_intro); exact rfl
    | with_reducible apply OutKeeps.next
    | with_reducible apply State_lp4xUse_keeps
    | with_reducible apply State_raise_keeps
    | with_reducible apply State_cinc_keeps
    | with_reducible apply State_ctxInit_keeps
    | with_reducible apply State_lp4xEcc_keeps
    | with_reducible apply State_refreshObj_keeps
    | with_reducible apply State_setQ_keeps
    | with_reducible apply State_unstage_keeps
    | with_reducible apply State_endWait_keeps
    | with_reducible apply Keeps.foldl
    | intro _
    | with_reducible apply OutKeeps.ite
    | with_reducible apply Keeps.ite
    | split
    | dsimp only

theorem execQpageFault_keeps {m : Nat} {s0 : State} {a0 : Nat} {a1 : State} (h : Keeps m s0 a1) (hs : sub 0x4080010 m = true) : OutKeeps m s0 (execQpageFault a0 a1) := by
  refine OutKeeps.step h ?_ hs
  dsimp only [execQpageFault]
  repeat' first
    | with_reducible first | assumption | exact Keeps.refl _ _
    | (with_reducible apply sub_intro); exact rfl
    | with_reducible apply OutKeeps.next
    | with_reducible apply State_raise_keeps
    | with_reducible apply State_setPager_keeps
    | with_reducible apply OutKeeps.ite
    | with_reducible apply Keeps.ite
    | split
    | dsimp only

theorem execHoldExpiry_keeps {m : Nat} {s0 : State} {a0 : Nat} {a1 : State} (h : Keeps m s0 a1) (hs : sub 0x1819cf480010 m = true) : OutKeeps m s0 (execHoldExpiry a0 a1) := by
  refine OutKeeps.step h ?_ hs
  dsimp only [execHoldExpiry]
  repeat' first
    | with_reducible first | assumption | exact Keeps.refl _ _
    | (with_reducible apply sub_intro); exact rfl
    | with_reducible apply OutKeeps.next
    | with_reducible apply State_flushPort_keeps
    | with_reducible apply State_rput_keeps
    | with_reducible apply OutKeeps.ite
    | with_reducible apply Keeps.ite
    | split
    | dsimp only

end Sys2Proof.Laws
end

