-- ==== Sys2Proof/Laws/Keep/AxQueue.lean ====
section
/-! SUPPORT. What each definition of Machine/AxQueue may change, and that it keeps the canonical form. -/

namespace Sys2Proof.Laws

open Sys2Proof Sys2Proof.Machine

theorem State_qnew_keeps {m : Nat} {s0 : State} {a0 : State} {a1 : Nat} (h : Keeps m s0 a0) (hs : sub 0xa000000 m = true) : Keeps m s0 (State.qnew a0 a1) := by
  refine h.step ?_ hs
  dsimp only [State.qnew]
  repeat' first
    | with_reducible first | assumption | exact Keeps.refl _ _
    | (with_reducible apply sub_intro); exact rfl
    | with_reducible apply State_setObj_keeps
    | with_reducible apply State_setQ_keeps
    | with_reducible apply Keeps.ite
    | split
    | dsimp only

theorem execQnew_keeps {m : Nat} {s0 : State} {a0 : AxOp} {a1 : State} (h : Keeps m s0 a1) (hs : sub 0x80a080690 m = true) : OutKeeps m s0 (execQnew a0 a1) := by
  refine OutKeeps.step h ?_ hs
  dsimp only [execQnew]
  repeat' first
    | with_reducible first | assumption | exact Keeps.refl _ _
    | (with_reducible apply sub_intro); exact rfl
    | with_reducible apply OutKeeps.next
    | with_reducible apply State_axClass_keeps
    | with_reducible apply State_axEnd_keeps
    | with_reducible apply State_axDone_keeps
    | with_reducible apply State_wg_keeps
    | with_reducible apply State_qnew_keeps
    | with_reducible apply Keeps.foldl
    | intro _
    | with_reducible apply OutKeeps.ite
    | with_reducible apply Keeps.ite
    | split
    | dsimp only

theorem State_onQueue_keeps {m : Nat} {s0 : State} {a0 : State} {a1 : Ax} {a2 : Nat} {a3 : Option Nat} {a4 : State → Nat → State} (h : Keeps m s0 a0) (hs : sub 0x800080690 m = true) (g4 : ∀ x0 x1, Keeps m s0 x0 → Keeps m s0 (a4 x0 x1)) : Keeps m s0 (State.onQueue a0 a1 a2 a3 a4) := by
  dsimp only [State.onQueue]
  repeat' first
    | with_reducible first | assumption | exact Keeps.refl _ _
    | (with_reducible apply sub_intro); exact rfl
    | with_reducible apply g4
    | exact sub_trans (sub_intro rfl) hs
    | with_reducible apply State_axEnd_keeps
    | with_reducible apply State_axDone_keeps
    | with_reducible apply Keeps.ite
    | split
    | dsimp only

theorem State_dropPin_keeps {m : Nat} {s0 : State} {a0 : State} {a1 : Nat} {a2 : Nat} (h : Keeps m s0 a0) (hs : sub 0x4000000 m = true) : Keeps m s0 (State.dropPin a0 a1 a2) := by
  refine h.step ?_ hs
  dsimp only [State.dropPin]
  repeat' first
    | with_reducible first | assumption | exact Keeps.refl _ _
    | (with_reducible apply sub_intro); exact rfl
    | with_reducible apply State_setPager_keeps
    | with_reducible apply Keeps.ite
    | split
    | dsimp only

theorem State_movePins_keeps {m : Nat} {s0 : State} {a0 : State} {a1 : Nat} {a2 : Nat} {a3 : Nat} (h : Keeps m s0 a0) (hs : sub 0x4000000 m = true) : Keeps m s0 (State.movePins a0 a1 a2 a3) := by
  refine h.step ?_ hs
  dsimp only [State.movePins]
  repeat' first
    | with_reducible first | assumption | exact Keeps.refl _ _
    | (with_reducible apply sub_intro); exact rfl
    | with_reducible apply State_dropPin_keeps
    | with_reducible apply State_setPager_keeps
    | with_reducible apply Keeps.ite
    | split
    | dsimp only

theorem State_rehome_keeps {m : Nat} {s0 : State} {a0 : State} {a1 : Nat} {a2 : Nat} (h : Keeps m s0 a0) (hs : sub 0xa000098 m = true) : Keeps m s0 (State.rehome a0 a1 a2) := by
  refine h.step ?_ hs
  dsimp only [State.rehome]
  repeat' first
    | with_reducible first | assumption | exact Keeps.refl _ _
    | (with_reducible apply sub_intro); exact rfl
    | with_reducible apply State_takeSlot_keeps
    | with_reducible apply State_setQ_keeps
    | with_reducible apply State_lp4xUse_keeps
    | with_reducible apply State_mwrite_keeps
    | with_reducible apply State_ctxInit_keeps
    | with_reducible refine Keeps.fstEq (by assumption) ?_
    | with_reducible apply Keeps.ite
    | with_reducible apply Keeps.iteFst
    | split
    | dsimp only

theorem State_qmap_keeps {m : Nat} {s0 : State} {a0 : State} {a1 : Nat} {a2 : Nat} {a3 : Nat} {a4 : Nat} (h : Keeps m s0 a0) (hs : sub 0xe000098 m = true) : Keeps m s0 (State.qmap a0 a1 a2 a3 a4) := by
  refine h.step ?_ hs
  dsimp only [State.qmap]
  repeat' first
    | with_reducible first | assumption | exact Keeps.refl _ _
    | (with_reducible apply sub_intro); exact rfl
    | with_reducible apply State_setQ_keeps
    | with_reducible apply State_setObj_keeps
    | with_reducible apply State_movePins_keeps
    | with_reducible apply State_rehome_keeps
    | with_reducible apply Keeps.ite
    | split
    | dsimp only

theorem execQmap_keeps {m : Nat} {s0 : State} {a0 : AxOp} {a1 : State} (h : Keeps m s0 a1) (hs : sub 0x80e080698 m = true) : OutKeeps m s0 (execQmap a0 a1) := by
  refine OutKeeps.step h ?_ hs
  dsimp only [execQmap]
  repeat' first
    | with_reducible first | assumption | exact Keeps.refl _ _
    | (with_reducible apply sub_intro); exact rfl
    | with_reducible apply OutKeeps.next
    | with_reducible apply State_axClass_keeps
    | with_reducible apply State_axEnd_keeps
    | with_reducible apply State_onQueue_keeps
    | with_reducible apply State_axDone_keeps
    | with_reducible apply State_qmap_keeps
    | with_reducible apply Keeps.foldl
    | intro _
    | with_reducible apply OutKeeps.ite
    | with_reducible apply Keeps.ite
    | split
    | dsimp only

theorem execQpin_keeps {m : Nat} {s0 : State} {a0 : AxOp} {a1 : State} (h : Keeps m s0 a1) (hs : sub 0x806080690 m = true) : OutKeeps m s0 (execQpin a0 a1) := by
  refine OutKeeps.step h ?_ hs
  dsimp only [execQpin]
  repeat' first
    | with_reducible first | assumption | exact Keeps.refl _ _
    | (with_reducible apply sub_intro); exact rfl
    | with_reducible apply OutKeeps.next
    | with_reducible apply State_axClass_keeps
    | with_reducible apply State_onQueue_keeps
    | with_reducible apply State_axDone_keeps
    | with_reducible apply State_setQ_keeps
    | with_reducible apply State_axHold_keeps
    | with_reducible apply State_setPager_keeps
    | with_reducible apply Keeps.foldl
    | intro _
    | with_reducible apply OutKeeps.ite
    | with_reducible apply Keeps.ite
    | split
    | dsimp only

theorem execQunpin_keeps {m : Nat} {s0 : State} {a0 : AxOp} {a1 : State} (h : Keeps m s0 a1) (hs : sub 0x802080690 m = true) : OutKeeps m s0 (execQunpin a0 a1) := by
  refine OutKeeps.step h ?_ hs
  dsimp only [execQunpin]
  repeat' first
    | with_reducible first | assumption | exact Keeps.refl _ _
    | (with_reducible apply sub_intro); exact rfl
    | with_reducible apply OutKeeps.next
    | with_reducible apply State_axClass_keeps
    | with_reducible apply State_onQueue_keeps
    | with_reducible apply State_axDone_keeps
    | with_reducible apply State_setQ_keeps
    | with_reducible apply Keeps.foldl
    | intro _
    | with_reducible apply OutKeeps.ite
    | with_reducible apply Keeps.ite
    | split
    | dsimp only

theorem execQflush_keeps {m : Nat} {s0 : State} {a0 : AxOp} {a1 : State} (h : Keeps m s0 a1) (hs : sub 0x1819cf480690 m = true) : OutKeeps m s0 (execQflush a0 a1) := by
  refine OutKeeps.step h ?_ hs
  dsimp only [execQflush]
  repeat' first
    | with_reducible first | assumption | exact Keeps.refl _ _
    | (with_reducible apply sub_intro); exact rfl
    | with_reducible apply OutKeeps.next
    | with_reducible apply State_axClass_keeps
    | with_reducible apply State_onQueue_keeps
    | with_reducible apply State_flushQueue_keeps
    | with_reducible apply State_axDone_keeps
    | with_reducible apply State_wg_keeps
    | with_reducible apply Keeps.foldl
    | intro _
    | with_reducible apply OutKeeps.ite
    | with_reducible apply Keeps.ite
    | split
    | dsimp only

theorem State_qfree_keeps {m : Nat} {s0 : State} {a0 : State} {a1 : Nat} (h : Keeps m s0 a0) (hs : sub 0x80e080690 m = true) : Keeps m s0 (State.qfree a0 a1) := by
  refine h.step ?_ hs
  dsimp only [State.qfree]
  repeat' first
    | with_reducible first | assumption | exact Keeps.refl _ _
    | (with_reducible apply sub_intro); exact rfl
    | with_reducible apply State_setObj_keeps
    | with_reducible apply State_setQ_keeps
    | with_reducible apply State_dropPin_keeps
    | with_reducible apply State_endWait_keeps
    | with_reducible apply Keeps.foldl
    | intro _
    | with_reducible apply Keeps.ite
    | split
    | dsimp only

theorem execQfree_keeps {m : Nat} {s0 : State} {a0 : AxOp} {a1 : State} (h : Keeps m s0 a1) (hs : sub 0x80e080690 m = true) : OutKeeps m s0 (execQfree a0 a1) := by
  refine OutKeeps.step h ?_ hs
  dsimp only [execQfree]
  repeat' first
    | with_reducible first | assumption | exact Keeps.refl _ _
    | (with_reducible apply sub_intro); exact rfl
    | with_reducible apply OutKeeps.next
    | with_reducible apply State_axClass_keeps
    | with_reducible apply State_onQueue_keeps
    | with_reducible apply State_axDone_keeps
    | with_reducible apply State_qfree_keeps
    | with_reducible apply Keeps.foldl
    | intro _
    | with_reducible apply OutKeeps.ite
    | with_reducible apply Keeps.ite
    | split
    | dsimp only

end Sys2Proof.Laws
end

