-- ==== Sys2Proof/Laws/Keep/AxSched.lean ====
section
/-! SUPPORT. What each definition of Machine/AxSched may change, and that it keeps the canonical form. -/

namespace Sys2Proof.Laws

open Sys2Proof Sys2Proof.Machine

theorem State_shset_keeps {m : Nat} {s0 : State} {a0 : State} {a1 : Nat} {a2 : ShSet} (h : Keeps m s0 a0) (hs : sub 0x8000000 m = true) : Keeps m s0 (State.shset a0 a1 a2) := by
  refine h.step ?_ hs
  dsimp only [State.shset]
  repeat' first
    | with_reducible first | assumption | exact Keeps.refl _ _
    | (with_reducible apply sub_intro); exact rfl
    | with_reducible apply State_setObj_keeps
    | with_reducible apply Keeps.ite
    | split
    | dsimp only

theorem execShset_keeps {m : Nat} {s0 : State} {a0 : AxOp} {a1 : State} (h : Keeps m s0 a1) (hs : sub 0x808080690 m = true) : OutKeeps m s0 (execShset a0 a1) := by
  refine OutKeeps.step h ?_ hs
  dsimp only [execShset]
  repeat' first
    | with_reducible first | assumption | exact Keeps.refl _ _
    | (with_reducible apply sub_intro); exact rfl
    | with_reducible apply OutKeeps.next
    | with_reducible apply State_axClass_keeps
    | with_reducible apply State_axEnd_keeps
    | with_reducible apply State_axDone_keeps
    | with_reducible apply State_shset_keeps
    | with_reducible apply Keeps.foldl
    | intro _
    | with_reducible apply OutKeeps.ite
    | with_reducible apply Keeps.ite
    | split
    | dsimp only

theorem State_gclWrite_keeps {m : Nat} {s0 : State} {a0 : State} {a1 : Nat} {a2 : Nat} {a3 : List Nat} (h : Keeps m s0 a0) (hs : sub 0x20000000 m = true) : Keeps m s0 (State.gclWrite a0 a1 a2 a3) := by
  refine h.step ?_ hs
  dsimp only [State.gclWrite]
  repeat' first
    | with_reducible first | assumption | exact Keeps.refl _ _
    | (with_reducible apply sub_intro); exact rfl
    | with_reducible apply State_setGate_keeps
    | with_reducible apply Keeps.ite
    | split
    | dsimp only

theorem execGcl_keeps {m : Nat} {s0 : State} {a0 : AxOp} {a1 : State} (h : Keeps m s0 a1) (hs : sub 0x820080690 m = true) : OutKeeps m s0 (execGcl a0 a1) := by
  refine OutKeeps.step h ?_ hs
  dsimp only [execGcl]
  repeat' first
    | with_reducible first | assumption | exact Keeps.refl _ _
    | (with_reducible apply sub_intro); exact rfl
    | with_reducible apply OutKeeps.next
    | with_reducible apply State_axClass_keeps
    | with_reducible apply State_axEnd_keeps
    | with_reducible apply State_axRead_keeps
    | with_reducible apply State_axDone_keeps
    | with_reducible apply State_gclWrite_keeps
    | with_reducible apply Keeps.foldl
    | intro _
    | with_reducible apply OutKeeps.ite
    | with_reducible apply Keeps.ite
    | split
    | dsimp only

theorem State_gswap_keeps {m : Nat} {s0 : State} {a0 : State} {a1 : Nat} {a2 : Nat} {a3 : Nat} {a4 : Nat} (h : Keeps m s0 a0) (hs : sub 0x20000000 m = true) : Keeps m s0 (State.gswap a0 a1 a2 a3 a4) := by
  refine h.step ?_ hs
  dsimp only [State.gswap]
  repeat' first
    | with_reducible first | assumption | exact Keeps.refl _ _
    | (with_reducible apply sub_intro); exact rfl
    | with_reducible apply State_setGate_keeps
    | with_reducible apply Keeps.ite
    | split
    | dsimp only

theorem execGswap_keeps {m : Nat} {s0 : State} {a0 : AxOp} {a1 : State} (h : Keeps m s0 a1) (hs : sub 0x820080690 m = true) : OutKeeps m s0 (execGswap a0 a1) := by
  refine OutKeeps.step h ?_ hs
  dsimp only [execGswap]
  repeat' first
    | with_reducible first | assumption | exact Keeps.refl _ _
    | (with_reducible apply sub_intro); exact rfl
    | with_reducible apply OutKeeps.next
    | with_reducible apply State_axClass_keeps
    | with_reducible apply State_axEnd_keeps
    | with_reducible apply State_gswap_keeps
    | with_reducible apply State_axWait_keeps
    | with_reducible apply State_axDone_keeps
    | with_reducible apply Keeps.foldl
    | intro _
    | with_reducible apply OutKeeps.ite
    | with_reducible apply Keeps.ite
    | split
    | dsimp only

end Sys2Proof.Laws
end

