-- ==== Sys2Proof/Laws/Keep/AxSync.lean ====
section
/-! SUPPORT. What each definition of Machine/AxSync may change, and that it keeps the canonical form. -/

namespace Sys2Proof.Laws

open Sys2Proof Sys2Proof.Machine

theorem State_evClear_keeps {m : Nat} {s0 : State} {a0 : State} {a1 : Nat} {a2 : Nat} {a3 : Nat} {a4 : Bool} (h : Keeps m s0 a0) (hs : sub 0x10000080010 m = true) : Keeps m s0 (State.evClear a0 a1 a2 a3 a4) := by
  refine h.step ?_ hs
  dsimp only [State.evClear]
  repeat' first
    | with_reducible first | assumption | exact Keeps.refl _ _
    | (with_reducible apply sub_intro); exact rfl
    | with_reducible apply State_setSide_keeps
    | with_reducible apply State_clearStatus_keeps
    | with_reducible apply Keeps.ite
    | split
    | dsimp only

theorem State_evTake_keeps {m : Nat} {s0 : State} {a0 : State} {a1 : Nat} {a2 : Nat} {a3 : Nat} {a4 : Nat} {a5 : Bool} {a6 : Bool} (h : Keeps m s0 a0) (hs : sub 0x10000080210 m = true) : Keeps m s0 (State.evTake a0 a1 a2 a3 a4 a5 a6) := by
  refine h.step ?_ hs
  dsimp only [State.evTake]
  repeat' first
    | with_reducible first | assumption | exact Keeps.refl _ _
    | (with_reducible apply sub_intro); exact rfl
    | with_reducible apply State_setG_keeps
    | with_reducible apply State_evClear_keeps
    | with_reducible apply Keeps.ite
    | split
    | dsimp only

theorem execWaitev_keeps {m : Nat} {s0 : State} {a0 : AxOp} {a1 : State} (h : Keeps m s0 a1) (hs : sub 0x10800080690 m = true) : OutKeeps m s0 (execWaitev a0 a1) := by
  refine OutKeeps.step h ?_ hs
  dsimp only [execWaitev]
  repeat' first
    | with_reducible first | assumption | exact Keeps.refl _ _
    | (with_reducible apply sub_intro); exact rfl
    | with_reducible apply OutKeeps.next
    | with_reducible apply State_axRun_keeps
    | with_reducible apply State_axEnd_keeps
    | with_reducible apply State_axDone_keeps
    | with_reducible apply State_evTake_keeps
    | with_reducible apply State_axWait_keeps
    | with_reducible apply Keeps.foldl
    | intro _
    | with_reducible apply OutKeeps.ite
    | with_reducible apply Keeps.ite
    | split
    | dsimp only

theorem execWaitevWake_keeps {m : Nat} {s0 : State} {a0 : Nat} {a1 : State} (h : Keeps m s0 a1) (hs : sub 0x10800080690 m = true) : OutKeeps m s0 (execWaitevWake a0 a1) := by
  refine OutKeeps.step h ?_ hs
  dsimp only [execWaitevWake]
  repeat' first
    | with_reducible first | assumption | exact Keeps.refl _ _
    | (with_reducible apply sub_intro); exact rfl
    | with_reducible apply OutKeeps.next
    | with_reducible apply State_endWait_keeps
    | with_reducible apply State_evTake_keeps
    | with_reducible apply OutKeeps.ite
    | with_reducible apply Keeps.ite
    | split
    | dsimp only

theorem execSignal_keeps {m : Nat} {s0 : State} {a0 : AxOp} {a1 : State} (h : Keeps m s0 a1) (hs : sub 0x800080690 m = true) : OutKeeps m s0 (execSignal a0 a1) := by
  refine OutKeeps.step h ?_ hs
  dsimp only [execSignal]
  repeat' first
    | with_reducible first | assumption | exact Keeps.refl _ _
    | (with_reducible apply sub_intro); exact rfl
    | with_reducible apply OutKeeps.next
    | with_reducible apply State_axClass_keeps
    | with_reducible apply State_axDone_keeps
    | with_reducible apply State_raise_keeps
    | with_reducible apply Keeps.foldl
    | intro _
    | with_reducible apply OutKeeps.ite
    | with_reducible apply Keeps.ite
    | split
    | dsimp only

theorem State_dropWrites_keeps {m : Nat} {s0 : State} {a0 : State} {a1 : Nat} (h : Keeps m s0 a0) (hs : sub 0x200 m = true) : Keeps m s0 (State.dropWrites a0 a1) := by
  refine h.step ?_ hs
  dsimp only [State.dropWrites]
  repeat' first
    | with_reducible first | assumption | exact Keeps.refl _ _
    | (with_reducible apply sub_intro); exact rfl
    | with_reducible apply State_setThr_keeps
    | with_reducible apply Keeps.ite
    | split
    | dsimp only

theorem execFence_keeps {m : Nat} {s0 : State} {a0 : AxOp} {a1 : State} (h : Keeps m s0 a1) (hs : sub 0x800080690 m = true) : OutKeeps m s0 (execFence a0 a1) := by
  refine OutKeeps.step h ?_ hs
  dsimp only [execFence]
  repeat' first
    | with_reducible first | assumption | exact Keeps.refl _ _
    | (with_reducible apply sub_intro); exact rfl
    | with_reducible apply OutKeeps.next
    | with_reducible apply State_axRun_keeps
    | with_reducible apply State_axDone_keeps
    | with_reducible apply State_dropWrites_keeps
    | with_reducible apply State_axWait_keeps
    | with_reducible apply Keeps.foldl
    | intro _
    | with_reducible apply OutKeeps.ite
    | with_reducible apply Keeps.ite
    | split
    | dsimp only

theorem execFenceDone_keeps {m : Nat} {s0 : State} {a0 : Nat} {a1 : State} (h : Keeps m s0 a1) (hs : sub 0x800080690 m = true) : OutKeeps m s0 (execFenceDone a0 a1) := by
  refine OutKeeps.step h ?_ hs
  dsimp only [execFenceDone]
  repeat' first
    | with_reducible first | assumption | exact Keeps.refl _ _
    | (with_reducible apply sub_intro); exact rfl
    | with_reducible apply OutKeeps.next
    | with_reducible apply State_endWait_keeps
    | with_reducible apply State_dropWrites_keeps
    | with_reducible apply OutKeeps.ite
    | with_reducible apply Keeps.ite
    | split
    | dsimp only

theorem execBatch_keeps {m : Nat} {s0 : State} {a0 : AxOp} {a1 : State} (h : Keeps m s0 a1) (hs : sub 0x800080690 m = true) : OutKeeps m s0 (execBatch a0 a1) := by
  refine OutKeeps.step h ?_ hs
  dsimp only [execBatch]
  repeat' first
    | with_reducible first | assumption | exact Keeps.refl _ _
    | (with_reducible apply sub_intro); exact rfl
    | with_reducible apply OutKeeps.next
    | with_reducible apply State_axRun_keeps
    | with_reducible apply State_axEnd_keeps
    | with_reducible apply State_raise_keeps
    | with_reducible apply State_axDone_keeps
    | with_reducible apply State_setThr_keeps
    | with_reducible apply Keeps.foldl
    | intro _
    | with_reducible apply OutKeeps.ite
    | with_reducible apply Keeps.ite
    | split
    | dsimp only

theorem releaseOne_keeps {m : Nat} {s0 : State} {a0 : Nat} {a1 : State × Bool} {a2 : HeldWrite} (h : Keeps m s0 a1.1) (hs : sub 0x193cc14f96f0 m = true) : Keeps m s0 (releaseOne a0 a1 a2).1 := by
  refine h.step ?_ hs
  dsimp only [releaseOne]
  repeat' first
    | with_reducible first | assumption | exact Keeps.refl _ _
    | (with_reducible apply sub_intro); exact rfl
    | with_reducible apply State_seqWrite_keeps
    | with_reducible apply State_bankIn_keeps
    | with_reducible refine Keeps.fstEq (by assumption) ?_
    | with_reducible apply Keeps.ite
    | with_reducible apply Keeps.iteFst
    | split
    | dsimp only

theorem State_releaseBatch_keeps {m : Nat} {s0 : State} {a0 : State} {a1 : Nat} (h : Keeps m s0 a0) (hs : sub 0x193cc14f96f0 m = true) : Keeps m s0 (State.releaseBatch a0 a1).1 := by
  refine h.step ?_ hs
  dsimp only [State.releaseBatch]
  repeat' first
    | with_reducible first | assumption | exact Keeps.refl _ _
    | (with_reducible apply sub_intro); exact rfl
    | with_reducible apply releaseOne_keeps
    | with_reducible apply State_setThr_keeps
    | with_reducible apply State_bankIn_keeps
    | with_reducible refine Keeps.fstEq (by assumption) ?_
    | with_reducible apply Keeps.foldl
    | with_reducible apply Keeps.foldlFst
    | intro _
    | with_reducible apply Keeps.ite
    | with_reducible apply Keeps.iteFst
    | split
    | dsimp only

theorem execEndbatch_keeps {m : Nat} {s0 : State} {a0 : AxOp} {a1 : State} (h : Keeps m s0 a1) (hs : sub 0x193cc14f96f0 m = true) : OutKeeps m s0 (execEndbatch a0 a1) := by
  refine OutKeeps.step h ?_ hs
  dsimp only [execEndbatch]
  repeat' first
    | with_reducible first | assumption | exact Keeps.refl _ _
    | (with_reducible apply sub_intro); exact rfl
    | with_reducible apply OutKeeps.next
    | with_reducible apply State_axRun_keeps
    | with_reducible apply State_axEnd_keeps
    | with_reducible apply State_axHold_keeps
    | with_reducible apply State_axDone_keeps
    | with_reducible apply State_setThr_keeps
    | with_reducible apply State_releaseBatch_keeps
    | with_reducible refine Keeps.fstEq (by assumption) ?_
    | with_reducible apply Keeps.foldl
    | with_reducible apply Keeps.foldlFst
    | intro _
    | with_reducible apply OutKeeps.ite
    | with_reducible apply Keeps.iteFst
    | with_reducible apply Keeps.ite
    | split
    | dsimp only

theorem execEndbatchRelease_keeps {m : Nat} {s0 : State} {a0 : Nat} {a1 : State} (h : Keeps m s0 a1) (hs : sub 0x193cc14f96f0 m = true) : OutKeeps m s0 (execEndbatchRelease a0 a1) := by
  refine OutKeeps.step h ?_ hs
  dsimp only [execEndbatchRelease]
  repeat' first
    | with_reducible first | assumption | exact Keeps.refl _ _
    | (with_reducible apply sub_intro); exact rfl
    | with_reducible apply OutKeeps.next
    | with_reducible apply State_releaseBatch_keeps
    | with_reducible apply State_setThr_keeps
    | with_reducible refine Keeps.fstEq (by assumption) ?_
    | with_reducible apply OutKeeps.ite
    | with_reducible apply Keeps.iteFst
    | with_reducible apply Keeps.ite
    | split
    | dsimp only

theorem execEndbatchDone_keeps {m : Nat} {s0 : State} {a0 : Nat} {a1 : State} (h : Keeps m s0 a1) (hs : sub 0x800080690 m = true) : OutKeeps m s0 (execEndbatchDone a0 a1) := by
  refine OutKeeps.step h ?_ hs
  dsimp only [execEndbatchDone]
  repeat' first
    | with_reducible first | assumption | exact Keeps.refl _ _
    | (with_reducible apply sub_intro); exact rfl
    | with_reducible apply OutKeeps.next
    | with_reducible apply State_endWait_keeps
    | with_reducible apply OutKeeps.ite
    | with_reducible apply Keeps.ite
    | split
    | dsimp only

end Sys2Proof.Laws
end

