-- ==== Sys2Proof/Laws/Keep/AxTab.lean ====
section
/-! SUPPORT. What each definition of Machine/AxTab may change, and that it keeps the canonical form. -/

namespace Sys2Proof.Laws

open Sys2Proof Sys2Proof.Machine

theorem State_setEntry_keeps {m : Nat} {s0 : State} {a0 : State} {a1 : Nat} {a2 : Nat} {a3 : Nat} {a4 : Nat} (h : Keeps m s0 a0) (hs : sub 0x2a00000118 m = true) : Keeps m s0 (State.setEntry a0 a1 a2 a3 a4) := by
  refine h.step ?_ hs
  dsimp only [State.setEntry]
  repeat' first
    | with_reducible first | assumption | exact Keeps.refl _ _
    | (with_reducible apply sub_intro); exact rfl
    | with_reducible apply State_setAddr_keeps
    | with_reducible apply State_lp4xUse_keeps
    | with_reducible apply State_legApply_keeps
    | with_reducible apply State_unpoison_keeps
    | with_reducible apply State_setTab_keeps
    | with_reducible apply Keeps.ite
    | split
    | dsimp only

theorem State_twrBeside_keeps {m : Nat} {s0 : State} {a0 : State} {a1 : Nat} {a2 : Nat} {a3 : Nat} {a4 : Nat} (h : Keeps m s0 a0) (hs : sub 0x200000010 m = true) : Keeps m s0 (State.twrBeside a0 a1 a2 a3 a4) := by
  refine h.step ?_ hs
  dsimp only [State.twrBeside]
  repeat' first
    | with_reducible first | assumption | exact Keeps.refl _ _
    | (with_reducible apply sub_intro); exact rfl
    | with_reducible apply State_rputBoth_keeps
    | with_reducible apply State_rput_keeps
    | with_reducible apply Keeps.ite
    | split
    | dsimp only
    | with_reducible apply Keeps.fwd

theorem State_twrAt_keeps {m : Nat} {s0 : State} {a0 : State} {a1 : Ax} {a2 : Nat} {a3 : Nat} {a4 : Nat} (h : Keeps m s0 a0) (hs : sub 0x2a00080798 m = true) : Keeps m s0 (State.twrAt a0 a1 a2 a3 a4) := by
  refine h.step ?_ hs
  dsimp only [State.twrAt]
  repeat' first
    | with_reducible first | assumption | exact Keeps.refl _ _
    | (with_reducible apply sub_intro); exact rfl
    | with_reducible apply State_axDone_keeps
    | with_reducible apply State_axEnd_keeps
    | with_reducible apply State_twrBeside_keeps
    | with_reducible apply State_setEntry_keeps
    | with_reducible apply State_wg_keeps
    | with_reducible apply Keeps.ite
    | split
    | dsimp only

theorem execTwr_keeps {m : Nat} {s0 : State} {a0 : AxOp} {a1 : State} (h : Keeps m s0 a1) (hs : sub 0x2a00080798 m = true) : OutKeeps m s0 (execTwr a0 a1) := by
  refine OutKeeps.step h ?_ hs
  dsimp only [execTwr]
  repeat' first
    | with_reducible first | assumption | exact Keeps.refl _ _
    | (with_reducible apply sub_intro); exact rfl
    | with_reducible apply OutKeeps.next
    | with_reducible apply State_axClass_keeps
    | with_reducible apply State_axEnd_keeps
    | with_reducible apply State_axRead_keeps
    | with_reducible apply State_axDone_keeps
    | with_reducible apply State_twrAt_keeps
    | with_reducible apply Keeps.foldl
    | intro _
    | with_reducible apply OutKeeps.ite
    | with_reducible apply Keeps.ite
    | split
    | dsimp only

theorem State_tdelAt_keeps {m : Nat} {s0 : State} {a0 : State} {a1 : Ax} {a2 : Option Nat} (h : Keeps m s0 a0) (hs : sub 0x2a00080798 m = true) : Keeps m s0 (State.tdelAt a0 a1 a2) := by
  refine h.step ?_ hs
  dsimp only [State.tdelAt]
  repeat' first
    | with_reducible first | assumption | exact Keeps.refl _ _
    | (with_reducible apply sub_intro); exact rfl
    | with_reducible apply State_axDone_keeps
    | with_reducible apply State_setEntry_keeps
    | with_reducible apply Keeps.ite
    | split
    | dsimp only

theorem execTdel_keeps {m : Nat} {s0 : State} {a0 : AxOp} {a1 : State} (h : Keeps m s0 a1) (hs : sub 0x2a00080798 m = true) : OutKeeps m s0 (execTdel a0 a1) := by
  refine OutKeeps.step h ?_ hs
  dsimp only [execTdel]
  repeat' first
    | with_reducible first | assumption | exact Keeps.refl _ _
    | (with_reducible apply sub_intro); exact rfl
    | with_reducible apply OutKeeps.next
    | with_reducible apply State_axClass_keeps
    | with_reducible apply State_axEnd_keeps
    | with_reducible apply State_axRead_keeps
    | with_reducible apply State_axDone_keeps
    | with_reducible apply State_tdelAt_keeps
    | with_reducible apply Keeps.foldl
    | intro _
    | with_reducible apply OutKeeps.ite
    | with_reducible apply Keeps.ite
    | split
    | dsimp only

theorem State_tfindOut_keeps {m : Nat} {s0 : State} {a0 : State} {a1 : Ax} {a2 : Nat} (h : Keeps m s0 a0) (hs : sub 0x800080698 m = true) : Keeps m s0 (State.tfindOut a0 a1 a2) := by
  refine h.step ?_ hs
  dsimp only [State.tfindOut]
  repeat' first
    | with_reducible first | assumption | exact Keeps.refl _ _
    | (with_reducible apply sub_intro); exact rfl
    | with_reducible apply State_axWrite_keeps
    | with_reducible apply State_lp4xUse_keeps
    | with_reducible apply State_axDone_keeps
    | with_reducible apply State_wg_keeps
    | with_reducible apply Keeps.foldl
    | intro _
    | with_reducible apply Keeps.ite
    | split
    | dsimp only

theorem execTfind_keeps {m : Nat} {s0 : State} {a0 : AxOp} {a1 : State} (h : Keeps m s0 a1) (hs : sub 0x800080698 m = true) : OutKeeps m s0 (execTfind a0 a1) := by
  refine OutKeeps.step h ?_ hs
  dsimp only [execTfind]
  repeat' first
    | with_reducible first | assumption | exact Keeps.refl _ _
    | (with_reducible apply sub_intro); exact rfl
    | with_reducible apply OutKeeps.next
    | with_reducible apply State_axClass_keeps
    | with_reducible apply State_axEnd_keeps
    | with_reducible apply State_axRead_keeps
    | with_reducible apply State_tfindOut_keeps
    | with_reducible apply State_axDone_keeps
    | with_reducible apply Keeps.foldl
    | intro _
    | with_reducible apply OutKeeps.ite
    | with_reducible apply Keeps.ite
    | split
    | dsimp only

theorem ageOne_keeps {m : Nat} {s0 : State} {a0 : Nat} {a1 : Nat} {a2 : State × Nat} {a3 : Nat} (h : Keeps m s0 a2.1) (hs : sub 0x2a00000118 m = true) : Keeps m s0 (ageOne a0 a1 a2 a3).1 := by
  refine h.step ?_ hs
  dsimp only [ageOne]
  repeat' first
    | with_reducible first | assumption | exact Keeps.refl _ _
    | (with_reducible apply sub_intro); exact rfl
    | with_reducible apply State_setEntry_keeps
    | with_reducible apply Keeps.ite
    | with_reducible apply Keeps.iteFst
    | split
    | dsimp only

theorem execTage_keeps {m : Nat} {s0 : State} {a0 : AxOp} {a1 : State} (h : Keeps m s0 a1) (hs : sub 0x2a00080798 m = true) : OutKeeps m s0 (execTage a0 a1) := by
  refine OutKeeps.step h ?_ hs
  dsimp only [execTage]
  repeat' first
    | with_reducible first | assumption | exact Keeps.refl _ _
    | (with_reducible apply sub_intro); exact rfl
    | with_reducible apply OutKeeps.next
    | with_reducible apply State_axClass_keeps
    | with_reducible apply State_axEnd_keeps
    | with_reducible apply ageOne_keeps
    | with_reducible apply State_axDone_keeps
    | with_reducible apply State_wg_keeps
    | with_reducible refine Keeps.fstEq (by assumption) ?_
    | with_reducible apply Keeps.foldl
    | with_reducible apply Keeps.foldlFst
    | intro _
    | with_reducible apply OutKeeps.ite
    | with_reducible apply Keeps.iteFst
    | with_reducible apply Keeps.ite
    | split
    | dsimp only

end Sys2Proof.Laws
end

