-- ==== Sys2Proof/Laws/Keep/AxTime.lean ====
section
/-! SUPPORT. What each definition of Machine/AxTime may change, and that it keeps the canonical form. -/

namespace Sys2Proof.Laws

open Sys2Proof Sys2Proof.Machine

theorem State_askChange_keeps {m : Nat} {s0 : State} {a0 : State} {a1 : Ax} {a2 : TimeChange} {a3 : Nat} (h : Keeps m s0 a0) (hs : sub 0x8000c0690 m = true) : Keeps m s0 (State.askChange a0 a1 a2 a3) := by
  refine h.step ?_ hs
  dsimp only [State.askChange]
  repeat' first
    | with_reducible first | assumption | exact Keeps.refl _ _
    | (with_reducible apply sub_intro); exact rfl
    | with_reducible apply State_axHold_keeps
    | with_reducible apply State_axDone_keeps
    | with_reducible apply Keeps.ite
    | split
    | dsimp only
    | with_reducible apply Keeps.mer

theorem execTmset_keeps {m : Nat} {s0 : State} {a0 : AxOp} {a1 : State} (h : Keeps m s0 a1) (hs : sub 0x8000c0690 m = true) : OutKeeps m s0 (execTmset a0 a1) := by
  refine OutKeeps.step h ?_ hs
  dsimp only [execTmset]
  repeat' first
    | with_reducible first | assumption | exact Keeps.refl _ _
    | (with_reducible apply sub_intro); exact rfl
    | with_reducible apply OutKeeps.next
    | with_reducible apply State_axClass_keeps
    | with_reducible apply State_axEnd_keeps
    | with_reducible apply State_askChange_keeps
    | with_reducible apply Keeps.foldl
    | intro _
    | with_reducible apply OutKeeps.ite
    | with_reducible apply Keeps.ite
    | split
    | dsimp only

theorem execTmadj_keeps {m : Nat} {s0 : State} {a0 : AxOp} {a1 : State} (h : Keeps m s0 a1) (hs : sub 0x8000c0690 m = true) : OutKeeps m s0 (execTmadj a0 a1) := by
  refine OutKeeps.step h ?_ hs
  dsimp only [execTmadj]
  repeat' first
    | with_reducible first | assumption | exact Keeps.refl _ _
    | (with_reducible apply sub_intro); exact rfl
    | with_reducible apply OutKeeps.next
    | with_reducible apply State_axClass_keeps
    | with_reducible apply State_axEnd_keeps
    | with_reducible apply State_askChange_keeps
    | with_reducible apply Keeps.foldl
    | intro _
    | with_reducible apply OutKeeps.ite
    | with_reducible apply Keeps.ite
    | split
    | dsimp only

theorem execTmwait_keeps {m : Nat} {s0 : State} {a0 : AxOp} {a1 : State} (h : Keeps m s0 a1) (hs : sub 0x800080690 m = true) : OutKeeps m s0 (execTmwait a0 a1) := by
  refine OutKeeps.step h ?_ hs
  dsimp only [execTmwait]
  repeat' first
    | with_reducible first | assumption | exact Keeps.refl _ _
    | (with_reducible apply sub_intro); exact rfl
    | with_reducible apply OutKeeps.next
    | with_reducible apply State_axRun_keeps
    | with_reducible apply State_axDone_keeps
    | with_reducible apply State_axWait_keeps
    | with_reducible apply Keeps.foldl
    | intro _
    | with_reducible apply OutKeeps.ite
    | with_reducible apply Keeps.ite
    | split
    | dsimp only

theorem execTmwaitDone_keeps {m : Nat} {s0 : State} {a0 : Nat} {a1 : State} (h : Keeps m s0 a1) (hs : sub 0x800080690 m = true) : OutKeeps m s0 (execTmwaitDone a0 a1) := by
  refine OutKeeps.step h ?_ hs
  dsimp only [execTmwaitDone]
  repeat' first
    | with_reducible first | assumption | exact Keeps.refl _ _
    | (with_reducible apply sub_intro); exact rfl
    | with_reducible apply OutKeeps.next
    | with_reducible apply State_endWait_keeps
    | with_reducible apply OutKeeps.ite
    | with_reducible apply Keeps.ite
    | split
    | dsimp only

theorem execTmarm_keeps {m : Nat} {s0 : State} {a0 : AxOp} {a1 : State} (h : Keeps m s0 a1) (hs : sub 0x8000c0690 m = true) : OutKeeps m s0 (execTmarm a0 a1) := by
  refine OutKeeps.step h ?_ hs
  dsimp only [execTmarm]
  repeat' first
    | with_reducible first | assumption | exact Keeps.refl _ _
    | (with_reducible apply sub_intro); exact rfl
    | with_reducible apply OutKeeps.next
    | with_reducible apply State_axClass_keeps
    | with_reducible apply State_axDone_keeps
    | with_reducible apply State_trigDisarm_keeps
    | with_reducible apply State_trigArm_keeps
    | with_reducible apply Keeps.foldl
    | intro _
    | with_reducible apply OutKeeps.ite
    | with_reducible apply Keeps.ite
    | split
    | dsimp only

theorem execPdreq_keeps {m : Nat} {s0 : State} {a0 : AxOp} {a1 : State} (h : Keeps m s0 a1) (hs : sub 0x800085690 m = true) : OutKeeps m s0 (execPdreq a0 a1) := by
  refine OutKeeps.step h ?_ hs
  dsimp only [execPdreq]
  repeat' first
    | with_reducible first | assumption | exact Keeps.refl _ _
    | (with_reducible apply sub_intro); exact rfl
    | with_reducible apply OutKeeps.next
    | with_reducible apply State_axClass_keeps
    | with_reducible apply State_axEnd_keeps
    | with_reducible apply State_axDone_keeps
    | with_reducible apply State_pdRefuse_keeps
    | with_reducible apply State_pdResult_keeps
    | with_reducible apply State_pdRequest_keeps
    | with_reducible apply State_axWait_keeps
    | with_reducible apply Keeps.foldl
    | intro _
    | with_reducible apply OutKeeps.ite
    | with_reducible apply Keeps.ite
    | split
    | dsimp only
    | with_reducible apply Keeps.nextReq

end Sys2Proof.Laws
end

