-- ==== Sys2Proof/Laws/Keep/Cart.lean ====
section
/-! SUPPORT. What each definition of Machine/Cart may change, and that it keeps the canonical form. -/

namespace Sys2Proof.Laws

open Sys2Proof Sys2Proof.Machine

theorem State_setCart_keeps {m : Nat} {s0 : State} {a0 : State} {a1 : CartX} (h : Keeps m s0 a0) (hs : sub 0x100000000000 m = true) : Keeps m s0 (State.setCart a0 a1) := by
  refine h.step ?_ hs
  dsimp only [State.setCart]
  repeat' first
    | with_reducible first | assumption | exact Keeps.refl _ _
    | (with_reducible apply sub_intro); exact rfl
    | with_reducible apply Keeps.ite
    | split
    | dsimp only
    | with_reducible apply Keeps.cart

theorem State_tapLinkDown_keeps {m : Nat} {s0 : State} {a0 : State} (h : Keeps m s0 a0) (hs : sub 0x180000080010 m = true) : Keeps m s0 (State.tapLinkDown a0) := by
  refine h.step ?_ hs
  dsimp only [State.tapLinkDown]
  repeat' first
    | with_reducible first | assumption | exact Keeps.refl _ _
    | (with_reducible apply sub_intro); exact rfl
    | with_reducible apply State_raise_keeps
    | with_reducible apply State_setReady_keeps
    | with_reducible apply State_rput_keeps
    | with_reducible apply State_setCart_keeps
    | with_reducible apply State_tapDiscard_keeps
    | with_reducible apply Keeps.foldl
    | intro _
    | with_reducible apply Keeps.ite
    | split
    | dsimp only

theorem State_tapFlushAll_keeps {m : Nat} {s0 : State} {a0 : State} (h : Keeps m s0 a0) (hs : sub 0x180000000010 m = true) : Keeps m s0 (State.tapFlushAll a0) := by
  refine h.step ?_ hs
  dsimp only [State.tapFlushAll]
  repeat' first
    | with_reducible first | assumption | exact Keeps.refl _ _
    | (with_reducible apply sub_intro); exact rfl
    | with_reducible apply State_tapSend_keeps
    | with_reducible apply State_setTap_keeps
    | with_reducible apply Keeps.foldl
    | intro _
    | with_reducible apply Keeps.ite
    | split
    | dsimp only

theorem execCoalescerSend_keeps {m : Nat} {s0 : State} {a0 : Nat} {a1 : Bool} {a2 : State} (h : Keeps m s0 a2) (hs : sub 0x180000000010 m = true) : OutKeeps m s0 (execCoalescerSend a0 a1 a2) := by
  refine OutKeeps.step h ?_ hs
  dsimp only [execCoalescerSend]
  repeat' first
    | with_reducible first | assumption | exact Keeps.refl _ _
    | (with_reducible apply sub_intro); exact rfl
    | with_reducible apply OutKeeps.next
    | with_reducible apply State_setCart_keeps
    | with_reducible apply State_tapSend_keeps
    | with_reducible apply State_setTap_keeps
    | with_reducible apply OutKeeps.ite
    | with_reducible apply Keeps.ite
    | split
    | dsimp only

theorem execTapUp_keeps {m : Nat} {s0 : State} {a0 : State} (h : Keeps m s0 a0) (hs : sub 0x100000080010 m = true) : OutKeeps m s0 (execTapUp a0) := by
  refine OutKeeps.step h ?_ hs
  dsimp only [execTapUp]
  repeat' first
    | with_reducible first | assumption | exact Keeps.refl _ _
    | (with_reducible apply sub_intro); exact rfl
    | with_reducible apply OutKeeps.next
    | with_reducible apply State_raise_keeps
    | with_reducible apply State_setReady_keeps
    | with_reducible apply State_rput_keeps
    | with_reducible apply State_setCart_keeps
    | with_reducible apply OutKeeps.ite
    | with_reducible apply Keeps.ite
    | split
    | dsimp only

theorem execTapDown_keeps {m : Nat} {s0 : State} {a0 : State} (h : Keeps m s0 a0) (hs : sub 0x180000080010 m = true) : OutKeeps m s0 (execTapDown a0) := by
  refine OutKeeps.step h ?_ hs
  dsimp only [execTapDown]
  repeat' first
    | with_reducible first | assumption | exact Keeps.refl _ _
    | (with_reducible apply sub_intro); exact rfl
    | with_reducible apply OutKeeps.next
    | with_reducible apply State_tapLinkDown_keeps
    | with_reducible apply OutKeeps.ite
    | with_reducible apply Keeps.ite
    | split
    | dsimp only

theorem execCartSendProcess_keeps {m : Nat} {s0 : State} {a0 : State} (h : Keeps m s0 a0) (hs : sub 0x100000000000 m = true) : OutKeeps m s0 (execCartSendProcess a0) := by
  refine OutKeeps.step h ?_ hs
  dsimp only [execCartSendProcess]
  repeat' first
    | with_reducible first | assumption | exact Keeps.refl _ _
    | (with_reducible apply sub_intro); exact rfl
    | with_reducible apply OutKeeps.next
    | with_reducible apply State_setCart_keeps
    | with_reducible apply OutKeeps.ite
    | with_reducible apply Keeps.ite
    | split
    | dsimp only

theorem State_cartRecord_keeps {m : Nat} {s0 : State} {a0 : State} {a1 : Nat} {a2 : Nat} (h : Keeps m s0 a0) (hs : sub 0x100000000008 m = true) : Keeps m s0 (State.cartRecord a0 a1 a2) := by
  refine h.step ?_ hs
  dsimp only [State.cartRecord]
  repeat' first
    | with_reducible first | assumption | exact Keeps.refl _ _
    | (with_reducible apply sub_intro); exact rfl
    | with_reducible apply State_setCart_keeps
    | with_reducible apply Keeps.ite
    | split
    | dsimp only
    | with_reducible apply Keeps.fresh

theorem State_cartInterval_keeps {m : Nat} {s0 : State} {a0 : State} {a1 : Nat} (h : Keeps m s0 a0) (hs : sub 0x100000000008 m = true) : Keeps m s0 (State.cartInterval a0 a1) := by
  refine h.step ?_ hs
  dsimp only [State.cartInterval]
  repeat' first
    | with_reducible first | assumption | exact Keeps.refl _ _
    | (with_reducible apply sub_intro); exact rfl
    | with_reducible apply State_cartRecord_keeps
    | with_reducible apply State_setCart_keeps
    | with_reducible apply Keeps.foldl
    | intro _
    | with_reducible apply Keeps.ite
    | split
    | dsimp only

theorem State_cartClock_keeps {m : Nat} {s0 : State} {a0 : State} {a1 : Nat} (h : Keeps m s0 a0) (hs : sub 0x100000000000 m = true) : Keeps m s0 (State.cartClock a0 a1) := by
  refine h.step ?_ hs
  dsimp only [State.cartClock]
  repeat' first
    | with_reducible first | assumption | exact Keeps.refl _ _
    | (with_reducible apply sub_intro); exact rfl
    | with_reducible apply State_setCart_keeps
    | with_reducible apply Keeps.ite
    | split
    | dsimp only

theorem execIntervalEnd_keeps {m : Nat} {s0 : State} {a0 : Nat} {a1 : State} (h : Keeps m s0 a1) (hs : sub 0x100000000008 m = true) : OutKeeps m s0 (execIntervalEnd a0 a1) := by
  refine OutKeeps.step h ?_ hs
  dsimp only [execIntervalEnd]
  repeat' first
    | with_reducible first | assumption | exact Keeps.refl _ _
    | (with_reducible apply sub_intro); exact rfl
    | with_reducible apply OutKeeps.next
    | with_reducible apply State_cartClock_keeps
    | with_reducible apply State_cartInterval_keeps
    | with_reducible apply OutKeeps.ite
    | with_reducible apply Keeps.ite
    | split
    | dsimp only

theorem State_cartReply_keeps {m : Nat} {s0 : State} {a0 : State} {a1 : CartReq} {a2 : Nat} {a3 : Nat} {a4 : Nat} {a5 : List Byte} (h : Keeps m s0 a0) (hs : sub 0x110000080010 m = true) : Keeps m s0 (State.cartReply a0 a1 a2 a3 a4 a5) := by
  refine h.step ?_ hs
  dsimp only [State.cartReply]
  repeat' first
    | with_reducible first | assumption | exact Keeps.refl _ _
    | (with_reducible apply sub_intro); exact rfl
    | with_reducible apply State_setCart_keeps
    | with_reducible apply State_mbxPost_keeps
    | with_reducible apply State_setSide_keeps
    | with_reducible apply Keeps.foldl
    | intro _
    | with_reducible apply Keeps.ite
    | split
    | dsimp only

theorem State_cartServe_keeps {m : Nat} {s0 : State} {a0 : State} {a1 : CartReq} {a2 : Nat} {a3 : List Byte → Bool} {a4 : List Byte → Nat} {a5 : State → List Byte → Nat × List Byte × State} (h : Keeps m s0 a0) (hs : sub 0x110080080034 m = true) (g5 : ∀ x0 x1, Keeps m s0 x0 → Keeps m s0 (a5 x0 x1).2.2) : Keeps m s0 (State.cartServe a0 a1 a2 a3 a4 a5) := by
  dsimp only [State.cartServe]
  repeat' first
    | with_reducible first | assumption | exact Keeps.refl _ _
    | (with_reducible apply sub_intro); exact rfl
    | with_reducible apply g5
    | exact sub_trans (sub_intro rfl) hs
    | with_reducible apply State_rxWord0_keeps
    | with_reducible apply State_cartReply_keeps
    | with_reducible apply Keeps.ite
    | split
    | dsimp only

theorem State_cartPin_keeps {m : Nat} {s0 : State} {a0 : State} {a1 : Bool} (h : Keeps m s0 a0) (hs : sub 0x100000000000 m = true) : Keeps m s0 (State.cartPin a0 a1) := by
  refine h.step ?_ hs
  dsimp only [State.cartPin]
  repeat' first
    | with_reducible first | assumption | exact Keeps.refl _ _
    | (with_reducible apply sub_intro); exact rfl
    | with_reducible apply State_setCart_keeps
    | with_reducible apply Keeps.ite
    | split
    | dsimp only

theorem execIdent_keeps {m : Nat} {s0 : State} {a0 : CartReq} {a1 : Nat} {a2 : Bool} {a3 : State} (h : Keeps m s0 a3) (hs : sub 0x110080080034 m = true) : OutKeeps m s0 (execIdent a0 a1 a2 a3) := by
  refine OutKeeps.step h ?_ hs
  dsimp only [execIdent]
  repeat' first
    | with_reducible first | assumption | exact Keeps.refl _ _
    | (with_reducible apply sub_intro); exact rfl
    | with_reducible apply OutKeeps.next
    | with_reducible apply State_cartServe_keeps
    | with_reducible apply State_cartPin_keeps
    | with_reducible apply State_cartClock_keeps
    | with_reducible apply Keeps.foldl
    | intro _
    | with_reducible apply OutKeeps.ite
    | with_reducible apply Keeps.ite
    | split
    | dsimp only

theorem recordAnswer_keeps {m : Nat} {s0 : State} {a0 : Option (List Byte)} {a1 : State} (h : Keeps m s0 a1) (hs : sub 0x0 m = true) : Keeps m s0 (recordAnswer a0 a1).2.2 := by
  refine h.step ?_ hs
  dsimp only [recordAnswer]
  repeat' first
    | with_reducible first | assumption | exact Keeps.refl _ _
    | (with_reducible apply sub_intro); exact rfl
    | with_reducible apply Keeps.ite
    | split
    | dsimp only

theorem execReadRecord_keeps {m : Nat} {s0 : State} {a0 : CartReq} {a1 : State} (h : Keeps m s0 a1) (hs : sub 0x110080080034 m = true) : OutKeeps m s0 (execReadRecord a0 a1) := by
  refine OutKeeps.step h ?_ hs
  dsimp only [execReadRecord]
  repeat' first
    | with_reducible first | assumption | exact Keeps.refl _ _
    | (with_reducible apply sub_intro); exact rfl
    | with_reducible apply OutKeeps.next
    | with_reducible apply State_cartServe_keeps
    | with_reducible apply recordAnswer_keeps
    | with_reducible apply Keeps.foldl
    | intro _
    | with_reducible apply OutKeeps.ite
    | with_reducible apply Keeps.ite
    | split
    | dsimp only

theorem execReadMeters_keeps {m : Nat} {s0 : State} {a0 : CartReq} {a1 : State} (h : Keeps m s0 a1) (hs : sub 0x110080080034 m = true) : OutKeeps m s0 (execReadMeters a0 a1) := by
  refine OutKeeps.step h ?_ hs
  dsimp only [execReadMeters]
  repeat' first
    | with_reducible first | assumption | exact Keeps.refl _ _
    | (with_reducible apply sub_intro); exact rfl
    | with_reducible apply OutKeeps.next
    | with_reducible apply State_cartServe_keeps
    | with_reducible apply Keeps.foldl
    | intro _
    | with_reducible apply OutKeeps.ite
    | with_reducible apply Keeps.ite
    | split
    | dsimp only

theorem execTimeTag_keeps {m : Nat} {s0 : State} {a0 : CartReq} {a1 : State} (h : Keeps m s0 a1) (hs : sub 0x110080080034 m = true) : OutKeeps m s0 (execTimeTag a0 a1) := by
  refine OutKeeps.step h ?_ hs
  dsimp only [execTimeTag]
  repeat' first
    | with_reducible first | assumption | exact Keeps.refl _ _
    | (with_reducible apply sub_intro); exact rfl
    | with_reducible apply OutKeeps.next
    | with_reducible apply State_cartServe_keeps
    | with_reducible apply State_setCart_keeps
    | with_reducible apply Keeps.foldl
    | intro _
    | with_reducible apply OutKeeps.ite
    | with_reducible apply Keeps.ite
    | split
    | dsimp only

theorem execReadParams_keeps {m : Nat} {s0 : State} {a0 : CartReq} {a1 : State} (h : Keeps m s0 a1) (hs : sub 0x110080080034 m = true) : OutKeeps m s0 (execReadParams a0 a1) := by
  refine OutKeeps.step h ?_ hs
  dsimp only [execReadParams]
  repeat' first
    | with_reducible first | assumption | exact Keeps.refl _ _
    | (with_reducible apply sub_intro); exact rfl
    | with_reducible apply OutKeeps.next
    | with_reducible apply State_cartServe_keeps
    | with_reducible apply Keeps.foldl
    | intro _
    | with_reducible apply OutKeeps.ite
    | with_reducible apply Keeps.ite
    | split
    | dsimp only

theorem progDo_keeps {m : Nat} {s0 : State} {a0 : CartReq} {a1 : State} {a2 : Session → Nat × State} (h : Keeps m s0 a1) (hs : sub 0x0 m = true) (g2 : ∀ x0, Keeps m s0 (a2 x0).2) : Keeps m s0 (progDo a0 a1 a2).2.2 := by
  dsimp only [progDo]
  repeat' first
    | with_reducible first | assumption | exact Keeps.refl _ _
    | (with_reducible apply sub_intro); exact rfl
    | with_reducible apply g2
    | exact sub_trans (sub_intro rfl) hs
    | with_reducible apply Keeps.ite
    | split
    | dsimp only

theorem execProgOpen_keeps {m : Nat} {s0 : State} {a0 : CartReq} {a1 : Bool} {a2 : State} (h : Keeps m s0 a2) (hs : sub 0x110080080034 m = true) : OutKeeps m s0 (execProgOpen a0 a1 a2) := by
  refine OutKeeps.step h ?_ hs
  dsimp only [execProgOpen]
  repeat' first
    | with_reducible first | assumption | exact Keeps.refl _ _
    | (with_reducible apply sub_intro); exact rfl
    | with_reducible apply OutKeeps.next
    | with_reducible apply State_cartServe_keeps
    | with_reducible apply State_cartPin_keeps
    | with_reducible apply State_setCart_keeps
    | with_reducible apply Keeps.foldl
    | intro _
    | with_reducible apply OutKeeps.ite
    | with_reducible apply Keeps.ite
    | split
    | dsimp only

theorem execProgMap_keeps {m : Nat} {s0 : State} {a0 : CartReq} {a1 : State} (h : Keeps m s0 a1) (hs : sub 0x110080080034 m = true) : OutKeeps m s0 (execProgMap a0 a1) := by
  refine OutKeeps.step h ?_ hs
  dsimp only [execProgMap]
  repeat' first
    | with_reducible first | assumption | exact Keeps.refl _ _
    | (with_reducible apply sub_intro); exact rfl
    | with_reducible apply OutKeeps.next
    | with_reducible apply State_cartServe_keeps
    | with_reducible apply progDo_keeps
    | with_reducible apply State_setCart_keeps
    | with_reducible apply Keeps.foldl
    | intro _
    | with_reducible apply OutKeeps.ite
    | with_reducible apply Keeps.ite
    | split
    | dsimp only

theorem execProgParam_keeps {m : Nat} {s0 : State} {a0 : CartReq} {a1 : State} (h : Keeps m s0 a1) (hs : sub 0x110080080034 m = true) : OutKeeps m s0 (execProgParam a0 a1) := by
  refine OutKeeps.step h ?_ hs
  dsimp only [execProgParam]
  repeat' first
    | with_reducible first | assumption | exact Keeps.refl _ _
    | (with_reducible apply sub_intro); exact rfl
    | with_reducible apply OutKeeps.next
    | with_reducible apply State_cartServe_keeps
    | with_reducible apply progDo_keeps
    | with_reducible apply State_setCart_keeps
    | with_reducible apply Keeps.foldl
    | intro _
    | with_reducible apply OutKeeps.ite
    | with_reducible apply Keeps.ite
    | split
    | dsimp only

theorem execProgKey_keeps {m : Nat} {s0 : State} {a0 : CartReq} {a1 : State} (h : Keeps m s0 a1) (hs : sub 0x110080080034 m = true) : OutKeeps m s0 (execProgKey a0 a1) := by
  refine OutKeeps.step h ?_ hs
  dsimp only [execProgKey]
  repeat' first
    | with_reducible first | assumption | exact Keeps.refl _ _
    | (with_reducible apply sub_intro); exact rfl
    | with_reducible apply OutKeeps.next
    | with_reducible apply State_cartServe_keeps
    | with_reducible apply progDo_keeps
    | with_reducible apply State_setCart_keeps
    | with_reducible apply Keeps.foldl
    | intro _
    | with_reducible apply OutKeeps.ite
    | with_reducible apply Keeps.ite
    | split
    | dsimp only

theorem execProgCommit_keeps {m : Nat} {s0 : State} {a0 : CartReq} {a1 : Nat} {a2 : State} (h : Keeps m s0 a2) (hs : sub 0x11008008003c m = true) : OutKeeps m s0 (execProgCommit a0 a1 a2) := by
  refine OutKeeps.step h ?_ hs
  dsimp only [execProgCommit]
  repeat' first
    | with_reducible first | assumption | exact Keeps.refl _ _
    | (with_reducible apply sub_intro); exact rfl
    | with_reducible apply OutKeeps.next
    | with_reducible apply State_cartServe_keeps
    | with_reducible apply State_cartClock_keeps
    | with_reducible apply progDo_keeps
    | with_reducible apply State_cartInterval_keeps
    | with_reducible apply State_setCart_keeps
    | with_reducible apply Keeps.foldl
    | intro _
    | with_reducible apply OutKeeps.ite
    | with_reducible apply Keeps.ite
    | split
    | dsimp only

theorem execProgClose_keeps {m : Nat} {s0 : State} {a0 : CartReq} {a1 : State} (h : Keeps m s0 a1) (hs : sub 0x110080080034 m = true) : OutKeeps m s0 (execProgClose a0 a1) := by
  refine OutKeeps.step h ?_ hs
  dsimp only [execProgClose]
  repeat' first
    | with_reducible first | assumption | exact Keeps.refl _ _
    | (with_reducible apply sub_intro); exact rfl
    | with_reducible apply OutKeeps.next
    | with_reducible apply State_cartServe_keeps
    | with_reducible apply progDo_keeps
    | with_reducible apply State_setCart_keeps
    | with_reducible apply Keeps.foldl
    | intro _
    | with_reducible apply OutKeeps.ite
    | with_reducible apply Keeps.ite
    | split
    | dsimp only

theorem execCartProgLow_keeps {m : Nat} {s0 : State} {a0 : State} (h : Keeps m s0 a0) (hs : sub 0x100000000000 m = true) : OutKeeps m s0 (execCartProgLow a0) := by
  refine OutKeeps.step h ?_ hs
  dsimp only [execCartProgLow]
  repeat' first
    | with_reducible first | assumption | exact Keeps.refl _ _
    | (with_reducible apply sub_intro); exact rfl
    | with_reducible apply OutKeeps.next
    | with_reducible apply State_cartPin_keeps
    | with_reducible apply OutKeeps.ite
    | with_reducible apply Keeps.ite
    | split
    | dsimp only

theorem execVddCartLoss_keeps {m : Nat} {s0 : State} {a0 : State} (h : Keeps m s0 a0) (hs : sub 0x180000080010 m = true) : OutKeeps m s0 (execVddCartLoss a0) := by
  refine OutKeeps.step h ?_ hs
  dsimp only [execVddCartLoss]
  repeat' first
    | with_reducible first | assumption | exact Keeps.refl _ _
    | (with_reducible apply sub_intro); exact rfl
    | with_reducible apply OutKeeps.next
    | with_reducible apply State_tapLinkDown_keeps
    | with_reducible apply State_setCart_keeps
    | with_reducible apply OutKeeps.ite
    | with_reducible apply Keeps.ite
    | split
    | dsimp only

theorem execVddCartRise_keeps {m : Nat} {s0 : State} {a0 : State} (h : Keeps m s0 a0) (hs : sub 0x110000080030 m = true) : OutKeeps m s0 (execVddCartRise a0) := by
  refine OutKeeps.step h ?_ hs
  dsimp only [execVddCartRise]
  repeat' first
    | with_reducible first | assumption | exact Keeps.refl _ _
    | (with_reducible apply sub_intro); exact rfl
    | with_reducible apply OutKeeps.next
    | with_reducible apply State_resetIdentity_keeps
    | with_reducible apply State_setCart_keeps
    | with_reducible apply Keeps.foldl
    | intro _
    | with_reducible apply OutKeeps.ite
    | with_reducible apply Keeps.ite
    | split
    | dsimp only

end Sys2Proof.Laws
end

