-- ==== Sys2Proof/Laws/Keep/Power.lean ====
section
/-! SUPPORT. What each definition of Machine/Power may change, and that it keeps the canonical form. -/

namespace Sys2Proof.Laws

open Sys2Proof Sys2Proof.Machine

theorem State_basketOff_keeps {m : Nat} {s0 : State} {a0 : State} {a1 : Nat} (h : Keeps m s0 a0) (hs : sub 0x181987480010 m = true) : Keeps m s0 (State.basketOff a0 a1) := by
  refine h.step ?_ hs
  dsimp only [State.basketOff]
  repeat' first
    | with_reducible first | assumption | exact Keeps.refl _ _
    | (with_reducible apply sub_intro); exact rfl
    | with_reducible apply State_setQ_keeps
    | with_reducible apply State_reap_keeps
    | with_reducible exact State.Canonical.copies (by assumption)
    | with_reducible exact State.Canonical.pagers (by assumption)
    | with_reducible exact State.Canonical.creel (by assumption)
    | with_reducible exact State.Canonical.ports (by assumption)
    | with_reducible apply swf_sset
    | with_reducible apply swf_smap
    | with_reducible apply swf_sfilter
    | with_reducible apply swf_sdel
    | with_reducible exact swf_nil
    | with_reducible apply swf_foldl
    | with_reducible apply Keeps.foldl
    | intro _
    | with_reducible apply Keeps.ite
    | split
    | dsimp only
    | with_reducible apply Keeps.copies_pagers_creel_ports

theorem State_pipeOff_keeps {m : Nat} {s0 : State} {a0 : State} {a1 : Nat} (h : Keeps m s0 a0) (hs : sub 0xa3638000100 m = true) : Keeps m s0 (State.pipeOff a0 a1) := by
  refine h.step ?_ hs
  dsimp only [State.pipeOff]
  repeat' first
    | with_reducible first | assumption | exact Keeps.refl _ _
    | (with_reducible apply sub_intro); exact rfl
    | with_reducible exact State.Canonical.tabs (by assumption)
    | with_reducible exact State.Canonical.objs (by assumption)
    | with_reducible exact State.Canonical.rounds (by assumption)
    | with_reducible exact State.Canonical.gates (by assumption)
    | with_reducible exact State.Canonical.surveys (by assumption)
    | with_reducible exact State.Canonical.pipes (by assumption)
    | with_reducible exact State.Canonical.ruleCnt (by assumption)
    | with_reducible exact State.Canonical.taps (by assumption)
    | with_reducible apply swf_sset
    | with_reducible apply swf_smap
    | with_reducible apply swf_sfilter
    | with_reducible apply swf_sdel
    | with_reducible exact swf_nil
    | with_reducible apply swf_foldl
    | with_reducible apply Keeps.foldl
    | intro _
    | with_reducible apply Keeps.ite
    | split
    | dsimp only
    | with_reducible apply Keeps.tabs_objs_rounds_gates_fwd_surveys_pipes_poison_ruleCnt_taps

theorem State_dramOff_keeps {m : Nat} {s0 : State} {a0 : State} {a1 : Nat} (h : Keeps m s0 a0) (hs : sub 0x80 m = true) : Keeps m s0 (State.dramOff a0 a1) := by
  refine h.step ?_ hs
  dsimp only [State.dramOff]
  repeat' first
    | with_reducible first | assumption | exact Keeps.refl _ _
    | (with_reducible apply sub_intro); exact rfl
    | with_reducible exact State.Canonical.memswf (by assumption)
    | with_reducible apply swf_sset
    | with_reducible apply swf_smap
    | with_reducible apply swf_sfilter
    | with_reducible apply swf_sdel
    | with_reducible exact swf_nil
    | with_reducible apply swf_foldl
    | with_reducible apply Keeps.foldl
    | intro _
    | with_reducible apply Keeps.ite
    | split
    | dsimp only
    | with_reducible apply Keeps.mem

theorem State_loseRegs_keeps {m : Nat} {s0 : State} {a0 : State} {a1 : Nat} (h : Keeps m s0 a0) (hs : sub 0x50 m = true) : Keeps m s0 (State.loseRegs a0 a1) := by
  refine h.step ?_ hs
  dsimp only [State.loseRegs]
  repeat' first
    | with_reducible first | assumption | exact Keeps.refl _ _
    | (with_reducible apply sub_intro); exact rfl
    | with_reducible exact State.Canonical.regs (by assumption)
    | with_reducible apply swf_sset
    | with_reducible apply swf_smap
    | with_reducible apply swf_sfilter
    | with_reducible apply swf_sdel
    | with_reducible exact swf_nil
    | with_reducible apply swf_foldl
    | with_reducible apply Keeps.foldl
    | intro _
    | with_reducible apply Keeps.ite
    | split
    | dsimp only
    | with_reducible apply Keeps.regs_failed

theorem State_loseDomain_keeps {m : Nat} {s0 : State} {a0 : State} {a1 : Nat} (h : Keeps m s0 a0) (hs : sub 0x1affff6c01d0 m = true) : Keeps m s0 (State.loseDomain a0 a1) := by
  refine h.step ?_ hs
  dsimp only [State.loseDomain]
  repeat' first
    | with_reducible first | assumption | exact Keeps.refl _ _
    | (with_reducible apply sub_intro); exact rfl
    | with_reducible apply State_loseRegs_keeps
    | with_reducible apply State_pipeOff_keeps
    | with_reducible apply State_basketOff_keeps
    | with_reducible apply State_dramOff_keeps
    | with_reducible exact State.Canonical.lanes (by assumption)
    | with_reducible exact State.Canonical.ports (by assumption)
    | with_reducible exact State.Canonical.plait (by assumption)
    | with_reducible exact State.Canonical.plaitIn (by assumption)
    | with_reducible apply swf_sset
    | with_reducible apply swf_smap
    | with_reducible apply swf_sfilter
    | with_reducible apply swf_sdel
    | with_reducible exact swf_nil
    | with_reducible apply swf_foldl
    | with_reducible apply Keeps.foldl
    | intro _
    | with_reducible apply Keeps.ite
    | split
    | dsimp only
    | with_reducible apply Keeps.lanes_ports
    | with_reducible apply Keeps.legend
    | with_reducible apply Keeps.mer
    | with_reducible apply Keeps.plait_plaitIn
    | with_reducible apply Keeps.slath

theorem State_resumeDomain_keeps {m : Nat} {s0 : State} {a0 : State} {a1 : Nat} {a2 : Bool} (h : Keeps m s0 a0) (hs : sub 0x4c00090410 m = true) : Keeps m s0 (State.resumeDomain a0 a1 a2) := by
  refine h.step ?_ hs
  dsimp only [State.resumeDomain]
  repeat' first
    | with_reducible first | assumption | exact Keeps.refl _ _
    | (with_reducible apply sub_intro); exact rfl
    | with_reducible apply State_loadSupplied_keeps
    | with_reducible apply State_trainStart_keeps
    | with_reducible apply State_cplxOn_keeps
    | with_reducible apply State_rput_keeps
    | with_reducible exact State.Canonical.plait (by assumption)
    | with_reducible apply swf_sset
    | with_reducible apply swf_smap
    | with_reducible apply swf_sfilter
    | with_reducible apply swf_sdel
    | with_reducible exact swf_nil
    | with_reducible apply swf_foldl
    | with_reducible apply Keeps.foldl
    | intro _
    | with_reducible apply Keeps.ite
    | split
    | dsimp only
    | with_reducible apply Keeps.legend
    | with_reducible apply Keeps.plait

theorem State_arriveOn_keeps {m : Nat} {s0 : State} {a0 : State} {a1 : Nat} {a2 : Bool} (h : Keeps m s0 a0) (hs : sub 0x197dcf7fb6f0 m = true) : Keeps m s0 (State.arriveOn a0 a1 a2) := by
  refine h.step ?_ hs
  dsimp only [State.arriveOn]
  repeat' first
    | with_reducible first | assumption | exact Keeps.refl _ _
    | (with_reducible apply sub_intro); exact rfl
    | with_reducible apply State_rput_keeps
    | with_reducible apply State_boundaryOn_keeps
    | with_reducible apply State_heldDone_keeps
    | with_reducible apply State_setDomx_keeps
    | with_reducible apply State_resumeDomain_keeps
    | with_reducible apply Keeps.foldl
    | intro _
    | with_reducible apply Keeps.ite
    | split
    | dsimp only

theorem State_leaveOn_keeps {m : Nat} {s0 : State} {a0 : State} {a1 : Nat} {a2 : Nat} (h : Keeps m s0 a0) (hs : sub 0x1899cf7db450 m = true) : Keeps m s0 (State.leaveOn a0 a1 a2) := by
  refine h.step ?_ hs
  dsimp only [State.leaveOn]
  repeat' first
    | with_reducible first | assumption | exact Keeps.refl _ _
    | (with_reducible apply sub_intro); exact rfl
    | with_reducible apply State_rput_keeps
    | with_reducible apply State_dropUnready_keeps
    | with_reducible apply State_enablesOut_keeps
    | with_reducible apply State_setPx_keeps
    | with_reducible apply State_linkTo_keeps
    | with_reducible apply State_cplxOff_keeps
    | with_reducible apply State_setPipe_keeps
    | with_reducible apply State_reap_keeps
    | with_reducible exact State.Canonical.plaitIn (by assumption)
    | with_reducible apply swf_sset
    | with_reducible apply swf_smap
    | with_reducible apply swf_sfilter
    | with_reducible apply swf_sdel
    | with_reducible exact swf_nil
    | with_reducible apply swf_foldl
    | with_reducible apply Keeps.foldl
    | intro _
    | with_reducible apply Keeps.ite
    | split
    | dsimp only
    | with_reducible apply Keeps.plaitIn

theorem State_askVolt_keeps {m : Nat} {s0 : State} {a0 : State} {a1 : Nat} {a2 : Nat} (h : Keeps m s0 a0) (hs : sub 0x10 m = true) : Keeps m s0 (State.askVolt a0 a1 a2) := by
  refine h.step ?_ hs
  dsimp only [State.askVolt]
  repeat' first
    | with_reducible first | assumption | exact Keeps.refl _ _
    | (with_reducible apply sub_intro); exact rfl
    | with_reducible apply State_cinc_keeps
    | with_reducible apply State_rput_keeps
    | with_reducible apply Keeps.ite
    | split
    | dsimp only

theorem State_railsMet_keeps {m : Nat} {s0 : State} {a0 : State} {a1 : Nat} (h : Keeps m s0 a0) (hs : sub 0x1000 m = true) : Keeps m s0 (State.railsMet a0 a1) := by
  refine h.step ?_ hs
  dsimp only [State.railsMet]
  repeat' first
    | with_reducible first | assumption | exact Keeps.refl _ _
    | (with_reducible apply sub_intro); exact rfl
    | with_reducible apply State_setDomx_keeps
    | with_reducible apply Keeps.ite
    | split
    | dsimp only

theorem State_serveRail_keeps {m : Nat} {s0 : State} {a0 : State} {a1 : Nat} (h : Keeps m s0 a0) (hs : sub 0x3010 m = true) : Keeps m s0 (State.serveRail a0 a1) := by
  refine h.step ?_ hs
  dsimp only [State.serveRail]
  repeat' first
    | with_reducible first | assumption | exact Keeps.refl _ _
    | (with_reducible apply sub_intro); exact rfl
    | with_reducible apply State_setRail_keeps
    | with_reducible apply State_askVolt_keeps
    | with_reducible apply State_setDomx_keeps
    | with_reducible apply Keeps.ite
    | split
    | dsimp only

theorem State_serveRails_keeps {m : Nat} {s0 : State} {a0 : State} (h : Keeps m s0 a0) (hs : sub 0x3010 m = true) : Keeps m s0 (State.serveRails a0) := by
  refine h.step ?_ hs
  dsimp only [State.serveRails]
  repeat' first
    | with_reducible first | assumption | exact Keeps.refl _ _
    | (with_reducible apply sub_intro); exact rfl
    | with_reducible apply State_serveRail_keeps
    | with_reducible apply Keeps.ite
    | split
    | dsimp only

theorem execAvsAck_keeps {m : Nat} {s0 : State} {a0 : Nat} {a1 : Bool} {a2 : State} (h : Keeps m s0 a2) (hs : sub 0x3010 m = true) : OutKeeps m s0 (execAvsAck a0 a1 a2) := by
  refine OutKeeps.step h ?_ hs
  dsimp only [execAvsAck]
  repeat' first
    | with_reducible first | assumption | exact Keeps.refl _ _
    | (with_reducible apply sub_intro); exact rfl
    | with_reducible apply OutKeeps.next
    | with_reducible apply State_setRail_keeps
    | with_reducible apply State_serveRails_keeps
    | with_reducible apply State_railsMet_keeps
    | with_reducible apply Keeps.foldl
    | intro _
    | with_reducible apply OutKeeps.ite
    | with_reducible apply Keeps.ite
    | split
    | dsimp only

theorem execAvsLowerAck_keeps {m : Nat} {s0 : State} {a0 : Nat} {a1 : Bool} {a2 : State} (h : Keeps m s0 a2) (hs : sub 0x83010 m = true) : OutKeeps m s0 (execAvsLowerAck a0 a1 a2) := by
  refine OutKeeps.step h ?_ hs
  dsimp only [execAvsLowerAck]
  repeat' first
    | with_reducible first | assumption | exact Keeps.refl _ _
    | (with_reducible apply sub_intro); exact rfl
    | with_reducible apply OutKeeps.next
    | with_reducible apply State_setRail_keeps
    | with_reducible apply State_cinc_keeps
    | with_reducible apply State_raise_keeps
    | with_reducible apply State_serveRails_keeps
    | with_reducible apply OutKeeps.ite
    | with_reducible apply Keeps.ite
    | split
    | dsimp only

theorem State_inProgress_keeps {m : Nat} {s0 : State} {a0 : State} {a1 : Nat} {a2 : Nat} {a3 : DomPhase} {a4 : List Nat} (h : Keeps m s0 a0) (hs : sub 0x1010 m = true) : Keeps m s0 (State.inProgress a0 a1 a2 a3 a4) := by
  refine h.step ?_ hs
  dsimp only [State.inProgress]
  repeat' first
    | with_reducible first | assumption | exact Keeps.refl _ _
    | (with_reducible apply sub_intro); exact rfl
    | with_reducible apply State_setDomx_keeps
    | with_reducible apply State_pdUnqueue_keeps
    | with_reducible apply State_rput_keeps
    | with_reducible apply Keeps.ite
    | split
    | dsimp only

theorem State_startRise_keeps {m : Nat} {s0 : State} {a0 : State} {a1 : Nat} (h : Keeps m s0 a0) (hs : sub 0x3010 m = true) : Keeps m s0 (State.startRise a0 a1) := by
  refine h.step ?_ hs
  dsimp only [State.startRise]
  repeat' first
    | with_reducible first | assumption | exact Keeps.refl _ _
    | (with_reducible apply sub_intro); exact rfl
    | with_reducible apply State_serveRails_keeps
    | with_reducible apply State_railsMet_keeps
    | with_reducible apply State_inProgress_keeps
    | with_reducible apply State_setDomx_keeps
    | with_reducible apply Keeps.ite
    | split
    | dsimp only

theorem State_startFall_keeps {m : Nat} {s0 : State} {a0 : State} {a1 : Nat} {a2 : Nat} (h : Keeps m s0 a0) (hs : sub 0x1819cf481010 m = true) : Keeps m s0 (State.startFall a0 a1 a2) := by
  refine h.step ?_ hs
  dsimp only [State.startFall]
  repeat' first
    | with_reducible first | assumption | exact Keeps.refl _ _
    | (with_reducible apply sub_intro); exact rfl
    | with_reducible apply State_inProgress_keeps
    | with_reducible apply State_linkTo_keeps
    | with_reducible apply Keeps.foldl
    | intro _
    | with_reducible apply Keeps.ite
    | split
    | dsimp only

theorem State_pdComplete_keeps {m : Nat} {s0 : State} {a0 : State} {a1 : Nat} (h : Keeps m s0 a0) (hs : sub 0x800081690 m = true) : Keeps m s0 (State.pdComplete a0 a1) := by
  refine h.step ?_ hs
  dsimp only [State.pdComplete]
  repeat' first
    | with_reducible first | assumption | exact Keeps.refl _ _
    | (with_reducible apply sub_intro); exact rfl
    | with_reducible apply State_endPdreq_keeps
    | with_reducible apply State_pdResult_keeps
    | with_reducible apply State_pdUnqueue_keeps
    | with_reducible apply Keeps.ite
    | split
    | dsimp only

theorem State_pdRefuseQueued_keeps {m : Nat} {s0 : State} {a0 : State} {a1 : Nat} {a2 : Nat} {a3 : Nat} (h : Keeps m s0 a0) (hs : sub 0x800081690 m = true) : Keeps m s0 (State.pdRefuseQueued a0 a1 a2 a3) := by
  refine h.step ?_ hs
  dsimp only [State.pdRefuseQueued]
  repeat' first
    | with_reducible first | assumption | exact Keeps.refl _ _
    | (with_reducible apply sub_intro); exact rfl
    | with_reducible apply State_pdRefuse_keeps
    | with_reducible apply State_pdUnqueue_keeps
    | with_reducible apply Keeps.ite
    | split
    | dsimp only

theorem State_tryFall_keeps {m : Nat} {s0 : State} {a0 : State} {a1 : Nat} (h : Keeps m s0 a0) (hs : sub 0x1819cf481690 m = true) : Keeps m s0 (State.tryFall a0 a1) := by
  refine h.step ?_ hs
  dsimp only [State.tryFall]
  repeat' first
    | with_reducible first | assumption | exact Keeps.refl _ _
    | (with_reducible apply sub_intro); exact rfl
    | with_reducible apply State_pdComplete_keeps
    | with_reducible apply State_pdRefuseQueued_keeps
    | with_reducible apply State_startFall_keeps
    | with_reducible apply Keeps.ite
    | split
    | dsimp only

theorem State_tryRise_keeps {m : Nat} {s0 : State} {a0 : State} {a1 : Nat} (h : Keeps m s0 a0) (hs : sub 0x800083690 m = true) : Keeps m s0 (State.tryRise a0 a1) := by
  refine h.step ?_ hs
  dsimp only [State.tryRise]
  repeat' first
    | with_reducible first | assumption | exact Keeps.refl _ _
    | (with_reducible apply sub_intro); exact rfl
    | with_reducible apply State_pdComplete_keeps
    | with_reducible apply State_pdRefuseQueued_keeps
    | with_reducible apply State_startRise_keeps
    | with_reducible apply Keeps.foldl
    | intro _
    | with_reducible apply Keeps.ite
    | split
    | dsimp only

theorem execPowerControllerCycle_keeps {m : Nat} {s0 : State} {a0 : State} (h : Keeps m s0 a0) (hs : sub 0x1819cf483690 m = true) : OutKeeps m s0 (execPowerControllerCycle a0) := by
  refine OutKeeps.step h ?_ hs
  dsimp only [execPowerControllerCycle]
  repeat' first
    | with_reducible first | assumption | exact Keeps.refl _ _
    | (with_reducible apply sub_intro); exact rfl
    | with_reducible apply OutKeeps.next
    | with_reducible apply State_tryRise_keeps
    | with_reducible apply State_tryFall_keeps
    | with_reducible apply Keeps.foldl
    | intro _
    | with_reducible apply OutKeeps.ite
    | with_reducible apply Keeps.ite
    | split
    | dsimp only

theorem execFallDrainDone_keeps {m : Nat} {s0 : State} {a0 : Nat} {a1 : State} (h : Keeps m s0 a1) (hs : sub 0x1000 m = true) : OutKeeps m s0 (execFallDrainDone a0 a1) := by
  refine OutKeeps.step h ?_ hs
  dsimp only [execFallDrainDone]
  repeat' first
    | with_reducible first | assumption | exact Keeps.refl _ _
    | (with_reducible apply sub_intro); exact rfl
    | with_reducible apply OutKeeps.next
    | with_reducible apply State_setDomx_keeps
    | with_reducible apply OutKeeps.ite
    | with_reducible apply Keeps.ite
    | split
    | dsimp only

theorem State_pdEnd_keeps {m : Nat} {s0 : State} {a0 : State} {a1 : Nat} {a2 : Nat} (h : Keeps m s0 a0) (hs : sub 0x800081690 m = true) : Keeps m s0 (State.pdEnd a0 a1 a2) := by
  refine h.step ?_ hs
  dsimp only [State.pdEnd]
  repeat' first
    | with_reducible first | assumption | exact Keeps.refl _ _
    | (with_reducible apply sub_intro); exact rfl
    | with_reducible apply State_setDomx_keeps
    | with_reducible apply State_cinc_keeps
    | with_reducible apply State_rput_keeps
    | with_reducible apply State_raise_keeps
    | with_reducible apply State_pput_keeps
    | with_reducible apply State_endPdreq_keeps
    | with_reducible apply State_pdResult_keeps
    | with_reducible apply State_pdComplete_keeps
    | with_reducible apply Keeps.ite
    | split
    | dsimp only

theorem execSwitchReady_keeps {m : Nat} {s0 : State} {a0 : Nat} {a1 : State} (h : Keeps m s0 a1) (hs : sub 0x1bffff7fb7f0 m = true) : OutKeeps m s0 (execSwitchReady a0 a1) := by
  refine OutKeeps.step h ?_ hs
  dsimp only [execSwitchReady]
  repeat' first
    | with_reducible first | assumption | exact Keeps.refl _ _
    | (with_reducible apply sub_intro); exact rfl
    | with_reducible apply OutKeeps.next
    | with_reducible apply State_pdEnd_keeps
    | with_reducible apply State_arriveOn_keeps
    | with_reducible apply State_leaveOn_keeps
    | with_reducible apply State_rput_keeps
    | with_reducible apply State_setDomx_keeps
    | with_reducible apply State_loseDomain_keeps
    | with_reducible apply State_serveRails_keeps
    | with_reducible apply Keeps.foldl
    | intro _
    | with_reducible apply OutKeeps.ite
    | with_reducible apply Keeps.ite
    | split
    | dsimp only

theorem State_pdAbort_keeps {m : Nat} {s0 : State} {a0 : State} {a1 : Nat} {a2 : Nat} {a3 : Nat} (h : Keeps m s0 a0) (hs : sub 0x800081690 m = true) : Keeps m s0 (State.pdAbort a0 a1 a2 a3) := by
  refine h.step ?_ hs
  dsimp only [State.pdAbort]
  repeat' first
    | with_reducible first | assumption | exact Keeps.refl _ _
    | (with_reducible apply sub_intro); exact rfl
    | with_reducible apply State_setDomx_keeps
    | with_reducible apply State_cinc_keeps
    | with_reducible apply State_rput_keeps
    | with_reducible apply State_pdResult_keeps
    | with_reducible apply State_endPdreq_keeps
    | with_reducible apply State_raise_keeps
    | with_reducible apply Keeps.ite
    | split
    | dsimp only

theorem State_abortWaiting_keeps {m : Nat} {s0 : State} {a0 : Nat} {a1 : State} {a2 : Nat} (h : Keeps m s0 a1) (hs : sub 0x800081690 m = true) :
    Keeps m s0 (State.abortWaiting a0 a1 a2) := by
  induction a0 generalizing a1 a2 with
  | zero => exact h
  | succ n ih => exact Keeps.foldl h (fun t e ht => ih (State_pdAbort_keeps ht hs))

theorem State_restoreRail_keeps {m : Nat} {s0 : State} {a0 : State} {a1 : Nat} {a2 : Nat} (h : Keeps m s0 a0) (hs : sub 0x2010 m = true) : Keeps m s0 (State.restoreRail a0 a1 a2) := by
  refine h.step ?_ hs
  dsimp only [State.restoreRail]
  repeat' first
    | with_reducible first | assumption | exact Keeps.refl _ _
    | (with_reducible apply sub_intro); exact rfl
    | with_reducible apply State_setRail_keeps
    | with_reducible apply State_askVolt_keeps
    | with_reducible apply Keeps.ite
    | split
    | dsimp only

theorem execTransitionAbort_keeps {m : Nat} {s0 : State} {a0 : Nat} {a1 : State} (h : Keeps m s0 a1) (hs : sub 0x800083690 m = true) : OutKeeps m s0 (execTransitionAbort a0 a1) := by
  refine OutKeeps.step h ?_ hs
  dsimp only [execTransitionAbort]
  repeat' first
    | with_reducible first | assumption | exact Keeps.refl _ _
    | (with_reducible apply sub_intro); exact rfl
    | with_reducible apply OutKeeps.next
    | with_reducible apply State_abortWaiting_keeps
    | with_reducible apply State_pdAbort_keeps
    | with_reducible apply State_serveRails_keeps
    | with_reducible apply State_restoreRail_keeps
    | with_reducible apply OutKeeps.ite
    | with_reducible apply Keeps.ite
    | split
    | dsimp only

theorem execPdReqGo_keeps {m : Nat} {s0 : State} {a0 : Master} {a1 : Nat} {a2 : State} (h : Keeps m s0 a2) (hs : sub 0x8000816f0 m = true) : OutKeeps m s0 (execPdReqGo a0 a1 a2) := by
  refine OutKeeps.step h ?_ hs
  dsimp only [execPdReqGo]
  repeat' first
    | with_reducible first | assumption | exact Keeps.refl _ _
    | (with_reducible apply sub_intro); exact rfl
    | with_reducible apply OutKeeps.next
    | with_reducible apply State_guardWrite_keeps
    | with_reducible apply State_pdRequest_keeps
    | with_reducible apply Keeps.foldl
    | intro _
    | with_reducible apply OutKeeps.ite
    | with_reducible apply Keeps.ite
    | split
    | dsimp only

theorem execWake_keeps {m : Nat} {s0 : State} {a0 : Nat} {a1 : State} (h : Keeps m s0 a1) (hs : sub 0x800081690 m = true) : OutKeeps m s0 (execWake a0 a1) := by
  refine OutKeeps.step h ?_ hs
  dsimp only [execWake]
  repeat' first
    | with_reducible first | assumption | exact Keeps.refl _ _
    | (with_reducible apply sub_intro); exact rfl
    | with_reducible apply OutKeeps.next
    | with_reducible apply State_wakeFire_keeps
    | with_reducible apply OutKeeps.ite
    | with_reducible apply Keeps.ite
    | split
    | dsimp only

end Sys2Proof.Laws
end

