-- ==== Sys2Proof/Laws/Keep/Boot.lean ====
section
/-! SUPPORT. What each definition of Machine/Boot may change, and that it keeps the canonical form. -/

namespace Sys2Proof.Laws

open Sys2Proof Sys2Proof.Machine

theorem State_resetFunc_keeps {m : Nat} {s0 : State} {a0 : State} {a1 : Nat} (h : Keeps m s0 a0) (hs : sub 0x50800088630 m = true) : Keeps m s0 (State.resetFunc a0 a1) := by
  refine h.step ?_ hs
  dsimp only [State.resetFunc]
  repeat' first
    | with_reducible first | assumption | exact Keeps.refl _ _
    | (with_reducible apply sub_intro); exact rfl
    | with_reducible apply State_resetIdentity_keeps
    | with_reducible apply State_resetRingsOf_keeps
    | with_reducible exact State.Canonical.vecs (by assumption)
    | with_reducible exact State.Canonical.msix (by assumption)
    | with_reducible apply swf_sset
    | with_reducible apply swf_smap
    | with_reducible apply swf_sfilter
    | with_reducible apply swf_sdel
    | with_reducible exact swf_nil
    | with_reducible apply swf_foldl
    | with_reducible apply Keeps.foldl
    | intro _
    | with_reducible apply Keeps.ite
    | split
    | dsimp only
    | with_reducible apply Keeps.boot_vecs_msix

theorem State_resetFuncs_keeps {m : Nat} {s0 : State} {a0 : State} {a1 : List Nat} (h : Keeps m s0 a0) (hs : sub 0x50800088630 m = true) : Keeps m s0 (State.resetFuncs a0 a1) := by
  refine h.step ?_ hs
  dsimp only [State.resetFuncs]
  repeat' first
    | with_reducible first | assumption | exact Keeps.refl _ _
    | (with_reducible apply sub_intro); exact rfl
    | with_reducible apply State_resetFunc_keeps
    | with_reducible apply State_slowRingsOff_keeps
    | with_reducible apply State_dropUnready_keeps
    | with_reducible apply Keeps.foldl
    | intro _
    | with_reducible apply Keeps.ite
    | split
    | dsimp only
    | with_reducible apply Keeps.boot

theorem execFunctionLevelReset_keeps {m : Nat} {s0 : State} {a0 : Nat} {a1 : Nat} {a2 : State} (h : Keeps m s0 a2) (hs : sub 0x50800088630 m = true) : OutKeeps m s0 (execFunctionLevelReset a0 a1 a2) := by
  refine OutKeeps.step h ?_ hs
  dsimp only [execFunctionLevelReset]
  repeat' first
    | with_reducible first | assumption | exact Keeps.refl _ _
    | (with_reducible apply sub_intro); exact rfl
    | with_reducible apply OutKeeps.next
    | with_reducible apply State_resetFuncs_keeps
    | with_reducible apply State_resetRingsOf_keeps
    | with_reducible apply OutKeeps.ite
    | with_reducible apply Keeps.ite
    | split
    | dsimp only
    | with_reducible apply Keeps.boot

theorem State_porstAll_keeps {m : Nat} {s0 : State} {a0 : State} (h : Keeps m s0 a0) (hs : sub 0x1ffffffffff0 m = true) :
    Keeps m s0 (State.porstAll a0) := by
  refine h.step (k := 0x1ffffffffff0) ⟨fun f hf => by cases f <;> first | rfl | exact absurd hf (by decide), fun hc => ?_⟩ hs
  constructor
  case mem => exact swf_sfilter hc.memswf
  all_goals rfl

theorem execPorstN_keeps {m : Nat} {s0 : State} {a0 : Bool} {a1 : Bool} {a2 : Bool} {a3 : State} (h : Keeps m s0 a3) (hs : sub 0x1ffffffffff0 m = true) : OutKeeps m s0 (execPorstN a0 a1 a2 a3) := by
  refine OutKeeps.step h ?_ hs
  dsimp only [execPorstN]
  repeat' first
    | with_reducible first | assumption | exact Keeps.refl _ _
    | (with_reducible apply sub_intro); exact rfl
    | with_reducible apply OutKeeps.next
    | with_reducible apply State_porstAll_keeps
    | with_reducible apply State_rput_keeps
    | with_reducible apply State_startLock_keeps
    | with_reducible apply OutKeeps.ite
    | with_reducible apply Keeps.ite
    | split
    | dsimp only
    | with_reducible apply Keeps.boot

theorem execPerstN_keeps {m : Nat} {s0 : State} {a0 : Bool} {a1 : State} (h : Keeps m s0 a1) (hs : sub 0x1d0800088630 m = true) : OutKeeps m s0 (execPerstN a0 a1) := by
  refine OutKeeps.step h ?_ hs
  dsimp only [execPerstN]
  repeat' first
    | with_reducible first | assumption | exact Keeps.refl _ _
    | (with_reducible apply sub_intro); exact rfl
    | with_reducible apply OutKeeps.next
    | with_reducible apply State_resetFuncs_keeps
    | with_reducible apply State_tapFlushAll_keeps
    | with_reducible apply State_rput_keeps
    | with_reducible apply OutKeeps.ite
    | with_reducible apply Keeps.ite
    | split
    | dsimp only
    | with_reducible apply Keeps.boot

theorem State_warmClear_keeps {m : Nat} {s0 : State} {a0 : State} (h : Keeps m s0 a0) (hs : sub 0x20000040010 m = true) : Keeps m s0 (State.warmClear a0) := by
  refine h.step ?_ hs
  dsimp only [State.warmClear]
  repeat' first
    | with_reducible first | assumption | exact Keeps.refl _ _
    | (with_reducible apply sub_intro); exact rfl
    | with_reducible apply State_rput_keeps
    | with_reducible exact State.Canonical.regs (by assumption)
    | with_reducible exact State.Canonical.ruleCnt (by assumption)
    | with_reducible apply swf_sset
    | with_reducible apply swf_smap
    | with_reducible apply swf_sfilter
    | with_reducible apply swf_sdel
    | with_reducible exact swf_nil
    | with_reducible apply swf_foldl
    | with_reducible apply Keeps.foldl
    | intro _
    | with_reducible apply Keeps.ite
    | split
    | dsimp only
    | with_reducible apply Keeps.regs_mer_ruleCnt

theorem execWarmRstN_keeps {m : Nat} {s0 : State} {a0 : Bool} {a1 : State} (h : Keeps m s0 a1) (hs : sub 0x1f08000c8630 m = true) : OutKeeps m s0 (execWarmRstN a0 a1) := by
  refine OutKeeps.step h ?_ hs
  dsimp only [execWarmRstN]
  repeat' first
    | with_reducible first | assumption | exact Keeps.refl _ _
    | (with_reducible apply sub_intro); exact rfl
    | with_reducible apply OutKeeps.next
    | with_reducible apply State_warmClear_keeps
    | with_reducible apply State_resetFuncs_keeps
    | with_reducible apply State_tapFlushAll_keeps
    | with_reducible apply State_rput_keeps
    | with_reducible apply OutKeeps.ite
    | with_reducible apply Keeps.ite
    | split
    | dsimp only
    | with_reducible apply Keeps.boot

theorem State_setRefWin_keeps {m : Nat} {s0 : State} {a0 : State} {a1 : Nat} {a2 : Nat} {a3 : Bool} (h : Keeps m s0 a0) (hs : sub 0x8000 m = true) : Keeps m s0 (State.setRefWin a0 a1 a2 a3) := by
  refine h.step ?_ hs
  dsimp only [State.setRefWin]
  repeat' first
    | with_reducible first | assumption | exact Keeps.refl _ _
    | (with_reducible apply sub_intro); exact rfl
    | with_reducible apply Keeps.ite
    | split
    | dsimp only
    | with_reducible apply Keeps.boot

theorem State_refLoss_keeps {m : Nat} {s0 : State} {a0 : State} {a1 : Nat} (h : Keeps m s0 a0) (hs : sub 0x88010 m = true) : Keeps m s0 (State.refLoss a0 a1) := by
  refine h.step ?_ hs
  dsimp only [State.refLoss]
  repeat' first
    | with_reducible first | assumption | exact Keeps.refl _ _
    | (with_reducible apply sub_intro); exact rfl
    | with_reducible apply State_settleRef_keeps
    | with_reducible apply State_setRefOk_keeps
    | with_reducible apply State_setRefWin_keeps
    | with_reducible apply Keeps.ite
    | split
    | dsimp only

theorem execRefLost_keeps {m : Nat} {s0 : State} {a0 : Nat} {a1 : State} (h : Keeps m s0 a1) (hs : sub 0x88010 m = true) : OutKeeps m s0 (execRefLost a0 a1) := by
  refine OutKeeps.step h ?_ hs
  dsimp only [execRefLost]
  repeat' first
    | with_reducible first | assumption | exact Keeps.refl _ _
    | (with_reducible apply sub_intro); exact rfl
    | with_reducible apply OutKeeps.next
    | with_reducible apply State_refLoss_keeps
    | with_reducible apply OutKeeps.ite
    | with_reducible apply Keeps.ite
    | split
    | dsimp only

theorem execRefFreqWindow_keeps {m : Nat} {s0 : State} {a0 : Nat} {a1 : Nat} {a2 : State} (h : Keeps m s0 a2) (hs : sub 0x88010 m = true) : OutKeeps m s0 (execRefFreqWindow a0 a1 a2) := by
  refine OutKeeps.step h ?_ hs
  dsimp only [execRefFreqWindow]
  repeat' first
    | with_reducible first | assumption | exact Keeps.refl _ _
    | (with_reducible apply sub_intro); exact rfl
    | with_reducible apply OutKeeps.next
    | with_reducible apply State_refLoss_keeps
    | with_reducible apply State_setRefWin_keeps
    | with_reducible apply State_settleRef_keeps
    | with_reducible apply State_setRefOk_keeps
    | with_reducible apply OutKeeps.ite
    | with_reducible apply Keeps.ite
    | split
    | dsimp only

theorem execPllUnlock_keeps {m : Nat} {s0 : State} {a0 : State} (h : Keeps m s0 a0) (hs : sub 0x88010 m = true) : OutKeeps m s0 (execPllUnlock a0) := by
  refine OutKeeps.step h ?_ hs
  dsimp only [execPllUnlock]
  repeat' first
    | with_reducible first | assumption | exact Keeps.refl _ _
    | (with_reducible apply sub_intro); exact rfl
    | with_reducible apply OutKeeps.next
    | with_reducible apply State_raise_keeps
    | with_reducible apply State_setReady_keeps
    | with_reducible apply State_rput_keeps
    | with_reducible apply OutKeeps.ite
    | with_reducible apply Keeps.ite
    | split
    | dsimp only
    | with_reducible apply Keeps.boot

theorem State_lockExit_keeps {m : Nat} {s0 : State} {a0 : State} (h : Keeps m s0 a0) (hs : sub 0x197dcf7fb6f0 m = true) : Keeps m s0 (State.lockExit a0) := by
  refine h.step ?_ hs
  dsimp only [State.lockExit]
  repeat' first
    | with_reducible first | assumption | exact Keeps.refl _ _
    | (with_reducible apply sub_intro); exact rfl
    | with_reducible apply State_arriveOn_keeps
    | with_reducible apply State_settleRef_keeps
    | with_reducible apply State_rput_keeps
    | with_reducible apply Keeps.foldl
    | intro _
    | with_reducible apply Keeps.ite
    | split
    | dsimp only

theorem execPllLockAttempt_keeps {m : Nat} {s0 : State} {a0 : Bool} {a1 : State} (h : Keeps m s0 a1) (hs : sub 0x197dcf7fb6f0 m = true) : OutKeeps m s0 (execPllLockAttempt a0 a1) := by
  refine OutKeeps.step h ?_ hs
  dsimp only [execPllLockAttempt]
  repeat' first
    | with_reducible first | assumption | exact Keeps.refl _ _
    | (with_reducible apply sub_intro); exact rfl
    | with_reducible apply OutKeeps.next
    | with_reducible apply State_rput_keeps
    | with_reducible apply State_lockExit_keeps
    | with_reducible apply State_setReady_keeps
    | with_reducible apply State_showRef_keeps
    | with_reducible apply OutKeeps.ite
    | with_reducible apply Keeps.ite
    | split
    | dsimp only
    | with_reducible apply Keeps.boot

theorem execSpiLoadDone_keeps {m : Nat} {s0 : State} {a0 : SpiFlash} {a1 : State} (h : Keeps m s0 a1) (hs : sub 0xa0010 m = true) : OutKeeps m s0 (execSpiLoadDone a0 a1) := by
  refine OutKeeps.step h ?_ hs
  dsimp only [execSpiLoadDone]
  repeat' first
    | with_reducible first | assumption | exact Keeps.refl _ _
    | (with_reducible apply sub_intro); exact rfl
    | with_reducible apply OutKeeps.next
    | with_reducible apply State_rput_keeps
    | with_reducible apply State_imgBegin_keeps
    | with_reducible apply State_imgEnd_keeps
    | with_reducible apply OutKeeps.ite
    | with_reducible apply Keeps.ite
    | split
    | dsimp only
    | with_reducible apply Keeps.store

theorem execReadySet_keeps {m : Nat} {s0 : State} {a0 : Nat} {a1 : State} (h : Keeps m s0 a1) (hs : sub 0x1819cf7db050 m = true) : OutKeeps m s0 (execReadySet a0 a1) := by
  refine OutKeeps.step h ?_ hs
  dsimp only [execReadySet]
  repeat' first
    | with_reducible first | assumption | exact Keeps.refl _ _
    | (with_reducible apply sub_intro); exact rfl
    | with_reducible apply OutKeeps.next
    | with_reducible apply State_enablesIn_keeps
    | with_reducible apply State_setReady_keeps
    | with_reducible apply Keeps.foldl
    | intro _
    | with_reducible apply OutKeeps.ite
    | with_reducible apply Keeps.ite
    | split
    | dsimp only

theorem execTrainingDone_keeps {m : Nat} {s0 : State} {a0 : Nat} {a1 : Bool} {a2 : Nat} {a3 : State} (h : Keeps m s0 a3) (hs : sub 0x80090 m = true) : OutKeeps m s0 (execTrainingDone a0 a1 a2 a3) := by
  refine OutKeeps.step h ?_ hs
  dsimp only [execTrainingDone]
  repeat' first
    | with_reducible first | assumption | exact Keeps.refl _ _
    | (with_reducible apply sub_intro); exact rfl
    | with_reducible apply OutKeeps.next
    | with_reducible apply State_raise_keeps
    | with_reducible apply State_rput_keeps
    | with_reducible apply State_dramOff_keeps
    | with_reducible apply State_cinc_keeps
    | with_reducible apply State_radd_keeps
    | with_reducible apply OutKeeps.ite
    | with_reducible apply Keeps.ite
    | split
    | dsimp only

theorem execRetrain_keeps {m : Nat} {s0 : State} {a0 : Master} {a1 : State} (h : Keeps m s0 a1) (hs : sub 0x193cc14f96f0 m = true) : OutKeeps m s0 (execRetrain a0 a1) := by
  refine OutKeeps.step h ?_ hs
  dsimp only [execRetrain]
  repeat' first
    | with_reducible first | assumption | exact Keeps.refl _ _
    | (with_reducible apply sub_intro); exact rfl
    | with_reducible apply OutKeeps.next
    | with_reducible apply State_guardWrite_keeps
    | with_reducible apply State_regAction_keeps
    | with_reducible apply Keeps.foldl
    | intro _
    | with_reducible apply OutKeeps.ite
    | with_reducible apply Keeps.ite
    | split
    | dsimp only

theorem execPeriodicCal_keeps {m : Nat} {s0 : State} {a0 : Nat} {a1 : State} (h : Keeps m s0 a1) (hs : sub 0x10 m = true) : OutKeeps m s0 (execPeriodicCal a0 a1) := by
  refine OutKeeps.step h ?_ hs
  dsimp only [execPeriodicCal]
  repeat' first
    | with_reducible first | assumption | exact Keeps.refl _ _
    | (with_reducible apply sub_intro); exact rfl
    | with_reducible apply OutKeeps.next
    | with_reducible apply State_cinc_keeps
    | with_reducible apply OutKeeps.ite
    | with_reducible apply Keeps.ite
    | split
    | dsimp only

theorem execTempSample_keeps {m : Nat} {s0 : State} {a0 : Int} {a1 : State} (h : Keeps m s0 a1) (hs : sub 0x88010 m = true) : OutKeeps m s0 (execTempSample a0 a1) := by
  refine OutKeeps.step h ?_ hs
  dsimp only [execTempSample]
  repeat' first
    | with_reducible first | assumption | exact Keeps.refl _ _
    | (with_reducible apply sub_intro); exact rfl
    | with_reducible apply OutKeeps.next
    | with_reducible apply State_rput_keeps
    | with_reducible apply State_raiseIf_keeps
    | with_reducible apply OutKeeps.ite
    | with_reducible apply Keeps.ite
    | split
    | dsimp only
    | with_reducible apply Keeps.boot

end Sys2Proof.Laws
end

