-- ==== Sys2Proof/Laws/Keep/Gates.lean ====
section
/-! SUPPORT. What each definition of Machine/Gates may change, and that it keeps the canonical form. -/

namespace Sys2Proof.Laws

open Sys2Proof Sys2Proof.Machine

theorem State_schedCause_keeps {m : Nat} {s0 : State} {a0 : State} {a1 : Nat} {a2 : Row} (h : Keeps m s0 a0) (hs : sub 0x80010 m = true) : Keeps m s0 (State.schedCause a0 a1 a2) := by
  refine h.step ?_ hs
  dsimp only [State.schedCause]
  repeat' first
    | with_reducible first | assumption | exact Keeps.refl _ _
    | (with_reducible apply sub_intro); exact rfl
    | with_reducible apply State_raise_keeps
    | with_reducible apply State_rput_keeps
    | with_reducible apply Keeps.ite
    | split
    | dsimp only

theorem execGateEntry_keeps {m : Nat} {s0 : State} {a0 : Nat} {a1 : State} (h : Keeps m s0 a1) (hs : sub 0x20000000 m = true) : OutKeeps m s0 (execGateEntry a0 a1) := by
  refine OutKeeps.step h ?_ hs
  dsimp only [execGateEntry]
  repeat' first
    | with_reducible first | assumption | exact Keeps.refl _ _
    | (with_reducible apply sub_intro); exact rfl
    | with_reducible apply OutKeeps.next
    | with_reducible apply State_setGate_keeps
    | with_reducible apply OutKeeps.ite
    | with_reducible apply Keeps.ite
    | split
    | dsimp only

theorem execGclSwitch_keeps {m : Nat} {s0 : State} {a0 : Nat} {a1 : State} (h : Keeps m s0 a1) (hs : sub 0x820080690 m = true) : OutKeeps m s0 (execGclSwitch a0 a1) := by
  refine OutKeeps.step h ?_ hs
  dsimp only [execGclSwitch]
  repeat' first
    | with_reducible first | assumption | exact Keeps.refl _ _
    | (with_reducible apply sub_intro); exact rfl
    | with_reducible apply OutKeeps.next
    | with_reducible apply State_schedCause_keeps
    | with_reducible apply State_cinc_keeps
    | with_reducible apply State_setGate_keeps
    | with_reducible apply State_endWait_keeps
    | with_reducible apply Keeps.foldl
    | intro _
    | with_reducible apply OutKeeps.ite
    | with_reducible apply Keeps.ite
    | split
    | dsimp only

end Sys2Proof.Laws
end

