-- ==== Sys2Proof/Laws/Keep/PortTx.lean ====
section
/-! SUPPORT. What each definition of Machine/PortTx may change, and that it keeps the canonical form. -/

namespace Sys2Proof.Laws

open Sys2Proof Sys2Proof.Machine

theorem State_cfCount_keeps {m : Nat} {s0 : State} {a0 : State} {a1 : Bool} (h : Keeps m s0 a0) (hs : sub 0x80010 m = true) : Keeps m s0 (State.cfCount a0 a1) := by
  refine h.step ?_ hs
  dsimp only [State.cfCount]
  repeat' first
    | with_reducible first | assumption | exact Keeps.refl _ _
    | (with_reducible apply sub_intro); exact rfl
    | with_reducible apply State_cinc_keeps
    | with_reducible apply State_raise_keeps
    | with_reducible apply Keeps.ite
    | split
    | dsimp only

theorem State_oneStep_keeps {m : Nat} {s0 : State} {a0 : State} {a1 : Nat} {a2 : Tx} {a3 : EditSt} (h : Keeps m s0 a0) (hs : sub 0x80010 m = true) : Keeps m s0 (State.oneStep a0 a1 a2 a3).1 := by
  refine h.step ?_ hs
  dsimp only [State.oneStep]
  repeat' first
    | with_reducible first | assumption | exact Keeps.refl _ _
    | (with_reducible apply sub_intro); exact rfl
    | with_reducible apply State_cfCount_keeps
    | with_reducible apply State_cinc_keeps
    | with_reducible apply Keeps.ite
    | with_reducible apply Keeps.iteFst
    | split
    | dsimp only

theorem State_twoStep_keeps {m : Nat} {s0 : State} {a0 : State} {a1 : Nat} {a2 : Tx} {a3 : EditSt} (h : Keeps m s0 a0) (hs : sub 0xc0010 m = true) : Keeps m s0 (State.twoStep a0 a1 a2 a3) := by
  refine h.step ?_ hs
  dsimp only [State.twoStep]
  repeat' first
    | with_reducible first | assumption | exact Keeps.refl _ _
    | (with_reducible apply sub_intro); exact rfl
    | with_reducible apply State_tsCapture_keeps
    | with_reducible apply Keeps.ite
    | split
    | dsimp only

theorem State_expressBytes_keeps {m : Nat} {s0 : State} {a0 : State} {a1 : Tx} {a2 : Nat} (h : Keeps m s0 a0) (hs : sub 0x80010 m = true) : Keeps m s0 (State.expressBytes a0 a1 a2).1 := by
  refine h.step ?_ hs
  dsimp only [State.expressBytes]
  repeat' first
    | with_reducible first | assumption | exact Keeps.refl _ _
    | (with_reducible apply sub_intro); exact rfl
    | with_reducible apply State_cfCount_keeps
    | with_reducible apply Keeps.ite
    | with_reducible apply Keeps.iteFst
    | split
    | dsimp only

theorem State_txFinish_keeps {m : Nat} {s0 : State} {a0 : State} {a1 : Nat} {a2 : Tx} {a3 : Nat} {a4 : Option Nat} (h : Keeps m s0 a0) (hs : sub 0xc0010 m = true) : Keeps m s0 (State.txFinish a0 a1 a2 a3 a4).1 := by
  refine h.step ?_ hs
  dsimp only [State.txFinish]
  repeat' first
    | with_reducible first | assumption | exact Keeps.refl _ _
    | (with_reducible apply sub_intro); exact rfl
    | with_reducible apply State_expressBytes_keeps
    | with_reducible apply State_cadd_keeps
    | with_reducible apply State_twoStep_keeps
    | with_reducible apply State_oneStep_keeps
    | with_reducible apply State_txAdd_keeps
    | with_reducible refine Keeps.fstEq (by assumption) ?_
    | with_reducible apply Keeps.ite
    | with_reducible apply Keeps.iteFst
    | split
    | dsimp only

theorem State_txArrived_keeps {m : Nat} {s0 : State} {a0 : State} {a1 : Nat} (h : Keeps m s0 a0) (hs : sub 0x1000c0010 m = true) : Keeps m s0 (State.txArrived a0 a1) := by
  refine h.step ?_ hs
  dsimp only [State.txArrived]
  repeat' first
    | with_reducible first | assumption | exact Keeps.refl _ _
    | (with_reducible apply sub_intro); exact rfl
    | with_reducible apply State_txFinish_keeps
    | with_reducible apply State_setPx_keeps
    | with_reducible refine Keeps.fstEq (by assumption) ?_
    | with_reducible apply Keeps.foldl
    | with_reducible apply Keeps.foldlFst
    | intro _
    | with_reducible apply Keeps.ite
    | with_reducible apply Keeps.iteFst
    | split
    | dsimp only

theorem State_txBegin_keeps {m : Nat} {s0 : State} {a0 : State} {a1 : Nat} {a2 : Nat} {a3 : Tx} {a4 : Nat} {a5 : Option Nat} (h : Keeps m s0 a0) (hs : sub 0x1000c0010 m = true) : Keeps m s0 (State.txBegin a0 a1 a2 a3 a4 a5) := by
  refine h.step ?_ hs
  dsimp only [State.txBegin]
  repeat' first
    | with_reducible first | assumption | exact Keeps.refl _ _
    | (with_reducible apply sub_intro); exact rfl
    | with_reducible apply State_txFinish_keeps
    | with_reducible apply State_setPx_keeps
    | with_reducible refine Keeps.fstEq (by assumption) ?_
    | with_reducible apply Keeps.ite
    | with_reducible apply Keeps.iteFst
    | split
    | dsimp only

theorem State_startSlot_keeps {m : Nat} {s0 : State} {a0 : State} {a1 : Nat} {a2 : Nat} {a3 : Nat} (h : Keeps m s0 a0) (hs : sub 0x1819c14c0010 m = true) : Keeps m s0 (State.startSlot a0 a1 a2 a3) := by
  refine h.step ?_ hs
  dsimp only [State.startSlot]
  repeat' first
    | with_reducible first | assumption | exact Keeps.refl _ _
    | (with_reducible apply sub_intro); exact rfl
    | with_reducible apply State_setPx_keeps
    | with_reducible apply State_cinc_keeps
    | with_reducible apply State_release_keeps
    | with_reducible apply State_txAdd_keeps
    | with_reducible apply State_txBegin_keeps
    | with_reducible apply Keeps.ite
    | split
    | dsimp only

theorem State_startExpress_keeps {m : Nat} {s0 : State} {a0 : State} {a1 : Nat} {a2 : Nat} (h : Keeps m s0 a0) (hs : sub 0x1000c0010 m = true) : Keeps m s0 (State.startExpress a0 a1 a2) := by
  refine h.step ?_ hs
  dsimp only [State.startExpress]
  repeat' first
    | with_reducible first | assumption | exact Keeps.refl _ _
    | (with_reducible apply sub_intro); exact rfl
    | with_reducible apply State_setPx_keeps
    | with_reducible apply State_txBegin_keeps
    | with_reducible apply Keeps.ite
    | split
    | dsimp only

theorem State_startPause_keeps {m : Nat} {s0 : State} {a0 : State} {a1 : Nat} (h : Keeps m s0 a0) (hs : sub 0x100000000 m = true) : Keeps m s0 (State.startPause a0 a1) := by
  refine h.step ?_ hs
  dsimp only [State.startPause]
  repeat' first
    | with_reducible first | assumption | exact Keeps.refl _ _
    | (with_reducible apply sub_intro); exact rfl
    | with_reducible apply State_setPx_keeps
    | with_reducible apply Keeps.ite
    | split
    | dsimp only

theorem State_preempt_keeps {m : Nat} {s0 : State} {a0 : State} {a1 : Nat} {a2 : Tx} (h : Keeps m s0 a0) (hs : sub 0x100000010 m = true) : Keeps m s0 (State.preempt a0 a1 a2) := by
  refine h.step ?_ hs
  dsimp only [State.preempt]
  repeat' first
    | with_reducible first | assumption | exact Keeps.refl _ _
    | (with_reducible apply sub_intro); exact rfl
    | with_reducible apply State_txAdd_keeps
    | with_reducible apply State_setPx_keeps
    | with_reducible apply Keeps.ite
    | split
    | dsimp only

theorem State_resume_keeps {m : Nat} {s0 : State} {a0 : State} {a1 : Nat} (h : Keeps m s0 a0) (hs : sub 0x100000010 m = true) : Keeps m s0 (State.resume a0 a1) := by
  refine h.step ?_ hs
  dsimp only [State.resume]
  repeat' first
    | with_reducible first | assumption | exact Keeps.refl _ _
    | (with_reducible apply sub_intro); exact rfl
    | with_reducible apply State_txAdd_keeps
    | with_reducible apply State_setPx_keeps
    | with_reducible apply Keeps.ite
    | split
    | dsimp only

theorem execFrameTransmit_keeps {m : Nat} {s0 : State} {a0 : Nat} {a1 : Nat} {a2 : State} (h : Keeps m s0 a2) (hs : sub 0x1819c14c0010 m = true) : OutKeeps m s0 (execFrameTransmit a0 a1 a2) := by
  refine OutKeeps.step h ?_ hs
  dsimp only [execFrameTransmit]
  repeat' first
    | with_reducible first | assumption | exact Keeps.refl _ _
    | (with_reducible apply sub_intro); exact rfl
    | with_reducible apply OutKeeps.next
    | with_reducible apply State_startExpress_keeps
    | with_reducible apply State_preempt_keeps
    | with_reducible apply State_startSlot_keeps
    | with_reducible apply State_txAdd_keeps
    | with_reducible apply State_resume_keeps
    | with_reducible apply State_startPause_keeps
    | with_reducible apply OutKeeps.ite
    | with_reducible apply Keeps.ite
    | split
    | dsimp only

theorem State_txComplete_keeps {m : Nat} {s0 : State} {a0 : State} {a1 : Nat} (h : Keeps m s0 a0) (hs : sub 0x1000c0010 m = true) : Keeps m s0 (State.txComplete a0 a1) := by
  refine h.step ?_ hs
  dsimp only [State.txComplete]
  repeat' first
    | with_reducible first | assumption | exact Keeps.refl _ _
    | (with_reducible apply sub_intro); exact rfl
    | with_reducible apply State_txFinish_keeps
    | with_reducible apply State_setPx_keeps
    | with_reducible refine Keeps.fstEq (by assumption) ?_
    | with_reducible apply Keeps.iteFst
    | intro _
    | with_reducible apply Keeps.ite
    | split
    | dsimp only

theorem execFrameTxEnd_keeps {m : Nat} {s0 : State} {a0 : Nat} {a1 : State} (h : Keeps m s0 a1) (hs : sub 0x1819c14c0010 m = true) : OutKeeps m s0 (execFrameTxEnd a0 a1) := by
  refine OutKeeps.step h ?_ hs
  dsimp only [execFrameTxEnd]
  repeat' first
    | with_reducible first | assumption | exact Keeps.refl _ _
    | (with_reducible apply sub_intro); exact rfl
    | with_reducible apply OutKeeps.next
    | with_reducible apply State_txComplete_keeps
    | with_reducible apply State_txStats_keeps
    | with_reducible apply State_setPx_keeps
    | with_reducible apply State_txAdd_keeps
    | with_reducible apply State_txRelease_keeps
    | with_reducible apply State_token_keeps
    | with_reducible apply Keeps.foldl
    | intro _
    | with_reducible apply OutKeeps.ite
    | with_reducible apply Keeps.ite
    | split
    | dsimp only

end Sys2Proof.Laws
end

