-- ==== Sys2Proof/Laws/Keep/PortRx.lean ====
section
/-! SUPPORT. What each definition of Machine/PortRx may change, and that it keeps the canonical form. -/

namespace Sys2Proof.Laws

open Sys2Proof Sys2Proof.Machine

theorem State_rxEndStats_keeps {m : Nat} {s0 : State} {a0 : State} {a1 : Nat} {a2 : List Byte} {a3 : Bool} (h : Keeps m s0 a0) (hs : sub 0x10 m = true) : Keeps m s0 (State.rxEndStats a0 a1 a2 a3) := by
  refine h.step ?_ hs
  dsimp only [State.rxEndStats]
  repeat' first
    | with_reducible first | assumption | exact Keeps.refl _ _
    | (with_reducible apply sub_intro); exact rfl
    | with_reducible apply State_rxStats_keeps
    | with_reducible apply State_rxAdd_keeps
    | with_reducible apply Keeps.ite
    | split
    | dsimp only

theorem State_listenFrame_keeps {m : Nat} {s0 : State} {a0 : State} {a1 : Nat} {a2 : List Byte} (h : Keeps m s0 a0) (hs : sub 0x800081690 m = true) : Keeps m s0 (State.listenFrame a0 a1 a2) := by
  refine h.step ?_ hs
  dsimp only [State.listenFrame]
  repeat' first
    | with_reducible first | assumption | exact Keeps.refl _ _
    | (with_reducible apply sub_intro); exact rfl
    | with_reducible apply State_rput_keeps
    | with_reducible apply State_wakeFire_keeps
    | with_reducible apply State_raise_keeps
    | with_reducible apply Keeps.ite
    | split
    | dsimp only

theorem State_expCells_keeps {m : Nat} {s0 : State} {a0 : State} {a1 : Nat} {a2 : Nat} {a3 : Nat} (h : Keeps m s0 a0) (hs : sub 0x10 m = true) : Keeps m s0 (State.expCells a0 a1 a2 a3) := by
  refine h.step ?_ hs
  dsimp only [State.expCells]
  repeat' first
    | with_reducible first | assumption | exact Keeps.refl _ _
    | (with_reducible apply sub_intro); exact rfl
    | with_reducible apply State_cadd_keeps
    | with_reducible apply Keeps.ite
    | split
    | dsimp only

theorem State_expressHit_keeps {m : Nat} {s0 : State} {a0 : State} {a1 : Nat} {a2 : Nat} (h : Keeps m s0 a0) (hs : sub 0x181b00480010 m = true) : Keeps m s0 (State.expressHit a0 a1 a2) := by
  refine h.step ?_ hs
  dsimp only [State.expressHit]
  repeat' first
    | with_reducible first | assumption | exact Keeps.refl _ _
    | (with_reducible apply sub_intro); exact rfl
    | with_reducible apply State_setFr_keeps
    | with_reducible apply State_cinc_keeps
    | with_reducible apply State_mirrorTrigger_keeps
    | with_reducible apply State_discard_keeps
    | with_reducible apply State_raise_keeps
    | with_reducible apply State_setPx_keeps
    | with_reducible apply State_setFate_keeps
    | with_reducible apply State_expCells_keeps
    | with_reducible apply Keeps.ite
    | split
    | dsimp only

theorem State_expGrow_keeps {m : Nat} {s0 : State} {a0 : State} {a1 : Nat} (h : Keeps m s0 a0) (hs : sub 0x100000010 m = true) : Keeps m s0 (State.expGrow a0 a1) := by
  refine h.step ?_ hs
  dsimp only [State.expGrow]
  repeat' first
    | with_reducible first | assumption | exact Keeps.refl _ _
    | (with_reducible apply sub_intro); exact rfl
    | with_reducible apply State_cinc_keeps
    | with_reducible apply State_setPx_keeps
    | with_reducible apply Keeps.foldl
    | intro _
    | with_reducible apply Keeps.ite
    | split
    | dsimp only

theorem State_exactItems_keeps {m : Nat} {s0 : State} {a0 : State} {a1 : Nat} {a2 : Nat} (h : Keeps m s0 a0) (hs : sub 0x106000010 m = true) : Keeps m s0 (State.exactItems a0 a1 a2) := by
  refine h.step ?_ hs
  dsimp only [State.exactItems]
  repeat' first
    | with_reducible first | assumption | exact Keeps.refl _ _
    | (with_reducible apply sub_intro); exact rfl
    | with_reducible apply State_rsub_keeps
    | with_reducible exact State.Canonical.queues (by assumption)
    | with_reducible exact State.Canonical.pagers (by assumption)
    | with_reducible exact State.Canonical.ports (by assumption)
    | with_reducible apply swf_sset
    | with_reducible apply swf_smap
    | with_reducible apply swf_sfilter
    | with_reducible apply swf_sdel
    | with_reducible exact swf_nil
    | with_reducible apply swf_foldl
    | with_reducible apply Keeps.foldl
    | intro _
    | with_reducible apply Keeps.ite
    | split
    | dsimp only
    | with_reducible apply Keeps.queues_pagers_ports

theorem State_exactCells_keeps {m : Nat} {s0 : State} {a0 : State} {a1 : Nat} {a2 : Nat} (h : Keeps m s0 a0) (hs : sub 0x107000010 m = true) : Keeps m s0 (State.exactCells a0 a1 a2) := by
  refine h.step ?_ hs
  dsimp only [State.exactCells]
  repeat' first
    | with_reducible first | assumption | exact Keeps.refl _ _
    | (with_reducible apply sub_intro); exact rfl
    | with_reducible apply State_chargeUnit_keeps
    | with_reducible apply State_radd_keeps
    | with_reducible apply State_setCopy_keeps
    | with_reducible apply State_exactItems_keeps
    | with_reducible apply Keeps.foldl
    | intro _
    | with_reducible apply Keeps.ite
    | split
    | dsimp only

theorem State_polRest_keeps {m : Nat} {s0 : State} {a0 : State} {a1 : Nat} {a2 : Nat} (h : Keeps m s0 a0) (hs : sub 0x200400100 m = true) : Keeps m s0 (State.polRest a0 a1 a2) := by
  refine h.step ?_ hs
  dsimp only [State.polRest]
  repeat' first
    | with_reducible first | assumption | exact Keeps.refl _ _
    | (with_reducible apply sub_intro); exact rfl
    | with_reducible apply State_setFr_keeps
    | with_reducible apply State_polStore_keeps
    | with_reducible apply Keeps.ite
    | split
    | dsimp only

theorem State_frameEnds_keeps {m : Nat} {s0 : State} {a0 : State} {a1 : Nat} (h : Keeps m s0 a0) (hs : sub 0x1a1bcf4c0118 m = true) : Keeps m s0 (State.frameEnds a0 a1) := by
  refine h.step ?_ hs
  dsimp only [State.frameEnds]
  repeat' first
    | with_reducible first | assumption | exact Keeps.refl _ _
    | (with_reducible apply sub_intro); exact rfl
    | with_reducible apply State_expGrow_keeps
    | with_reducible apply State_mirrorFill_keeps
    | with_reducible apply State_failFrame_keeps
    | with_reducible apply State_forwardHeld_keeps
    | with_reducible apply State_rxAdd_keeps
    | with_reducible apply State_countLength_keeps
    | with_reducible apply State_ruleAdd_keeps
    | with_reducible apply State_txArrived_keeps
    | with_reducible apply State_exactCells_keeps
    | with_reducible apply State_polRest_keeps
    | with_reducible apply State_reap_keeps
    | with_reducible apply State_expCells_keeps
    | with_reducible apply Keeps.ite
    | split
    | dsimp only

theorem State_rxGood_keeps {m : Nat} {s0 : State} {a0 : State} {a1 : Nat} {a2 : Nat} (h : Keeps m s0 a0) (hs : sub 0x180000480010 m = true) : Keeps m s0 (State.rxGood a0 a1 a2) := by
  refine h.step ?_ hs
  dsimp only [State.rxGood]
  repeat' first
    | with_reducible first | assumption | exact Keeps.refl _ _
    | (with_reducible apply sub_intro); exact rfl
    | with_reducible apply State_rxToken_keeps
    | with_reducible apply State_setFr_keeps
    | with_reducible apply Keeps.ite
    | split
    | dsimp only

theorem State_handOver_keeps {m : Nat} {s0 : State} {a0 : State} {a1 : Nat} {a2 : Nat} (h : Keeps m s0 a0) (hs : sub 0x181b00480010 m = true) : Keeps m s0 (State.handOver a0 a1 a2) := by
  refine h.step ?_ hs
  dsimp only [State.handOver]
  repeat' first
    | with_reducible first | assumption | exact Keeps.refl _ _
    | (with_reducible apply sub_intro); exact rfl
    | with_reducible apply State_issueSlot_keeps
    | with_reducible apply State_capture_keeps
    | with_reducible apply State_expressHit_keeps
    | with_reducible apply Keeps.ite
    | split
    | dsimp only

theorem execFrameReceive_keeps {m : Nat} {s0 : State} {a0 : Nat} {a1 : List Byte} {a2 : RxInfo} {a3 : State} (h : Keeps m s0 a3) (hs : sub 0x181b00c81690 m = true) : OutKeeps m s0 (execFrameReceive a0 a1 a2 a3) := by
  refine OutKeeps.step h ?_ hs
  dsimp only [execFrameReceive]
  repeat' first
    | with_reducible first | assumption | exact Keeps.refl _ _
    | (with_reducible apply sub_intro); exact rfl
    | with_reducible apply OutKeeps.next
    | with_reducible apply State_listenFrame_keeps
    | with_reducible apply State_txAdd_keeps
    | with_reducible apply State_rput_keeps
    | with_reducible apply State_rxAdd_keeps
    | with_reducible apply State_rxEndStats_keeps
    | with_reducible apply State_macControl_keeps
    | with_reducible apply State_handOver_keeps
    | with_reducible apply State_rxGood_keeps
    | with_reducible apply State_setPx_keeps
    | with_reducible apply State_setFr_keeps
    | with_reducible exact State.Canonical.frames (by assumption)
    | with_reducible apply srise_sins
    | with_reducible apply srise_sset
    | with_reducible apply srise_sdel
    | with_reducible apply swf_sset
    | with_reducible apply swf_smap
    | with_reducible apply swf_sfilter
    | with_reducible apply swf_sdel
    | with_reducible exact swf_nil
    | with_reducible apply swf_foldl
    | with_reducible apply Keeps.foldl
    | intro _
    | with_reducible apply OutKeeps.ite
    | with_reducible apply Keeps.ite
    | split
    | dsimp only
    | with_reducible apply Keeps.frames_nextFrame

theorem execFrameEnd_keeps {m : Nat} {s0 : State} {a0 : Nat} {a1 : List Byte} {a2 : RxInfo} {a3 : State} (h : Keeps m s0 a3) (hs : sub 0x1a1bcf4c0118 m = true) : OutKeeps m s0 (execFrameEnd a0 a1 a2 a3) := by
  refine OutKeeps.step h ?_ hs
  dsimp only [execFrameEnd]
  repeat' first
    | with_reducible first | assumption | exact Keeps.refl _ _
    | (with_reducible apply sub_intro); exact rfl
    | with_reducible apply OutKeeps.next
    | with_reducible apply State_rxAdd_keeps
    | with_reducible apply State_setFr_keeps
    | with_reducible apply State_setPx_keeps
    | with_reducible apply State_frameEnds_keeps
    | with_reducible apply State_expGrow_keeps
    | with_reducible apply State_rxEndStats_keeps
    | with_reducible apply State_reap_keeps
    | with_reducible apply State_macControl_keeps
    | with_reducible apply State_rxGood_keeps
    | with_reducible apply OutKeeps.ite
    | with_reducible apply Keeps.ite
    | split
    | dsimp only

end Sys2Proof.Laws
end

