-- ==== Sys2Proof/Laws/Keep/Ras.lean ====
section
/-! SUPPORT. What each definition of Machine/Ras may change, and that it keeps the canonical form. -/

namespace Sys2Proof.Laws

open Sys2Proof Sys2Proof.Machine

theorem State_rasCorr_keeps {m : Nat} {s0 : State} {a0 : State} {a1 : Nat} (h : Keeps m s0 a0) (hs : sub 0x10 m = true) : Keeps m s0 (State.rasCorr a0 a1) := by
  refine h.step ?_ hs
  dsimp only [State.rasCorr]
  repeat' first
    | with_reducible first | assumption | exact Keeps.refl _ _
    | (with_reducible apply sub_intro); exact rfl
    | with_reducible apply State_cinc_keeps
    | with_reducible apply Keeps.ite
    | split
    | dsimp only

theorem State_rasUncorr_keeps {m : Nat} {s0 : State} {a0 : State} {a1 : Nat} {a2 : Nat} {a3 : Nat} (h : Keeps m s0 a0) (hs : sub 0x10 m = true) : Keeps m s0 (State.rasUncorr a0 a1 a2 a3) := by
  refine h.step ?_ hs
  dsimp only [State.rasUncorr]
  repeat' first
    | with_reducible first | assumption | exact Keeps.refl _ _
    | (with_reducible apply sub_intro); exact rfl
    | with_reducible apply State_cinc_keeps
    | with_reducible apply State_rput_keeps
    | with_reducible apply Keeps.ite
    | split
    | dsimp only

theorem State_poisonEntry_keeps {m : Nat} {s0 : State} {a0 : State} {a1 : Nat} {a2 : Nat} {a3 : Nat} (h : Keeps m s0 a0) (hs : sub 0x2000000000 m = true) : Keeps m s0 (State.poisonEntry a0 a1 a2 a3) := by
  refine h.step ?_ hs
  dsimp only [State.poisonEntry]
  repeat' first
    | with_reducible first | assumption | exact Keeps.refl _ _
    | (with_reducible apply sub_intro); exact rfl
    | with_reducible apply Keeps.ite
    | split
    | dsimp only
    | with_reducible apply Keeps.poison

theorem State_closeEntry_keeps {m : Nat} {s0 : State} {a0 : State} {a1 : Nat} {a2 : Nat} (h : Keeps m s0 a0) (hs : sub 0x20000000 m = true) : Keeps m s0 (State.closeEntry a0 a1 a2) := by
  refine h.step ?_ hs
  dsimp only [State.closeEntry]
  repeat' first
    | with_reducible first | assumption | exact Keeps.refl _ _
    | (with_reducible apply sub_intro); exact rfl
    | with_reducible apply State_setGate_keeps
    | with_reducible apply Keeps.ite
    | split
    | dsimp only

theorem State_pipeError_keeps {m : Nat} {s0 : State} {a0 : State} {a1 : Nat} {a2 : Nat} (h : Keeps m s0 a0) (hs : sub 0x8000000 m = true) : Keeps m s0 (State.pipeError a0 a1 a2) := by
  refine h.step ?_ hs
  dsimp only [State.pipeError]
  repeat' first
    | with_reducible first | assumption | exact Keeps.refl _ _
    | (with_reducible apply sub_intro); exact rfl
    | with_reducible apply State_setObj_keeps
    | with_reducible apply Keeps.ite
    | split
    | dsimp only

theorem State_loseFrames_keeps {m : Nat} {s0 : State} {a0 : State} {a1 : Nat} (h : Keeps m s0 a0) (hs : sub 0xf000010 m = true) : Keeps m s0 (State.loseFrames a0 a1) := by
  refine h.step ?_ hs
  dsimp only [State.loseFrames]
  repeat' first
    | with_reducible first | assumption | exact Keeps.refl _ _
    | (with_reducible apply sub_intro); exact rfl
    | with_reducible apply State_setCopy_keeps
    | with_reducible apply State_setQ_keeps
    | with_reducible apply State_rsub_keeps
    | with_reducible apply State_setPager_keeps
    | with_reducible apply State_nodesIdle_keeps
    | with_reducible apply Keeps.foldl
    | intro _
    | with_reducible apply Keeps.ite
    | split
    | dsimp only

theorem State_loseContext_keeps {m : Nat} {s0 : State} {a0 : State} {a1 : Nat} {a2 : Nat} (h : Keeps m s0 a0) (hs : sub 0xf000010 m = true) : Keeps m s0 (State.loseContext a0 a1 a2) := by
  refine h.step ?_ hs
  dsimp only [State.loseContext]
  repeat' first
    | with_reducible first | assumption | exact Keeps.refl _ _
    | (with_reducible apply sub_intro); exact rfl
    | with_reducible apply State_ctxInit_keeps
    | with_reducible apply State_loseFrames_keeps
    | with_reducible apply Keeps.ite
    | split
    | dsimp only

theorem State_loseQueue_keeps {m : Nat} {s0 : State} {a0 : State} {a1 : Nat} (h : Keeps m s0 a0) (hs : sub 0x80f080690 m = true) : Keeps m s0 (State.loseQueue a0 a1) := by
  refine h.step ?_ hs
  dsimp only [State.loseQueue]
  repeat' first
    | with_reducible first | assumption | exact Keeps.refl _ _
    | (with_reducible apply sub_intro); exact rfl
    | with_reducible apply State_setQ_keeps
    | with_reducible apply State_dropPin_keeps
    | with_reducible apply State_loseFrames_keeps
    | with_reducible apply State_endWait_keeps
    | with_reducible apply Keeps.foldl
    | intro _
    | with_reducible apply Keeps.ite
    | split
    | dsimp only

theorem State_loseMbx_keeps {m : Nat} {s0 : State} {a0 : State} {a1 : Nat} {a2 : Bool} (h : Keeps m s0 a0) (hs : sub 0x10000000000 m = true) : Keeps m s0 (State.loseMbx a0 a1 a2) := by
  refine h.step ?_ hs
  dsimp only [State.loseMbx]
  repeat' first
    | with_reducible first | assumption | exact Keeps.refl _ _
    | (with_reducible apply sub_intro); exact rfl
    | with_reducible apply State_setSide_keeps
    | with_reducible apply Keeps.ite
    | split
    | dsimp only

theorem State_loseBinding_keeps {m : Nat} {s0 : State} {a0 : State} {a1 : Nat} (h : Keeps m s0 a0) (hs : sub 0x80010 m = true) : Keeps m s0 (State.loseBinding a0 a1) := by
  refine h.step ?_ hs
  dsimp only [State.loseBinding]
  repeat' first
    | with_reducible first | assumption | exact Keeps.refl _ _
    | (with_reducible apply sub_intro); exact rfl
    | with_reducible apply State_setCell_keeps
    | with_reducible apply State_raise_keeps
    | with_reducible apply Keeps.ite
    | split
    | dsimp only

theorem State_loseTriple_keeps {m : Nat} {s0 : State} {a0 : State} {a1 : Nat} {a2 : Nat} {a3 : Nat} (h : Keeps m s0 a0) (hs : sub 0x1080f080690 m = true) : Keeps m s0 (State.loseTriple a0 a1 a2 a3) := by
  refine h.step ?_ hs
  dsimp only [State.loseTriple]
  repeat' first
    | with_reducible first | assumption | exact Keeps.refl _ _
    | (with_reducible apply sub_intro); exact rfl
    | with_reducible apply State_raise_keeps
    | with_reducible apply State_loseQueue_keeps
    | with_reducible apply State_loseMbx_keeps
    | with_reducible apply State_loseBinding_keeps
    | with_reducible apply State_setCell_keeps
    | with_reducible apply State_rput_keeps
    | with_reducible apply Keeps.ite
    | split
    | dsimp only

theorem State_cellBad_keeps {m : Nat} {s0 : State} {a0 : State} {a1 : Nat} {a2 : Nat} {a3 : Nat} (h : Keeps m s0 a0) (hs : sub 0x101080010 m = true) : Keeps m s0 (State.cellBad a0 a1 a2 a3) := by
  refine h.step ?_ hs
  dsimp only [State.cellBad]
  repeat' first
    | with_reducible first | assumption | exact Keeps.refl _ _
    | (with_reducible apply sub_intro); exact rfl
    | with_reducible apply State_raise_keeps
    | with_reducible apply State_cinc_keeps
    | with_reducible apply State_setCopy_keeps
    | with_reducible exact State.Canonical.ports (by assumption)
    | with_reducible apply swf_sset
    | with_reducible apply swf_smap
    | with_reducible apply swf_sfilter
    | with_reducible apply swf_sdel
    | with_reducible exact swf_nil
    | with_reducible apply swf_foldl
    | with_reducible apply Keeps.foldl
    | intro _
    | with_reducible apply Keeps.ite
    | split
    | dsimp only
    | with_reducible apply Keeps.ports

theorem State_legBad_keeps {m : Nat} {s0 : State} {a0 : State} {a1 : Nat} {a2 : Bool} {a3 : Nat} {a4 : Bool} (h : Keeps m s0 a0) (hs : sub 0x800080010 m = true) : Keeps m s0 (State.legBad a0 a1 a2 a3 a4) := by
  refine h.step ?_ hs
  dsimp only [State.legBad]
  repeat' first
    | with_reducible first | assumption | exact Keeps.refl _ _
    | (with_reducible apply sub_intro); exact rfl
    | with_reducible apply State_raise_keeps
    | with_reducible apply State_cinc_keeps
    | with_reducible apply State_rput_keeps
    | with_reducible apply State_legApply_keeps
    | with_reducible apply Keeps.ite
    | split
    | dsimp only

theorem State_parseBad_keeps {m : Nat} {s0 : State} {a0 : State} {a1 : Nat} {a2 : Nat} {a3 : Bool} (h : Keeps m s0 a0) (hs : sub 0x400080010 m = true) : Keeps m s0 (State.parseBad a0 a1 a2 a3) := by
  refine h.step ?_ hs
  dsimp only [State.parseBad]
  repeat' first
    | with_reducible first | assumption | exact Keeps.refl _ _
    | (with_reducible apply sub_intro); exact rfl
    | with_reducible apply State_raise_keeps
    | with_reducible apply State_cinc_keeps
    | with_reducible apply State_setSv_keeps
    | with_reducible apply Keeps.ite
    | split
    | dsimp only

theorem State_plaitBad_keeps {m : Nat} {s0 : State} {a0 : State} {a1 : Nat} {a2 : Nat} (h : Keeps m s0 a0) (hs : sub 0x4000080010 m = true) : Keeps m s0 (State.plaitBad a0 a1 a2) := by
  refine h.step ?_ hs
  dsimp only [State.plaitBad]
  repeat' first
    | with_reducible first | assumption | exact Keeps.refl _ _
    | (with_reducible apply sub_intro); exact rfl
    | with_reducible apply State_plaitCnt_keeps
    | with_reducible apply State_plaitCause_keeps
    | with_reducible apply State_setPc_keeps
    | with_reducible apply State_rput_keeps
    | with_reducible apply Keeps.ite
    | split
    | dsimp only

theorem State_scrubCorr_keeps {m : Nat} {s0 : State} {a0 : State} {a1 : ScrubFind} (h : Keeps m s0 a0) (hs : sub 0x10 m = true) : Keeps m s0 (State.scrubCorr a0 a1) := by
  refine h.step ?_ hs
  dsimp only [State.scrubCorr]
  repeat' first
    | with_reducible first | assumption | exact Keeps.refl _ _
    | (with_reducible apply sub_intro); exact rfl
    | with_reducible apply State_cinc_keeps
    | with_reducible apply State_plaitCnt_keeps
    | with_reducible apply State_rasCorr_keeps
    | with_reducible apply Keeps.ite
    | split
    | dsimp only

theorem State_scrubUncorr_keeps {m : Nat} {s0 : State} {a0 : State} {a1 : ScrubFind} {a2 : Bool} (h : Keeps m s0 a0) (hs : sub 0x16d2f080690 m = true) : Keeps m s0 (State.scrubUncorr a0 a1 a2) := by
  refine h.step ?_ hs
  dsimp only [State.scrubUncorr]
  repeat' first
    | with_reducible first | assumption | exact Keeps.refl _ _
    | (with_reducible apply sub_intro); exact rfl
    | with_reducible apply State_rasUncorr_keeps
    | with_reducible apply State_raise_keeps
    | with_reducible apply State_poisonEntry_keeps
    | with_reducible apply State_closeEntry_keeps
    | with_reducible apply State_setObj_keeps
    | with_reducible apply State_pipeError_keeps
    | with_reducible apply State_cinc_keeps
    | with_reducible apply State_loseContext_keeps
    | with_reducible apply State_loseTriple_keeps
    | with_reducible apply State_cellBad_keeps
    | with_reducible apply State_legBad_keeps
    | with_reducible apply State_parseBad_keeps
    | with_reducible apply State_plaitBad_keeps
    | with_reducible apply State_lp4xEcc_keeps
    | with_reducible apply Keeps.ite
    | split
    | dsimp only

theorem execScrubRead_keeps {m : Nat} {s0 : State} {a0 : ScrubFind} {a1 : State} (h : Keeps m s0 a1) (hs : sub 0x16d2f080698 m = true) : OutKeeps m s0 (execScrubRead a0 a1) := by
  refine OutKeeps.step h ?_ hs
  dsimp only [execScrubRead]
  repeat' first
    | with_reducible first | assumption | exact Keeps.refl _ _
    | (with_reducible apply sub_intro); exact rfl
    | with_reducible apply OutKeeps.next
    | with_reducible apply State_lp4xUse_keeps
    | with_reducible apply State_scrubCorr_keeps
    | with_reducible apply State_scrubUncorr_keeps
    | with_reducible apply State_cinc_keeps
    | with_reducible apply OutKeeps.ite
    | with_reducible apply Keeps.ite
    | split
    | dsimp only

theorem execCreelAudit_keeps {m : Nat} {s0 : State} {a0 : Nat} {a1 : State} (h : Keeps m s0 a1) (hs : sub 0x1818c5480010 m = true) : OutKeeps m s0 (execCreelAudit a0 a1) := by
  refine OutKeeps.step h ?_ hs
  dsimp only [execCreelAudit]
  repeat' first
    | with_reducible first | assumption | exact Keeps.refl _ _
    | (with_reducible apply sub_intro); exact rfl
    | with_reducible apply OutKeeps.next
    | with_reducible apply State_release_keeps
    | with_reducible apply State_setPager_keeps
    | with_reducible apply Keeps.foldl
    | intro _
    | with_reducible apply OutKeeps.ite
    | with_reducible apply Keeps.ite
    | split
    | dsimp only

end Sys2Proof.Laws
end

