-- ==== Sys2Proof/Laws/Keep/Sched.lean ====
section
/-! SUPPORT. What each definition of Machine/Sched may change, and that it keeps the canonical form. -/

namespace Sys2Proof.Laws

open Sys2Proof Sys2Proof.Machine

theorem State_dwrr_keeps {m : Nat} {s0 : State} {a0 : State} {a1 : Nat} {a2 : Nat} {a3 : List Nat} (h : Keeps m s0 a0) (hs : sub 0x8000000 m = true) : Keeps m s0 (State.dwrr a0 a1 a2 a3).1 := by
  refine h.step ?_ hs
  dsimp only [State.dwrr]
  repeat' first
    | with_reducible first | assumption | exact Keeps.refl _ _
    | (with_reducible apply sub_intro); exact rfl
    | with_reducible apply State_setObj_keeps
    | with_reducible apply Keeps.foldl
    | with_reducible apply Keeps.foldlFst
    | intro _
    | with_reducible apply Keeps.ite
    | with_reducible apply Keeps.iteFst
    | split
    | dsimp only

theorem State_pick_keeps {m : Nat} {s0 : State} {a0 : State} {a1 : Nat} {a2 : List Nat} (h : Keeps m s0 a0) (hs : sub 0x8000000 m = true) : Keeps m s0 (State.pick a0 a1 a2).1 := by
  refine h.step ?_ hs
  dsimp only [State.pick]
  repeat' first
    | with_reducible first | assumption | exact Keeps.refl _ _
    | (with_reducible apply sub_intro); exact rfl
    | with_reducible apply State_dwrr_keeps
    | with_reducible refine Keeps.fstEq (by assumption) ?_
    | with_reducible apply Keeps.ite
    | with_reducible apply Keeps.iteFst
    | split
    | dsimp only

theorem State_choosePath_keeps {m : Nat} {s0 : State} {a0 : State} {a1 : Nat} {a2 : Nat} (h : Keeps m s0 a0) (hs : sub 0x8000000 m = true) : Keeps m s0 (State.choosePath a0 a1 a2).1 := by
  refine h.step ?_ hs
  dsimp only [State.choosePath]
  repeat' first
    | with_reducible first | assumption | exact Keeps.refl _ _
    | (with_reducible apply sub_intro); exact rfl
    | with_reducible apply State_pick_keeps
    | with_reducible refine Keeps.fstEq (by assumption) ?_
    | with_reducible apply Keeps.ite
    | with_reducible apply Keeps.iteFst
    | split
    | dsimp only

theorem State_chargeStep_keeps {m : Nat} {s0 : State} {a0 : State} {a1 : Nat} {a2 : Nat × Nat × Bool} (h : Keeps m s0 a0) (hs : sub 0x18000000 m = true) : Keeps m s0 (State.chargeStep a0 a1 a2) := by
  refine h.step ?_ hs
  dsimp only [State.chargeStep]
  repeat' first
    | with_reducible first | assumption | exact Keeps.refl _ _
    | (with_reducible apply sub_intro); exact rfl
    | with_reducible apply State_setObj_keeps
    | with_reducible exact State.Canonical.rounds (by assumption)
    | with_reducible apply swf_sset
    | with_reducible apply swf_smap
    | with_reducible apply swf_sfilter
    | with_reducible apply swf_sdel
    | with_reducible exact swf_nil
    | with_reducible apply swf_foldl
    | with_reducible apply Keeps.foldl
    | intro _
    | with_reducible apply Keeps.ite
    | split
    | dsimp only
    | with_reducible apply Keeps.rounds

theorem State_chargePath_keeps {m : Nat} {s0 : State} {a0 : State} {a1 : Nat} {a2 : Nat} {a3 : List (Nat × Nat × Bool)} (h : Keeps m s0 a0) (hs : sub 0x18000000 m = true) : Keeps m s0 (State.chargePath a0 a1 a2 a3) := by
  refine h.step ?_ hs
  dsimp only [State.chargePath]
  repeat' first
    | with_reducible first | assumption | exact Keeps.refl _ _
    | (with_reducible apply sub_intro); exact rfl
    | with_reducible apply State_chargeStep_keeps
    | with_reducible apply State_setObj_keeps
    | with_reducible apply Keeps.foldl
    | intro _
    | with_reducible apply Keeps.ite
    | split
    | dsimp only

theorem State_takeHead_keeps {m : Nat} {s0 : State} {a0 : State} {a1 : Nat} (h : Keeps m s0 a0) (hs : sub 0xa000000 m = true) : Keeps m s0 (State.takeHead a0 a1) := by
  refine h.step ?_ hs
  dsimp only [State.takeHead]
  repeat' first
    | with_reducible first | assumption | exact Keeps.refl _ _
    | (with_reducible apply sub_intro); exact rfl
    | with_reducible apply State_noteEmpty_keeps
    | with_reducible apply State_setQ_keeps
    | with_reducible apply Keeps.ite
    | split
    | dsimp only

theorem State_selectAt_keeps {m : Nat} {s0 : State} {a0 : State} {a1 : Nat} {a2 : Nat} {t : State} (e : State.selectAt a0 a1 a2 = some t) (h : Keeps m s0 a0) (hs : sub 0x1819db480010 m = true) : Keeps m s0 t := by
  refine h.step ?_ hs
  revert e
  dsimp only [State.selectAt]
  repeat' first
    | with_reducible first | assumption | exact Keeps.refl _ _
    | (with_reducible apply sub_intro); exact rfl
    | (intro e; cases e)
    | with_reducible apply State_choosePath_keeps
    | with_reducible apply State_schedCause_keeps
    | with_reducible apply State_cinc_keeps
    | with_reducible apply State_release_keeps
    | with_reducible apply State_takeHead_keeps
    | with_reducible apply State_chargePath_keeps
    | with_reducible apply State_setPx_keeps
    | with_reducible refine Keeps.fstEq (by assumption) ?_
    | with_reducible apply Keeps.ite
    | with_reducible apply Keeps.iteFst
    | split
    | dsimp only

theorem State_selectPort_keeps {m : Nat} {s0 : State} {a0 : State} {a1 : Nat} {t : State} (e : State.selectPort a0 a1 = some t)
    (h : Keeps m s0 a0) (hs : sub 0x1819db480010 m = true) : Keeps m s0 t := by
  dsimp only [State.selectPort] at e
  repeat' split at e
  all_goals first
    | cases e
    | (obtain ⟨c, -, hc⟩ := List.exists_of_findSome?_eq_some e
       split at hc
       · cases hc
       · exact State_selectAt_keeps hc h hs)

theorem execSchedSelect_keeps {m : Nat} {s0 : State} {a0 : Nat} {a1 : State} (h : Keeps m s0 a1) (hs : sub 0x1819db480010 m = true) :
    OutKeeps m s0 (execSchedSelect a0 a1) := by
  refine OutKeeps.next ?_
  split
  · exact h
  · dsimp only
    split
    · next t p e =>
      obtain ⟨q, -, hq⟩ := List.exists_of_findSome?_eq_some e
      obtain ⟨u, hu, e'⟩ := Option.map_eq_some_iff.mp hq
      cases e'
      exact State_setPipe_keeps (State_selectPort_keeps hu h (sub_trans (sub_intro rfl) hs)) (sub_trans (sub_intro rfl) hs)
    · exact h

theorem execGraticuleVisit_keeps {m : Nat} {s0 : State} {a0 : Nat} {a1 : State} (h : Keeps m s0 a1) (hs : sub 0x8080010 m = true) : OutKeeps m s0 (execGraticuleVisit a0 a1) := by
  refine OutKeeps.step h ?_ hs
  dsimp only [execGraticuleVisit]
  repeat' first
    | with_reducible first | assumption | exact Keeps.refl _ _
    | (with_reducible apply sub_intro); exact rfl
    | with_reducible apply OutKeeps.next
    | with_reducible apply State_setObj_keeps
    | with_reducible apply State_schedCause_keeps
    | with_reducible apply State_cinc_keeps
    | with_reducible apply OutKeeps.ite
    | with_reducible apply Keeps.ite
    | split
    | dsimp only

theorem execDeadlineSlot_keeps {m : Nat} {s0 : State} {a0 : Nat} {a1 : Nat} {a2 : State} (h : Keeps m s0 a2) (hs : sub 0x1819c1480010 m = true) : OutKeeps m s0 (execDeadlineSlot a0 a1 a2) := by
  refine OutKeeps.step h ?_ hs
  dsimp only [execDeadlineSlot]
  repeat' first
    | with_reducible first | assumption | exact Keeps.refl _ _
    | (with_reducible apply sub_intro); exact rfl
    | with_reducible apply OutKeeps.next
    | with_reducible apply State_release_keeps
    | with_reducible apply State_setPx_keeps
    | with_reducible apply State_schedCause_keeps
    | with_reducible apply State_cinc_keeps
    | with_reducible apply OutKeeps.ite
    | with_reducible apply Keeps.ite
    | split
    | dsimp only

theorem execRecircReentry_keeps {m : Nat} {s0 : State} {a0 : Nat} {a1 : State} (h : Keeps m s0 a1) (hs : sub 0x1818c3c80010 m = true) : OutKeeps m s0 (execRecircReentry a0 a1) := by
  refine OutKeeps.step h ?_ hs
  dsimp only [execRecircReentry]
  repeat' first
    | with_reducible first | assumption | exact Keeps.refl _ _
    | (with_reducible apply sub_intro); exact rfl
    | with_reducible apply OutKeeps.next
    | with_reducible apply State_setQ_keeps
    | with_reducible apply State_cinc_keeps
    | with_reducible apply State_release_keeps
    | with_reducible apply State_cadd_keeps
    | with_reducible apply State_setFr_keeps
    | with_reducible apply State_capture_keeps
    | with_reducible apply State_issueSlot_keeps
    | with_reducible exact State.Canonical.frames (by assumption)
    | with_reducible apply srise_sins
    | with_reducible apply srise_sset
    | with_reducible apply srise_sdel
    | with_reducible apply swf_sset
    | with_reducible apply swf_smap
    | with_reducible apply swf_sfilter
    | with_reducible apply swf_sdel
    | with_reducible exact swf_nil
    | with_reducible apply swf_foldl
    | with_reducible apply Keeps.foldl
    | intro _
    | with_reducible apply OutKeeps.ite
    | with_reducible apply Keeps.ite
    | split
    | dsimp only
    | with_reducible apply Keeps.frames_nextFrame

end Sys2Proof.Laws
end

