-- ==== Sys2Proof/Laws/Keep/Slath.lean ====
section
/-! SUPPORT. What each definition of Machine/Slath may change, and that it keeps the canonical form. -/

namespace Sys2Proof.Laws

open Sys2Proof Sys2Proof.Machine

theorem State_takeCell_keeps {m : Nat} {s0 : State} {a0 : State} {a1 : Nat} {a2 : Nat} {a3 : Nat} {a4 : Bool} (h : Keeps m s0 a0) (hs : sub 0x189103480010 m = true) : Keeps m s0 (State.takeCell a0 a1 a2 a3 a4) := by
  refine h.step ?_ hs
  dsimp only [State.takeCell]
  repeat' first
    | with_reducible first | assumption | exact Keeps.refl _ _
    | (with_reducible apply sub_intro); exact rfl
    | with_reducible apply State_cinc_keeps
    | with_reducible apply State_raise_keeps
    | with_reducible apply State_rput_keeps
    | with_reducible apply State_firstCell_keeps
    | with_reducible apply State_setCopy_keeps
    | with_reducible apply State_setFate_keeps
    | with_reducible exact State.Canonical.plaitIn (by assumption)
    | with_reducible exact State.Canonical.ports (by assumption)
    | with_reducible apply swf_sset
    | with_reducible apply swf_smap
    | with_reducible apply swf_sfilter
    | with_reducible apply swf_sdel
    | with_reducible exact swf_nil
    | with_reducible apply swf_foldl
    | with_reducible apply Keeps.foldl
    | intro _
    | with_reducible apply Keeps.ite
    | split
    | dsimp only
    | with_reducible apply Keeps.plaitIn
    | with_reducible apply Keeps.ports

theorem State_ucSent_keeps {m : Nat} {s0 : State} {a0 : State} {a1 : Nat} {a2 : Nat} (h : Keeps m s0 a0) (hs : sub 0x40000000 m = true) : Keeps m s0 (State.ucSent a0 a1 a2) := by
  refine h.step ?_ hs
  dsimp only [State.ucSent]
  repeat' first
    | with_reducible first | assumption | exact Keeps.refl _ _
    | (with_reducible apply sub_intro); exact rfl
    | with_reducible apply State_setSin_keeps
    | with_reducible apply Keeps.ite
    | split
    | dsimp only

theorem State_mcSent_keeps {m : Nat} {s0 : State} {a0 : State} {a1 : Nat} {a2 : List Nat} (h : Keeps m s0 a0) (hs : sub 0x40000010 m = true) : Keeps m s0 (State.mcSent a0 a1 a2) := by
  refine h.step ?_ hs
  dsimp only [State.mcSent]
  repeat' first
    | with_reducible first | assumption | exact Keeps.refl _ _
    | (with_reducible apply sub_intro); exact rfl
    | with_reducible apply State_cinc_keeps
    | with_reducible apply State_setSin_keeps
    | with_reducible apply Keeps.ite
    | split
    | dsimp only

theorem State_slathPrune_keeps {m : Nat} {s0 : State} {a0 : State} (h : Keeps m s0 a0) (hs : sub 0x40000000 m = true) : Keeps m s0 (State.slathPrune a0) := by
  refine h.step ?_ hs
  dsimp only [State.slathPrune]
  repeat' first
    | with_reducible first | assumption | exact Keeps.refl _ _
    | (with_reducible apply sub_intro); exact rfl
    | with_reducible apply Keeps.ite
    | split
    | dsimp only
    | with_reducible apply Keeps.slath

theorem State_localCell_keeps {m : Nat} {s0 : State} {a0 : State} {a1 : Nat} (h : Keeps m s0 a0) (hs : sub 0x43000010 m = true) : Keeps m s0 (State.localCell a0 a1) := by
  refine h.step ?_ hs
  dsimp only [State.localCell]
  repeat' first
    | with_reducible first | assumption | exact Keeps.refl _ _
    | (with_reducible apply sub_intro); exact rfl
    | with_reducible apply State_cinc_keeps
    | with_reducible apply State_firstCell_keeps
    | with_reducible apply State_setCopy_keeps
    | with_reducible apply Keeps.ite
    | split
    | dsimp only
    | with_reducible apply Keeps.slath

theorem State_matrixTime_keeps {m : Nat} {s0 : State} {a0 : State} {a1 : List (Nat × Nat)} (h : Keeps m s0 a0) (hs : sub 0x189143480010 m = true) : Keeps m s0 (State.matrixTime a0 a1) := by
  refine h.step ?_ hs
  dsimp only [State.matrixTime]
  repeat' first
    | with_reducible first | assumption | exact Keeps.refl _ _
    | (with_reducible apply sub_intro); exact rfl
    | with_reducible apply State_setSin_keeps
    | with_reducible apply State_takeCell_keeps
    | with_reducible apply State_mcSent_keeps
    | with_reducible apply State_ucSent_keeps
    | with_reducible apply Keeps.foldl
    | intro _
    | with_reducible apply Keeps.ite
    | split
    | dsimp only
    | with_reducible apply Keeps.slath

theorem execSlathCellTime_keeps {m : Nat} {s0 : State} {a0 : List (Nat × Nat)} {a1 : State} (h : Keeps m s0 a1) (hs : sub 0x189143480010 m = true) : OutKeeps m s0 (execSlathCellTime a0 a1) := by
  refine OutKeeps.step h ?_ hs
  dsimp only [execSlathCellTime]
  repeat' first
    | with_reducible first | assumption | exact Keeps.refl _ _
    | (with_reducible apply sub_intro); exact rfl
    | with_reducible apply OutKeeps.next
    | with_reducible apply State_slathPrune_keeps
    | with_reducible apply State_cadd_keeps
    | with_reducible apply State_matrixTime_keeps
    | with_reducible apply State_localCell_keeps
    | with_reducible apply State_pauseRequest_keeps
    | with_reducible apply Keeps.foldl
    | intro _
    | with_reducible apply OutKeeps.ite
    | with_reducible apply Keeps.ite
    | split
    | dsimp only

theorem execCreelCacheMaint_keeps {m : Nat} {s0 : State} {a0 : Nat} {a1 : Option Nat} {a2 : State} (h : Keeps m s0 a2) (hs : sub 0x80080018 m = true) : OutKeeps m s0 (execCreelCacheMaint a0 a1 a2) := by
  refine OutKeeps.step h ?_ hs
  dsimp only [execCreelCacheMaint]
  repeat' first
    | with_reducible first | assumption | exact Keeps.refl _ _
    | (with_reducible apply sub_intro); exact rfl
    | with_reducible apply OutKeeps.next
    | with_reducible apply State_lp4xUse_keeps
    | with_reducible apply State_cinc_keeps
    | with_reducible apply State_rput_keeps
    | with_reducible apply State_rsub_keeps
    | with_reducible apply State_lp4xEcc_keeps
    | with_reducible apply State_raiseIf_keeps
    | with_reducible apply State_setCrl_keeps
    | with_reducible apply State_radd_keeps
    | with_reducible apply OutKeeps.ite
    | with_reducible apply Keeps.ite
    | split
    | dsimp only

theorem execSpillInitDone_keeps {m : Nat} {s0 : State} {a0 : Nat} {a1 : State} (h : Keeps m s0 a1) (hs : sub 0x18 m = true) : OutKeeps m s0 (execSpillInitDone a0 a1) := by
  refine OutKeeps.step h ?_ hs
  dsimp only [execSpillInitDone]
  repeat' first
    | with_reducible first | assumption | exact Keeps.refl _ _
    | (with_reducible apply sub_intro); exact rfl
    | with_reducible apply OutKeeps.next
    | with_reducible apply State_lp4xUse_keeps
    | with_reducible apply State_rput_keeps
    | with_reducible apply OutKeeps.ite
    | with_reducible apply Keeps.ite
    | split
    | dsimp only

theorem execSpillCopyDone_keeps {m : Nat} {s0 : State} {a0 : Nat} {a1 : Nat} {a2 : State} (h : Keeps m s0 a2) (hs : sub 0x1818cb480018 m = true) : OutKeeps m s0 (execSpillCopyDone a0 a1 a2) := by
  refine OutKeeps.step h ?_ hs
  dsimp only [execSpillCopyDone]
  repeat' first
    | with_reducible first | assumption | exact Keeps.refl _ _
    | (with_reducible apply sub_intro); exact rfl
    | with_reducible apply OutKeeps.next
    | with_reducible apply State_noteEmpty_keeps
    | with_reducible apply State_cinc_keeps
    | with_reducible apply State_dropItem_keeps
    | with_reducible apply State_setQ_keeps
    | with_reducible refine State_spillTake_keeps (by assumption) ?_ ?_
    | with_reducible apply State_chargeUnit_keeps
    | with_reducible apply State_radd_keeps
    | with_reducible apply State_firstCell_keeps
    | with_reducible apply State_setCopy_keeps
    | with_reducible apply State_useFree_keeps
    | with_reducible apply State_lp4xUse_keeps
    | with_reducible apply State_cadd_keeps
    | with_reducible apply OutKeeps.ite
    | with_reducible apply Keeps.ite
    | split
    | dsimp only

theorem State_dropSpilled_keeps {m : Nat} {s0 : State} {a0 : State} {a1 : Nat} {a2 : Nat} (h : Keeps m s0 a0) (hs : sub 0x1818cb480010 m = true) : Keeps m s0 (State.dropSpilled a0 a1 a2) := by
  refine h.step ?_ hs
  dsimp only [State.dropSpilled]
  repeat' first
    | with_reducible first | assumption | exact Keeps.refl _ _
    | (with_reducible apply sub_intro); exact rfl
    | with_reducible apply State_setQ_keeps
    | with_reducible apply State_release_keeps
    | with_reducible apply State_firstCell_keeps
    | with_reducible apply State_setCopy_keeps
    | with_reducible apply State_noteEmpty_keeps
    | with_reducible apply State_cadd_keeps
    | with_reducible apply Keeps.foldl
    | intro _
    | with_reducible apply Keeps.ite
    | split
    | dsimp only

theorem execReadBackDone_keeps {m : Nat} {s0 : State} {a0 : Nat} {a1 : Nat} {a2 : Option Nat} {a3 : State} (h : Keeps m s0 a3) (hs : sub 0x1818cb480018 m = true) : OutKeeps m s0 (execReadBackDone a0 a1 a2 a3) := by
  refine OutKeeps.step h ?_ hs
  dsimp only [execReadBackDone]
  repeat' first
    | with_reducible first | assumption | exact Keeps.refl _ _
    | (with_reducible apply sub_intro); exact rfl
    | with_reducible apply OutKeeps.next
    | with_reducible apply State_dropSpilled_keeps
    | with_reducible apply State_lp4xEcc_keeps
    | with_reducible apply State_lp4xUse_keeps
    | with_reducible apply State_spillGive_keeps
    | with_reducible apply State_unchargeItem_keeps
    | with_reducible apply State_firstCell_keeps
    | with_reducible apply State_setCopy_keeps
    | with_reducible apply State_useFree_keeps
    | with_reducible apply State_setQ_keeps
    | with_reducible apply State_cadd_keeps
    | with_reducible apply State_cinc_keeps
    | with_reducible apply OutKeeps.ite
    | with_reducible apply Keeps.ite
    | split
    | dsimp only

theorem execLoanReturn_keeps {m : Nat} {s0 : State} {a0 : Master} {a1 : Word} {a2 : State} (h : Keeps m s0 a2) (hs : sub 0x1818c1481070 m = true) : OutKeeps m s0 (execLoanReturn a0 a1 a2) := by
  refine OutKeeps.step h ?_ hs
  dsimp only [execLoanReturn]
  repeat' first
    | with_reducible first | assumption | exact Keeps.refl _ _
    | (with_reducible apply sub_intro); exact rfl
    | with_reducible apply OutKeeps.next
    | with_reducible apply State_guardWrite_keeps
    | with_reducible apply State_loanReturn_keeps
    | with_reducible apply Keeps.foldl
    | intro _
    | with_reducible apply OutKeeps.ite
    | with_reducible apply Keeps.ite
    | split
    | dsimp only

theorem execLoanReclaim_keeps {m : Nat} {s0 : State} {a0 : Master} {a1 : Word} {a2 : State} (h : Keeps m s0 a2) (hs : sub 0x1818c1481070 m = true) : OutKeeps m s0 (execLoanReclaim a0 a1 a2) := by
  refine OutKeeps.step h ?_ hs
  dsimp only [execLoanReclaim]
  repeat' first
    | with_reducible first | assumption | exact Keeps.refl _ _
    | (with_reducible apply sub_intro); exact rfl
    | with_reducible apply OutKeeps.next
    | with_reducible apply State_guardWrite_keeps
    | with_reducible apply State_loanReclaim_keeps
    | with_reducible apply Keeps.foldl
    | intro _
    | with_reducible apply OutKeeps.ite
    | with_reducible apply Keeps.ite
    | split
    | dsimp only

end Sys2Proof.Laws
end

