-- ==== Sys2Proof/Laws/Keep/Tick.lean ====
section
/-! SUPPORT. What each definition of Machine/Tick may change, and that it keeps the canonical form. -/

namespace Sys2Proof.Laws

open Sys2Proof Sys2Proof.Machine

theorem State_pipeCycle_keeps {m : Nat} {s0 : State} {a0 : State} {a1 : Nat} (h : Keeps m s0 a0) (hs : sub 0x1000000010 m = true) : Keeps m s0 (State.pipeCycle a0 a1) := by
  refine h.step ?_ hs
  dsimp only [State.pipeCycle]
  repeat' first
    | with_reducible first | assumption | exact Keeps.refl _ _
    | (with_reducible apply sub_intro); exact rfl
    | with_reducible apply State_cinc_keeps
    | with_reducible apply State_setPipe_keeps
    | with_reducible apply Keeps.ite
    | split
    | dsimp only

theorem State_threadCycle_keeps {m : Nat} {s0 : State} {a0 : State} {a1 : Nat} (h : Keeps m s0 a0) (hs : sub 0x10 m = true) : Keeps m s0 (State.threadCycle a0 a1) := by
  refine h.step ?_ hs
  dsimp only [State.threadCycle]
  repeat' first
    | with_reducible first | assumption | exact Keeps.refl _ _
    | (with_reducible apply sub_intro); exact rfl
    | with_reducible apply State_cinc_keeps
    | with_reducible apply Keeps.ite
    | split
    | dsimp only

theorem State_pagerCycle_keeps {m : Nat} {s0 : State} {a0 : State} {a1 : Nat} (h : Keeps m s0 a0) (hs : sub 0x10 m = true) : Keeps m s0 (State.pagerCycle a0 a1) := by
  refine h.step ?_ hs
  dsimp only [State.pagerCycle]
  repeat' first
    | with_reducible first | assumption | exact Keeps.refl _ _
    | (with_reducible apply sub_intro); exact rfl
    | with_reducible apply State_cinc_keeps
    | with_reducible apply Keeps.ite
    | split
    | dsimp only

theorem State_tick_keeps {m : Nat} {s0 : State} {a0 : State} (h : Keeps m s0 a0) (hs : sub 0x1000040012 m = true) : Keeps m s0 (State.tick a0) := by
  refine h.step ?_ hs
  dsimp only [State.tick]
  repeat' first
    | with_reducible first | assumption | exact Keeps.refl _ _
    | (with_reducible apply sub_intro); exact rfl
    | with_reducible apply State_meridTick_keeps
    | with_reducible apply State_pipeCycle_keeps
    | with_reducible apply State_threadCycle_keeps
    | with_reducible apply State_pagerCycle_keeps
    | with_reducible apply Keeps.foldl
    | intro _
    | with_reducible apply Keeps.ite
    | split
    | dsimp only
    | with_reducible apply Keeps.now

end Sys2Proof.Laws
end

