-- ==== Sys2Proof/Laws/Programs.lean ====
section
/-! SUPPORT. The end of a program (R36, R46, R56), said once: `endProg_ended`. -/

namespace Sys2Proof.Machine

open Sys2Proof Sys2Proof.Laws

/-- A register outside the blocks that a settled, raised thread end touches. -/
def quiet (k : Nat) : Prop := keyBlk k ∉ [3, 15] ∧ k ∉ lostVecKeys

/-- Two states that agree on quiet registers. -/
def Quiet (s t : State) : Prop := ∀ k, quiet k → t.cell k = s.cell k

theorem Quiet.trans {s t u : State} (h : Quiet s t) (g : Quiet t u) : Quiet s u := fun k hk => (g k hk).trans (h k hk)

theorem raise_quiet {s : State} (h : swf regReset s.regs = true) {src : Nat} (hs : src < 1152) : Quiet s (s.raise src) := by
  intro k hk
  simp only [quiet, List.mem_cons, List.not_mem_nil, or_false, not_or] at hk
  exact raise_cell h hs hk.1.1 hk.2

theorem pput15_quiet {s : State} (h : swf regReset s.regs = true) (r : Row) (v i : Nat) (ix : List Nat) (hb : r.blk = 15)
    (hi : i * 2 ^ 16 + (rowAdr r ix + 4) < 2 ^ 33) : Quiet s (s.pput r v i ix) := by
  intro k hk
  simp only [quiet, List.mem_cons, List.not_mem_nil, or_false, not_or] at hk
  refine pput_cell h _ _ _ _ ?_ ?_ <;> refine ne_of_keyBlk ?_
  · rw [rowKey, hb, keyBlk_regKey (by omega)]; exact hk.1.2
  · have : rowKey r i ix + 4 = regKey r.blk i (rowAdr r ix + 4) := by simp only [rowKey, regKey]; omega
    rw [this, hb, keyBlk_regKey hi]; exact hk.1.2

theorem settleThread_quiet {s : State} (h : swf regReset s.regs = true) {t : Nat} (ht : t < 8) (ok : Bool) :
    Quiet s (s.settleThread t ok) := by
  have a : ∀ j, j ≤ 5 → 0 * 2 ^ 16 + (rowAdr Reg.TALLY_THREAD_WORD [t, j] + 4) < 2 ^ 33 := by
    intro j hj; simp [rowAdr, Reg.TALLY_THREAD_WORD]; omega
  simp only [State.settleThread, State.cadd]
  exact fun k hk => (pput15_quiet (pput_swf h _ _ _ _) _ _ _ _ rfl (a 5 (by decide)) k hk).trans
    (pput15_quiet h _ _ _ _ rfl (a (if ok then 1 else 2) (by split <;> decide)) k hk)

/-- A field of a quiet register reads as before. -/
theorem Quiet.rget {s t : State} (h : Quiet s t) (r : Row) (i : Nat) (ix : List Nat) (hk : quiet (rowKey r i ix)) :
    t.rget r i ix = s.rget r i ix := by simp only [State.rget]; rw [← rowKey, h _ hk]

theorem quiet_of {b i o : Nat} (h : i * 2 ^ 16 + o < 2 ^ 33) (hb : b ≠ 3 ∧ b ≠ 15 ∧ b ≠ 5) : quiet (regKey b i o) := by
  have e : ∀ n, b ≠ n → ∀ j p, j * 2 ^ 16 + p < 2 ^ 33 → regKey b i o ≠ regKey n j p := fun n hn j p hp =>
    ne_of_keyBlk (by rw [keyBlk_regKey h, keyBlk_regKey hp]; exact hn)
  refine ⟨?_, ?_⟩
  · rw [keyBlk_regKey h]; simp [hb]
  · simp only [lostVecKeys, List.mem_cons, List.not_mem_nil, or_false, not_or]
    refine ⟨e 5 hb.2.2 _ _ (by decide), ?_⟩
    have : rowKey Reg.HOST_CNT 0 [2] + 4 = regKey 5 0 (rowAdr Reg.HOST_CNT [2] + 4) := by decide
    rw [this]; exact e 5 hb.2.2 _ _ (by decide)

/-! ### Bytes of a record -/

theorem mread_congr {s t : State} {k n : Nat} (h : ∀ q, k ≤ q → q < k + n → t.mget q = s.mget q) : t.mread k n = s.mread k n := by
  induction n generalizing k with
  | zero => rfl
  | succ n ih =>
    simp only [State.mread]
    rw [h k (Nat.le_refl _) (by omega), ih (fun q h1 h2 => h q (by omega) (by omega))]

theorem mread_add (s : State) (k a b : Nat) : s.mread k (a + b) = s.mread k a ++ s.mread (k + a) b := by
  induction a generalizing k with
  | zero => simp [State.mread]
  | succ n ih =>
    rw [show n + 1 + b = (n + b) + 1 by omega]
    simp only [State.mread, ih, List.cons_append]
    rw [show k + (n + 1) = k + 1 + n by omega]

theorem leBytes_length (n x : Nat) : (leBytes n x).length = n := by
  induction n generalizing x with
  | zero => rfl
  | succ n ih => simp [leBytes, ih]

theorem mset64_wf {s : State} (h : Memory.wf s.mem = true) (k v : Nat) : Memory.wf (s.mset64 k v).mem = true := mwrite_wf h _ _

theorem mget_mset64_ne {s : State} (h : Memory.wf s.mem = true) {k v q : Nat} (hq : q < k ∨ k + 8 ≤ q) :
    (s.mset64 k v).mget q = s.mget q := mget_mwrite_ne h _ _ (by rw [leBytes_length]; exact hq)

theorem mread_mset64_same {s : State} (h : Memory.wf s.mem = true) (k v : Nat) : (s.mset64 k v).mread k 8 = leBytes 8 v := by
  have := mread_mwrite_same h k (leBytes 8 v)
  rw [leBytes_length] at this; exact this

theorem mread_mset64_ne {s : State} (h : Memory.wf s.mem = true) {k v q n : Nat} (hq : q + n ≤ k ∨ k + 8 ≤ q) :
    (s.mset64 k v).mread q n = s.mread q n := mread_congr (fun i h1 h2 => mget_mset64_ne h (by omega))

/-- Four words written in the order of R36 are read back as 32 bytes; no other byte changes. -/
theorem record_words {s : State} (h : Memory.wf s.mem = true) (k a b c d : Nat) :
    let t := (((s.mset64 (k + 8) b).mset64 (k + 16) c).mset64 (k + 24) d).mset64 k a
    t.mread k 32 = leBytes 8 a ++ leBytes 8 b ++ leBytes 8 c ++ leBytes 8 d ∧ OnlyBytes k 32 s t := by
  have h1 := mset64_wf h (k + 8) b
  have h2 := mset64_wf h1 (k + 16) c
  have h3 := mset64_wf h2 (k + 24) d
  refine ⟨?_, fun q hq => ?_⟩
  · rw [show 32 = 8 + (8 + (8 + 8)) by rfl, mread_add, mread_add, mread_add, mread_mset64_same h3, mread_mset64_ne h3 (by omega),
      mread_mset64_ne h3 (by omega), mread_mset64_ne h3 (by omega), mread_mset64_ne h2 (by omega), mread_mset64_ne h1 (by omega),
      mread_mset64_same h, mread_mset64_ne h2 (by omega), mread_mset64_same h1, mread_mset64_same h2]
    simp only [List.append_assoc]
  · rw [mget_mset64_ne h3 (by omega), mget_mset64_ne h2 (by omega), mget_mset64_ne h1 (by omega), mget_mset64_ne h (by omega)]

theorem mwrite_regs (s : State) (k : Nat) (l : List Byte) : (s.mwrite k l).regs = s.regs := by
  induction l generalizing s k with
  | nil => rfl
  | cons b r ih => exact (ih _ _).trans rfl

theorem mset64_regs (s : State) (k v : Nat) : (s.mset64 k v).regs = s.regs := mwrite_regs _ _ _

theorem cell_of_regs {s t : State} (h : t.regs = s.regs) (k : Nat) : t.cell k = s.cell k := by simp only [State.cell, h]

theorem rget_of_regs {s t : State} (h : t.regs = s.regs) (r : Row) (i : Nat) (ix : List Nat) : t.rget r i ix = s.rget r i ix := by
  simp only [State.rget, State.cell, h]

/-- A completion record that can be written (R36): its bytes, the advance of the completion ring, and what stays. -/
theorem writeRecord_some {s : State} (hc : s.Canonical) {n tag st th trap fo cyc res k : Nat} {irq : Bool} (hn : n < 64)
    (hk : s.ringKey n (s.cqBase n) (32 * (s.rget Reg.DB_CQ_TAIL n % s.ringSize n)) = some k) :
    let t := s.writeRecord n tag st th trap fo cyc res irq
    let ct := s.rget Reg.DB_CQ_TAIL n
    t.mread k 32 = recordBytes n tag st th trap fo cyc (1 - ct / s.ringSize n % 2) s.short res ∧ OnlyBytes k 32 s t ∧
    t.rget Reg.DB_CQ_TAIL n = (ct + 1) % 65536 ∧
    ∀ q, keyBlk q ≠ 18 → q ∉ lostVecKeys → t.cell q = s.cell q := by
  have hk' : s.ringKey n (s.cqBase n) (32 * (s.rget Reg.DB_CQ_TAIL n % 2 ^ s.rget Reg.SEQ_SIZE_LOG2 0 [n])) = some k := hk
  intro t ct
  have et : t = s.writeRecord n tag st th trap fo cyc res irq := rfl
  simp only [State.writeRecord, hk'] at et
  obtain ⟨w0, hw0⟩ : ∃ w, w = tag * 2 ^ 48 + st * 2 ^ 40 + th * 2 ^ 37 + n * 2 ^ 26 + trap * 2 ^ 16 +
    (1 - s.rget Reg.DB_CQ_TAIL n / 2 ^ s.rget Reg.SEQ_SIZE_LOG2 0 [n] % 2) := ⟨_, rfl⟩
  rw [← hw0] at et
  obtain ⟨u, hm⟩ : ∃ u, (((s.mset64 (k + 8) (fo * 2 ^ 32 + min cyc 4294967295)).mset64 (k + 16)
    s.short).mset64 (k + 24) res).mset64 k w0 = u := ⟨_, rfl⟩
  rw [hm] at et
  have hr := record_words hc.mem k w0 (fo * 2 ^ 32 + min cyc 4294967295) s.short res
  simp only [hm] at hr
  have hur : u.regs = s.regs := by rw [← hm, mset64_regs, mset64_regs, mset64_regs, mset64_regs]
  have hus : swf regReset u.regs = true := by rw [hur]; exact hc.regs
  have hctl : s.rget Reg.DB_CQ_TAIL n = ct := rfl
  have hput : ∀ q, keyBlk q ≠ 18 → (u.rput Reg.DB_CQ_TAIL ((ct + 1) % 65536) n).cell q = s.cell q := by
    intro q hq
    rw [rput_cell hus _ _ _ _ (ne_of_keyBlk (by rw [rowKey, keyBlk_regKey (by simp [rowAdr, Reg.DB_CQ_TAIL]; omega)]; exact hq)),
      cell_of_regs hur]
  have htail : (u.rput Reg.DB_CQ_TAIL ((ct + 1) % 65536) n).rget Reg.DB_CQ_TAIL n = (ct + 1) % 65536 := by
    rw [rget_rput_same hus _ _ _ _ (by decide) (by decide)]
    exact Nat.mod_eq_of_lt (Nat.mod_lt _ (by decide))
  have hps := rput_swf hus Reg.DB_CQ_TAIL ((ct + 1) % 65536) n []
  have htk : rowKey Reg.DB_CQ_TAIL n ∉ lostVecKeys :=
    (quiet_of (by simp [rowAdr, Reg.DB_CQ_TAIL]; omega) (by decide)).2
  have fin : t.mem = u.mem ∧ (∀ q, q ∉ lostVecKeys → t.cell q = (u.rput Reg.DB_CQ_TAIL ((ct + 1) % 65536) n).cell q) := by
    rw [et]
    split
    · refine ⟨?_, fun q hq => signalVec_cell hps _ hq⟩
      exact (State_signalVec_keeps (Keeps.refl 0x80010 _) rfl).same .mem (by decide)
    · exact ⟨rfl, fun q _ => rfl⟩
  have hmem : ∀ q, t.mget q = u.mget q := fun q => by simp only [State.mget, fin.1]
  refine ⟨?_, fun q hq => (hmem q).trans (hr.2 q hq), ?_, fun q h1 h2 => (fin.2 q h2).trans (hput q h1)⟩
  · rw [mread_congr (fun q _ _ => hmem q), hr.1, hw0]; rfl
  · simp only [State.rget] at htail ⊢
    rw [← htail]
    have := fin.2 _ htk
    simp only [rowKey] at this
    rw [this]

/-! ### A ring stopped by an error (R38) -/

/-- A ring that stops: EN 0, ERR 1, the code, and nothing outside blocks 3 and 4. -/
theorem ringError_eff {s : State} (h : swf regReset s.regs = true) {n : Nat} (hn : n < 64) (code : Nat) :
    let t := s.ringError n code
    t.rget Reg.SEQ_EN 0 [n] = 0 ∧ t.rget Reg.SEQ_ERR 0 [n] = 1 ∧ t.rget Reg.SEQ_ERR_CODE 0 [n] = code % 16 ∧
    ∀ q, keyBlk q ≠ 3 → keyBlk q ≠ 4 → q ∉ lostVecKeys → t.cell q = s.cell q := by
  intro t
  have k4 : ∀ r : Row, r.blk = 4 → ∀ ix, rowAdr r ix < 2 ^ 33 → keyBlk (rowKey r 0 ix) = 4 := fun r hr ix ha => by
    rw [rowKey, hr, keyBlk_regKey (by omega)]
  have h1 := rput_swf h Reg.SEQ_ERR 1 0 [n]
  have h2 := rput_swf h1 Reg.SEQ_ERR_CODE code 0 [n]
  have h3 := rputBoth_swf h2 Reg.SEQ_EN 0 0 [n]
  have h4 := rput_swf h3 Reg.SEQ_ERR_RING n 0 []
  have aE : rowAdr Reg.SEQ_EN [n] = 0x1010 + 0x40 * n := by simp [rowAdr, Reg.SEQ_EN]; omega
  have aR : rowAdr Reg.SEQ_ERR [n] = 0x1018 + 0x40 * n := by simp [rowAdr, Reg.SEQ_ERR]; omega
  have aC : rowAdr Reg.SEQ_ERR_CODE [n] = 0x1018 + 0x40 * n := by simp [rowAdr, Reg.SEQ_ERR_CODE]; omega
  have aG : rowAdr Reg.SEQ_ERR_RING [] = 4 := by simp [rowAdr, Reg.SEQ_ERR_RING]
  have ne : ∀ a b, a ≠ b → regKey 4 0 a ≠ regKey 4 0 b := fun a b hab => by simp only [regKey]; omega
  have lost : ∀ r : Row, r.blk = 4 → ∀ ix, rowAdr r ix < 2 ^ 33 → rowKey r 0 ix ∉ lostVecKeys := fun r hr ix ha => by
    rw [rowKey, hr]; exact (quiet_of (by omega) (by decide)).2
  have fin : ∀ r : Row, r.blk = 4 → ∀ ix, rowAdr r ix < 2 ^ 33 → t.rget r 0 ix =
      ((((s.rput Reg.SEQ_ERR 1 0 [n]).rput Reg.SEQ_ERR_CODE code 0 [n]).rputBoth Reg.SEQ_EN 0 0 [n]).rput Reg.SEQ_ERR_RING n).rget r 0 ix := by
    intro r hr ix ha
    have := raise_cell h4 (src := 992) (by decide) (k := rowKey r 0 ix) (by rw [k4 r hr ix ha]; decide) (lost r hr ix ha)
    simp only [State.rget]
    simp only [rowKey] at this
    rw [← this]; rfl
  refine ⟨?_, ?_, ?_, fun q q3 q4 ql => ?_⟩
  · rw [fin Reg.SEQ_EN rfl [n] (by omega), rget_rput_ne h3 _ _ _ _ _ _ _ (by rw [aE, aG]; exact ne _ _ (by omega)),
      rget_rputBoth_same h2 _ _ _ _ (by decide) (by decide)]; rfl
  · rw [fin Reg.SEQ_ERR rfl [n] (by omega), rget_rput_ne h3 _ _ _ _ _ _ _ (by rw [aR, aG]; exact ne _ _ (by omega)),
      rget_rputBoth_ne h2 _ _ _ _ _ _ _ (by rw [aR, aE]; exact ne _ _ (by omega)),
      rget_rput_field h1 Reg.SEQ_ERR_CODE Reg.SEQ_ERR _ _ _ _ _ (by rw [aR, aC]; rfl) (by decide) (by decide) (by decide) (by decide),
      rget_rput_same h _ _ _ _ (by decide) (by decide)]; rfl
  · rw [fin Reg.SEQ_ERR_CODE rfl [n] (by omega), rget_rput_ne h3 _ _ _ _ _ _ _ (by rw [aC, aG]; exact ne _ _ (by omega)),
      rget_rputBoth_ne h2 _ _ _ _ _ _ _ (by rw [aC, aE]; exact ne _ _ (by omega)),
      rget_rput_same h1 _ _ _ _ (by decide) (by decide)]; rfl
  · have nk : ∀ r : Row, r.blk = 4 → ∀ ix, rowAdr r ix < 2 ^ 33 → q ≠ rowKey r 0 ix := fun r hr ix ha =>
      ne_of_keyBlk (by rw [k4 r hr ix ha]; exact q4)
    show ((((((s.rput Reg.SEQ_ERR 1 0 [n]).rput Reg.SEQ_ERR_CODE code 0 [n]).rputBoth Reg.SEQ_EN 0 0 [n]).rput Reg.SEQ_ERR_RING n)).raise 992).cell q = _
    rw [raise_cell h4 (by decide) q3 ql, rput_cell h3 _ _ _ _ (nk _ rfl _ (by omega))]
    refine (cell_setCell_ne h2 _ (nk Reg.SEQ_EN rfl [n] (by omega))).trans ?_
    rw [rput_cell h1 _ _ _ _ (nk _ rfl _ (by omega)), rput_cell h _ _ _ _ (nk _ rfl _ (by omega))]

/-! ### The end of a program -/

theorem evStatus_quietish {s t : State} {src : Nat} (h : t.cell (rowKey Reg.EVENT_STATUS 0 [src / 32]) = s.cell (rowKey Reg.EVENT_STATUS 0 [src / 32])) :
    t.evStatus src = s.evStatus src := by
  simp only [rowKey] at h
  simp only [State.evStatus, State.rget, h]

/-- A completion record that cannot be written stops its ring with BUS (R48). -/
theorem writeRecord_none {s : State} {n tag st th trap fo cyc res : Nat} {irq : Bool}
    (hk : s.ringKey n (s.cqBase n) (32 * (s.rget Reg.DB_CQ_TAIL n % s.ringSize n)) = none) :
    s.writeRecord n tag st th trap fo cyc res irq = s.ringError n 3 := by
  have hk' : s.ringKey n (s.cqBase n) (32 * (s.rget Reg.DB_CQ_TAIL n % 2 ^ s.rget Reg.SEQ_SIZE_LOG2 0 [n])) = none := hk
  simp only [State.writeRecord, hk']

/-- What the end of a program does (R36, R46, R48, R56). -/
theorem endProg_ended {s : State} (hc : s.Canonical) {n st fo trap : Nat} (hn : n < 8) (hr : (s.thr n).ring < 64)
    (hb : (s.thr n).batch = none) (hq : st = stOK → (s.thr n).nocompl = false) :
    Ended s (s.endProg n st fo trap) n st fo (if st = stTRAP then trap else 0) (s.thr n).charged := by
  have only : OnlyChanges [.regs, .vecs, .mem, .threads, .rings, .legend] s (s.endProg n st fo trap) :=
    (State_endProg_keeps (Keeps.refl 0x800080690 s) rfl).only rfl
  have ha : Keeps 0x800000000 s (s.abortDrafts n) := State_abortDrafts_keeps (Keeps.refl _ s) rfl
  obtain ⟨s2, e2⟩ : ∃ u, u = s.abortDrafts n := ⟨_, rfl⟩
  rw [← e2] at ha
  have c2 : s2.Canonical := ha.canon hc
  obtain ⟨s3, e3⟩ : ∃ u, u = s2.raiseIf (decide (0x10 ≤ st)) (984 + n) := ⟨_, rfl⟩
  have k3 : Keeps 0x80010 s2 s3 := by rw [e3]; exact State_raiseIf_keeps (Keeps.refl _ _) rfl
  have c3 := k3.canon c2
  have q3 : Quiet s2 s3 := by
    rw [e3]; simp only [State.raiseIf]; split
    · exact raise_quiet c2.regs (by omega)
    · exact fun _ _ => rfl
  obtain ⟨s4, e4⟩ : ∃ u, u = s3.settleThread n (st == stOK) := ⟨_, rfl⟩
  have k4 : Keeps 0x10 s3 s4 := by rw [e4]; exact State_settleThread_keeps (Keeps.refl _ _) rfl
  have c4 := k4.canon c3
  have q4 : Quiet s3 s4 := by rw [e4]; exact settleThread_quiet c3.regs hn _
  obtain ⟨s5, e5⟩ : ∃ u, u = s4.setThr n {} := ⟨_, rfl⟩
  have c5 : s5.Canonical := by rw [e5]; exact canonical_setThr c4 _ _
  have r5 : s5.regs = s4.regs := by rw [e5]; rfl
  have q5 : Quiet s s5 := fun k hk => by
    rw [cell_of_regs r5, q4 k hk, q3 k hk, cell_of_regs (ha.same .regs (by decide))]
  have m5 : s5.mem = s.mem := by
    rw [show s5.mem = s4.mem by rw [e5]; rfl]
    exact (k4.same .mem (by decide)).trans ((k3.same .mem (by decide)).trans (ha.same .mem (by decide)))
  have t4 : s4.threads = s.threads :=
    (k4.same .threads (by decide)).trans ((k3.same .threads (by decide)).trans (ha.same .threads (by decide)))
  have b5 : s5.boot = s.boot := by
    rw [show s5.boot = s4.boot by rw [e5]; rfl]
    exact (k4.same .boot (by decide)).trans ((k3.same .boot (by decide)).trans (ha.same .boot (by decide)))
  have me5 : s5.mer = s.mer := by
    rw [show s5.mer = s4.mer by rw [e5]; rfl]
    exact (k4.same .mer (by decide)).trans ((k3.same .mer (by decide)).trans (ha.same .mer (by decide)))
  obtain ⟨x, ex⟩ : ∃ u, u = s.thr n := ⟨_, rfl⟩
  obtain ⟨s6, e6⟩ : ∃ u, u = s5.writeRecord x.ring x.tag st n (if st = stTRAP then trap else 0) fo x.charged (x.reg 15).toNat x.irq := ⟨_, rfl⟩
  have fin : s.endProg n st fo trap = s6.noteCq x.ring := by
    rw [e6, e5, e4, e3, e2, ex]
    have hq' : (st == stOK && (s.thr n).nocompl) = false := by
      by_cases g : st = stOK
      · simp [hq g]
      · simp [g]
    simp only [State.endProg, hb, Option.isSome_none, Bool.false_and, State.raiseIf, Bool.false_eq_true, if_false, hq', beq_iff_eq]
  rw [← ex] at hr
  have kn : Keeps 0x400 s6 (s6.noteCq x.ring) := State_noteCq_keeps (Keeps.refl _ _) rfl
  have k6 : Keeps 0x80090 s5 s6 := by rw [e6]; exact State_writeRecord_keeps (Keeps.refl _ _) rfl
  have rr : ∀ r : Row, (r.blk = 4 ∨ r.blk = 14 ∨ r.blk = 2 ∨ r.blk = 18) → ∀ i ix, i * 2 ^ 16 + rowAdr r ix < 2 ^ 33 →
      s5.rget r i ix = s.rget r i ix := fun r hb i ix hlt => q5.rget r i ix (quiet_of hlt (by omega))
  have f4 : ∀ r : Row, r.blk = 4 → rowAdr r [x.ring] < 2 ^ 33 → s5.rget r 0 [x.ring] = s.rget r 0 [x.ring] := fun r hb hlt =>
    rr r (Or.inl hb) _ _ (by omega)
  have g1 : s5.rget Reg.DB_CQ_TAIL x.ring = s.rget Reg.DB_CQ_TAIL x.ring :=
    rr _ (by decide) _ _ (by simp [rowAdr, Reg.DB_CQ_TAIL]; omega)
  have g2 : s5.ringSize x.ring = s.ringSize x.ring := by
    simp only [State.ringSize]; rw [f4 _ rfl (by simp [rowAdr, Reg.SEQ_SIZE_LOG2]; omega)]
  have g3 : s5.cqBase x.ring = s.cqBase x.ring := by
    simp only [State.cqBase]; rw [f4 _ rfl (by simp [rowAdr, Reg.SEQ_CQ_BASE_LO]; omega), f4 _ rfl (by simp [rowAdr, Reg.SEQ_CQ_BASE_HI]; omega)]
  have gt : s5.ringTarget x.ring = s.ringTarget x.ring := rr Reg.BIND_TARGET (by decide) 0 [x.ring] (by simp [rowAdr, Reg.BIND_TARGET]; omega)
  have gf : s5.ringFunc x.ring = s.ringFunc x.ring := by simp only [State.ringFunc, gt]
  have gd : s5.dom 42 = s.dom 42 := rr Reg.POWER_STATE (by decide) 42 [] (by decide)
  have gh : ∀ f, s5.hostPath f = s.hostPath f := fun f => by simp only [State.hostPath, State.mayIssue, State.domOn, gd, b5]
  have gl : s5.ron Reg.SEQ_RING_LOC 0 [x.ring] = s.ron Reg.SEQ_RING_LOC 0 [x.ring] := by
    simp only [State.ron, f4 Reg.SEQ_RING_LOC rfl (by simp [rowAdr, Reg.SEQ_RING_LOC]; omega)]
  have g4 : ∀ b o, s5.ringKey x.ring b o = s.ringKey x.ring b o := fun b o => by simp only [State.ringKey, gl, gf, gh]
  have g5 : s5.short = s.short := by simp only [State.short, State.ns, me5]
  have th6 : s6.threads = s5.threads := k6.same .threads (by decide)
  have thf : (s.endProg n st fo trap).threads = s5.threads := by rw [fin]; exact (kn.same .threads (by decide)).trans th6
  have t5 : s5.thr n = {} := by rw [e5]; exact thr_setThr_same c4 _ _
  have o5 : ∀ k, k ≠ n → s5.thr k = s.thr k := fun k hk => by
    rw [e5, thr_setThr_ne c4 _ hk]; simp only [State.thr, t4]
  have mf : (s.endProg n st fo trap).mem = s6.mem := by rw [fin]; exact kn.same .mem (by decide)
  have rf : (s.endProg n st fo trap).regs = s6.regs := by rw [fin]; exact kn.same .regs (by decide)
  have reg6 : ∀ q, keyBlk q ≠ 3 → keyBlk q ≠ 4 → keyBlk q ≠ 18 → q ∉ lostVecKeys → s6.cell q = s5.cell q := fun q a b d l => by
    rw [e6]
    cases hk : s5.ringKey x.ring (s5.cqBase x.ring) (32 * (s5.rget Reg.DB_CQ_TAIL x.ring % s5.ringSize x.ring)) with
    | none => rw [writeRecord_none hk]; exact (ringError_eff c5.regs hr 3).2.2.2 q a b l
    | some key => exact (writeRecord_some c5 hr hk).2.2.2 q d l
  refine { idle := ?_, others := ?_, record := ?_, unwritten := ?_, fault := ?_, frame := only, regs := ?_ }
  · simp only [State.thr, thf]; exact t5
  · intro k hk; simp only [State.thr, thf]; exact o5 k hk
  · rw [← ex]
    intro key r ct size hk
    have hk5 : s5.ringKey r (s5.cqBase r) (32 * (s5.rget Reg.DB_CQ_TAIL r % s5.ringSize r)) = some key := by rw [g1, g2, g3, g4]; exact hk
    have w := writeRecord_some (tag := x.tag) (st := st) (th := n) (trap := if st = stTRAP then trap else 0) (fo := fo) (cyc := x.charged)
      (res := (x.reg 15).toNat) (irq := x.irq) c5 hr hk5
    rw [g1, g2, g5] at w
    simp only at w
    have es6 : s5.writeRecord r x.tag st n (if st = stTRAP then trap else 0) fo x.charged (x.reg 15).toNat x.irq = s6 := e6.symm
    rw [es6] at w
    have hm : ∀ q, (s.endProg n st fo trap).mget q = s6.mget q := fun q => by simp only [State.mget, mf]
    refine ⟨(mread_congr fun q _ _ => hm q).trans w.1, fun q hq => ?_, ?_⟩
    · rw [hm, w.2.1 q hq]; simp only [State.mget, m5]
    · rw [rget_of_regs rf]; exact w.2.2.1
  · rw [← ex]
    intro r hk
    have hk5 : s5.ringKey r (s5.cqBase r) (32 * (s5.rget Reg.DB_CQ_TAIL r % s5.ringSize r)) = none := by rw [g1, g2, g3, g4]; exact hk
    have es6 : s6 = s5.ringError r 3 := by rw [e6]; exact writeRecord_none hk5
    have er := ringError_eff c5.regs hr 3
    simp only at er
    rw [← es6] at er
    refine ⟨?_, ?_, ?_⟩
    · rw [mf, es6, ← m5]; exact (State_ringError_keeps (Keeps.refl 0x80010 s5) rfl).same .mem (by decide)
    · rw [rget_of_regs rf]; exact er.1
    · rw [rget_of_regs rf]; exact er.2.1
  · intro hst
    have hs : (984 + n) < 1152 := by omega
    have es3 : s3 = s2.raise (984 + n) := by rw [e3]; simp only [State.raiseIf, hst, decide_true, if_true]
    have v3 : s3.evStatus (984 + n) = true := by rw [es3]; exact raise_status c2.regs hs
    have ks : keyBlk (rowKey Reg.EVENT_STATUS 0 [(984 + n) / 32]) = 3 := by
      rw [rowKey, keyBlk_regKey (by simp [rowAdr, Reg.EVENT_STATUS]; omega)]; rfl
    have kl : rowKey Reg.EVENT_STATUS 0 [(984 + n) / 32] ∉ lostVecKeys := by
      simp [lostVecKeys, rowKey, regKey, rowAdr, Reg.EVENT_STATUS, Reg.HOST_CNT]; omega
    have c4s : s4.cell (rowKey Reg.EVENT_STATUS 0 [(984 + n) / 32]) = s3.cell (rowKey Reg.EVENT_STATUS 0 [(984 + n) / 32]) := by
      rw [e4]; simp only [State.settleThread, State.cadd]
      have o : ∀ j, j ≤ 5 → ∀ k, k ≤ 4 → rowKey Reg.EVENT_STATUS 0 [(984 + n) / 32] ≠ rowKey Reg.TALLY_THREAD_WORD 0 [n, j] + k := by
        intro j hj k hk; simp only [rowKey, regKey, rowAdr, Reg.EVENT_STATUS, Reg.TALLY_THREAD_WORD, List.zip_cons_cons, List.zip_nil_right,
          List.map_cons, List.map_nil, List.sum_cons, List.sum_nil]
        omega
      have o0 : ∀ j, j ≤ 5 → rowKey Reg.EVENT_STATUS 0 [(984 + n) / 32] ≠ rowKey Reg.TALLY_THREAD_WORD 0 [n, j] := by
        intro j hj; have := o j hj 0 (by omega); rwa [Nat.add_zero] at this
      have hj : (if (st == stOK) = true then 1 else 2) ≤ 5 := by split <;> decide
      rw [pput_cell (pput_swf c3.regs _ _ _ _) _ _ _ _ (o0 5 (by omega)) (o 5 (by omega) 4 (by omega)),
        pput_cell c3.regs _ _ _ _ (o0 _ hj) (o _ hj 4 (by omega))]
    have v5 : s5.evStatus (984 + n) = true := by
      rw [evStatus_quietish (s := s3) (by rw [cell_of_regs r5]; exact c4s)]; exact v3
    have v6 : s6.evStatus (984 + n) = true := by
      rw [e6]
      cases hk : s5.ringKey x.ring (s5.cqBase x.ring) (32 * (s5.rget Reg.DB_CQ_TAIL x.ring % s5.ringSize x.ring)) with
      | none =>
        rw [writeRecord_none hk]
        simp only [State.ringError]
        refine raise_keeps_status (rput_swf (rputBoth_swf (rput_swf (rput_swf c5.regs _ _ _ _) _ _ _ _) _ _ _ _) _ _ _ _) (by decide) hs ?_
        have k4 : ∀ r : Row, r.blk = 4 → ∀ ix, rowAdr r ix < 2 ^ 33 → rowKey Reg.EVENT_STATUS 0 [(984 + n) / 32] ≠ rowKey r 0 ix :=
          fun r hr ix ha => ne_of_keyBlk (by rw [ks, rowKey, hr, keyBlk_regKey (by omega)]; decide)
        rw [evStatus_quietish (s := s5)]
        · exact v5
        · rw [rput_cell (rputBoth_swf (rput_swf (rput_swf c5.regs _ _ _ _) _ _ _ _) _ _ _ _) _ _ _ _ (k4 _ rfl _ (by decide))]
          refine (cell_setCell_ne (rput_swf (rput_swf c5.regs _ _ _ _) _ _ _ _) _ (k4 Reg.SEQ_EN rfl [x.ring] (by simp [rowAdr, Reg.SEQ_EN]; omega))).trans ?_
          rw [rput_cell (rput_swf c5.regs _ _ _ _) _ _ _ _ (k4 _ rfl _ (by simp [rowAdr, Reg.SEQ_ERR_CODE]; omega)),
            rput_cell c5.regs _ _ _ _ (k4 _ rfl _ (by simp [rowAdr, Reg.SEQ_ERR]; omega))]
      | some key =>
        rw [evStatus_quietish (s := s5)]
        · exact v5
        · exact (writeRecord_some c5 hr hk).2.2.2 _ (by rw [ks]; decide) kl
    rw [evStatus_quietish (s := s6) (cell_of_regs rf _)]; exact v6
  · intro q hb4 hl
    simp only [List.mem_cons, List.not_mem_nil, or_false, not_or] at hb4
    rw [cell_of_regs rf, reg6 q hb4.1 hb4.2.1 hb4.2.2.2 hl]
    exact q5 q ⟨by simp [hb4.1, hb4.2.2.1], hl⟩

/-- Charging the thread first does not change what the end of its program does. -/
theorem axEnd_ended {s : State} (hc : s.Canonical) {a : Ax} {st cost trap : Nat} (hn : a.t < 8) (he : CanEnd s a.t)
    (hq : st = stOK → (s.thr a.t).nocompl = false) :
    Ended s (s.axEnd a st cost trap) a.t st (s.thr a.t).pc (if st = stTRAP then trap else 0) ((s.thr a.t).charged + cost + a.delay) := by
  obtain ⟨u, eu⟩ : ∃ u, u = s.setThr a.t { s.thr a.t with charged := (s.thr a.t).charged + cost + a.delay } := ⟨_, rfl⟩
  have cu : u.Canonical := by rw [eu]; exact canonical_setThr hc _ _
  have et : u.thr a.t = { s.thr a.t with charged := (s.thr a.t).charged + cost + a.delay } := by rw [eu]; exact thr_setThr_same hc _ _
  have ou : OnlyThread a.t s u := by rw [eu]; exact onlyThread_setThr hc _ _
  have e := endProg_ended (fo := (s.thr a.t).pc) (trap := trap) (st := st) cu hn (by rw [et]; exact he.1) (by rw [et]; exact he.2)
    (by rw [et]; exact hq)
  have eq : s.axEnd a st cost trap = u.endProg a.t st (s.thr a.t).pc trap := by rw [eu]; rfl
  rw [← eq] at e
  have rg : u.regs = s.regs := ou.1 .regs (by simp)
  have bo : u.boot = s.boot := ou.1 .boot (by simp)
  have me : u.mem = s.mem := ou.1 .mem (by simp)
  have rgt : ∀ r i ix, u.rget r i ix = s.rget r i ix := fun r i ix => rget_of_regs rg r i ix
  have rk : ∀ n b o, u.ringKey n b o = s.ringKey n b o := fun n b o => by
    have rt : u.ringTarget n = s.ringTarget n := rgt _ _ _
    have rf : u.ringFunc n = s.ringFunc n := by simp only [State.ringFunc, rt]
    have hp : ∀ f, u.hostPath f = s.hostPath f := fun f => by
      simp only [State.hostPath, State.mayIssue, State.domOn, State.dom, bo, rgt]
    have rl : u.ron Reg.SEQ_RING_LOC 0 [n] = s.ron Reg.SEQ_RING_LOC 0 [n] := by simp only [State.ron, rgt]
    simp only [State.ringKey, rl, rf, hp]
  have sz : ∀ n, u.ringSize n = s.ringSize n := fun n => by simp only [State.ringSize, rgt]
  have cb : ∀ n, u.cqBase n = s.cqBase n := fun n => by simp only [State.cqBase, rgt]
  have mg : ∀ q, u.mget q = s.mget q := fun q => by simp only [State.mget, me]
  have rs : u.short = s.short := by
    have : u.mer = s.mer := ou.1 .mer (by simp)
    simp only [State.short, State.ns, this]
  refine { idle := e.idle, others := fun k hk => (e.others k hk).trans (ou.2 k hk), record := ?_, unwritten := ?_, fault := e.fault,
           frame := ?_, regs := fun k h1 h2 => (e.regs k h1 h2).trans (cell_of_regs rg k) }
  · intro key
    have r := e.record key
    rw [et] at r
    simp only [rgt, sz, cb, rk, rs] at r
    intro rr ct size hk
    have r' := r hk
    exact ⟨r'.1, fun q hq => (r'.2.1 q hq).trans (mg q), r'.2.2⟩
  · have r := e.unwritten
    rw [et] at r
    simp only [rgt, sz, cb, rk] at r
    intro rr hk
    have r' := r hk
    exact ⟨r'.1.trans me, r'.2⟩
  · intro f hf
    refine same_trans (ou.1 f ?_) (e.frame f hf)
    intro h; apply hf; simp only [List.mem_singleton] at h; subst h; simp

end Sys2Proof.Machine
end

