-- ==== Sys2Proof/Tests/Slice0.lean ====
section
/-! SUPPORT. The model's own tests: ill-formed commands are refused by the checks of WellFormed, worked examples and tables of the
spec hold, and for every statement with hypotheses a concrete state and operands meet them (`meets_<statement>`). -/

namespace Sys2Proof.Tests

-- One declaration at a time: the many kernel evaluations need no threads of their own.
set_option Elab.async false

open Sys2Proof Sys2Proof.Machine

/-! ### Helpers -/

/-- State.Canonical as one Boolean. -/
def canonB (s : State) : Bool :=
  swf regReset s.regs && swf (fun _ => 0) s.banks && Memory.wf s.mem && swf (fun _ => 0) s.tabs && swf (fun _ => {}) s.threads &&
  swf (fun _ => {}) s.rings && swf (fun _ => 63) s.lastStarted && swf (fun _ => {}) s.doms && swf (fun _ => {}) s.rails && swf (fun _ => {}) s.cplx &&
  swf (fun _ => {}) s.vecs && swf (fun _ => {}) s.lanes && srise s.frames && swf (fun _ => {}) s.copies && swf queueDflt s.queues &&
  swf (fun _ => {}) s.pagers && swf objDflt s.objs && swf (fun _ => 0) s.rounds && swf (fun _ => {}) s.gates && swf (fun _ => {}) s.creel &&
  swf (fun _ => {}) s.ports && swf (fun _ => {}) s.surveys && swf (fun _ => {}) s.pipes && swf (fun _ => {}) s.plait && swf (fun _ => []) s.plaitIn &&
  swf (fun _ => {}) s.mbx && swf (fun _ => 0) s.ruleCnt && swf (fun _ => 2 ^ 96) s.msix && swf (fun _ => {}) s.taps

/-- What `canonB` says. -/
theorem canonical_of {s : State} (h : canonB s = true) : s.Canonical := by
  simp only [canonB, Bool.and_eq_true] at h
  obtain ⟨⟨⟨⟨⟨⟨⟨⟨⟨⟨⟨⟨⟨⟨⟨⟨⟨⟨⟨⟨⟨⟨⟨⟨⟨⟨⟨⟨h1, h2⟩, h3⟩, h4⟩, h5⟩, h6⟩, h7⟩, h8⟩, h9⟩, h10⟩, h11⟩, h12⟩, h13⟩, h14⟩, h15⟩, h16⟩, h17⟩, h18⟩, h19⟩, h20⟩, h21⟩, h22⟩, h23⟩, h24⟩, h25⟩, h26⟩, h27⟩, h28⟩, h29⟩ := h
  exact ⟨h1, h2, h3, h4, h5, h6, h7, h8, h9, h10, h11, h12, h13, h14, h15, h16, h17, h18, h19, h20, h21, h22, h23, h24, h25, h26, h27, h28, h29⟩

/-- Out of reset, clocked, INERT. -/
def up : State := ({ State.reset with boot := { porst := false, perst := false } } : State).rput Reg.GLOBAL_STATE 3

/-- Domains on. -/
def ons (s : State) (l : List Nat) : State := l.foldl (fun t d => t.rput Reg.POWER_STATE 2 d) s

/-- PD_SEQ on, ring 0 bound to PF0 with every class, block and store page, and thread 0 running a program of `ws` at byte 0 of the store. -/
def run (ws : List Nat) : State :=
  let s := ons up [43]
  let s1 := ((((((s.rput Reg.BIND_TARGET 1 0 [0]).rput Reg.BIND_CLASS 0x1FFF 0 [0]).rput Reg.BIND_RD_BLOCKS 0xFFFF 0 [0]).rput Reg.BIND_WR_BLOCKS 0xFFFF 0 [0]).rput
    Reg.BIND_STORE_BASE 0 0 [0]).rput Reg.BIND_STORE_PAGES 64 0 [0])
  (s1.mwrite (storeKey 0) (ws.flatMap (leBytes 8))).setThr 0 { running := true, loc := true, len := ws.length + 1 }

/-- Thread 0. -/
def op0 : AxOp := ⟨0, 0, .ok⟩

/-- The word with opcode c and the other bits x. -/
def w64 (c x : Nat) : Nat := c * 2 ^ 56 + x

/-- The state is canonical, thread 0 fetches the words and goes on behind them after `cost` control cycles. -/
def fetchB (s : State) (op : Nat) (w : Nat) (e : List Nat) (cost : Nat) : Bool :=
  canonB s && s.canRun 0 && (match s.fetchWord 0 (s.thr 0).pc .ok with | .ok x => x == w | .error _ => false) && bits w 63 56 == op &&
  (match s.fetchWords 0 ((s.thr 0).pc + 1) .ok e.length with | .ok x => x == e | .error _ => false) &&
  ((s.thr 0).len == 0 || decide ((s.thr 0).pc + 1 + e.length ≤ (s.thr 0).len)) &&
  ((s.thr 0).len == 0 || decide ((s.thr 0).pc + (1 + e.length) < (s.thr 0).len)) &&
  ((s.thr 0).budget == 0 || decide ((s.thr 0).charged + cost < (s.thr 0).budget))

/-- What `fetchB` says. -/
theorem fetches_of {s : State} {op w cost : Nat} {e : List Nat} (h : fetchB s op w e cost = true) :
    s.Canonical ∧ Fetches s op0 op w e ∧ GoesOn s 0 ((s.thr 0).pc + (1 + e.length)) cost := by
  simp only [fetchB, Bool.and_eq_true, Bool.or_eq_true, beq_iff_eq, decide_eq_true_eq] at h
  obtain ⟨⟨⟨⟨⟨⟨⟨hc, hr⟩, hw⟩, ho⟩, he⟩, hf⟩, hg⟩, hb⟩ := h
  refine ⟨canonical_of hc, ⟨hr, ?_, ho, ?_, hf⟩, hg, hb⟩
  · show s.fetchWord 0 (s.thr 0).pc .ok = .ok w
    split at hw
    · rename_i q; rw [q]; exact congrArg _ (beq_iff_eq.mp hw)
    · cases hw
  · show s.fetchWords 0 ((s.thr 0).pc + 1) .ok e.length = .ok e
    split at he
    · rename_i q; rw [q]; exact congrArg _ (beq_iff_eq.mp he)
    · cases he

/-- A state in which thread 0, changed by f, fetches a word and its extension words. -/
def start (w : Nat) (e : List Nat := []) (f : Thread → Thread := id) : State := let s := run (w :: e); s.setThr 0 (f (s.thr 0))

/-- `fetchB` of the state that `start` builds. -/
def fits (op x : Nat) (e : List Nat := []) (f : Thread → Thread := id) : Bool := fetchB (start (w64 op x) e f) op (w64 op x) e 100

/-- Thread 0 can end as `CanEnd` says. -/
def endsB (s : State) : Bool := decide ((s.thr 0).ring < 64) && (s.thr 0).batch.isNone

/-- `Addressed` of thread 0 as a Boolean. -/
def addressedB (s : State) (blocks : Row) (a : Nat) : Bool := decide (a < 0x1000000) && a % 4 == 0 && bit (s.rget blocks 0 [(s.thr 0).ring]) (a / 2 ^ 20)

/-- `Holds` and `Reaches` of thread 0 as Booleans. -/
def holdsB (s : State) (c : Nat) : Bool := bit (s.rget Reg.BIND_CLASS 0 [(s.thr 0).ring]) c
def reachB (s : State) (loc : Bool) (a len : Nat) : Bool :=
  if loc then s.inWindow (s.thr 0).ring a len
  else match s.ringFunc (s.thr 0).ring with | some f => s.hostPath f && decide (a + len ≤ 2 ^ 64) | none => false

/-- Thread 0 waits; nothing bounds its program. -/
def waiting (k : WaitKind) (len : Nat := 1) : State :=
  let s := run []
  s.setThr 0 { s.thr 0 with wait := some ⟨k, 0, none, false, len⟩, len := 0 }

/-- The state is canonical, and thread 0 waits and can go on anywhere. -/
def waitB (s : State) : Bool := canonB s && (s.thr 0).wait.isSome && (s.thr 0).len == 0 && (s.thr 0).budget == 0

/-- Queue 7 in a state. -/
def q7 (s : State) (x : Queue) : State := (ons s [16]).setQ 7 x


/-- The flag 52 of a word. -/
def m52 : Nat := 2 ^ 52

/-- PF0, with no thread. -/
def pf0 : Master := ⟨1, 0⟩

/-- The block accepts a write of v by PF0 to an offset of a block. -/
def acceptsB (s : State) (blk off v : Nat) (q : Option Nat := none) : Bool :=
  s.writeCause 1 (bankOf pf0) ⟨blk, off, false⟩ (s.instOf (bankOf pf0) blk off) q v 0xFFFFFFFF == 0

/-- PF0's select register of a block. -/
def pick (s : State) (blk v : Nat) (off : Nat := 0x10) : State := s.setBank (bankOf pf0) (selSlot blk off) v

/-- PD_SEQ on and out of reset. -/
def lit : State := ons up [43]

/-- READY of a component. -/
def readied (s : State) (i : Nat) : State :=
  if i < 32 then s.rput Reg.GLOBAL_READY_MAP (s.rget Reg.GLOBAL_READY_MAP + 2 ^ i) else s.rput Reg.GLOBAL_READY_MAP_HI (s.rget Reg.GLOBAL_READY_MAP_HI + 2 ^ (i - 32))

/-- PF0's memory can be reached. -/
def bme0 (s : State) : State := let t := ons s [42]; { t with boot := { t.boot with bme := [(0, true)] } }


/-! ### Statements about Axsel instructions: states and words that meet their hypotheses -/

theorem meets_AluSums : fits 0x03 0 = true ∧ legalAlu mA (w64 0x03 0) = true ∧ fits 0x04 (m53 + 0xFFFFFFFF) = true ∧
    legalAlu mA (w64 0x04 (m53 + 0xFFFFFFFF)) = true ∧ fits 0x0A 0 = true ∧ legalAlu 0 (w64 0x0A 0) = true := by decide +kernel

theorem meets_AluMovesAndShifts : fits 0x05 0 = true ∧ fits 0x06 0 = true ∧ fits 0x07 0 = true ∧ legalAlu mA (w64 0x05 0) = true ∧
    fits 0x01 0xFFFFFFFF = true ∧ okBits (w64 0x01 0xFFFFFFFF) (mA + m53 + mIMM) = true ∧ fits 0x01 m53 [7] = true ∧ okBits (w64 0x01 m53) (mA + m53) = true ∧
    fits 0x02 0 = true ∧ okBits (w64 0x02 0) (mA + m54 + mB) = true ∧ fits 0x02 m54 = true ∧ okBits (w64 0x02 m54) (mA + m54) = true ∧
    fits 0x08 0 = true ∧ fits 0x09 m54 = true ∧ legalAlu mA (w64 0x08 0) = true ∧ legalAlu (mA + m54) (w64 0x09 m54) = true := by decide +kernel

theorem meets_BranchRules : (let d := fun x : Thread => { x with stack := [1] }
    fits 0x10 1 = true ∧ okBits (w64 0x10 1) mIMM = true ∧
    fits 0x11 (2 ^ 48 + 1) = true ∧ ((start (w64 0x11 (2 ^ 48 + 1))).thr 0).z = false ∧ fits 0x11 1 = true ∧ fits 0x12 1 = true ∧
    fits 0x13 0 [] d = true ∧ okBits (w64 0x13 0) 0 = true) ∧
    -- targets outside the program, a full and an empty call stack
    fits 0x10 0xFFFFFFFF = true ∧ endsB (start (w64 0x10 0xFFFFFFFF)) = true ∧ fits 0x11 (2 ^ 48 + 2) = true ∧ fits 0x12 2 = true ∧
    fits 0x12 1 [] (fun x => { x with stack := List.replicate 8 0 }) = true ∧ fits 0x13 0 = true := by decide +kernel

theorem meets_ProgramEnds : endsB (run []) = true ∧ fits 0x14 0 = true ∧ fits 0x14 0 [] (fun x => { x with nocompl := true }) = true ∧ fits 0x15 0xFF = true ∧
    0xFF ∉ opcodes ∧ fits 0xFF 0 = true ∧ fits 0x03 1 = true ∧ legalAlu mA (w64 0x03 1) = false ∧ fits 0x10 m53 = true ∧
    okBits (w64 0x10 m53) mIMM = false ∧ fits 0x14 1 = true ∧ okBits (w64 0x14 1) 0 = false := by decide +kernel

theorem meets_RegisterReadRules : addressedB (run []) Reg.BIND_RD_BLOCKS 0 = true ∧ fits 0x20 0 = true ∧ ((run []).thr 0).address (w64 0x20 0) = 0 ∧
    fits 0x22 (2 ^ 24) [0] = true ∧ okBits (w64 0x22 (2 ^ 24)) (mA + mTO + mSEL + m53) = true ∧ toOk (w64 0x22 (2 ^ 24)) = true ∧
    toCycles (bits (w64 0x22 (2 ^ 24)) 39 24) ≠ some 0 ∧ ((start (w64 0x22 (2 ^ 24)) [1]).regRead ⟨19, 0⟩ 0).rdata &&& 0#32 ≠ 1#32 ∧
    fits 0x22 (2 ^ 24) [1] = true ∧
    (let s := (run []).setThr 0 { (run []).thr 0 with wait := some ⟨.rpoll 0 0 0 0 false 0, 0, none, false, 2⟩, len := 0 }
     canonB s = true ∧ 0 ≤ s.now) ∧
    -- addresses beyond BAR0, not aligned, and of a block that is not granted
    fits 0x20 (m53 + 0) [] (fun x => x.setReg 0 0x1000000) = true ∧ fits 0x20 2 = true ∧
    bit (((start (w64 0x20 0)).rput Reg.BIND_RD_BLOCKS 0 0 [0]).rget Reg.BIND_RD_BLOCKS 0 [0]) 0 = false ∧
    fetchB ((start (w64 0x20 0)).rput Reg.BIND_RD_BLOCKS 0 0 [0]) 0x20 (w64 0x20 0) [] 100 = true := by decide +kernel

theorem meets_RegisterMergeWrite :
    let s := start (w64 0x21 0x100108) [0x64]
    let u := (s.seqWrite 0 0x100108 0x64 0xFFFFFFFF).1
    fits 0x21 0x100108 [0x64] = true ∧ okBits (w64 0x21 0x100108) mSEL = true ∧ addressedB s Reg.BIND_WR_BLOCKS 0x100108 = true ∧
    seqForbidden 0x100108 0xFFFFFFFF = false ∧ (s.thr 0).batch = none ∧ (s.seqWrite 0 0x100108 0x64 0xFFFFFFFF).2 = true ∧ (u.thr 0).wait = none ∧
    (u.thr 0).pc + 2 < (u.thr 0).len ∧ (u.thr 0).budget = 0 ∧
    fits 0x21 0x100108 [0x64] (fun x => { x with batch := some [] }) = true ∧ (isSelect (placeOf 0x100108).blk (placeOf 0x100108).off && !(placeOf 0x100108).view) = false ∧
    fits 0x21 0xE00038 [0] = true ∧ seqForbidden 0xE00038 0xFFFFFFFF = true ∧ endsB (run []) = true := by decide +kernel

theorem meets_MemoryAccesses :
    let h := fun x : Thread => ((x.setReg 1 0x1000).setReg 2 0x2000).setReg 3 64
    let copy := m53 + m54 + 2 * 2 ^ 48 + 2 ^ 44 + 3 * 2 ^ 40
    fits 0x28 (m53 + 0x3FFF8) = true ∧ reachB (run []) true 0x3FFF8 8 = true ∧ fits 0x29 (m53 + 8) = true ∧ holdsB (run []) 10 = true ∧
    fits 0x2A copy [] h = true ∧ reachB (start (w64 0x2A copy) [] h) true 0x1000 64 = true ∧ reachB (start (w64 0x2A copy) [] h) true 0x2000 64 = true ∧
    okBits (w64 0x2A copy) (mA + mB + mC + m53 + m54) = true ∧
    -- an odd address, a class not held, a length of 0
    fits 0x28 (m53 + 1) = true ∧ fits 0x29 (m53 + 1) = true ∧
    holdsB ((start (w64 0x28 0)).rput Reg.BIND_CLASS 0 0 [0]) 11 = false ∧ fetchB ((start (w64 0x28 0)).rput Reg.BIND_CLASS 0 0 [0]) 0x28 (w64 0x28 0) [] 100 = true ∧
    fits 0x2A 0 = true ∧ endsB (run []) = true := by decide +kernel


theorem meets_EventsAndFences :
    let v := fun (s : State) (k : Nat) (m : Nat) => (s.rget Reg.EVENT_STATUS 0 [2 * k] + 2 ^ 32 * s.rget Reg.EVENT_STATUS 0 [2 * k + 1]) &&& m
    let e := fun (s : State) => s.rput Reg.EVENT_STATUS 1 0 [35]
    let w := w64 0x60 (2 ^ 44 + 2 ^ 24 + 17)
    let c := w64 0x60 (m54 + 2 ^ 44 + 17)
    let f := fun x : Thread => x.setReg 1 0x100000000
    let b := w64 0x60 (m53 + 2 ^ 24)
    let m := fun (s : State) => (s.rput Reg.BIND_SIDE_A 1 0 [0])
    fetchB (e (start w [] f)) 0x60 w [] 100 = true ∧ v (e (start w [] f)) 17 0x100000000 ≠ 0 ∧ okBits w (mA + mB + mTO + 0x1F + m53 + m54) = true ∧ toOk w = true ∧
    fetchB (e (start c [] f)) 0x60 c [] 100 = true ∧ bit ((run []).rget Reg.BIND_WR_BLOCKS 0 [0]) 3 = true ∧
    fits 0x60 (2 ^ 24 + 17) = true ∧ toCycles (bits w 39 24) ≠ some 0 ∧
    -- a mailbox side, empty and with EMPTIED
    fetchB (m (start b)) 0x60 b [] 100 = true ∧ (m (start b)).ringSide 0 0 = some true ∧ okBits b (mA + mB + mTO + m53) = true ∧ (((m (start b)).chan 0).a).flags = 0 ∧
    fetchB ((m (start b)).setSide 0 true { flags := 256 }) 0x60 b [] 100 = true ∧
    waitB (waiting (.waitev 0 17 0x100000000 false false)) = true ∧
    -- SIGNAL, FENCE of an effective and of a buffered write, and the wait's end
    fits 0x61 7 = true ∧ holdsB (run []) 12 = true ∧ fits 0x62 0 = true ∧ fits 0x62 m53 = true ∧ (run []).allEffective [] = true ∧
    (let p := fun x : Thread => { x with writes := [(rowKey Reg.CLOCKS_TEMP, 1#32)] }
     let s := (start (w64 0x62 (m53 + 2 ^ 24)) [] p).setCell (rowKey Reg.CLOCKS_TEMP) ⟨1, 0⟩
     fetchB s 0x62 (w64 0x62 (m53 + 2 ^ 24)) [] 100 = true ∧ s.allEffective (s.thr 0).writes = false) ∧
    waitB (waiting (.fence true)) = true := by decide +kernel

theorem meets_Batches :
    let h : HeldWrite := ⟨1, 0, 0x108, 0x100108, 0x64, 0xFFFFFFFF, []⟩
    fits 0x63 0 = true ∧ fits 0x63 0 [] (fun x => { x with batch := some [h] }) = true ∧ fits 0x64 0 [] (fun x => { x with batch := some [] }) = true ∧
    fits 0x64 0 [] (fun x => { x with batch := some [h] }) = true ∧
    fits 0x64 m53 [] (fun x => { (x.setReg 0 1) with batch := some [h] }) = true ∧ (start (w64 0x64 m53)).reached 1 = false ∧ okBits (w64 0x64 m53) (m53 + mA) = true ∧
    waitB (waiting (.endbatch (some 0) false false false)) = true ∧ (run []).reached 0 = true ∧ waitB (waiting (.endbatch none true false false)) = true := by
  decide +kernel

theorem meets_TableCommands :
    let x := fun (tb : Nat) => 2 ^ 53 + tb * 2 ^ 32 + 2 * 2 ^ 44 + 2 ^ 48
    let f := fun t : Thread => (t.setReg 1 5).setReg 2 0x1000
    let m := fun (s : State) => ons s [8, 25]
    let val := (2 : Nat) ^ 63
    -- EXCEPT by index; MCGROUP valid or not; FLOW by key in pipe 0
    fetchB (m (start (w64 0x30 (x 7)) [] f)) 0x30 (w64 0x30 (x 7)) [] 100 = true ∧ okBits (w64 0x30 (x 7)) (mA + mB + mTAB + mINST + m53 + m54 + m55) = true ∧
    holdsB (run []) 0 = true ∧ reachB (run []) true 0x1000 64 = true ∧ (m (run [])).layoutOk 7 0 0 = true ∧ (m (run [])).tabReach 7 0 = true ∧ 5 < tabEntries 7 ∧
    fetchB (m (start (w64 0x30 (x 2)) [] f)) 0x30 (w64 0x30 (x 2)) [] 100 = true ∧ (m (run [])).layoutOk 2 0 0 = true ∧ ((m (run [])).keySlot 2 0 0).isSome = true ∧
    (let w := w64 0x31 (4 * 2 ^ 32 + 2 ^ 48)
     let s := (start w [] f).setTab 4 0 5 val
     fetchB s 0x31 w [] 100 = true ∧ imgValid 4 (s.tab 4 0 5) = true ∧ okBits w (mTAB + mINST + m53 + mA) = true) ∧
    (let w := w64 0x32 (x 4)
     let s := (start w [] f).setTab 4 0 5 val
     fetchB s 0x32 w [] 100 = true ∧ imgValid 4 (s.tab 4 0 5) = true ∧ s.poisoned 4 0 5 = false ∧ okBits w (mA + mB + mTAB + mINST + m53) = true ∧ holdsB s 10 = true) ∧
    (let w := w64 0x33 (1 * 2 ^ 48 + 2 * 2 ^ 40 + 3)
     fetchB (start w [] (fun t => t.setReg 1 (BitVec.ofNat 64 (tabEntries 0 - 3)))) 0x33 w [] 100 = true ∧ okBits w (mA + mC + mTAB + mINST + mSEL) = true) := by
  decide +kernel


/-- A rule set 0 with the draft of thread 0 and one root line, both tree domains on. -/
def drafted (s : State) : State :=
  let m : LegMem := { lines := [(0, { owner := 1, draft := true, img := 2 ^ 508 })] }
  let t := ons s [25, 26]
  { t with legend := { m0 := m, m1 := m, drafts := [(0, 1)] } }

theorem meets_DraftsAndVersions :
    let a := w64 0x39 (m53 + 2 ^ 44 + 2 * 2 ^ 40)
    let p := drafted ((start a [] (fun x => (x.setReg 1 0x1000).setReg 2 1)).mwrite (storeKey 0x1000) [0x10])
    holdsB (run []) 1 = true ∧ fits 0x38 0 = true ∧ okBits (w64 0x38 0) mRS = true ∧ (start (w64 0x38 0)).draftOf 0 = 0 ∧
    fetchB (drafted (start (w64 0x38 (2 ^ 52)))) 0x38 (w64 0x38 (2 ^ 52)) [] 100 = true ∧ (drafted (run [])).draftOf 0 ≠ 0 ∧
    fetchB p 0x39 a [] 100 = true ∧ okBits a (mB + mC + mRS + m53) = true ∧ p.draftOf 0 = 1 ∧ p.treeOn = true ∧ reachB p true 0x1000 64 = true ∧
    (match p.leg.vput 0 (imagesOf 64 1 (p.mread (storeKey 0x1000) 64)) with | .ok _ => true | .error _ => false) = true ∧
    fetchB (drafted (start (w64 0x3C 0))) 0x3C (w64 0x3C 0) [] 100 = true ∧
    -- VCOMMIT with a free slot and with none, its wait, VWAIT, and a version that can retire
    (let w := w64 0x3A (2 ^ 24)
     let full := fun s : State => { s with legend := { s.legend with inflight := [(0, 1), (1, 1), (2, 1), (3, 1)] } }
     let d := drafted (start w)
     fetchB d 0x3A w [] 100 = true ∧ okBits w (mA + mB + mTO + mRS) = true ∧ toOk w = true ∧ d.draftRoot 0 0 = true ∧ d.freeSlot 0 = some 0 ∧
     fetchB (full d) 0x3A w [] 100 = true ∧ (full d).freeSlot 0 = none ∧ toCycles (bits w 39 24) ≠ some 0 ∧
     waitB (drafted (waiting (.vcommit 0 0 0))) = true ∧ (drafted (waiting (.vcommit 0 0 0))).freeSlot 0 = some 0 ∧
     fits 0x3B (m53 + 2 ^ 24) = true ∧ fits 0x3B (2 ^ 24) = true ∧ (run []).inflight 0 0 = 0 ∧ ((run []).leg.ver 0).active = none ∧
     fetchB (full (start (w64 0x3B (2 ^ 24)))) 0x3B (w64 0x3B (2 ^ 24)) [] 100 = true ∧ (full (run [])).inflight 0 0 ≠ 0 ∧
     (let r := drafted (run [])
      let g := fun m : LegMem => m.setVer 63 { active := some 0, live := 9 }
      ({ r with legend := { r.legend with m0 := g r.legend.m0, m1 := g r.legend.m1 } } : State).canRetire 63 3 = true)) := by decide +kernel

theorem meets_QueueCommands :
    let f := fun x : Thread => x.setReg 1 7
    let b := (2 : Nat) ^ 44
    let on := fun (op : Nat) (x : Queue) => fetchB (q7 (start (w64 op b) [] f) x) op (w64 op b) [] 100
    let y : Queue := { alloc := true, mapped := true, resident := true }
    holdsB (run []) 2 = true ∧ fits 0x40 0 = true ∧ ((run []).q 0).alloc = false ∧ fits 0x40 (m53 + 2 ^ 44) [] f = true ∧ ((run []).q 7).alloc = false ∧
    on 0x42 y = true ∧ ((q7 (run []) y).q 7).mapped = true ∧ (q7 (run []) y).domOn (16 + (q7 (run []) y).queueBasket 7) = true ∧ (q7 (run []) y).pinnedCount < 8192 ∧
    on 0x42 { y with resident := false } = true ∧ on 0x43 { y with pinned := true } = true ∧
    on 0x45 { alloc := true } = true ∧ (q7 (run []) { alloc := true }).queueEmpty 7 = true ∧
    fits 0x42 b [] (fun x => x.setReg 1 65464) = true ∧ fits 0x43 b [] (fun x => x.setReg 1 65535) = true ∧
    (let w := w64 0x41 (b + 151 * 256 + 7)
     let e := 1024 + 2 ^ 32
     fetchB (q7 (start w [e] f) { alloc := true }) 0x41 w [e] 100 = true ∧ okBits w (mB + 0xFF07) = true ∧ bits e 12 0 / 1024 = pipeOfPort 151 ∧
     bits e 31 27 = 0 ∧ bits e 23 13 = 0 ∧ bits e 47 32 ≠ 0) ∧
    on 0x44 { y with oc := [{ f := 0, b := 0, port := 0, queue := 7, chg := 1 }] } = true ∧ okBits (w64 0x44 b) (mA + mB) = true := by decide +kernel


theorem meets_ShapingAndGating :
    let e := [1000 * 2 ^ 32 + 400000000, 64 * 2 ^ 32 + 16777216, 2 ^ 16]
    let w := w64 0x48 (2 ^ 44 + 0)
    let v : ShSet := ⟨1000, 400000000, 64, 16777216, 1, 0, 0⟩
    let f := fun x : Thread => x.setReg 1 7
    let on := fun s : State => ons s [8, 16]
    fetchB (on (start w e f)) 0x48 w e 100 = true ∧ okBits w (mB + 3) = true ∧ objKey 0 7 = some 7 ∧ v.ok 0 7 = true ∧ holdsB (run []) 3 = true ∧
    ((on (run [])).q 7).mapped = false ∧ (q7 (on (run [])) { mapped := true }).domOn (8 + (on (run [])).pipeOfObj 7) = true ∧
    fetchB (q7 (on (start w e f)) { mapped := true }) 0x48 w e 100 = true ∧
    -- GCL of two entries at indexes 1022 and 1023 of port 151
    (let g := w64 0x49 (2 ^ 53 + 2 ^ 44 + 2 * 2 ^ 40 + 151 * 2 ^ 16 + 2)
     let s := ons ((start g [] (fun x => (x.setReg 1 0x1000).setReg 2 1022)).mwrite (storeKey 0x1000) (beBytes 8 16 ++ beBytes 8 16)) [9]
     fetchB s 0x49 g [] 100 = true ∧ okBits g (mB + mC + 0xFF07FF + m53) = true ∧ reachB s true 0x1000 16 = true ∧
     gclOk (beNat (s.mread (storeKey 0x1000) 8)) = true ∧ gclOk (beNat (s.mread (storeKey 0x1008) 8)) = true ∧ s.domOn (8 + pipeOfPort 151) = true) ∧
    -- GSWAP to a list of 1024 entries with a cycle of 16 ns, polling and waiting
    (let a := fun (b : Nat) => w64 0x4A (b + 2 ^ 44 + 1024)
     let s := fun (b : Nat) => on (start (a b) [] (fun x => x.setReg 1 16))
     fetchB (s 0) 0x4A (a 0) [] 100 = true ∧ okBits (a 0) (mA + mB + 0xFF07FF + m53 + mTO) = true ∧
     fetchB (s (2 ^ 53 + 2 ^ 24)) 0x4A (a (2 ^ 53 + 2 ^ 24)) [] 100 = true ∧ okBits (a (2 ^ 53 + 2 ^ 24)) (mA + mB + 0xFF07FF + m53 + mTO) = true ∧
     toOk (a (2 ^ 53 + 2 ^ 24)) = true ∧ (on (run [])).domOn (8 + pipeOfPort 0) = true) ∧
    -- an armed switch that is due, and a running list
    (let s := up.setGate 151 { armed := true, pendLen := 1, pendCycle := 16 }
     canonB s = true ∧ 0 ≤ diff8 s.t8 (s.gate 151).switchAt) ∧
    canonB (up.setGate 151 { operV := true, operLen := 1, operCycle := 16 }) = true ∧
    (List.range 8).all (fun j => (up.thr j).wait.isNone) = true := by decide +kernel


theorem meets_TimeCommands :
    let m := fun s : State => ons s [41]
    let f := fun x : Thread => (x.setReg 1 0xA028F5C3).setReg 2 (BitVec.ofNat 64 (999999999 * 2 ^ 16 + 65535))
    let ab := (2 : Nat) ^ 48 + 2 * 2 ^ 44
    let ask := fun (op w : Nat) => fetchB (m (start w [] f)) op w [] 100 && fetchB (start w [] f) op w [] 100
    holdsB (run []) 4 = true ∧ ask 0x50 (w64 0x50 (m53 + ab)) = true ∧ okBits (w64 0x50 (m53 + ab)) (mA + mB + m53) = true ∧
    bits ((f {}).reg 2).toNat 47 16 < 1000000000 ∧ (m (run [])).domOn 41 = true ∧ (run []).domOn 41 = false ∧
    ask 0x51 (w64 0x51 (m53 + 2 ^ 48)) = true ∧ ask 0x51 (w64 0x51 0) = true ∧ okBits (w64 0x51 (m53 + 2 ^ 48)) (mA + m53) = true ∧
    -- a time change of each kind that is the next to apply, TMSET passing and not passing the guard
    (let c := fun (k : Nat) (fo : Bool) => (⟨0, 0, k, fo, 2 ^ 48 - 1, 999999999, 65535, 65536000000⟩ : TimeChange)
     let s := fun (k : Nat) (fo : Bool) (s : State) => ({ m s with mer := { s.mer with changes := [c k fo] } } : State)
     canonB (s 1 false up) = true ∧ (s 1 false up).mer.lastApply ≠ some 0 ∧ (up.thr 0).wait = none ∧ (s 2 false up).mer.changes = [c 2 false] ∧
     waitB (s 0 true (waiting .timeChange)) = true ∧ ((waiting .timeChange).thr 0).wait = some ⟨.timeChange, 0, none, false, 1⟩ ∧
     (let z := fun (sf : Bool) => (waiting .timeChange).setThr 0 { (waiting .timeChange).thr 0 with wait := some ⟨.timeChange, 0, none, sf, 1⟩ }
      waitB ((s 0 false (z true)).rput Reg.MERID_TIME_VALID 1) = true ∧ ((s 0 false (z true)).rput Reg.MERID_TIME_VALID 1).ron Reg.MERID_TIME_VALID = true ∧
      ¬ ((s 0 false (z true)).rput Reg.MERID_TIME_VALID 1).rget Reg.MERID_JUMP_GUARD ≥ 10 ^ 18)) ∧
    -- TMWAIT for an instant reached and not reached, its end, TMARM and its withdrawal
    (let w := w64 0x52 (2 ^ 48 + 2 ^ 24)
     let g := fun (a : Nat) (x : Thread) => x.setReg 1 (BitVec.ofNat 64 a)
     fetchB (start w [] (g 0)) 0x52 w [] 100 = true ∧ okBits w (mA + mTO) = true ∧ toOk w = true ∧ (run []).reached 0 = true ∧
     fetchB (start w [] (g 1)) 0x52 w [] 100 = true ∧ (run []).reached 1 = false ∧ toCycles (bits w 39 24) ≠ some 0 ∧
     waitB (waiting (.tmwait 0)) = true ∧ waitB (waiting (.tmwait 1)) = true ∧ holdsB (run []) 5 = true ∧
     fits 0x53 (m53 + 3) = true ∧ okBits (w64 0x53 (m53 + 3)) (3 + m53) = true ∧
     fetchB (start (w64 0x53 (2 ^ 48 + 3)) [] (g 1)) 0x53 (w64 0x53 (2 ^ 48 + 3)) [] 100 = true ∧ okBits (w64 0x53 (2 ^ 48 + 3)) (3 + m53 + (mA + mB)) = true ∧
     fits 0x53 (m52 + 3) = true ∧ bit (w64 0x53 (m52 + 3)) 52 = true) := by decide +kernel

theorem meets_PowerRequestRules :
    let a := fun (d g x : Nat) => w64 0x58 (x + d * 2 ^ 8 + g)
    let ok := fun (s : State) (d g x : Nat) => fetchB s 0x58 (a d g x) [] 100 && okBits (a d g x) (0x3F03 + m53 + mTO) && toOk (a d g x)
    let st := fun (d g x : Nat) => start (a d g x)
    holdsB (run []) 6 = true ∧ ok (st 43 2 0) 43 2 0 = true ∧ (run []).dom 43 = 2 ∧ (run []).ron Reg.POWER_BUSY 43 = false ∧
    ok (st 8 2 m53) 8 2 m53 = true ∧ ok (st 39 0 (2 ^ 24)) 39 0 (2 ^ 24) = true ∧ (run []).dom 39 = 0 ∧ ok (st 8 2 (2 ^ 24)) 8 2 (2 ^ 24) = true ∧
    (run []).ron Reg.POWER_QUEUED_V 8 = false ∧ toCycles (bits (a 8 2 (2 ^ 24)) 39 24) ≠ some 0 ∧ (run []).higher = none ∧
    -- not free: PD_SEQ itself; PD_PCIE with the program in host memory; the complex of a claimant
    ok (st 43 0 m52) 43 0 m52 = true ∧ ok (st 42 0 m52) 42 0 m52 = true ∧ (run []).rget Reg.SEQ_RING_LOC 0 [0] ≠ 1 ∧
    -- writes by PF0: its own domain fixed, a claimant's complex, a grade already there, a request queued on top of another
    canonB lit = true ∧ lit.boot.porst = false ∧ lit.clockless = false ∧ hasBar0 pf0 = true ∧
    (let d := fun (s : State) (k : Nat) => pick s 2 k
     let a := fun (s : State) (k g : Nat) => canonB (d s k) && (d s k).instOf (bankOf pf0) 2 0x100 == k && acceptsB (d s k) 2 0x100 (2 ^ 31 + g) &&
       ((d s k).govern (bankOf pf0) 2 0x100 none).isNone
     let h := lit.rput Reg.CC_CLAIM 1 0 [1]
     a lit 43 0 = true ∧ a lit 43 2 = true ∧ a h 40 0 = true ∧ h.higher = some 1 ∧ a lit 0 0 = true ∧ lit.dom 0 = 0 ∧
     a lit 0 2 = true ∧ a ((lit.rput Reg.POWER_QUEUED_V 1 0).rput Reg.POWER_QUEUED 1 0) 0 2 = true) ∧
    -- a wake pin that is enabled and one that is not
    (let s := (lit.rput Reg.POWER_WAKE_EN 0x8000).pput Reg.POWER_WAKE_DOM (2 ^ 8 + 2 ^ 43) 0 [15]
     canonB s = true ∧ bit (s.rget Reg.POWER_WAKE_EN) 15 = true ∧ bit (s.pget Reg.POWER_WAKE_DOM 0 [15]) 8 = true ∧ s.onOrRising 8 = false ∧
     s.onOrRising 43 = true ∧ bit (s.rget Reg.POWER_WAKE_EN) 14 = false) := by decide +kernel


/-- Tally on, with a ring of 2^k entries of 2^9 bytes in PF0's memory. -/
def tallied (s : State) (k : Nat := 1) : State :=
  let t := (((s.rput Reg.TALLY_EN 1).rput Reg.TALLY_SIZE_LOG2 k).rput Reg.TALLY_ENTRY_LOG2 9).rput Reg.TALLY_PERIOD_US 1000
  { t with boot := { t.boot with bme := [(0, true)] } }

theorem meets_CountersAndTally :
    let f := fun x : Thread => x.setReg 1 0x1000
    -- a snapshot of a port's counters and of rule counters, which it clears
    let w := fun (g : Nat) => w64 0x68 (m53 + 2 ^ 44 + g)
    fetchB (start (w 127) [] f) 0x68 (w 127) [] 100 = true ∧ (groupRefs 127).isSome = true ∧ (groupRefs (3 * 4096 + 511)).isSome = true ∧
    fetchB (start (w (3 * 4096 + 511)) [] f) 0x68 (w (3 * 4096 + 511)) [] 1000 = true ∧ okBits (w 127) (mB + m53 + m54 + mTO + (mA + 0xFFFF)) = true ∧ toOk (w 127) = true ∧
    holdsB (run []) 7 = true ∧ holdsB (run []) 10 = true ∧ reachB (run []) true 0x1000 (8 * 513) = true ∧
    -- a Tally snapshot at once, SOFT when it cannot be taken, and at an instant to come
    (let t := fun (x : Nat) => w64 0x68 (m54 + 2 ^ 44 + x)
     let h : Snapshot := ⟨0, 1, [(0, [7])]⟩
     let held := fun s : State => ({ tallied s with tally := { held := some h } } : State)
     fetchB (tallied (start (t 0))) 0x68 (t 0) [] 100 = true ∧ okBits (t 0) (mB + m53 + m54 + mTO) = true ∧ (tallied (run [])).rget Reg.TALLY_EN = 1 ∧
     (tallied (run [])).tallyFull = false ∧ (tallied (run [])).tally.held = none ∧ (tallied up 32).tallyFull = false ∧
     fetchB (held (start (t m52))) 0x68 (t m52) [] 100 = true ∧
     (let full := (tallied (start (t m52)) 0).rput Reg.TALLY_PROD 1
      fetchB full 0x68 (t m52) [] 100 = true ∧ full.tallyFull = true) ∧
     (let u := fun x : Thread => x.setReg 1 1
      fetchB (tallied (start (t (2 ^ 24)) [] u)) 0x68 (t (2 ^ 24)) [] 100 = true ∧ toOk (t (2 ^ 24)) = true ∧ (run []).reached 1 = false ∧
      toCycles (bits (t (2 ^ 24)) 39 24) ≠ some 0) ∧
     waitB (tallied (waiting (.csnap 0 3))) = true ∧ (run []).reached 0 = true ∧ (List.range 7).all (fun j => ((waiting (.csnap 0 3)).thr (j + 1)).wait.isNone) = true ∧
     canonB ({ tallied up with tally := { nextAt := some 0 } } : State) = true ∧ (tallied up).rget Reg.TALLY_PERIOD_US ≠ 0 ∧
     canonB (held up) = true ∧ (held up).tallyFull = false ∧ (8 + 2) ≤ 2 ^ (tallied up).rget Reg.TALLY_ENTRY_LOG2 / 8 ∧
     ((held (tallied up 0)).rput Reg.TALLY_SIZE_LOG2 0).rget Reg.TALLY_EN = 1 ∧
     (((held up).rput Reg.TALLY_SIZE_LOG2 0).rput Reg.TALLY_PROD 1).tallyFull = true) := by decide +kernel

/-- The smallest parse program: one node, no transition. -/
def prog0 : List Nat := (2 ^ 44 + 1) :: List.replicate 8 0

theorem meets_ParsePrograms :
    let w := fun (x : Nat) => w64 0x78 (x + m53 + 2 ^ 44 + 2 * 2 ^ 40 + 0x81)
    let s := fun (x : Nat) => (start (w x) [] (fun y => (y.setReg 1 0x1000).setReg 2 9)).mwrite (storeKey 0x1000) (prog0.flatMap (beBytes 8))
    let load := fun s : State => (s.setSv 7 { shadow := some prog0 }).rput Reg.SURVEY_LOADING 1 7
    progOk prog0 = true ∧ holdsB (run []) 9 = true ∧ fetchB (ons (s 0) [8, 15]) 0x78 (w 0) [] 100 = true ∧ okBits (w 0) (mB + mC + 0xFF + m53) = true ∧
    reachB (s 0) true 0x1000 72 = true ∧ imagesOf 8 9 ((s 0).mread (storeKey 0x1000) 72) = prog0 ∧ (s 0).rget Reg.SURVEY_LOADING 7 ≠ 1 ∧
    fetchB (s m52) 0x78 (w m52) [] 100 = true ∧ (s m52).domOn 8 = false ∧
    canonB (load up) = true ∧ (load up).rget Reg.SURVEY_LOADING 7 = 1 ∧ waitB (load (waiting (.loadp [7] none))) = true ∧
    (List.range 7).all (fun j => ((waiting (.loadp [7] none)).thr (j + 1)).wait.isNone) = true := by decide +kernel


/-- A context image of one PRB per symbol, whose window closes `close` ns after the symbol starts. -/
def plImg (close : Nat := 1000) : Nat := beNat (([2 ^ 58 + 2 ^ 49 + 16 * 2 ^ 43 + 2 ^ 34 + 2 ^ 29, close, 0, 0, 2 * 2 ^ 32] ++ List.replicate 11 0).flatMap (beBytes 8))

/-- A frame of contributor 0 for symbol 0 of radio frame 0, its application header at byte 0, in the input buffer of engine 0. -/
def plaited (s : State) (bad : Bool := false) : State :=
  let body := beBytes 4 (2 ^ 28 + 64) ++ beBytes 4 0 ++ beBytes 4 (2 ^ 28) ++ beBytes 8 (2 ^ 33 + 16 * 2 ^ 27) ++ List.replicate 48 1
  let t := (ons s [27]).setFr 0 { data := body ++ [0, 0, 0, 0], ended := true, len := 72, record := List.replicate 13 0xFF ++ [0], bad := bad }
  { t with plaitIn := [(0, [⟨0, 0, 1, false⟩])] }

theorem meets_PlaitContextsAndWindows :
    let w := fun (x : Nat) => w64 0x70 (x + 255)
    let f := fun y : Thread => y.setReg 1 0x1000
    let pi := plImg
    let big := imgSet 128 (plImg) 0 61 58 14
    let st := fun (x img : Nat) (c : PlaitCtx) => ons (((start (w x) [] f).mwrite (storeKey 0x1000) (beBytes 128 img)).setPc 255 c) [30]
    let on := fun (x img : Nat) (c : PlaitCtx) => fetchB (st x img c) 0x70 (w x) [] 100 && reachB (st x img c) true 0x1000 128 && plOk img && (st x img c).plait.all (fun e => !e.2.draining)
    let a := m53 + 2 ^ 44
    holdsB (run []) 8 = true ∧ (st a (pi) {}).domOn 30 = true ∧ okBits (w a) (0xFF + m53 + m54 + mB) = true ∧ beNat ((st a (pi) {}).mread (storeKey 0x1000) 128) = pi ∧
    on a (pi) {} = true ∧ (st a (pi) {}).plaitFoot 3 255 + plFoot (pi) ≤ 6291456 ∧ on a (pi) { img := some (pi) } = true ∧
    on a big { img := some (pi) } = true ∧ plSameGeometry (pi) big = false ∧ fetchB (st m54 (pi) { img := some (pi) }) 0x70 (w m54) [] 100 = true ∧
    (let full := (List.range 24).foldl (fun s i => s.setPc (192 + i) { img := some (imgSet 128 big 0 57 49 275) }) (st (m52 + a) big {})
     on (m52 + a) big {} = true ∧ fetchB full 0x70 (w (m52 + a)) [] 100 = true ∧ full.plait.all (fun e => !e.2.draining) = true ∧ 6291456 < full.plaitFoot 3 255 + plFoot big) ∧
    -- drains that have ended, by a disable and by a change of geometry
    (let s := fun (c : PlaitCtx) => { ons (up.setPc 255 c) [30] with mer := { sub := 80000 * 2 ^ 32 } }
     let c : PlaitCtx := { img := some (pi), disabling := true }
     let d : PlaitCtx := { img := some (pi), next := some big, drainFrom := 1 }
     canonB (s c) = true ∧ (s c).reached (c.drainEnd (pi)) = true ∧ canonB (s d) = true ∧ (s d).reached (d.drainEnd (pi)) = true ∧
     laterThan (d.drainEnd (pi)) (plLastOpen big (s d).short) = false) ∧
    -- a frame accepted, a bad frame and one for a context that is not enabled
    (let c : PlaitCtx := { img := some (pi) }
     let s := readied ((plaited up).setPc 0 c) 27
     let x := s.fr 0
     let h := beNat (slice x.body 0 4)
     let tm := beNat (slice x.body 8 4)
     let sy := plSymbol (pi) s.short 0 0 0 0
     canonB s = true ∧ s.works 27 = true ∧ (x.len + 255) / 256 ≤ 1 ∧ (recordBases x.record)[6]?.getD none = some 0 ∧ sy.1 = 0 ∧ sy.2 = 0 ∧
     bits h 31 28 = 1 ∧ bit h 24 = false ∧ bits h 23 16 = 0 ∧ bits tm 31 28 = 1 ∧ bits tm 27 0 = 0 ∧ (c.imgAt 0).getD (pi) = pi ∧
     (List.range (plNCONTRIB (pi))).find? (fun i => plPcId (pi) i == beNat (slice x.body 4 2)) = some 0 ∧
     (parseSections (pi) x.body (min (4 + bits h 15 0) x.body.length) 1200 12).1 ≠ [] ∧ s.winTest c (pi) 0 0 = .open_ ∧
     canonB (readied (plaited up true) 27) = true ∧ ((readied (plaited up true) 27).pc 0).img = none) ∧
    -- a window that closes with too few and with enough contributors
    (let s := fun (p : Nat) => { ons (up.setPc 255 { img := some (pi), wins := [⟨pi, 0, 0, p, [], 0, [], [], []⟩] }) [30] with mer := { sub := 80000 * 2 ^ 32 } }
     canonB (s 0) = true ∧ canonB (s 1) = true ∧ (s 0).reached (wrapInt 48 (0 + plCLOSE (pi))) = true ∧
     ((List.range (plNCONTRIB (pi))).filter (fun j => bit 0 j)).length < plMIN (pi) ∧
     plMIN (pi) ≤ ((List.range (plNCONTRIB (pi))).filter (fun j => bit 1 j)).length) := by decide +kernel

theorem meets_Combining :
    let e : PlSect := ⟨0, 1, false, 16, 0⟩
    let d := List.replicate 48 (1 : Byte)
    let a := addSection 0x7FFF e d []
    let b := addSection 0x4000 e d []
    swf (fun _ => 0) ([] : Sparse Int) = true ∧ (List.replicate 24 (-32768 : Int)).length = 24 ∧ a.2.2.2 = 0 ∧ (addSection 0x4000 e d a.1).2.2.2 = 0 ∧
    b.2.2.2 = 0 ∧ (addSection 0x7FFF e d b.1).2.2.2 = 0 := by decide +kernel


/-- Ring 63 enabled with 2 entries, pending up to index `tail`, bound to PF0. -/
def ring63 (s : State) (tail : Nat := 1) : State :=
  (((((s.rput Reg.BIND_TARGET 1 0 [63]).rputBoth Reg.SEQ_EN 1 0 [63]).rputBoth Reg.SEQ_SIZE_LOG2 1 0 [63]).rputBoth Reg.SEQ_PRIO 3 0 [63]).rputBoth Reg.SEQ_THREAD_MASK 0xFF 0 [63]).rputBoth
    Reg.DB_TAIL tail 63

theorem meets_RingRules :
    let p := lit.rput Reg.BIND_TARGET 17 0 [63]
    let hi := p.rput Reg.CC_CLAIM 1 0 [0]
    canonB (ring63 lit) = true ∧ (ring63 lit).boot.porst = false ∧ (ring63 lit).clockless = false ∧ (ring63 lit).domOn 43 = true ∧ hasBar2 pf0 = true ∧
    (ring63 lit).privileged 63 = false ∧ (ring63 lit).admits ((ring63 lit).ringTarget 63) 1 = true ∧
    (2 + 65536 - (ring63 lit).rget Reg.DB_HEAD 63) % 65536 ≤ (ring63 lit).ringSize 63 ∧ (ring63 lit).ringSize 63 < (3 + 65536 - (ring63 lit).rget Reg.DB_HEAD 63) % 65536 ∧
    p.privileged 63 = true ∧ p.isHigher 17 = false ∧ hi.isHigher 17 = true ∧ hi.privileged 63 = true ∧ p.admits (p.ringTarget 63) 17 = true ∧
    hi.admits (hi.ringTarget 63) 17 = true ∧ hi.admits (hi.ringTarget 63) 1 = false ∧ hasBar2 ⟨17, 0⟩ = true ∧ hasBar0 ⟨17, 0⟩ = true ∧
    lit.privileged 63 = false ∧ lit.admits (lit.ringTarget 63) 1 = false ∧ hasBar0 pf0 = true ∧
    -- the completion ring full since cycle 0, past 1 ms and at it, and noticed already
    (let full := fun (now : Nat) (st : Bool) => ({ (((ring63 lit).rput Reg.DB_CQ_TAIL 2 63)).setRingx 63 { fullSince := some 0, stalled := st } with now := now } : State)
     canonB (full 1600001 false) = true ∧ (full 1600001 false).cqFree 63 = false ∧ (full 1600000 false).now ≤ 0 + 1600000 ∧ ((full 1600001 true).ringx 63).stalled = true) ∧
    -- the ring is chosen, and is the one eligible
    (ring63 lit).nextRing = some (3, 63) ∧ (ring63 lit).ringEligible 63 = true := by decide +kernel

theorem meets_ProgramStartsAndStops :
    let q := fun (w0 w1 : Nat) =>
      let s := bme0 ((ring63 lit).rput Reg.SEQ_SEQ_EN 1)
      match s.fetchBoundary.headKey 63 with | some k => s.mwrite k ([w0, w1, 5, 6].flatMap (leBytes 8)) | none => s
    let s := q 0x1000 (2 ^ 63 + 2 ^ 32)
    let off := (ring63 lit).rput Reg.SEQ_SEQ_EN 1
    canonB s = true ∧ s.rget Reg.SEQ_SEQ_EN = 1 ∧ (s.thr 0).running = false ∧ s.fetchBoundary.nextRing = some (3, 63) ∧ (s.fetchBoundary.headKey 63).isSome = true ∧
    s.fetchBoundary.headDoomed 63 = false ∧ s.fetchBoundary.idleFor 63 = [0, 1, 2, 3, 4, 5, 6, 7] ∧
    (match s.fetchBoundary.headKey 63 with | some k => s.fetchBoundary.m64 (k + 8) == 2 ^ 63 + 2 ^ 32 && s.fetchBoundary.m64 k == 0x1000 | none => false) = true ∧
    descOk (2 ^ 63 + 2 ^ 32) = true ∧ s.fetchBoundary.ringFunc 63 = some 0 ∧ descOk (2 ^ 28) = false ∧ (q 0 (2 ^ 28)).fetchBoundary.nextRing = some (3, 63) ∧
    (q 0 (2 ^ 28)).fetchBoundary.headDoomed 63 = false ∧ canonB off = true ∧ off.fetchBoundary.headKey 63 = none ∧ off.fetchBoundary.nextRing = some (3, 63) ∧
    lit.rget Reg.SEQ_SEQ_EN = 0 ∧
    -- halts, budgets and timeouts
    (let h := fun s : State => s.rput Reg.SEQ_THREAD_HALT 1
     let w := fun (b d : Nat) (soft : Bool) (now : Nat) =>
       ({ ((run []).setThr 0 { (run []).thr 0 with wait := some ⟨.waitev 0 0 0 false false, 0, some d, soft, 1⟩, budget := b, len := 0 }) with now := now } : State)
     canonB (h (run [])) = true ∧ bit ((h (run [])).rget Reg.SEQ_THREAD_HALT) 0 = true ∧ ((run []).thr 0).running = true ∧ ((run []).thr 0).ring < 64 ∧
     bit ((run []).rget Reg.SEQ_THREAD_HALT) 0 = false ∧ canonB (w 10 30 true 20) = true ∧ 10 ≤ ((w 10 30 true 20).thr 0).charged + (20 - 0) / 2 ∧
     ((w 10 30 true 19).thr 0).charged + (19 - 0) / 2 < 10 ∧ (w 0 30 false 30).now ≥ 30 ∧ ((w 0 30 false 30).thr 0).len = 0 ∧ (w 0 30 true 29).now < 30) := by
  decide +kernel


/-- The refusals of RefusedWrites: a malformed write; CLOCKLESS; binding locked; a complex without the claim; domain off; not listed. -/
theorem meets_BusWrites :
    let w := fun (a : Nat) (f : Bool) => (⟨0, a, [0#32], f⟩ : BusWrite)
    let p := fun (a : Nat) => placeOf (a % 2 ^ 26)
    let off := fun (s : State) (a : Nat) => (match s.govern (bankOf pf0) (p a).blk (p a).off (s.queuePipe (s.sel (bankOf pf0) 10 0x10)) with | some d => s.dom d == 0 | none => false)
    canonB up = true ∧ up.boot.porst = false ∧ hasBar0 pf0 = true ∧ pf0.id ≠ 19 ∧ up.rget Reg.GLOBAL_VALID = 0 ∧ (up.rput Reg.GLOBAL_VALID 1).rget Reg.GLOBAL_VALID = 1 ∧
    (w 0 false).full = false ∧ ((w 0 true).dws.length = 1) ∧
    canonB (up.rput Reg.GLOBAL_STATE 2) = true ∧ (up.rput Reg.GLOBAL_STATE 2).clockless = true ∧ (p 0x100000).blk ≠ 0 ∧ up.clockless = false ∧
    (up.rput Reg.BIND_BIND_LOCK 1).rget Reg.BIND_BIND_LOCK = 1 ∧ p 0xE01000 = ⟨14, 0x1000, false⟩ ∧ p 0xE02300 = ⟨14, 0x2300, false⟩ ∧
    hasBar0 ⟨17, 0⟩ = true ∧ up.isHigher 17 = false ∧ p 0x200010 = ⟨2, 0x10, false⟩ ∧ isSelect 8 0x100 = false ∧
    off up 0x800100 = true ∧ off up 0x100100 = false ∧ regListed 1 0xFFC = false ∧ (p 0x100900).view = true ∧
    -- accepted: a select register and a binding, buffered
    acceptsB up 2 0x10 43 = true ∧ isSelect 2 0x10 = true ∧ acceptsB up 14 0x1000 1 = true ∧ isSelect 14 0x1000 = false ∧
    up.writeCause 1 (bankOf pf0) (p 0xE01000) (up.instOf (bankOf pf0) 14 0x1000) (up.queuePipe (up.sel (bankOf pf0) 10 0x10)) 1 0xFFFFFFFF = 0 := by decide +kernel

theorem meets_RegisterReadings :
    let b := bankOf pf0
    let q := fun (s : State) => s.queuePipe (s.sel b 10 0x10)
    canonB up = true ∧ up.boot.porst = false ∧ hasBar0 pf0 = true ∧ 0xE01000 % 2 ^ 20 < 2 ^ 16 ∧
    regListed 1 0xFFC = false ∧ placeOf 0x100FFC = ⟨1, 0x7FC, true⟩ ∧ regListed 1 0x7FC = false ∧
    (up.rput Reg.GLOBAL_STATE 2).clockless = true ∧
    -- a domain that is off; a single register; a pair, whose high word is then read
    placeOf 0x602000 = ⟨6, 0x2000, false⟩ ∧ (match up.govern b 6 0x2000 (q up) with | some d => up.dom d == 0 | none => false) = true ∧ isSelect 6 0x2000 = false ∧
    placeOf 0x20 = ⟨0, 0x20, false⟩ ∧ regListed 0 0x20 = true ∧ up.clockless = false ∧ up.govern b 0 0x20 (q up) = none ∧ isSelect 0 0x20 = false ∧
    (regRows 0 0x20).any (fun r => r.pair) = false ∧ (regRows 0 0x20).any (fun r => r.acc == .rc) = true ∧
    (let a := 0xF00000 + rowAdr Reg.TALLY_CNT [1]
     let p := placeOf a
     p.view = false ∧ p.blk = 15 ∧ regListed 15 p.off = true ∧ up.govern b 15 p.off (q up) = none ∧ (regRows 15 p.off).any (fun r => r.pair) = true ∧
     p.off % 8 = 0 ∧ a % 8 = 0 ∧ p.off + 4 < 2 ^ 16 ∧ up.instOf b 15 p.off < 2 ^ 17 ∧ (regRows 15 (p.off + 4)).any (fun r => r.pair) = true ∧
     placeOf (a + 4) = ⟨15, p.off + 4, false⟩ ∧ regListed 15 (p.off + 4) = true ∧ up.instOf b 15 (p.off + 4) = up.instOf b 15 p.off ∧
     up.govern b 15 (p.off + 4) (q up) = none) := by decide +kernel

theorem meets_LocksAndBoundaries :
    canonB up = true ∧ up.boot.porst = false ∧ up.clockless = false ∧ up.rget Reg.BIND_BIND_LOCK = 0 ∧ hasBar0 pf0 = true ∧
    (up.rput Reg.GLOBAL_STATE 2).clockless = true ∧ canonB (up.rput Reg.GLOBAL_STATE 2) = true ∧
    (up.rput Reg.FWD_EXP_EN 1 3).rget Reg.FWD_EXP_EN 3 = 1 ∧
    (match exec (.boundaryApply .frame 8 3 0) up with | .next t => t.rget Reg.FWD_EXP_EN 3 == 0 | _ => false) = true := by decide +kernel


/-- Port 127, its link in state st, changed by f. -/
def port127 (st : Nat) (f : PortX → PortX := id) : State :=
  let s := (up.rput Reg.PORT_LINK_STATE st 127).rput Reg.POWER_STATE 2 7
  s.setPx 127 (f {})

theorem meets_PortLinksAndPauses :
    let at_ := fun (s : State) (now : Nat) => ({ s with now := now } : State)
    let ms := 1600000
    (List.range 6).all (fun st => canonB (port127 st)) = true ∧ (port127 5).rget Reg.PORT_LINK_STATE 127 = 5 ∧
    ((port127 3).px 127).closing = false ∧ ((port127 3).px 127).since + (port127 3).rget Reg.PORT_LINK_UP_DB 127 * ms ≤ (at_ (port127 3) (500 * ms)).now ∧
    ((port127 3).px 127).since + 500 * ms ≤ (at_ (port127 3) (500 * ms)).now ∧ (at_ (port127 3) (500 * ms - 1)).now < ((port127 3).px 127).since + 500 * ms ∧
    (port127 1).rget Reg.PORT_LOCAL_FAULT 127 = 0 ∧ (port127 1).rget Reg.PORT_REMOTE_FAULT 127 = 0 ∧
    canonB (port127 4 (fun x => { x with closing := true })) = true ∧ ((port127 4 (fun x => { x with closing := true })).px 127).tx = none ∧
    -- pause frames, units, refresh, verification
    (let d := fun (op : Nat) => List.replicate 12 (0 : Byte) ++ beBytes 2 0x8808 ++ beBytes 2 op ++ beBytes 2 0xFFFF
     let u := fun (y : PauseX) => port127 4 (fun x => { x with pause := [(8, y)] })
     beNat (slice (d 1) 12 2) = 0x8808 ∧ beNat (slice (d 1) 14 2) = 1 ∧ beNat (slice (d 2) 14 2) ≠ 1 ∧ beNat (slice (d 2) 14 2) ≠ 0x101 ∧ beNat (slice (d 0x101) 14 2) = 0x101 ∧ beNat (slice (d 1) 16 2) = 0xFFFF ∧
     (port127 4).rget Reg.PORT_PFC 127 = 0 ∧ ((port127 4).rput Reg.PORT_RX_EN 1 127).rget Reg.PORT_RX_EN 127 = 1 ∧ (port127 4).rget Reg.PORT_RX_EN 127 = 0 ∧
     canonB (u { paused := true, expiry := 10 }) = true ∧ ((((u { paused := true, expiry := 10 }).px 127).unit 8)).paused = true ∧
     (at_ (u { paused := true, expiry := 10 }) 10).now ≥ 10 ∧ (u { paused := true, expiry := 10 }).now < 10 ∧
     ((u { paused := true }).rput Reg.PORT_WDOG_TIME 1 127).rget Reg.PORT_WDOG_TIME 127 ≠ 0 ∧ 0 + 1 * ms ≤ (at_ (u { paused := true }) ms).now ∧
     (u { paused := true }).rget Reg.PORT_WDOG_TIME 127 * ms ≥ 0 ∧ canonB (u { held := true, holdEnd := 0 }) = true ∧ (u { held := true, holdEnd := 0 }).now ≥ 0 ∧
     (let r := (port127 4 (fun x => { x with asked := 1, xoff := 1 })).rput Reg.PORT_TX_EN 1 127
      canonB r = true ∧ r.rget Reg.PORT_TX_EN 127 = 1 ∧ (r.px 127).asked ≠ 0 ∧ (r.px 127).xoff ≠ 0 ∧ (r.px 127).refreshAt ≤ r.now) ∧
     (let v := fun (n : Nat) => at_ ((port127 4 (fun x => { x with verifyTries := n })).rput Reg.PORT_VERIFY 1 127) (200 * ms)
      canonB (v 2) = true ∧ canonB (v 3) = true ∧ (v 2).rget Reg.PORT_VERIFY 127 = 1 ∧ ((v 3).px 127).verifyAt + (v 3).rget Reg.PORT_VERIFY_TIME 127 * ms ≤ (v 3).now) ∧
     -- FEC within its window; a snapshot of port 127 by PF0
     (port127 4).now < ((port127 4).px 127).fecStart + (port127 4).rget Reg.PORT_WIN 127 * 1600 ∧ ((port127 4).rput Reg.PORT_TH 1 127).rget Reg.PORT_TH 127 = 1 ∧
     (pick (port127 4) 6 127).sel (bankOf pf0) 6 0x10 = 127 ∧ (port127 4).domOn (127 / 16) = true ∧ (port127 4).boot.porst = false ∧ (port127 4).clockless = false ∧
     canonB (pick (port127 4) 6 127) = true) := by decide +kernel

theorem meets_PortFrames :
    let d := fun (n ty : Nat) => List.replicate 12 (0 : Byte) ++ beBytes 2 ty ++ List.replicate (n - 14) 0
    let it : Item := ⟨0, 0, 127, 7, 0, 0, 7, 1, false, false, false, none⟩
    let good := fun s : State => ((s.setFr 0 { ended := true, len := 64, data := d 68 0x800 }).setCopy 0 0 { k := 1, refs := 1, written := 1 })
    let s := port127 4
    canonB s = true ∧ s.rget Reg.PORT_LINK_STATE 127 = 4 ∧ (port127 3).rget Reg.PORT_LINK_STATE 127 ≠ 4 ∧ s.domOn (127 / 16) = true ∧ (s.px 127).rx = none ∧
    (d 63 0).length < 64 ∧ (d 64 0x8808).length = 64 ∧ beNat (slice (d 64 0x8808) 12 2) = 0x8808 ∧ beNat (slice (d 64 0x800) 12 2) ≠ 0x8808 ∧
    canonB (good (port127 4 (fun x => { x with rx := some 0 }))) = true ∧
    (s.px 127).tx = none ∧ (s.px 127).closing = false ∧ (s.px 127).pre = none ∧ canonB (port127 4 (fun x => { x with due := true })) = true ∧
    canonB (good (port127 4 (fun x => { x with exp := [{ f := 0, img := 0 }] }))) = true ∧ (port127 4 (fun x => { x with exp := [{ f := 0, img := 0 }] })).paused 127 8 = false ∧
    (let t := good (port127 4 (fun x => { x with ready := [(7, it)] }))
     canonB t = true ∧ t.slotReady 127 7 = true ∧ sfind (t.px 127).ready 7 = some it ∧ (t.copy 0 0).bad = false ∧ bit (t.fr 0).legend 46 = false) ∧
    (List.range 8).all (fun j => !s.slotReady 127 j) = true ∧
    (let e := fun (k : Nat) => good (port127 4 (fun x => { x with tx := some { kind := k, item := it, done := true, data := d 60 0x8808 } }))
     let p := port127 4 (fun x => { x with tx := some { kind := 2, done := true, data := List.replicate 14 0 ++ [0, 1] ++ List.replicate 44 0 } })
     canonB p = true ∧ canonB (e 1) = true ∧ canonB (e 0) = true ∧ (e 0).stored 0 0 = true ∧
     beNat (slice (List.replicate 14 (0 : Byte) ++ [0, 1] ++ List.replicate 44 0) 14 2) = 1) := by decide +kernel


/-- A parse program whose one node checks a total length at byte 0 and ends. -/
def prog1 : List Nat := [2 ^ 44 + 1, 0, 2 ^ 61, 0, 0, 0, 0, 2 ^ 63, 0]

theorem meets_LearningMirrorsRecirculation :
    let v := imgSet 32 0 3 63 63 1
    let h := imgSet 32 v 3 62 62 1
    let q := fun (k old now : Nat) => ({ up.setTab tADDR 0 8 now with fwd := { learn := [⟨8, old, imgSet 32 v 0 47 0 5, 7, k⟩] } } : State)
    let live := fun (s : State) (old k : Nat) => imgSet 32 (s.tab tADDR 0 8) 3 62 62 0 == imgSet 32 old 3 62 62 0 && (k != 0 || (s.addrFind 0 5).isNone) && (k != 3 || !aHIT (s.tab tADDR 0 8))
    canonB (q 0 0 0) = true ∧ live (q 0 0 0) 0 0 = true ∧ live (q 3 v v) v 3 = true ∧ live (q 4 h h) h 4 = true ∧ live (q 3 v h) v 3 = false ∧
    (let a := fun (e : Nat) => (up.setTab tADDR 0 524287 e).rput Reg.FWD_AGE_PERIOD 1
     canonB (a v) = true ∧ (a v).rget Reg.FWD_AGE_PERIOD ≠ 0 ∧ 524287 < tabEntries tADDR ∧ (a v).poisoned tADDR 0 524287 = false ∧ aVALID v = true ∧ aLOCK v = false ∧
     aHIT v = false ∧ aHIT h = true ∧ aHIT 0 = false ∧ aVALID 0 = false ∧ ({ a v with poison := [tabKey tADDR 0 524287] } : State).poisoned tADDR 0 524287 = true) ∧
    -- a mirror entry, and none
    (let m : MirrorW := ⟨0, 15, 1, some (List.replicate 128 1), some 300, List.replicate 124 2⟩
     let n : MirrorW := { m with head := none, len := none }
     let s := fun (m : MirrorW) => ({ up.setFr 0 { ended := true, len := 9600, data := List.replicate 128 3 } with fwd := { mirror := [m] } } : State)
     canonB (s m) = true ∧ m.head.isSome = true ∧ ((s n).fr 0).head128 = some (List.replicate 128 3) ∧ canonB (s n) = true ∧ up.fwd.mirror = []) ∧
    -- recirculation of a frame that is whole, bad, or not whole; with and without an edit program
    (let it : Item := { f := 0, b := 7, port := 168, queue := 65535 }
     let r := fun (bad : Bool) (lg : Nat) (on : Bool) =>
       let s := readied ((ons up (if on then [15, 23] else [23])).setQ 65535 { oc := [it] }) 15
       let t := (s.setFr 0 { ended := true, len := 64, legend := lg, data := List.replicate 64 0 }).setCopy 0 7 { k := 1, refs := 1, written := 1, bad := bad }
       ({ t with nextFrame := 1 } : State)
     let whole := fun (s : State) => s.works 15 && s.domOn 23 && (s.fr 0).ended && s.stored 0 7
     canonB (r false 0 true) = true ∧ whole (r false 0 true) = true ∧ whole (r true 0 true) = true ∧ ((r true 0 true).copy 0 7).bad = true ∧ whole (r false 0 false) = false ∧
     whole (r false (2 ^ 46) true) = true ∧ (r false (2 ^ 46) true).poisoned tEDIT 0 0 = false ∧ ((r false 0 true).q 65535).oc = [it] ∧ (up.q 65535).oc = []) := by
  decide +kernel

theorem meets_ParseAndForward :
    let s := fun (x : Frame) (lost : List Nat) => ((ons up [15]).setFr 0 { x with pipe := 7 }).setSv 7 { lost := lost }
    let f : Frame := { prog := prog1, depthB := 128, depthH := 24, how := 1, data := [1, 0] ++ List.replicate 80 0 }
    let p := fun (x : Frame) => parseFrame x.prog x.body x.body.length x.ended x.depthB x.depthH
    progOk prog1 = true ∧ canonB (s f []) = true ∧ (sfind (s f []).frames 0).isSome = true ∧ (s f []).domOn 15 = true ∧ f.stage = 0 ∧
    (p { f with data := [1, 0, 0, 0] }).waits = true ∧ (p f).waits = false ∧ (p f).rd.any (fun w => ((s f [1]).sv 7).lost.contains w) = true ∧
    (p { f with ended := true }).waits = false ∧ bit (p f).flags 1 = false ∧ f.body.length < (p f).claim ∧ f.trunc = false ∧ f.lenLate = false ∧
    (let y := { f with pipe := 7, record := (p f).finish 0 0 (progId prog1) false }
     let w := ((s f []).setFr 0 y).legendWalk 0
     w.1.fwdNeeds y w.2 ≤ y.body.length) ∧
    (let g : Frame := { f with stage := 1 }
     let t := fun (l : Nat) => readied ((({ s g [] with fwd := { overflow := [(chipIx 0 (beNat (slice g.body 0 6)) / 8, 1)] } } : State)).rput Reg.FWD_LEARN_MODE l 0 [0]) 50
     let u : Frame := { g with data := List.replicate 82 0 }
     let t0 := ({ t 1 with fwd := { overflow := [(chipIx 0 0 / 8, 1)] } } : State).setFr 0 { u with pipe := 7 }
     canonB (t 0) = true ∧ (t 0).learnMode 0 = 0 ∧ canonB t0 = true ∧ t0.learnMode 0 ≠ 0 ∧ u.field 6 1 % 2 = 0 ∧ t0.addrNeedsExt 0 (u.field 6 6) = true ∧
     t0.addrNeedsExt 0 (u.field 0 6) = true) := by decide +kernel


theorem meets_SlathCells :
    let s := fun (y : SlathIn) (l : Sparse (List (Nat × Nat))) (i : Nat) =>
      let t := ((ons up [16, 23, 24]).setFr 5 { ended := true, len := 300, data := [] }).setCopy 5 7 { k := 2, refs := 1 }
      ({ t with slath := { ins := [(i, y)], loc := l } } : State)
    let u : SlathIn := { uc := [(7, [(5, 1)])], order := [5] }
    let m : SlathIn := { mc := [⟨5, [0, 7], [0, 7], 1⟩], order := [5] }
    canonB (s u [] 11) = true ∧ (s u [] 11).cellHere 5 1 = true ∧ (s u [] 11).domOn 24 = true ∧ (s u [] 11).domOn 23 = true ∧ ((s u [] 11).copy 5 7).refs ≠ 0 ∧
    canonB (s m [] 0) = true ∧ (s m [] 0).cellHere 5 1 = true ∧ (s m [] 0).domOn 16 = true ∧
    canonB (s { order := [5] } [(7, [(5, 1)])] 7) = true ∧ (s { order := [5] } [(7, [(5, 1)])] 7).cellHere 5 1 = true ∧
    (s { order := [5] } [(7, [(5, 1)])] 7).cellPast 5 2 = true := by decide +kernel

theorem meets_LoansSpillAndReadBack :
    let b := 7
    let s := fun (st fill : Nat) => ((((((ons up [23]).rput Reg.SLATH_SPILL_STATE st b).rput Reg.SLATH_CACHE_FILL fill b).rput Reg.SLATH_SPILL_FREE 4000 b).rput Reg.SLATH_REFILL_TH 64 b).rput Reg.SLATH_FLUSH_TH 4032 b).rput
      Reg.SLATH_SPILL_BLOCKS 1024 b
    canonB (s 1 0) = true ∧ (s 1 0).rget Reg.SLATH_SPILL_STATE b = 1 ∧ (s 1 0).domOn 23 = true ∧ (s 2 63).rget Reg.SLATH_CACHE_FILL b < (s 2 63).rget Reg.SLATH_REFILL_TH b ∧
    (s 2 4033).rget Reg.SLATH_FLUSH_TH b < (s 2 4033).rget Reg.SLATH_CACHE_FILL b + 0 ∧ (s 2 4096).rget Reg.SLATH_CACHE_FILL b ≤ 4096 ∧ (s 2 64).rget Reg.SLATH_SPILL_STATE b = 2 ∧
    -- a loan returned by its owner, by another, and the loans of an owner reclaimed
    (let l := fun (o : Nat) => (ons up [0, 23, 24]).setCrl b { loans := [(4095, ⟨1, o, [], 0, none⟩)] }
     let v := 7 * 2 ^ 12 + 4095
     canonB (l 1) = true ∧ (l 1).boot.porst = false ∧ hasBar0 pf0 = true ∧ acceptsB (l 1) 5 0x300 v = true ∧ bits v 14 12 = b ∧ (l 1).loanOwner b 4095 = some 1 ∧
     (l 2).loanOwner b 4095 ≠ some 1 ∧ acceptsB (l 2) 5 0x300 v = true ∧ (match (l 1).govern (bankOf pf0) 5 0x300 none with | some d => (l 1).dom d != 1 | none => true) = true ∧
     acceptsB (pick (l 17) 9 b) 9 0x300 (2 ^ 31 + 17) = true ∧ (pick (l 17) 9 b).instOf (bankOf pf0) 9 0x300 = b ∧
     (match (pick (l 17) 9 b).govern (bankOf pf0) 9 0x300 none with | some d => (pick (l 17) 9 b).dom d != 1 | none => true) = true) ∧
    -- a frame spilled, one with an error, one that waits for the cache; a frame read back
    (let it : Item := { f := 3, b := b, port := 16, queue := 7, inBlocks := true, chg := 1 }
     let q := fun (x : Queue) (bad : Bool) (fill : Nat) =>
       (((readied (s 2 fill) 47).setFr 3 { ended := true, len := 9600 }).setCopy 3 b { k := 38, refs := 1, written := 38, bad := bad }).setQ 7 x
     let p : Queue := { pend := [it], alloc := true, mapped := true, resident := true, spilling := true }
     let r : Queue := { lp := [it], alloc := true, mapped := true, resident := true, spilling := true }
     let z := fun (x : Queue) => (q x false 64).setCrl b { aside := 38 }
     canonB (q p false 64) = true ∧ (q p false 64).lp4xReady = true ∧ (q p false 64).domOn (16 + b) = true ∧ (q p false 64).stored 3 b = true ∧ ((q p true 64).copy 3 b).bad = true ∧
     ceilDiv 9600 2048 ≤ (q p false 5).rget Reg.SLATH_CACHE_FILL b ∧ (q p false 4).rget Reg.SLATH_CACHE_FILL b < ceilDiv 9600 2048 ∧
     canonB (z r) = true ∧ ((z r).q 7).oc.length < 2 ∧ (z r).rbUsed b + ceilDiv 9600 256 ≤ ((z r).crl b).aside ∧
     2 ≤ ((z { r with oc := [it, it] }).q 7).oc.length) := by decide +kernel

theorem meets_Paging :
    let it : Item := { f := 3, b := 7, port := 112, queue := 7 }
    let x : Queue := { alloc := true, mapped := true, fresh := true, port := 112 }
    let s := fun (x : Queue) => ((ons up [23]).setQ 7 x).setPager 7 { staged := [it], lastFresh := some 0 }
    let late := ({ s x with now := 2 } : State)
    canonB (s x) = true ∧ late.nextPageIn 7 = some 7 ∧ up.nextPageIn 7 = none ∧ late.domOn 23 = true ∧ ((late.slotHolders 7).filter (fun e => e.2.paging)).length < 4 ∧
    late.slotsFree 7 ≠ 0 ∧ late.now = 2 ∧
    (let p := fun (rd : Bool) => readied ((({ s { x with paging := true, slot := 2047, pageRead := rd } with now := 16 } : State)).rput Reg.QUEUE_PAGING_STATE 1) 47
     canonB (p true) = true ∧ (p true).queueBasket 7 = 7 ∧ (p true).pagingReady = true ∧ ((p false).q 7).pageAt + 16 ≤ (p false).now ∧ ((p true).q 7).paging = true ∧
     (up.q 7).paging = false) ∧
    (let e := readied (((((ons up [23]).setQ 7 { x with resident := true }).setQ 8 { x with resident := true, pinned := true, slot := 1 }).rput Reg.QUEUE_PAGING_STATE 1).rput
       Reg.QUEUE_EVICT_LOW 2047 0 [7]) 47
     canonB e = true ∧ e.domOn 23 = true ∧ e.slotsFree 7 < e.rget Reg.QUEUE_EVICT_LOW 0 [7] ∧ e.pagingReady = true ∧ e.lruQueues 7 = [7] ∧ up.rget Reg.QUEUE_EVICT_LOW 0 [7] ≤ up.slotsFree 7) ∧
    (up.pager 7).waitQ = none ∧ (up.setPager 7 { waitQ := some 7 }).nextPageIn 7 = none ∧ canonB (up.setPager 7 { waitQ := some 7 }) = true ∧
    (let f := fun (now : Nat) => ({ (s x).setPager 7 { staged := [it], waitQ := some 7 } with now := now } : State)
     canonB (f 16000) = true ∧ ((f 16000).pager 7).waitQ = some 7 ∧ (f 16000).nextPageIn 7 = some 7 ∧ ((f 16000).pager 7).faulted = false ∧ ((f 16000).pager 7).waitAt + 10 * 1600 ≤ (f 16000).now ∧ (f 15999).now < 0 + 16000) ∧
    (let h := fun (now : Nat) => ({ ((up.setQ 7 { x with port := 127 }).setPx 127 { holdEnd := 5 }).rput Reg.QUEUE_HOLD_STATE 1 0 [127] with now := now } : State)
     canonB (h 5) = true ∧ (h 5).rget Reg.QUEUE_HOLD_STATE 0 [127] = 1 ∧ ((h 5).px 127).holdEnd ≤ (h 5).now ∧ (h 4).now < ((h 4).px 127).holdEnd ∧ (h 5).queuesOf 127 = [7]) := by
  decide +kernel

theorem meets_Scheduling :
    let it : Item := { f := 3, b := 7, port := 127, queue := 7, cls := 7 }
    let l1 := 7 * 128
    let l2 := 7 * 1024
    let s := (((((((ons up [15, 23]).setQ 7 { alloc := true, mapped := true, resident := true, port := 127, cls := 7, oc := [it] }).setObj 7 { parent := l2 }).setObj (l2Key l2) { parent := l1 }).setObj (l1Key l1) { parent := 127 }).setFr 3
      { ended := true, len := 64 }).setCopy 3 7 { k := 1, refs := 1, written := 1 }).rput Reg.QUEUE_HOLD_STATE 2 0 [127]
    canonB s = true ∧ (portsOfPipe 7).all (fun p => (List.range 8).all (fun c => (s.candidates p c).isEmpty || (p == 127 && c == 7))) = true ∧
    (portsOfPipe 7).all (fun p => (List.range 8).all (fun c => (up.candidates p c).isEmpty)) = true ∧
    s.candidates 127 7 = [7] ∧ (127 : Nat) ∈ portsOfPipe 7 ∧ s.domOn 15 = true ∧ s.domOn 23 = true ∧ (s.obj 7).parent = l2 ∧ (s.obj (l2Key l2)).parent = l1 ∧ l2 < 8192 ∧ l1 < 1024 ∧
    (s.obj 7).band < 8 ∧ (s.obj 7).okAny = true ∧ (s.obj (l2Key l2)).okAny = true ∧ (s.obj (l1Key l1)).okAny = true ∧ (s.obj (portKey 127)).okAny = true ∧
    s.rget Reg.QUEUE_HOLD_STATE 0 [127] = 2 ∧ sfind (s.px 127).ready 7 = none ∧ s.gateOversize 127 7 (s.schedLen 3) = false ∧ (s.copy 3 7).bad = false ∧
    s.fits 127 7 s.projected (s.schedLen 3) = true ∧
    -- the visits of an object: values to install, due in the fine and in the coarse ring, not due yet, nothing to do
    (let o := fun (x : Obj) => (ons up [15]).setObj (l1Key l1) x
     let k := l1Key l1
     let v : ShSet := ⟨1000, 1000, 64, 64, 1, 0, 127⟩
     canonB (o { set := some v }) = true ∧ k < 2 ^ 20 ∧ (o {}).pipeOfObj k = 7 ∧ (o {}).frozen k = false ∧ (o {}).domOn (8 + 7) = true ∧ canonB (o { wheel := some (0, false) }) = true ∧
     (o { wheel := some (0, false) }).reached (ceilDiv 0 5 * 5 % 2 ^ 48) = true ∧ (o { wheel := some (0, true) }).reached (0 / 20480 * 20480 % 2 ^ 48) = true ∧
     (o { wheel := some (1, false) }).reached (ceilDiv 1 5 * 5 % 2 ^ 48) = false ∧ (up.obj k).set = none ∧ (up.obj k).wheel = none) ∧
    (let d := fun (t : Nat) => (up.setPx 151 { ready := [(7, { it with launch := some t })] })
     canonB (d 0) = true ∧ 0 ≤ diff8 (d 0).t8 ((d 0).deadline 151 (2 ^ 48 - (d 0).rget Reg.SCHED_LAUNCH_WINDOW 151)) ∧ diff8 (d 0).t8 ((d 0).deadline 151 10) < 0) := by
  decide +kernel


/-- Lane 23 enabled with option 2. -/
def lane23 (f : LaneX → LaneX) : State := (((ons up [1]).rput Reg.BRIDGE_EN 1 23).rput Reg.BRIDGE_OPTION 2 23).setLane 23 (f {})

theorem meets_CpriLanes :
    let s := lane23 id
    let g := s.laneCfg 23
    canonB s = true ∧ s.laneOn 23 = true ∧ up.laneOn 23 = false ∧ g.bf = 32 ∧ (lane23 (fun x => { x with map := List.replicate 8192 (0, none) })).laneOn 23 = true ∧
    (s.lane 23).map.length < 8192 ∧ (s.lane 23).sync = false ∧ (s.lane 23).cands = [] ∧
    -- four candidates, none of which a start meets; one candidate whose HFN comes now, good or not, confirming or not
    (let c := fun (m h : Nat) => lane23 (fun x => { x with off := 64 * 32, cands := [⟨0, m, h, true⟩] })
     canonB (lane23 (fun x => { x with cands := List.replicate 4 ⟨9, 1, 5, false⟩ })) = true ∧ canonB (c 0 0) = true ∧
     0 + 64 * g.bf = ((c 0 0).lane 23).off ∧ 0 + 1 ≠ g.n ∧ (g.n - 1) + 1 = g.n ∧ (149 + 1) % 150 = 0 ∧ ¬ (150 ≤ 149)) ∧
    -- in SYNC: the HFN seen or missed, one miss before the limit and at it
    (let z := fun (seen : Bool) (m : Nat) => lane23 (fun x => { x with off := 64 * 32, sync := true, seen := seen, misses := m, hfn := 149 })
     canonB (z true 0) = true ∧ ((z true 0).lane 23).off = 0 + 64 * g.bf ∧ g.m ≠ 0 ∧ 0 + 1 ≠ g.m ∧ (g.m - 1) + 1 = g.m ∧ ((lane23 id).rput Reg.BRIDGE_M 0 23).rget Reg.BRIDGE_M 23 = 0) ∧
    (let w := lane23 (fun x => { x with sdGroups := 10 ^ 9 })
     g.b10 = true ∧ g.sdLen ≤ (w.lane 23).sdGroups + 1) ∧
    -- a tick that is due; the play-out buffer empty and not; control words
    (let k := fun (f : LaneX → LaneX) => ({ lane23 f with mer := { sub := 66667 * 2 ^ 32 } } : State)
     canonB (k id) = true ∧ ((k id).lane 23).tick < (k id).tickIndex 23 ∧ ((k id).lane 23).runs.length = 4 ∧
     canonB ((lane23 id).rput Reg.BRIDGE_DEMAP_STATE 2 23) = true ∧ ((lane23 id).rput Reg.BRIDGE_DEMAP_STATE 2 23).rget Reg.BRIDGE_DEMAP_STATE 23 = 2 ∧
     0 < ((lane23 (fun x => { x with po := [⟨0, true, false⟩] })).lane 23).po.length ∧ (lane23 id).rget Reg.BRIDGE_DEMAP_STATE 23 ≠ 2 ∧
     ((lane23 (fun x => { x with sync := true })).rput Reg.BRIDGE_CM_TAP 1 23).rget Reg.BRIDGE_CM_TAP 23 = 1 ∧ (lane23 id).rget Reg.BRIDGE_CM_TAP 23 ≠ 1) := by
  decide +kernel

theorem meets_Containers :
    let s := fun (ov : Bool) (m : List (Byte × Option Nat)) => (lane23 (fun x => { x with t0 := some 0, map := m, overflow := ov })).rput Reg.BRIDGE_MAP_TARGET 1100 23
    let z : List (Byte × Option Nat) := List.replicate 1100 (0, none)
    canonB (s false z) = true ∧ (s false z).laneOn 23 = true ∧ (s false z).reached 0 = true ∧ (s false z).contSize 23 = 1024 ∧ ((s false z).lane 23).nextJ ≤ ((s false z).contIndex 23 0).1 ∧
    ([0, 1, 3, 4].all (fun i => !(s false z).defect 23 i)) = true ∧ (s false z).rget Reg.BRIDGE_MAP_TARGET 23 = 1100 ∧ z.length = 1100 ∧
    ((z.take 1024).all (fun b => b.2 == none)) = true ∧ (((0, some 149) :: z).take 1024).head? = some (0, some 149) ∧ (s true []).laneOn 23 = true ∧
    -- the de-mapper: nothing ready, no room, a container of the wrong length and a good one
    (let d := fun (n : Nat) => List.replicate 12 (0 : Byte) ++ beBytes 2 0x88B5 ++ contHeader false 23 65535 0xFFFF 0 false false false 2 0xFF 0 0 ++ List.replicate n 7
     let it : Item := { f := 3, b := 7, port := 151, queue := 7 }
     let p := fun (n : Nat) => ((((lane23 id).rput Reg.BRIDGE_DEMAP_STATE 1 23).setPx 151 { ready := [(7, it)] }).setFr 3 { ended := true, len := n + 34, data := d n ++ [0, 0, 0, 0] }).setCopy 3 7
       { k := 5, refs := 1, written := 5 }
     canonB (p 1024) = true ∧ (p 1024).rget Reg.BRIDGE_DEMAP_STATE 23 = 1 ∧ (p 1024).bridgeReady 151 = some 7 ∧ up.bridgeReady 151 = none ∧ ((p 1024).lane 23).po.length ≤ 30719 ∧
     sfind ((p 1024).px 151).ready 7 = some it ∧ bit ((p 1024).fr 3).legend 46 = false ∧ ((p 1024).copy 3 7).bad = false ∧ ((p 1023).fr 3).body.length ≠ 14 + 16 + 1024 ∧
     (let b := ((p 1024).fr 3).body
      let h := slice b 14 16
      b.length = 14 + 16 + 1024 ∧ beNat (slice b 12 2) ≠ 0x8100 ∧ bits (beNat (slice h 0 2)) 15 12 = 1 ∧ bit (beNat (slice h 0 2)) 11 = false ∧
      bits (beNat (slice h 7 1)) 3 0 = (p 1024).laneOpt 23 ∧ beNat (slice h 6 1) / 64 = 0 ∧ beNat (slice h 4 2) = 0xFFFF ∧ beNat (slice h 2 2) = 65535 ∧
      ((p 1024).lane 23).expected = none)) := by decide +kernel


/-- PD_MERIDIAN on. -/
def timed (s : State := up) : State := ons s [41]

theorem meets_NowLatches : canonB (timed) = true ∧ hasBar0 pf0 = true ∧ (timed).clockless = false ∧ (timed).dom 41 ≠ 0 ∧ (timed).boot.porst = false ∧ hasBar0 ⟨19, 7⟩ = true := by
  decide +kernel

theorem meets_TimestampPop :
    let s := ({ timed with mer := { fifo := [[1, 2, 3, 4, 5, 6], [7, 8, 9, 10, 11, 12]] } } : State)
    canonB s = true ∧ s.mer.fifo = [1, 2, 3, 4, 5, 6] :: [[7, 8, 9, 10, 11, 12]] ∧ (timed).mer.fifo = [] ∧ hasBar0 pf0 = true ∧ s.clockless = false ∧ s.dom 41 ≠ 0 ∧
    hasBar0 ⟨17, 0⟩ = true := by decide +kernel

theorem meets_Captures :
    let s := fun (e : Nat) => (timed).rput Reg.MERID_EDGE e 0 [3]
    canonB (s 3) = true ∧ (s 3).domOn 41 = true ∧ (s 1).rget Reg.MERID_EDGE 0 [3] = 1 ∧ (s 2).rget Reg.MERID_EDGE 0 [3] = 2 ∧ (s 3).rget Reg.MERID_EDGE 0 [3] = 3 ∧
    (s 0).rget Reg.MERID_EDGE 0 [3] = 0 ∧ (s 3).clockless = false ∧ (s 3).boot.porst = false ∧ hasBar0 pf0 = true ∧ pf0.id ≠ 19 := by decide +kernel

theorem meets_PulsesTriggersTimeOfDay :
    let m := fun (x : MeridX) => ({ timed with mer := x } : State)
    let o := fun (x : MeridX) => (m x).rput Reg.MERID_OUT_EN 1
    canonB (o { ppsNext := some 0 }) = true ∧ (o { ppsNext := some 0 }).domOn 41 = true ∧ (o { ppsNext := some 0 }).rget Reg.MERID_OUT_EN = 1 ∧ ((0 : Nat) : Int) ≤ (o { ppsNext := some 0 }).ppsSecond ∧
    (o { ppsNext := some 1 }).ppsSecond < ((1 : Nat) : Int) ∧ ((timed).rput Reg.MERID_IN_POL 1).rget Reg.MERID_IN_POL = 1 ∧ (timed).rget Reg.MERID_IN_POL ≠ 1 ∧
    (m { ppsLastEdge := some 0, sec := 1, sub := 100000000 * 2 ^ 32 }).reached ((0 + 1100000000) % 2 ^ 48) = true ∧
    (m { ppsLastEdge := some 0, sec := 1, sub := 99999999 * 2 ^ 32 }).reached ((0 + 1100000000) % 2 ^ 48) = false ∧
    (let t := fun (next period : Nat) => ((m { trig := [(3, { first := next, period := period })] }).rput Reg.MERID_ARMED 1 0 [3]).pput Reg.MERID_TRIG_NEXT next 0 [3]
     canonB (t 0 0) = true ∧ (t 0 0).rget Reg.MERID_ARMED 0 [3] = 1 ∧ (t 0 0).reached ((t 0 0).pget Reg.MERID_TRIG_NEXT 0 [3]) = true ∧ ((t 0 16).trg 3).period ≠ 0 ∧
     (t 1 0).reached ((t 1 0).pget Reg.MERID_TRIG_NEXT 0 [3]) = false ∧ ((t 0 0).trg 3).period = 0) ∧
    -- the time of day: reception, a message armed, timed and sent
    ((timed).rput Reg.MERID_RX_EN 1).rget Reg.MERID_RX_EN = 1 ∧ (timed).rget Reg.MERID_RX_EN = 0 ∧ acceptsB (timed) 12 0x3E0 (2 ^ 31 + 2 ^ 16) = true ∧ hasBar0 pf0 = true ∧ (timed).boot.porst = false ∧
    (timed).rget Reg.MERID_TX_BUSY = 0 ∧ acceptsB ((timed).rput Reg.MERID_TX_BUSY 1) 12 0x3E0 (2 ^ 31 + 2 ^ 16) = true ∧ ((timed).rput Reg.MERID_TX_BUSY 1).rget Reg.MERID_TX_BUSY = 1 ∧
    canonB (m { todTxState := 2 }) = true ∧ (m { todTxState := 2 }).reached 0 = true ∧ (m { todTxState := 2, todTxAt := 1 }).reached 1 = false ∧
    (m { todTxState := 3 }).now ≥ 0 + ceilDiv (0 * 10 * 1600000000) (baudRate ((m { todTxState := 3 }).rget Reg.MERID_BAUD)) ∧
    (m { todTxState := 3, todTxLen := 1 }).now < 0 + ceilDiv (1 * 10 * 1600000000) (baudRate ((m { todTxState := 3 }).rget Reg.MERID_BAUD)) := by decide +kernel


theorem meets_HostPackets :
    let s := bme0 up
    -- tails of ring 255, within the ring and past it
    acceptsB s 5 (tailOff false 255) 1 = true ∧ acceptsB s 5 (tailOff true 255) 65535 = true ∧ hasBar0 pf0 = true ∧ s.boot.porst = false ∧ canonB s = true ∧
    (1 + 65536 - s.rget Reg.HOST_HEAD 0 (spIx 255)) % 65536 ≤ 2 ^ s.rget Reg.HOST_SIZE_LOG2 0 (spIx 255) ∧
    2 ^ s.rget Reg.HOST_TX_SIZE_LOG2 0 (spIx 255) < (65535 + 65536 - s.rget Reg.HOST_TX_HEAD 0 (spIx 255)) % 65536 ∧
    -- a descriptor of 60 bytes for pipe 7: legal, illegal, with room and with none; the ring disabled
    (let d := fun (len : Nat) => leBytes 8 0x2000 ++ leBytes 8 (len * 2 ^ 48 + 7 * 2 ^ 18) ++ leBytes 8 0 ++ leBytes 8 0
     let t := fun (len used : Nat) => ((((((s.rput Reg.HOST_TX_EN 1 0 (spIx 255)).rput Reg.HOST_TX_TAIL 1 0 (spIx 255)).rput Reg.HOST_TX_BASE_LO 1 0 (spIx 255)).mwrite (hostKey 0 4096) (d len)).setFr 0
       { data := List.replicate used 0 }).setPipe 7 { inject := [0] })
     canonB (t 60 64) = true ∧ (t 60 64).domOn 42 = true ∧ (t 60 64).rget Reg.HOST_TX_EN 0 (spIx 255) = 1 ∧ (t 60 64).rget Reg.HOST_TX_ERR 0 (spIx 255) = 0 ∧ (t 60 64).mayIssue 0 = true ∧
     (t 60 64).rget Reg.HOST_TX_HEAD 0 (spIx 255) ≠ (t 60 64).rget Reg.HOST_TX_TAIL 0 (spIx 255) ∧ bits ((t 60 64).m64 (hostKey 0 4096 + 8)) 20 18 = 7 ∧
     txDescOk ((t 60 64).m64 (hostKey 0 4096 + 8)) ((t 60 64).m64 (hostKey 0 4096 + 16)) ((t 60 64).m64 (hostKey 0 4096 + 24)) = true ∧
     txDescOk ((t 59 64).m64 (hostKey 0 4096 + 8)) 0 0 = false ∧ (t 60 64).injectUsed 7 + 60 + 4 ≤ 65536 ∧ (t 60 9728).injectUsed 7 = 9728 ∧
     (let full := (t 60 9728).setPipe 7 { inject := List.replicate 7 0 }
      canonB full = true ∧ 65536 < full.injectUsed 7 + 60 + 4) ∧
     up.mayIssue 0 = false ∧ s.rget Reg.HOST_TX_EN 0 (spIx 255) ≠ 1 ∧ s.rget Reg.HOST_TX_HEAD 0 (spIx 255) = s.rget Reg.HOST_TX_TAIL 0 (spIx 255)) ∧
    -- a frame injected into pipe 7
    (let i := readied (((ons up [15]).setFr 0 { pipe := 7 }).setPipe 7 { inject := [0] }) 15
     canonB i = true ∧ (i.pipe 7).inject = [0] ∧ (i.fr 0).pipe = 7 ∧ i.works 15 = true ∧ (i.q 65535).oc = []) ∧
    -- frames delivered from slow-path queue 7 of pipe 7
    (let it := fun (cx : Bool) => ({ f := 3, b := 7, port := 152, queue := 65527, toCplx := cx } : Item)
     let r := fun (bad cx : Bool) => (((ons s [23, 42]).setQ 65527 { oc := [it cx] }).setFr 3 { ended := true, len := 68, data := List.replicate 68 0 }).setCopy 3 7 { k := 1, refs := 1, written := 1, bad := bad }
     let e := ((r false false).rput Reg.HOST_EN 1 0 (spIx 0)).rput Reg.HOST_BUF_TAIL 1 0 (spIx 0)
     let h := ((r false true).rput Reg.CC_CLAIM 1 0 [1]).rput Reg.CC_STATE_100 4 0 [1]
     65464 + 8 * 7 + 7 = 65527 ∧ canonB (r true false) = true ∧ ((r true false).copy 3 7).bad = true ∧ (r true false).domOn (16 + 7) = true ∧ (r true false).stored 3 7 = true ∧
     canonB e = true ∧ ((e.rget Reg.HOST_RING_BASE 0 [63] + 0) % 256 = 0) ∧ e.domOn 42 = true ∧ e.rxCan 0 = true ∧ e.mayIssue 0 = true ∧ (r false false).rxCan 0 = false ∧
     canonB h = true ∧ h.higher = some 1 ∧ h.rget Reg.CC_STATE_100 0 [1] = 4 ∧ (h.cx 1).receive.length < 1024 ∧ (h.loanFree 7).isSome = true ∧ (r false true).higher = none ∧
     -- the receive queue of a complex
     (let c := (h.setCx 1 { receive := [7 * 4096 + 4095] }).setCrl 7 { loans := [(4095, { kind := 1, owner := 18, data := [], item := some (it true) })] }
      canonB c = true ∧ hasBar0 ⟨18, 0⟩ = true ∧ c.clockless = false ∧ (c.cx 1).receive = [7 * 4096 + 4095] ∧ (sfind (c.crl 7).loans 4095).isSome = true ∧ (h.cx 1).receive = [])) ∧
    -- loan data: a loan of the reader and none
    (let o := pick ((ons up [0, 23, 24]).setCrl 7 { loans := [(4095, ⟨3, 1, List.replicate 2048 none, 0, none⟩)] }) 5 (7 * 2 ^ 16 + 7 * 2 ^ 12 + 4095) 0x440
     canonB o = true ∧ (o.loanAt pf0 (o.sel (bankOf pf0) 5 0x440) 63).isSome = true ∧ up.loanAt pf0 (up.sel (bankOf pf0) 5 0x440) 63 = none ∧ acceptsB o 5 (0x500 + 4 * 63) 0 = true ∧
     acceptsB up 5 (0x500 + 4 * 63) 0 = true) := by decide +kernel

theorem meets_FunctionsAndVectors :
    let s := (bme0 up).rput Reg.BIND_FUNC 1 0 [255]
    let g := s.setVec 255 { pend := true }
    let e := fun (s : State) => ({ s with msix := [(255, 0x55 * 2 ^ 64 + 0x1000)] } : State)
    canonB up = true ∧ up.boot.porst = false ∧ canonB (e g) = true ∧ ((e g).vec 255).pend = true ∧ (e g).vecFunc 255 = 1 ∧ (e g).mayIssue 0 = true ∧ bits ((e g).msixEntry 0 255) 96 96 = 0 ∧
    ((e g).vec 255).lastSent = none ∧ (up.vec 255).pend = false ∧
    (let q := fun (m : Bool) => s.setVec 255 { quietEnd := some 0, merged := m }
     canonB (q true) = true ∧ (q true).now ≥ 0 ∧ (q true).vecFunc 255 ≠ 0 ∧ (s.setVec 255 { quietEnd := some 1 }).now < 1) ∧
    acceptsB up 3 (0x100 + 4 * 35) 0xFFFFFFFF = true ∧ hasBar0 pf0 = true := by decide +kernel

/-- Channel 63 with side A bound to PF0 and side B to complex A. -/
def chan63 (a b : MbxSide) (lock : Nat := 0) : State :=
  ((lit.rput Reg.BIND_SIDE_A 1 0 [63]).rput Reg.BIND_SIDE_B 17 0 [63]).setChan 63 ⟨a, b, lock⟩

theorem meets_MailboxMessages :
    let s := chan63 {} {}
    let full : MbxSide := { full := true, sender := 17, att := some (7, 4095), waits := true }
    canonB s = true ∧ s.boot.porst = false ∧ s.clockless = false ∧ hasBar2 pf0 = true ∧ s.sideOf 63 1 = some true ∧ s.sideOf 63 17 = some false ∧ lit.sideOf 63 1 = none ∧
    s.isHigher 17 = false ∧ hasBar2 ⟨17, 0⟩ = true ∧ canonB (chan63 { full := true } full) = true ∧ ((chan63 { full := true } full).chan 63).a.full = true ∧ (s.chan 63).a.full = false ∧
    ((chan63 {} full).chan 63).b.full = true ∧
    (let l := (chan63 {} full).setCrl 7 { loans := [(4095, ⟨3, 17, [], 0, none⟩)] }
     canonB l = true ∧ (sfind (l.crl 7).loans 4095).isSome = true ∧ l.loanOwner 7 4095 ≠ some 1) ∧
    (let t := chan63 { full := true, timer := some 0 } {}
     (t.chan 63).a.timer = some 0 ∧ (t.chan 63).a.full = true ∧ 0 ≤ t.now ∧ (chan63 { full := true, timer := some 1 } {}).now < 1 ∧ (s.chan 63).a.timer = none) := by decide +kernel

theorem meets_LocksLoansDoorbells :
    let s := fun (lock : Nat) => chan63 {} {} lock
    canonB (s 1) = true ∧ hasBar2 pf0 = true ∧ (s 0).sideOf 63 1 = some true ∧ lit.sideOf 63 1 = none ∧ (s 0).isHigher 17 = false ∧ ((s 0).chan 63).lock = 0 ∧ ((s 1).chan 63).lock = pf0.id ∧
    (1#32).toNat % 32 = pf0.id ∧ ((s 17).chan 63).lock ≠ pf0.id ∧
    -- loans: a free index with 8 free cells, none free, returned by nobody, by the owner and by another
    (let c := fun (f o : Nat) => ((s 0).rput Reg.SLATH_CELLS_FREE f 7).setCrl 7 { loans := [(4095, ⟨3, o, [], 0, none⟩)] }
     canonB (c 8 1) = true ∧ ((c 8 1).loanFree 7).isSome = true ∧ 8 ≤ (c 8 1).rget Reg.SLATH_CELLS_FREE 7 ∧ (c 7 1).rget Reg.SLATH_CELLS_FREE 7 < 8 ∧ (c 8 1).loanOwner 7 4095 = some 1 ∧
     (c 8 17).loanOwner 7 4095 = some 17 ∧ (c 8 1).loanOwner 7 0 = none) := by decide +kernel


/-- Complex 1 in state st, changed by f. -/
def cplx1 (st : Nat) (f : CplxX → CplxX := id) (now : Nat := 0) : State :=
  let s := ((lit.rput Reg.CC_STATE_100 st 0 [1]).rput Reg.CC_CLAIM (claimOf st) 0 [1]).setCx 1 (f {})
  { s with now := now }

/-- A register of block 14 accepts a write of v by identity id. -/
def accepts14 (s : State) (id off v : Nat) : Bool :=
  hasBar0 ⟨id, 0⟩ && s.writeCause id (bankOf ⟨id, 0⟩) ⟨14, off, false⟩ (s.instOf (bankOf ⟨id, 0⟩) 14 off) none v 0xFFFFFFFF == 0 && s.instOf (bankOf ⟨id, 0⟩) 14 off == 0

theorem meets_ComplexStates :
    let ms := 1600000
    let img := fun s : State => s.rput Reg.CC_STATE_3C 2
    (List.range 6).all (fun st => canonB (cplx1 st)) = true ∧ (cplx1 5).cstate 1 = 5 ∧ (cplx1 1).boot.porst = false ∧ ((cplx1 2 (fun x => { x with testing := true })).cx 1).testing = true ∧
    ((cplx1 2).cx 1).testing = false ∧ ((cplx1 2 id (60000 * ms)).cx 1).since + 60000 * ms ≤ (cplx1 2 id (60000 * ms)).now ∧ (cplx1 2 id (60000 * ms - 1)).now < 60000 * ms ∧
    ((img (cplx1 2 (fun x => { x with startMem := true }))).startOk 1) = true ∧ (img (cplx1 2)).startOk 0 = false ∧ (cplx1 3).startOk 1 = false ∧
    ((cplx1 3).cx 1).imageChecked = false ∧ accepts14 (cplx1 3) 18 (cplxOff 1 8) 4 = true ∧ accepts14 (cplx1 4) 18 (cplxOff 1 8) 1 = true ∧ accepts14 (cplx1 4) 18 (cplxOff 1 8) 2 = true ∧
    accepts14 (cplx1 3) 18 (cplxOff 1 8) 2 = true ∧ accepts14 (cplx1 1) 1 (cplxOff 1 4) 1 = true ∧ accepts14 (cplx1 5) 1 (cplxOff 1 4) 2 = true ∧ accepts14 (cplx1 2) 1 (cplxOff 1 4) 4 = true ∧
    (cplx1 3 id (199 * ms)).now ≥ ((cplx1 3).cx 1).since + 199 * ms ∧ (cplx1 3 id (199 * ms - 1)).now < 0 + 199 * ms ∧
    (cplx1 4 id (((cplx1 4).rget Reg.CC_WDOG_MS 0 [1]) * ms)).now ≥ ((cplx1 4).cx 1).kickAt + (cplx1 4).rget Reg.CC_WDOG_MS 0 [1] * ms ∧ (cplx1 4).now < 0 + (cplx1 4).rget Reg.CC_WDOG_MS 0 [1] * ms ∧
    ((cplx1 5 id (1000 * ms)).cx 1).since + 1000 * ms ≤ (cplx1 5 id (1000 * ms)).now ∧ ((cplx1 5).cx 1).restartOffered = false ∧ ((cplx1 5).rput Reg.CC_AUTO_RESTART 1).rget Reg.CC_AUTO_RESTART = 1 ∧
    ((cplx1 5).rput Reg.CC_AUTO_RESTART 0).rget Reg.CC_AUTO_RESTART = 0 := by decide +kernel

theorem meets_CheckpointsAndImages :
    let c : Checkpoint := ⟨1, crc32c [1, 2, 3, 4], [1, 2, 3, 4]⟩
    let s := fun (st : Nat) (x : StoreX) => ({ cplx1 st with store := x } : State)
    canonB (s 4 { ckptPhase := 1, pendingCkpt := some c }) = true ∧ accepts14 (s 4 {}) 18 0x14 (2 ^ 31 + 64) = true ∧ (s 4 {}).cstate 1 = 4 ∧ (s 4 {}).boot.porst = false ∧
    (readied (s 4 { ckptPhase := 2, pendingCkpt := some c }) 47).lp4xReady = true ∧ (s 4 { ckptPhase := 2, pendingCkpt := some c }).lp4xReady = false ∧
    ((cplx1 4 id (30 * 1600000)).cx 1).lastCommit + 30 * 1600000 ≤ (cplx1 4 id (30 * 1600000)).now ∧ (cplx1 4 id (30 * 1600000)).cstate 1 = 4 ∧ (cplx1 4 id (30 * 1600000)).store.staleRaised = false ∧
    (List.range 2).all (fun k => (cplx1 3).cstate k != 4) = true ∧
    -- restores: the retained copy, the LP4X slot, none
    (s 3 { retained := some c }).cstate 1 = 3 ∧ ((s 3 { retained := some c }).cx 1).restored = false ∧ crc32c c.data = c.crc ∧
    (let l := readied ((s 3 { slots := [(1, (1, c.crc, 4))] }).mwrite (lp4xKey ((s 3 {}).ckptSlot 1)) c.data) 47
     canonB l = true ∧ l.bestSlot = some (1, 1, c.crc, 4) ∧ l.lp4xReady = true ∧ crc32c (l.mread (lp4xKey (l.ckptSlot 1)) 4) = c.crc ∧ (s 3 {}).bestSlot = none) ∧
    -- images
    (let i := bme0 (cplx1 2)
     accepts14 i 1 0x38 (2 ^ 31 + 1) = true ∧ canonB ({ i with store := { loadSrc := 2, loadPages := 1 } } : State) = true ∧ i.mayIssue 0 = true ∧ (cplx1 2).mayIssue 0 = false) := by decide +kernel

theorem meets_TapAndMeters :
    let p := fun (up_ : Nat) (c : CartX) => ({ lit.rput Reg.TAP_LINK_UP up_ with cart := c } : State)
    let k : TokKey := ⟨127, 1, true, 4095, 7⟩
    let g : Gen := { tenantEn := 1, map := [(127 * 4097 + 4095, 0)] }
    canonB (p 0 {}) = true ∧ (p 0 {}).cart.power = true ∧ (p 0 {}).tapUp = false ∧ (p 0 {}).boot.porst = false ∧ (p 1 {}).tapUp = true ∧
    (let s := ({ (p 1 {}).setTap 7 ⟨[⟨k, 2, 300, 0, 0⟩], [(3, (1, 64))]⟩ with now := 100 * us } : State)
     canonB s = true ∧ ((s.tap 7).entries.find? (fun e => decide (e.born + 100 * us ≤ s.now))) = some ⟨k, 2, 300, 0, 0⟩ ∧ s.tapUp = true ∧ s.cart.power = true ∧ ((List.range 8).map (fun n => (s.tap n).held)).sum ≠ 0) ∧
    canonB (p 1 { sends := [⟨some k, 1, true, 2, 300⟩, ⟨none, 0, false, 1, 64⟩], gens := [g] }) = true ∧
    canonB (p 0 { power := false }) = true ∧ (p 0 { power := false, records := [(1023, List.replicate 352 1)], seq := 0 }).cart.bytes = [] ∧
    (p 0 { power := false, records := [(1023, List.replicate 352 1)] }).cart.newest 16 1 (2 ^ 32 - 1) = none ∧
    (p 0 { power := false, records := [(1023, 2 :: List.replicate 351 0)] }).cart.newest 16 1 (2 ^ 32 - 1) = some (2 :: List.replicate 351 0) := by decide +kernel


/-- Channel 63 with a command word in side A's slot. -/
def asked (cmd : Nat) (c : CartX := {}) : State :=
  let s := lit.setChan 63 ⟨{ full := true, sender := 1, slot := [(0, BitVec.ofNat 32 (cmd * 2 ^ 24))] }, {}, 0⟩
  { s with cart := c }

theorem meets_CartoucheReads :
    let s := fun (c : CartX) => ({ lit with cart := c } : State)
    (s {}).cart.power = true ∧ (s { power := false }).cart.power = false ∧
    -- a record that is held and one that is not; a frame whose CRC is wrong
    (let c : CartX := { records := [(0, List.replicate 352 1)], seq := 1 }
     1 ≤ (c.seq + 2 ^ 32 - 0) % 2 ^ 32 ∧ (c.seq + 2 ^ 32 - 0) % 2 ^ 32 ≤ c.records.length ∧ ¬ ((c.seq + 2 ^ 32 - 1) % 2 ^ 32 ≥ 1)) ∧
    crc16 ([2#8, 0#8].take 0) ≠ beNat ([2#8, 0#8].drop 0) ∧
    -- TIME_TAG through the mailbox
    (let t := (asked 4).setChan 63 ⟨{ full := true, sender := 1, slot := [(0, 0x04000008#32), (1, 0xFFFFFFFF#32), (2, 5#32)] }, {}, 0⟩
     canonB t = true ∧ (t.chan 63).a.full = true ∧ (t.chan 63).a.att = none ∧ (t.chan 63).b.full = false ∧ sget (fun _ => (0 : Word)) (t.chan 63).a.slot 0 = 0x04000008#32 ∧
     sget (fun _ => (0 : Word)) (t.chan 63).a.slot 1 = 0xFFFFFFFF#32 ∧ sget (fun _ => (0 : Word)) (t.chan 63).a.slot 2 = 5#32) := by decide +kernel

theorem meets_CartouchePrograms :
    let k : List Byte := List.replicate 32 9
    let open_ : CartX := { session := some { img := {} }, prog := true }
    let gens : List Gen := List.replicate 16 {}
    let done := fun (c : CartX) (op : Nat) => let x := { c with opTime := max c.opTime (op % 2 ^ 48) }; decide (x.nextEnd ≤ x.opTime)
    (asked 0x10).cart.power = true ∧ (asked 0x10).cart.session = none ∧ (asked 0x10).cart.audit < 256 ∧ open_.session = some { img := {} } ∧ k.length = 32 ∧ gens.length = 16 ∧
    (open_.gens).length < 16 ∧ open_.key = none ∧ ({ open_ with key := some k } : CartX).key = some k ∧ 4095 + 1 ≤ 4096 ∧ (0 + 14 ≤ 4096) ∧
    done {} (2 ^ 47) = true ∧ done {} 0 = false ∧ done { key := some k } (2 ^ 47) = true ∧
    ([0x10, 0x14, 0x15].all (fun cmd => canonB (asked cmd) && ((asked cmd).chan 63).a.full && ((asked cmd).chan 63).a.att.isNone && !((asked cmd).chan 63).b.full &&
      sget (fun _ => (0 : Word)) ((asked cmd).chan 63).a.slot 0 == BitVec.ofNat 32 (cmd * 2 ^ 24) && !(asked cmd).cart.prog)) = true := by decide +kernel


/-- Locked to reference A (1), CLOCKS registers changed by f. -/
def locked (f : State → State := id) (b : BootX → BootX := id) : State :=
  let s := (((up.rput Reg.CLOCKS_PLL_LOCKED 1).rput Reg.CLOCKS_A_OK 1).rput Reg.CLOCKS_B_OK 1).rput Reg.CLOCKS_IN_USE 1
  let t := f s
  { t with boot := b { t.boot with lockRef := 1 } }

theorem meets_ReferenceClocks :
    let h := fun s : State => s.rput Reg.CLOCKS_HOLDOVER 1
    let noB := fun s : State => s.rput Reg.CLOCKS_B_OK 0
    canonB (locked) = true ∧ (locked).boot.porst = false ∧ (locked).rget Reg.CLOCKS_PLL_LOCKED = 1 ∧ (locked).rget Reg.CLOCKS_HOLDOVER = 0 ∧ (locked).boot.lockRef = 1 ∧ (locked).rget Reg.CLOCKS_SEL = 0 ∧
    (locked).refOk 2 = true ∧ (locked).refOk 1 = true ∧ (locked noB).refOk 2 = false ∧ (locked).refGone 2 = false ∧ (locked).refGone 1 = false ∧
    (locked).rget Reg.CLOCKS_PPM_TH < 2 ^ 20 ∧ 0 ≤ (locked).rget Reg.CLOCKS_PPM_TH ∧ (locked).boot.winA + 1 < 10 ∧ 10 ≤ (locked id (fun b => { b with winA := 9, winB := 9 })).boot.winB + 1 ∧
    (locked (fun s => h (noB s))).rget Reg.CLOCKS_HOLDOVER = 1 ∧ ((locked (fun s => h (noB s))).rget Reg.CLOCKS_SEL = 0) ∧
    (let r := locked (fun s => s.rput Reg.CLOCKS_REVERTIVE 1) (fun b => { b with lockRef := 2, winA := 9, strapRef := false })
     canonB r = true ∧ r.rget Reg.CLOCKS_REVERTIVE = 1 ∧ r.strapped = 1) ∧
    up.rget Reg.CLOCKS_PLL_LOCKED ≠ 1 := by decide +kernel

theorem meets_ResetPins :
    let w := ({ lit with boot := { lit.boot with warm := true } } : State)
    canonB State.reset = true ∧ State.reset.boot.porst = true ∧ canonB lit = true ∧ lit.boot.porst = false ∧ lit.boot.perst = false ∧ lit.tapAccepts = false ∧ lit.boot.warm = false ∧ w.boot.warm = true ∧
    ({ lit with boot := { lit.boot with perst := true } } : State).boot.perst = true ∧ w.boot.perstCycle ≠ some (w.now / 4) ∧
    ({ w with boot := { w.boot with perstCycle := some 0 } } : State).boot.perstCycle = some (w.now / 4) ∧
    (let t := ({ lit.rput Reg.TAP_LINK_UP 1 with cart := { ready := true } } : State)
     canonB t = true ∧ t.tapAccepts = true) := by decide +kernel

theorem meets_BootSequence :
    let s := fun (st : Nat) (b : BootX → BootX) => let t := up.rput Reg.GLOBAL_STATE st; ({ t with boot := b { t.boot with lockRef := 1 } } : State)
    let d := beBytes 4 0x44585646 ++ beBytes 4 4096 ++ List.replicate 20 (0 : Byte)
    let good := d ++ beBytes 4 (crc32c d)
    let e := beBytes 4 0x44585647 ++ beBytes 4 4194304 ++ List.replicate 20 (0 : Byte)
    let alien := e ++ beBytes 4 (crc32c e)
    canonB (s 1 (fun b => { b with strapSpi := true })) = true ∧ (s 1 id).rget Reg.GLOBAL_STATE = 1 ∧ [42, 43, 41, 39, 40].all (fun k => ((s 1 id).domx k).heldActions.isEmpty) = true ∧
    (s 1 id).boot.attempt = 0 ∧ (s 1 (fun b => { b with attempt := 1 })).boot.attempt = 1 ∧ (s 1 id).rget Reg.CLOCKS_SEL = 0 ∧ (s 1 id).rget Reg.CLOCKS_REVERTIVE = 0 ∧
    (s 1 id).rget Reg.CLOCKS_HOLDOVER = 0 ∧ (s 1 id).refGone (s 1 id).boot.lockRef = false ∧ (s 1 id).cstate 0 = 0 ∧ (s 4 id).rget Reg.GLOBAL_STATE = 4 ∧ canonB (s 4 id) = true ∧ up.rget Reg.GLOBAL_STATE = 3 ∧
    -- an image that is good, alien or bad
    crc32c (slice good 0 28) = beNat (slice good 28 4) ∧ beNat (slice good 4 4) = 4096 ∧ beNat (slice good 0 4) = 0x44585646 ∧ crc32c (slice alien 0 28) = beNat (slice alien 28 4) ∧
    beNat (slice alien 0 4) ≠ 0x44585646 ∧ beNat (slice alien 4 4) = 4194304 := by decide +kernel

theorem meets_ReadinessTrainingTemperature :
    let n := 7
    let s := fun (st at_ : Nat) => (((ons lit [38]).rput Reg.LP4X_STATE st n).rput Reg.LP4X_ATTEMPTS at_ n)
    canonB lit = true ∧ lit.boot.porst = false ∧ lit.readyCond 43 = true ∧ lit.ready 43 = false ∧ (readied lit 52).ready 52 = true ∧ lit.readyCond 0 = false ∧
    canonB (s 1 1) = true ∧ (s 1 1).domOn (31 + n) = true ∧ (s 1 1).rget Reg.LP4X_STATE n = 1 ∧ (s 1 2).rget Reg.LP4X_ATTEMPTS n < 3 ∧ (s 1 3).rget Reg.LP4X_ATTEMPTS n = 3 ∧ (s 3 3).rget Reg.LP4X_STATE n = 3 ∧
    (s 2 1).rget Reg.LP4X_STATE n = 2 ∧ (s 0 0).rget Reg.LP4X_STATE n ≠ 1 ∧ hasBar0 pf0 = true ∧ (pick (s 3 3) 13 n).instOf (bankOf pf0) 13 0x100 = n ∧ acceptsB (pick (s 3 3) 13 n) 13 0x100 1 = true ∧
    (match (pick (s 3 3) 13 n).govern (bankOf pf0) 13 0x100 none with | some d => (pick (s 3 3) 13 n).dom d != 1 | none => true) = true ∧
    (up.boot.warnArmed = true ∧ 4 * (up.rget Reg.CLOCKS_WARN_TH : Int) < 32768 ∧ -32768 < 4 * (up.rget Reg.CLOCKS_WARN_TH : Int) - 8 ∧ up.boot.critical = false) := by decide +kernel


/-- Domain d with a queued target. -/
def queued (s : State) (d g : Nat) (req : Nat := 0) : State := ((s.rput Reg.POWER_QUEUED_V 1 d).rput Reg.POWER_QUEUED g d).setDomx d { s.domx d with qReq := req }

theorem meets_PowerController :
    let one := fun (s : State) (d : Nat) => canonB s && (List.range 44).all (fun e => e == d || s.rget Reg.POWER_QUEUED_V e != 1) && s.rget Reg.POWER_QUEUED_V d == 1 && s.rget Reg.POWER_BUSY d == 0 &&
      !s.boot.porst && !s.clockless
    let missing := fun (s : State) (d : Nat) => (prereqs d).filter (fun x => !s.onOrRising x)
    let ready := fun (s : State) (d : Nat) => (prereqs d).all (fun x => s.domOn x && !s.falling x)
    canonB lit = true ∧ (List.range 44).all (fun e => lit.rget Reg.POWER_QUEUED_V e != 1) = true ∧ one (queued lit 43 2) 43 = true ∧ (queued lit 43 2).dom 43 = 2 ∧
    one (queued lit 8 2) 8 = true ∧ missing (queued lit 8 2) 8 ≠ [] ∧ (queued lit 8 2).dom 8 ≠ 2 ∧
    one (queued (ons lit (prereqs 0)) 0 2) 0 = true ∧ ready (queued (ons lit (prereqs 0)) 0 2) 0 = true ∧ (queued (ons lit (prereqs 0)) 0 2).dom 0 ≠ 2 ∧
    ((queued lit 0 2).rput Reg.POWER_AVS_EN 0).rget Reg.POWER_AVS_EN = 0 ∧
    (let p := (prereqs 8).headD 0
     let w := (((queued (ons lit (prereqs 8)) 8 2).rput Reg.POWER_STATE 0 p).rput Reg.POWER_BUSY 1 p).rput Reg.POWER_IN_TARGET 2 p
     missing w 8 = [] ∧ ready w 8 = false ∧ one w 8 = true) ∧
    one (queued lit 30 1) 30 = true ∧ (queued lit 30 1).dom 30 = 0 ∧ one (queued lit 43 0) 43 = true ∧ (queued lit 43 0).fallRefuser 43 = some (9, 0) ∧
    one (queued (ons lit [30]) 30 0) 30 = true ∧ (queued (ons lit [30]) 30 0).fallRefuser 30 = none ∧ (queued (ons lit [30]) 30 0).dom 30 = 2 := by decide +kernel

theorem meets_PowerTransitions :
    let s := fun (d : Nat) (x : DomX) (g : Nat) => ((ons lit [30]).setDomx d x).rput Reg.POWER_IN_TARGET g d
    canonB (s 30 { phase := .drain } 0) = true ∧ ((s 30 { phase := .drain } 0).domx 30).waitsFor = [] ∧ (s 30 { phase := .drain } 0).domIdle 30 = true ∧
    ((s 30 { phase := .switch } 2).domx 30).heldActions = [] ∧ (s 30 { phase := .fallSwitch } 1).rget Reg.POWER_IN_TARGET 30 = 1 ∧ (s 30 { phase := .fallSwitch } 0).rget Reg.POWER_IN_TARGET 30 = 0 ∧
    -- both time-outs, at the instant and before it
    (let z := fun (p : DomPhase) (now : Nat) => ({ ((s 30 { phase := p } 2).rput Reg.POWER_AVS_TIMEOUT 10).rput Reg.POWER_SWITCH_TIMEOUT 10 with now := now, rails := [(1, { busy := true, forDom := some 30 })] } : State)
     canonB (z .avs (10 * us)) = true ∧ ((z .avs (10 * us)).rail 1).busy = true ∧ ((z .avs 0).rail 1).forDom = some 30 ∧ 0 + (z .avs 0).rget Reg.POWER_AVS_TIMEOUT * us ≤ (z .avs (10 * us)).now ∧
     (z .switch (10 * us - 1)).now < 0 + (z .switch 0).rget Reg.POWER_SWITCH_TIMEOUT * us ∧ 0 + (z .switch 0).rget Reg.POWER_SWITCH_TIMEOUT * us ≤ (z .switch (10 * us)).now ∧
     (List.range 44).all (fun e => e == 30 || ((z .avs 0).domx e).phase != .avs) = true) ∧
    (let l := fun (busy : Bool) => ({ lit with rails := [(1, { busy := busy, lowering := true })] } : State)
     canonB (l true) = true ∧ ((l true).rail 1).busy = true ∧ ((l true).rail 1).lowering = true ∧ (List.range 44).all (fun e => ((l true).domx e).phase != .avs) = true ∧ ((l false).rail 1).busy = false ∧
     (lit.rail 1).forDom = none) := by decide +kernel

/-- The two cases of the regulator's answer, and a commanded voltage that no target is below. -/
theorem meets_PowerTransitions_volts (s : State) (d r : Nat) :
    ((Config.fusedOn d r ≤ s.volt r ∧ Config.fusedOn d (1 - r) ≤ (s.rail (1 - r)).mv) ∨ s.volt r < Config.fusedOn d r ∨ (s.rail (1 - r)).mv < Config.fusedOn d (1 - r)) ∧
    ((lit.rput Reg.POWER_VOLT_CORE 0).rput Reg.POWER_VOLT_SRAM 0).volt 0 ≤ ((lit.rput Reg.POWER_VOLT_CORE 0).rput Reg.POWER_VOLT_SRAM 0).railTarget 0 none ∧
    ((lit.rput Reg.POWER_VOLT_CORE 0).rput Reg.POWER_VOLT_SRAM 0).volt 1 ≤ ((lit.rput Reg.POWER_VOLT_CORE 0).rput Reg.POWER_VOLT_SRAM 0).railTarget 1 none := by
  have h0 : ((lit.rput Reg.POWER_VOLT_CORE 0).rput Reg.POWER_VOLT_SRAM 0).volt 0 = 0 := by decide +kernel
  have h1 : ((lit.rput Reg.POWER_VOLT_CORE 0).rput Reg.POWER_VOLT_SRAM 0).volt 1 = 0 := by decide +kernel
  rw [h0, h1]
  exact ⟨by omega, Nat.zero_le _, Nat.zero_le _⟩


theorem meets_ScrubbingAndAudit :
    let ok := fun (n i x f : Nat) (p : Bool) => scrubOk ⟨n, i, x, f, p⟩
    let s := ons lit [8, 15, 16, 23, 25, 27, 31]
    canonB s = true ∧ s.boot.porst = false ∧ s.clockless = false ∧ (lit.rput Reg.GLOBAL_STATE 2).clockless = true ∧ ok 0 0 524288 2 true = false ∧ storeDomain 1 7 = some 15 ∧ lit.domOn 15 = false ∧
    [(0, 0, 524287), (1, 7, 0), (7, 0, 0), (9, 0, 15), (10, 7, 5), (12, 7, 65535), (13, 0, 65535), (14, 63, 1), (17, 0, 0), (18, 7, 0), (19, 0, 131071), (20, 0, 65535), (21, 7, 1), (22, 0, 0), (23, 0, 0), (24, 0, 0)].all
      (fun e => scrubOk ⟨e.1, e.2.1, e.2.2, 2, false⟩ && (match storeDomain e.1 e.2.1 with | some d => s.domOn d || d == 43 | none => true)) = true ∧
    s.rget Reg.RAS_VALID = 0 ∧ (s.rput Reg.RAS_VALID 1).rget Reg.RAS_VALID = 1 ∧ (s.rput Reg.CLOCKS_WAYS 1).lp4xWays = 1 ∧ 5 % 1 = 0 ∧ s.rget Reg.LP4X_VALID 0 = 0 ∧
    (let a := fun (r : Nat) => (s.setPager 7 { lost := [{ f := 3, b := 7, port := 0, queue := 0 }] }).setCopy 3 7 { k := 1, refs := r }
     canonB (a 2) = true ∧ (a 2).domOn (16 + 7) = true ∧ ((a 2).pager 7).lost = [{ f := 3, b := 7, port := 0, queue := 0 }] ∧ 2 ≤ ((a 2).copy 3 7).refs ∧ ((a 1).copy 3 7).refs < 2 ∧ lit.domOn 23 = false) := by
  decide +kernel

theorem meets_FrontOfQueue : ({ up with pending := [.graticuleVisit 0] } : State).pending = [.graticuleVisit 0] := rfl

theorem meets_IdleCycle :
    let s := ons up [15, 41, 43]
    canonB s = true ∧ s.pending = [] ∧ s.boot.porst = false ∧ s.clockless = false ∧ s.domOn 41 = true ∧ up.domOn 41 = false ∧ up.domOn 15 = false ∧ s.domOn 15 = true ∧ s.oldestOut 7 < 12 ∧
    State.reset.boot.porst = true ∧ (up.rput Reg.GLOBAL_STATE 2).clockless = true := by decide +kernel

theorem meets_CanonicalKept : State.reset.Canonical ∧ up.Canonical := ⟨canonical_of (by decide +kernel), canonical_of (by decide +kernel)⟩

theorem meets_SealedParameters :
    let c := (State.reset).cart
    c.audit ≤ 256 ∧ c.gens.length ≤ 16 ∧ c.session = none ∧ c.key = none ∧ ∃ t, step State.reset = .next t := ⟨by decide +kernel, by decide +kernel, rfl, rfl, _, rfl⟩


/-! ### Well-formedness: an ill-formed term for each check, which the check refuses -/

theorem test_operand_checks :
    Master.wf ⟨1, 7⟩ = true ∧ Master.wf ⟨21, 0⟩ = true ∧ Master.wf ⟨0, 0⟩ = false ∧ Master.wf ⟨22, 0⟩ = false ∧ Master.wf ⟨19, 8⟩ = false ∧
    AxOp.wf ⟨7, 0, .ok⟩ = true ∧ AxOp.wf ⟨8, 0, .ok⟩ = false ∧ BusWrite.wf ⟨4, 0, [0#32], true⟩ = true ∧ BusWrite.wf ⟨1, 0, [0#32], true⟩ = false ∧ BusWrite.wf ⟨0, 0, [], true⟩ = false ∧
    HostStore.wf ⟨15, 2 ^ 64 - 1, [0#8]⟩ = true ∧ HostStore.wf ⟨16, 0, []⟩ = false ∧ HostStore.wf ⟨0, 2 ^ 64 - 1, [0#8, 0#8]⟩ = false ∧
    LineRx.wf ⟨[0#8], [0], [0]⟩ = true ∧ LineRx.wf ⟨[0#8], [1], []⟩ = false ∧ LineRx.wf ⟨[0#8], [], [1]⟩ = false ∧
    ScrubFind.wf ⟨24, 0, 0, 2, false⟩ = true ∧ ScrubFind.wf ⟨25, 0, 0, 0, false⟩ = false ∧ ScrubFind.wf ⟨0, 0, 0, 3, false⟩ = false := by decide +kernel

theorem test_ill_formed_axsel :
    [Instr.undefinedOpcode, Instr.ldi, Instr.mov, Instr.add, Instr.sub, Instr.and, Instr.or, Instr.xor, Instr.shl, Instr.shr, Instr.cmp, Instr.br,
     Instr.bcc, Instr.call, Instr.ret, Instr.halt, Instr.trap, Instr.rrd, Instr.rwm, Instr.rpoll, Instr.ld, Instr.st, Instr.copy, Instr.twr, Instr.tdel,
     Instr.tfind, Instr.tage, Instr.vopen, Instr.vput, Instr.vcommit, Instr.vwait, Instr.vabort, Instr.qnew, Instr.qmap, Instr.qpin, Instr.qunpin,
     Instr.qflush, Instr.qfree, Instr.shset, Instr.gcl, Instr.gswap, Instr.tmset, Instr.tmadj, Instr.tmwait, Instr.tmarm, Instr.pdreq, Instr.waitev,
     Instr.signal, Instr.fence, Instr.batch, Instr.endbatch, Instr.csnap, Instr.plctx, Instr.loadp].all (fun f => !(f ⟨8, 0, .ok⟩).wf && (f ⟨7, 0, .ok⟩).wf) = true := by decide +kernel

theorem test_ill_formed_1 :
    ([.tailWrite ⟨0, 0⟩ 0 0#32 [], .tailWrite ⟨1, 0⟩ 64 0#32 [], .tailWrite ⟨1, 0⟩ 0 0#32 [⟨16, 0, []⟩], .cqHeadWrite ⟨0, 0⟩ 0 0#32,
     .cqHeadWrite ⟨1, 0⟩ 64 0#32, .cqStall 64, .threadHalt 8, .ringErrClear ⟨0, 0⟩ 0, .ringErrClear ⟨1, 0⟩ 64, .budgetExpiry 8, .waitTimeout 8,
     .rpollRead 8, .vcommitSlotFree 8, .versionRetire 64 0, .versionRetire 0 4, .tmwaitDone 8, .waitevWake 8, .fenceDone 8, .endbatchRelease 8,
     .endbatchDone 8, .progSwitch 8, .registerWrite ⟨0, 0⟩ ⟨0, 0, [0#32], true⟩, .registerWrite ⟨1, 0⟩ ⟨1, 0, [0#32], true⟩, .boundaryApply .none 19 0 0,
     .rcRead ⟨0, 0⟩ 0 0, .pairLowRead ⟨0, 0⟩ 0 0, .bindLock ⟨0, 0⟩, .bootRetry ⟨0, 0⟩, .portDisableDone 128, .anComplete 128 0, .ltDone 128 false,
     .linkUp 128 0, .lockTimeout 128, .localFault 128, .remoteFault 128, .rfaultClear 128 0, .fecCodeword 128 0 false 0, .frameReceive 128 [] {},
     .frameEnd 128 [] {}, .creelCacheMaint 8 none, .spillInitDone 8, .spillCopyDone 8 0, .spillCopyDone 0 65536, .readBackDone 8 0 none,
     .readBackDone 0 65536 none] : List Instr).all (fun c => !c.wf) = true := by decide +kernel

theorem test_ill_formed_2 :
    ([.loanReturn ⟨0, 0⟩ 0#32, .loanReclaim ⟨0, 0⟩ 0#32, .frameTransmit 128 0, .frameTxEnd 128, .verifyTimer 128, .pauseReceive 128 [], .pauseExpiry 128 0,
     .pauseExpiry 0 9, .pauseRefresh 128, .pauseWdog 128 0, .pauseWdog 0 9, .holdoffEnd 128 0, .holdoffEnd 0 9, .snap ⟨0, 0⟩ 0#32,
     .startPattern 24 ⟨[], [], []⟩, .startPattern 0 ⟨[0], [1], []⟩, .candidateCheck 24 ⟨[], [], []⟩, .candidateCheck 0 ⟨[0], [1], []⟩,
     .hyperframeCheck 24 ⟨[], [], []⟩, .hyperframeCheck 0 ⟨[0], [1], []⟩, .defectTick 24 ⟨[], [], []⟩ false false 0,
     .defectTick 0 ⟨[0], [1], []⟩ false false 0, .sdWindowEnd 24 ⟨[], [], []⟩, .sdWindowEnd 0 ⟨[0], [1], []⟩, .mapperEmit 24 ⟨[], [], []⟩,
     .mapperEmit 0 ⟨[0], [1], []⟩, .containerDequeue 24 0, .poUnderrun 24 0, .cmExtract 24 false [], .ageVisit 8912896, .recircReentry 8, .pageInStart 8,
     .eviction 8, .pageInDone 65536 false, .qpageFault 8, .holdExpiry 128, .schedSelect 8, .gateEntry 152, .gclSwitch 152, .deadlineSlot 152 0,
     .deadlineSlot 0 8, .plaitTake 4, .windowOpen 256, .windowClose 256, .nowFracRead ⟨0, 0⟩] : List Instr).all (fun c => !c.wf) = true := by decide +kernel

theorem test_ill_formed_3 :
    ([.tsPop ⟨0, 0⟩, .cap 4 false, .trig 4, .txArm ⟨0, 0⟩ 0#32, .functionLevelReset 16 0, .functionLevelReset 0 3, .busMasterEnable 16 false false,
     .msixMessage 64, .slowpathRxDeliver 8 0 false, .slowpathRxDeliver 0 8 false, .bufTailWrite ⟨0, 0⟩ 0 0#32 [], .bufTailWrite ⟨1, 0⟩ 256 0#32 [],
     .bufTailWrite ⟨1, 0⟩ 0 0#32 [⟨16, 0, []⟩], .txTailWrite ⟨0, 0⟩ 0 0#32 [], .txTailWrite ⟨1, 0⟩ 256 0#32 [], .txTailWrite ⟨1, 0⟩ 0 0#32 [⟨16, 0, []⟩],
     .slowpathTx 256 false, .hostInject 8, .headWriteback 256 false, .crxPop ⟨0, 0⟩, .loanDataAccess ⟨0, 0⟩ 0 none, .loanDataAccess ⟨1, 0⟩ 64 none,
     .go ⟨0, 0⟩ 0 0#32, .go ⟨1, 0⟩ 64 0#32, .cancel ⟨0, 0⟩ 0, .cancel ⟨1, 0⟩ 64, .attNew ⟨0, 0⟩ 0 0, .attNew ⟨1, 0⟩ 64 0, .attNew ⟨1, 0⟩ 0 8,
     .attReturn ⟨0, 0⟩ 0 0 0, .attReturn ⟨1, 0⟩ 64 0 0, .attReturn ⟨1, 0⟩ 0 8 0, .attReturn ⟨1, 0⟩ 0 0 4096, .lockRead ⟨0, 0⟩ 0, .lockRead ⟨1, 0⟩ 64,
     .lockRelease ⟨0, 0⟩ 0 0#32, .lockRelease ⟨1, 0⟩ 64 0#32, .rxWord0Read ⟨0, 0⟩ 0, .rxWord0Read ⟨1, 0⟩ 64, .mbxTimeout 64 false,
     .doorbellWrite ⟨0, 0⟩ 0 0#32, .doorbellWrite ⟨1, 0⟩ 64 0#32, .dbInRead ⟨0, 0⟩ 0, .dbInRead ⟨1, 0⟩ 64, .selftestDone 2 false 0] : List Instr).all (fun c => !c.wf) = true := by decide +kernel

theorem test_ill_formed_4 :
    ([.selftestDone 0 false 8, .selftestPeriodic 2, .complexStart 2, .imageCopyCheck 2 false, .checkpointRestore 2 false, .promote ⟨0, 0⟩ 0,
     .promote ⟨1, 0⟩ 2, .bootTimeout 2, .lockstep 2, .complexEcc 2 false, .watchdog 2, .kick ⟨0, 0⟩ 0, .kick ⟨1, 0⟩ 2, .selfFault ⟨0, 0⟩ 0,
     .selfFault ⟨1, 0⟩ 2, .forceFault ⟨0, 0⟩ 0, .forceFault ⟨1, 0⟩ 2, .restart ⟨0, 0⟩ 0, .restart ⟨1, 0⟩ 2, .autoRestart 2, .start ⟨0, 0⟩ 0,
     .start ⟨1, 0⟩ 2, .ckptGo ⟨0, 0⟩ 0 [], .imgGo ⟨0, 0⟩ 0, .statusClear ⟨0, 0⟩ 0 0#32, .statusClear ⟨1, 0⟩ 36 0#32, .coalesceEnd 64,
     .coalescerSend 8 false, .refLost 2, .refFreqWindow 2 0, .readySet 53, .trainingDone 8 false 0, .trainingDone 0 false 7, .retrain ⟨0, 0⟩,
     .periodicCal 8, .pdReqGo ⟨0, 0⟩ 0, .pdReqGo ⟨1, 0⟩ 4, .wake 24, .avsAck 2 false, .switchReady 44, .fallDrainDone 44, .transitionAbort 44,
     .avsLowerAck 2 false, .scrubRead ⟨25, 0, 0, 0, false⟩, .creelAudit 8] : List Instr).all (fun c => !c.wf) = true := by decide +kernel

theorem test_ill_formed_5 :
    ([.mapBufferOverflow 24 ⟨[], [], []⟩, .mapBufferOverflow 0 ⟨[0], [1], []⟩] : List Instr).all (fun c => !c.wf) = true := by decide +kernel

theorem test_well_formed_1 :
    ([.tailWrite ⟨1, 0⟩ 0 0#32 [], .cqHeadWrite ⟨1, 0⟩ 0 0#32, .cqStall 0, .threadHalt 0, .ringErrClear ⟨1, 0⟩ 0, .budgetExpiry 0, .waitTimeout 0,
     .rpollRead 0, .vcommitSlotFree 0, .versionRetire 0 0, .tmwaitDone 0, .waitevWake 0, .fenceDone 0, .endbatchRelease 0, .endbatchDone 0, .progSwitch 0,
     .registerWrite ⟨1, 0⟩ ⟨0, 0, [0#32], true⟩, .boundaryApply .none 0 0 0, .rcRead ⟨1, 0⟩ 0 0, .pairLowRead ⟨1, 0⟩ 0 0, .bindLock ⟨1, 0⟩,
     .bootRetry ⟨1, 0⟩, .portDisableDone 0, .anComplete 0 0, .ltDone 0 false, .linkUp 0 0, .lockTimeout 0, .localFault 0, .remoteFault 0, .rfaultClear 0 0,
     .fecCodeword 0 0 false 0, .frameReceive 0 [] {}, .frameEnd 0 [] {}, .creelCacheMaint 0 none, .spillInitDone 0, .spillCopyDone 0 0,
     .readBackDone 0 0 none, .loanReturn ⟨1, 0⟩ 0#32, .loanReclaim ⟨1, 0⟩ 0#32, .frameTransmit 0 0, .frameTxEnd 0, .verifyTimer 0, .pauseReceive 0 [],
     .pauseExpiry 0 0, .pauseRefresh 0, .pauseWdog 0 0, .holdoffEnd 0 0, .snap ⟨1, 0⟩ 0#32, .startPattern 0 ⟨[], [], []⟩, .candidateCheck 0 ⟨[], [], []⟩,
     .hyperframeCheck 0 ⟨[], [], []⟩, .defectTick 0 ⟨[], [], []⟩ false false 0, .sdWindowEnd 0 ⟨[], [], []⟩, .mapperEmit 0 ⟨[], [], []⟩,
     .containerDequeue 0 0, .poUnderrun 0 0, .cmExtract 0 false [], .ageVisit 0, .recircReentry 0, .pageInStart 0, .eviction 0, .pageInDone 0 false,
     .qpageFault 0, .holdExpiry 0, .schedSelect 0, .gateEntry 0, .gclSwitch 0, .deadlineSlot 0 0, .plaitTake 0, .windowOpen 0, .windowClose 0,
     .nowFracRead ⟨1, 0⟩, .tsPop ⟨1, 0⟩, .cap 0 false, .trig 0] : List Instr).all (fun c => c.wf) = true := by decide +kernel

theorem test_well_formed_2 :
    ([.txArm ⟨1, 0⟩ 0#32, .functionLevelReset 0 0, .busMasterEnable 0 false false, .msixMessage 0, .slowpathRxDeliver 0 0 false,
     .bufTailWrite ⟨1, 0⟩ 0 0#32 [], .txTailWrite ⟨1, 0⟩ 0 0#32 [], .slowpathTx 0 false, .hostInject 0, .headWriteback 0 false, .crxPop ⟨1, 0⟩,
     .loanDataAccess ⟨1, 0⟩ 0 none, .go ⟨1, 0⟩ 0 0#32, .cancel ⟨1, 0⟩ 0, .attNew ⟨1, 0⟩ 0 0, .attReturn ⟨1, 0⟩ 0 0 0, .lockRead ⟨1, 0⟩ 0,
     .lockRelease ⟨1, 0⟩ 0 0#32, .rxWord0Read ⟨1, 0⟩ 0, .mbxTimeout 0 false, .doorbellWrite ⟨1, 0⟩ 0 0#32, .dbInRead ⟨1, 0⟩ 0, .selftestDone 0 false 0,
     .selftestPeriodic 0, .complexStart 0, .imageCopyCheck 0 false, .checkpointRestore 0 false, .promote ⟨1, 0⟩ 0, .bootTimeout 0, .lockstep 0,
     .complexEcc 0 false, .watchdog 0, .kick ⟨1, 0⟩ 0, .selfFault ⟨1, 0⟩ 0, .forceFault ⟨1, 0⟩ 0, .restart ⟨1, 0⟩ 0, .autoRestart 0, .start ⟨1, 0⟩ 0,
     .ckptGo ⟨1, 0⟩ 0 [], .imgGo ⟨1, 0⟩ 0, .statusClear ⟨1, 0⟩ 0 0#32, .coalesceEnd 0, .coalescerSend 0 false, .refLost 0, .refFreqWindow 0 0, .readySet 0,
     .trainingDone 0 false 0, .retrain ⟨1, 0⟩, .periodicCal 0, .pdReqGo ⟨1, 0⟩ 0, .wake 0, .avsAck 0 false, .switchReady 0, .fallDrainDone 0,
     .transitionAbort 0, .avsLowerAck 0 false, .scrubRead ⟨0, 0, 0, 0, false⟩, .creelAudit 0, .mapBufferOverflow 0 ⟨[], [], []⟩] : List Instr).all (fun c => c.wf) = true := by decide +kernel


/-! ### Worked examples and tables of the spec -/

/-- The word of a register of block b at an offset, in use. -/
def inUse (s : State) (b off : Nat) : Nat := (s.cell (regKey b 0 off)).e.toNat

/-- The state after a command. -/
def after (c : Instr) (s : State) : State := match exec c s with | .next t => t | _ => s

/-- Chapter 2, bring-up of PG_0, step 2: CR_CFG 0x00700469 of ring 4, written by PF0 and fetched. -/
theorem test_ring_configuration :
    let s := ((after (.registerWrite pf0 ⟨0, 0x401110, [0x00700469#32], true⟩) (((readied lit 43).rput Reg.BIND_TARGET 1 0 [4]).rput Reg.BIND_FUNC 1 0 [3])).boundary .fetch 4 0 4).boundary .write 4 0 0
    (s.cell (regKey 4 0 0x1110)).b = 0x00700469#32 ∧ s.rget Reg.SEQ_VEC 0 [4] = 3 ∧ s.rget Reg.SEQ_IRQ_EN 0 [4] = 1 ∧ s.rget Reg.SEQ_THREAD_MASK 0 [4] = 4 ∧ s.rget Reg.SEQ_SIZE_LOG2 0 [4] = 6 ∧
    s.rget Reg.SEQ_PRIO 0 [4] = 2 ∧ s.rget Reg.SEQ_EN 0 [4] = 1 := by decide +kernel

/-- Chapter 2, the same example: ring 4 with its descriptor in slot 0. -/
def ring4 : State :=
  let s := bme0 ((lit.rput Reg.SEQ_SEQ_EN 1).rput Reg.BIND_TARGET 1 0 [4])
  let t := [(0x1100, 0x80000000), (0x1104, 1), (0x1108, 0x80001000), (0x110C, 1), (0x1110, 0x00700469)].foldl (fun t p => t.setCell (regKey 4 0 p.1) ⟨BitVec.ofNat 32 p.2, BitVec.ofNat 32 p.2⟩) s
  t.mwrite (hostKey 0 0x180000000) ([0x180100000, 0x01010017080004C5, 0, 0].flatMap (leBytes 8))

/-- TAIL = 1 on the doorbell page of ring 4; thread 2 fetches the descriptor (TAG 0x0101, LEN 23, IRQ, host, BUDGET 1,221) and HEAD becomes 1. -/
theorem test_program_start :
    let s := after (.programStart .ok) (after (.tailWrite pf0 4 1#32 []) ring4)
    let x := s.thr 2
    x.running = true ∧ x.tag = 0x0101 ∧ x.len = 23 ∧ x.irq = true ∧ x.loc = false ∧ x.budget = 1221 * 65536 ∧ x.addr = 0x180100000 ∧ s.rget Reg.DB_HEAD 4 = 1 := by decide +kernel

/-- The completion record of the same example: word 0, FAULT_OFFSET 22 and RESULT, with CQ_TAIL 1. -/
theorem test_completion_record :
    let s := after (.programStart .ok) (after (.tailWrite pf0 4 1#32 []) ring4)
    let t := (s.setThr 2 ((s.thr 2).setReg 15 77)).endProg 2 stOK 22 0
    t.m64 (hostKey 0 0x180001000) = 0x0101004010000001 ∧ t.m64 (hostKey 0 0x180001008) / 2 ^ 32 = 0x16 ∧ t.m64 (hostKey 0 0x180001018) = 77 ∧ t.rget Reg.DB_CQ_TAIL 4 = 1 := by decide +kernel

/-- Chapter 3, encoding examples: the fields of PDREQ, QMAP, FENCE and RPOLL. -/
theorem test_encodings :
    bits 0x5800004005001002 63 56 = 0x58 ∧ toCycles (bits 0x5800004005001002 39 24) = some (5 * 1600000) ∧ bits 0x5800004005001002 13 8 = 16 ∧ bits 0x5800004005001002 1 0 = 2 ∧
    bits 0x4100100000000007 47 44 = 1 ∧ bits 0x0000000107000005 47 32 = 1 ∧ bits 0x0000000107000005 26 24 = 7 ∧ bits 0x0000000107000005 12 0 = 5 ∧
    bit 0x6220004001000000 53 = true ∧ toCycles (bits 0x6220004001000000 39 24) = some 1600000 ∧ toCycles (bits 0x2202000064400130 39 24) = some (100 * 1600) ∧
    bits 0x2202000064400130 51 48 = 2 ∧ bits 0x2202000064400130 23 0 = 0x400130 := by decide +kernel

/-- Chapter 3: ADD g3, g3, #8; BCC NE, -5 from word 7; HALT frees the thread. -/
theorem test_add_bcc_halt :
    ((after (.add op0) (start 0x0323300000000008 [] (fun x => x.setReg 3 5))).thr 0).reg 3 = 13 ∧
    ((after (.bcc op0) ((run (List.replicate 7 0 ++ [0x11010000FFFFFFFB])).setThr 0 { (run (List.replicate 7 0 ++ [0x11010000FFFFFFFB])).thr 0 with pc := 7 })).thr 0).pc = 2 ∧
    ((after (.halt op0) (start 0x1400000000000000)).thr 0).running = false := by decide +kernel

/-- Chapter 3, an express entry with a soft failure: MOV g15, LSTAT writes 0x2006. -/
theorem test_mov_lstat : ((after (.mov op0) (start 0x024F000000000000 [] (fun x => { x with e := true, lstat := 6 }))).thr 0).reg 15 = 0x2006 := by decide +kernel

/-- Chapter 4, steps 1 and 4: PF0's write through an alias is buffered and waits for a fetch. -/
theorem test_alias_write :
    let s := after (.registerWrite pf0 ⟨0, 0x3451110, [0x00B0046D#32], true⟩) ring4
    (after (.rcRead pf0 0 0x401110) s).rdata = 0x00B0046D#32 ∧ (after (.rcRead pf0 0 0x409110) s).rdata = 0x00700469#32 := by decide +kernel

/-- Chapter 4, step 2: a thread's RWM of CR_CFG is refused: REFUSED_ADDR, REFUSED_INFO and WR_REFUSED. -/
theorem test_refused_write :
    let s := after (.rwm op0) (start (w64 0x21 0x401110) [0x0000FF0000000C00])
    inUse s 0 0x24 = 0x00401110 ∧ inUse s 0 0x28 = 0x80001301 ∧ inUse s 0 0x20 = 1 := by decide +kernel

/-- Chapter 5: a pause of 65,535 quanta at 100 Gb/s lasts 335.54 us (536,863 core cycles). -/
theorem test_pause_quanta :
    let s := ((((port127 4).rput Reg.PORT_RX_EN 1 127).rput Reg.PORT_PFC 1 127).rput Reg.PORT_PFC_CLASS_EN 8 127).rput Reg.PORT_MODE 5 127
    let t := after (.pauseReceive 127 (List.replicate 12 0 ++ [0x88, 0x08, 1, 1, 0, 8, 0, 0, 0, 0, 0, 0, 0xFF, 0xFF] ++ List.replicate 8 0)) s
    s.now = 0 ∧ ((t.px 127).unit 3).paused = true ∧ ((t.px 127).unit 2).paused = false ∧ (t.paused 127 3 && !t.paused 127 2) = true ∧ ((t.px 127).unit 3).expiry = 536863 := by decide +kernel

/-- R149: the header of lane 5, SEQ 0x0A3F, option 7, SIZE 0, a negative justification with NJ 0x5C, HFN 42 at line index 512. -/
theorem test_container_header :
    contHeader false 5 0x0A3F 512 2 false false false 7 42 0x5C 0x00123456789A = [0x10, 0x05, 0x0A, 0x3F, 0x02, 0x00, 0x80, 0x07, 0x2A, 0x5C, 0x00, 0x12, 0x34, 0x56, 0x78, 0x9A] := by decide +kernel

/-- Chapter 7: the QinQ GTP-U frame. -/
def qinq : List Byte :=
  [0x02, 0x1A, 0x2B, 0x3C, 0x4D, 0x5E, 0x02, 0, 0, 0, 0, 0x07, 0x88, 0xA8, 0xA0, 0x64, 0x81, 0x00, 0x21, 0x90, 0x08, 0x00] ++
  [0x45, 0xB8, 0x01, 0x08, 0, 0, 0x40, 0, 64, 17, 0x17, 0x2B, 10, 0, 5, 1, 10, 0, 9, 2] ++ [0x08, 0x68, 0x08, 0x68, 0, 244, 0, 0] ++ [0x30, 0xFF, 0, 228, 0, 1, 0xE2, 0x40] ++
  [0x45, 0, 0, 228, 0, 0, 0, 0, 64, 17, 0, 0, 100, 64, 3, 7, 100, 64, 200, 1] ++ [0x13, 0x88, 0x17, 0x70, 0, 208, 0, 0] ++ List.replicate 200 0

/-- Its parse by the supplied program: OL3_OFF 22, OL4_OFF 42, TUN_OFF 50, IL3_OFF 58, IL4_OFF 78. -/
theorem test_qinq_parse :
    let r := (parseFrame suppliedProgram qinq qinq.length true 256 24).record
    recordBases r = [some 0, some 22, some 42, some 58, some 78, some 50, (recordBases r)[6]?.getD none] := by decide +kernel

/-- Chapter 9: script 12 on the same frame. -/
theorem test_edit_script :
    let img := beNat ([0x30002800, 0x20181800, 0x52100000, 0x62000000].flatMap (beBytes 4) ++ List.replicate 48 0 ++ [0x02, 0x5E, 0, 0, 0, 0x64] ++ List.replicate 58 0)
    let e := runEdit img qinq [some 0, some 22, some 42, some 58, some 78, some 50, none]
    editOk img = true ∧ e.data.length = 282 ∧ slice e.data 0 6 = [0x02, 0x5E, 0, 0, 0, 0x64] ∧ slice e.data 12 2 = [0x81, 0x00] ∧ slice e.data 26 1 = [0x3F] ∧ slice e.data 28 2 = [0x18, 0x2B] ∧
    e.bases = [some 0, some 18, some 38, some 54, some 74, some 46, none] := by decide +kernel

/-- Chapter 13: the image of context 70, its footprint, the symbol of its example and its arithmetic. -/
theorem test_plait_image :
    let img := beNat ([0x52234820C0000000, 0x00004E200001D4C0, 0x00E8D4A510000000, 0x1004010600006400].flatMap (beBytes 8) ++ beBytes 4 0x00100222 ++ List.replicate 28 0 ++
      (List.range 8).flatMap (fun r => beBytes 4 (0x01004000 + 0x10000 * r)) ++ List.replicate 32 0)
    plOk img = true ∧ plFoot img = 78624 ∧ plOPEN img = 20000 ∧ plCLOSE img = 120000 ∧ plEPOCH img = 10 ^ 12 ∧ plPcId img 7 = 0x0107 ∧ plGain img 7 = 0x4000 ∧
    (plSymbol img (10 ^ 12 + 123700000) 12 3 1 5).1 = 123678906 ∧
    (addPrb 0x4000 0 (1600 :: -592 :: List.replicate 22 0) []).1 = [(0, 800), (1, -296)] := by decide +kernel

/-- Chapter 14: the correctionField and the UDP checksum of the Sync. -/
theorem test_ptp_correction :
    let d := List.replicate 23 (0 : Byte) ++ [17] ++ List.replicate 16 0 ++ [0x3C, 0x5A] ++ List.replicate 8 0 ++ beBytes 8 0x128000 ++ List.replicate 20 0
    let p := ptpPut { data := d, bases := [some 0, some 14, some 34, none, none, none, some 42] } 42 50 (beBytes 8 (addCf 0x128000 16039936).1)
    (addCf 0x128000 16039936) = (0x1074000, false) ∧ slice p 54 4 = [0x01, 0x07, 0x40, 0x00] ∧ slice p 40 2 = [0x7B, 0x65] := by decide +kernel

/-- The check values of the CRCs that the spec names by their polynomials, of the bytes 31 to 39, and the SHA-256 of "abc". -/
theorem test_checksums :
    let d : List Byte := [0x31, 0x32, 0x33, 0x34, 0x35, 0x36, 0x37, 0x38, 0x39]
    crc32 d = 0xCBF43926 ∧ crc32c d = 0xE3069283 ∧ (sha256 [0x61, 0x62, 0x63]).take 4 = [0xBA, 0x78, 0x16, 0xBF] := by decide +kernel

/-- Chapter 18: words 3 to 7 of the reply to READ_RECORD, chunk 2, with row 5 of tenant 2. -/
theorem test_record_read :
    let r := List.replicate 130 (0 : Byte) ++ beBytes 10 110700000000 ++ beBytes 8 90000000 ++ List.replicate 236 0
    let s := ({ (lit.setChan 63 ⟨{ full := true, sender := 1, slot := [(0, 0x02000204#32)] }, {}, 0⟩) with cart := { records := [(0, r)], seq := 1 } } : State)
    let z := ((after (.readRecord .mailbox) s).chan 63).b
    [0, 3, 4, 5, 6, 7].map (fun i => sget (fun _ => (0 : Word)) z.slot i) = [0x0200023C#32, 0#32, 0x19#32, 0xC63BF300#32, 0#32, 0x055D4A80#32] := by decide +kernel

/-- No row of the table gives bits: every word spells no command, and `withFetchWord` leaves the state as it is. -/
theorem test_no_words : decodeTableWord 64 0x1400000000000000 = none ∧ up.withFetchWord 64 0 = up := by decide +kernel

end Sys2Proof.Tests
end

/-! The end of a program (R36, R46, R52, R56): the commands that end one, and O10. -/

namespace Sys2Proof.Machine

open Sys2Proof Sys2Proof.Laws

/-- An instruction whose words are fetched and not legal ends its program with ILLEGAL (R62), and nothing is charged. -/
theorem axRun_illegal {s : State} {o : AxOp} {op w : Nat} {e : List Nat} (h : Fetches s o op w e) {opc : Nat → Bool} {ext : Nat → Nat}
    {legal : Nat → List Nat → Bool} {body : State → Ax → State} (ho : opc op = true) (hx : ext w = e.length)
    (hl : legal w e = false) : s.axRun o opc ext legal body = s.endProg o.thread stILLEGAL (s.thr o.thread).pc 0 := by
  have hf : ((s.thr o.thread).len != 0 && decide ((s.thr o.thread).len < (s.thr o.thread).pc + 1 + e.length)) = false := by
    rcases h.fits with h0 | h1
    · simp [h0]
    · simp; intro _; omega
  simp only [State.axRun, h.run, Bool.not_true, Bool.false_eq_true, if_false, h.word, h.code, ho, hx, hf, h.ext, hl, Bool.not_false, if_true]

/-- An illegal instruction outside a batch has ended its program. -/
theorem axRun_illegal_ended {s : State} (hc : s.Canonical) {o : AxOp} (he : CanEnd s o.thread) {op w : Nat} {e : List Nat}
    (h : Fetches s o op w e) {opc : Nat → Bool} {ext : Nat → Nat} {legal : Nat → List Nat → Bool} {body : State → Ax → State}
    (ho : opc op = true) (hx : ext w = e.length) (hl : legal w e = false) :
    Ended s (s.axRun o opc ext legal body) o.thread stILLEGAL (s.thr o.thread).pc 0 (s.thr o.thread).charged := by
  rw [axRun_illegal h ho hx hl]
  exact endProg_ended hc (canRun_lt h.run) he.1 he.2 (fun q => absurd q (by decide))

/-- The status with which a program ends: BATCH where it leaves a batch open by OK, TRAP or END (R52). -/
def Thread.endStatus (x : Thread) (st : Nat) : Nat := if x.batch.isSome && (st == stOK || st == stTRAP || st == stEND) then stBATCH else st

/-- What the end of a program does before its thread is idle: the events, the drafts and the cycles (R46, R52, R56, R427). -/
def State.closeProg (s : State) (n st : Nat) : State :=
  (((s.raiseIf ((s.thr n).batch.isSome && (st == stOK || st == stTRAP || st == stEND)) 997).abortDrafts n).raiseIf
    (decide (0x10 ≤ (s.thr n).endStatus st)) (984 + n)).settleThread n ((s.thr n).endStatus st == stOK)

/-- The record of a program that has ended, unless NOCOMPL suppresses it, and the state of its completion ring. -/
def State.recordEnd (u : State) (x : Thread) (n st fo trap : Nat) : State :=
  (if st == stOK && x.nocompl then u
    else u.writeRecord x.ring x.tag st n (if st == stTRAP then trap else 0) fo x.charged (x.reg 15).toNat x.irq).noteCq x.ring

/-- The end of a program in its three parts. -/
theorem endProg_parts (s : State) (n st fo trap : Nat) :
    s.endProg n st fo trap = ((s.closeProg n st).setThr n {}).recordEnd (s.thr n) n ((s.thr n).endStatus st) fo trap := rfl

theorem closeProg_keeps (s : State) (n st : Nat) : Keeps 0x800080010 s (s.closeProg n st) :=
  State_settleThread_keeps (State_raiseIf_keeps (State_abortDrafts_keeps (State_raiseIf_keeps (Keeps.refl _ s) rfl) rfl) rfl) rfl

theorem recordEnd_keeps (u : State) (x : Thread) (n st fo trap : Nat) : Keeps 0x80490 u (u.recordEnd x n st fo trap) :=
  State_noteCq_keeps (Keeps.ite (Keeps.refl _ _) (State_writeRecord_keeps (Keeps.refl _ _) rfl)) rfl

/-- Whatever its status and whether a batch is open, the end of a program leaves its thread idle and every other thread as it was. -/
theorem endProg_threads {s : State} (hc : s.Canonical) (n st fo trap : Nat) :
    (s.endProg n st fo trap).thr n = {} ∧ ∀ k, k ≠ n → (s.endProg n st fo trap).thr k = s.thr k := by
  have hk := closeProg_keeps s n st
  have hs : (s.closeProg n st).threads = s.threads := hk.same .threads (by decide)
  have ht : (s.endProg n st fo trap).threads = ((s.closeProg n st).setThr n {}).threads :=
    (recordEnd_keeps _ _ _ _ _ _).same .threads (by decide)
  refine ⟨?_, fun k hk' => ?_⟩
  · simp only [State.thr, ht]; exact thr_setThr_same (hk.canon hc) n {}
  · have e := thr_setThr_ne (hk.canon hc) ({} : Thread) hk'
    simp only [State.thr, ht, hs] at e ⊢
    exact e

/-- With NOCOMPL a program that ends with OK writes no record (R46). -/
theorem endProg_nocompl_mem {s : State} {n fo trap : Nat} (hb : (s.thr n).batch = none) (hq : (s.thr n).nocompl = true) :
    (s.endProg n stOK fo trap).mem = s.mem := by
  have e : s.endProg n stOK fo trap = ((s.closeProg n stOK).setThr n {}).noteCq (s.thr n).ring := by
    have he : (s.thr n).endStatus stOK = stOK := by simp only [Thread.endStatus, hb, Option.isSome_none, Bool.false_and, Bool.false_eq_true, if_false]
    rw [endProg_parts, he, State.recordEnd, hq, if_pos (by rfl)]
  have h1 : (s.endProg n stOK fo trap).mem = ((s.closeProg n stOK).setThr n {}).mem := by
    rw [e]; exact (State_noteCq_keeps (Keeps.refl 0x400 _) rfl).same .mem (by decide)
  have h2 : (s.closeProg n stOK).mem = s.mem := (closeProg_keeps s n stOK).same .mem (by decide)
  exact h1.trans ((State.setThr_mem _ _ _).trans h2)

/-- Settles O10: each case is the body of its instruction (`axRun_body`, `axRun_illegal`), and what that does is the end of a program. -/
theorem programEnds : Obligations.ProgramEnds := by
  unfold Obligations.ProgramEnds
  intro s o w hc he x ends
  have body : ∀ {op : Nat} {i : Instr} {opc : Nat → Bool} {legal : Nat → List Nat → Bool} {st : Nat} {code : Ax → Nat}, Fetches s o op w [] →
      exec i s = .next (s.axRun o opc (fun _ => 0) legal (fun u a => u.axEnd a st 1 (code a))) → opc op = true → legal w [] = true →
      (st = stOK → x.nocompl = false) →
      ends i st (if st = stTRAP then code ⟨o.thread, w, [], o.delay, o.fault⟩ else 0) (1 + o.delay) := by
    intro op i opc legal st code hf hx ho hl hq
    rw [axRun_body hf ho rfl hl] at hx
    have e := axEnd_ended (a := ⟨o.thread, w, [], o.delay, o.fault⟩) (st := st) (cost := 1) (trap := code ⟨o.thread, w, [], o.delay, o.fault⟩) hc (canRun_lt hf.run) he hq
    rw [Nat.add_assoc] at e
    exact ⟨_, hx, e⟩
  have illegal : ∀ {op : Nat} {i : Instr} {opc : Nat → Bool} {legal : Nat → List Nat → Bool} {b : State → Ax → State}, Fetches s o op w [] →
      exec i s = .next (s.axRun o opc (fun _ => 0) legal b) → opc op = true → legal w [] = false → ends i stILLEGAL 0 0 :=
    fun hf hx ho hl => ⟨_, hx, axRun_illegal_ended hc he hf ho rfl hl⟩
  refine ⟨?halt, ?haltQuiet, ?trap, ?undefined, ?add, ?br, ?haltBits⟩
  case halt => exact fun hf hl hq => body hf rfl rfl hl (fun _ => hq)
  case haltQuiet =>
    intro hf hl hq
    refine ⟨_, rfl, ?_⟩
    simp only [axRun_body hf (opc := (· == 0x14)) (ext := fun _ => 0) (legal := fun w _ => okBits w 0) rfl rfl hl, State.axEnd]
    have cu := canonical_setThr hc o.thread { s.thr o.thread with charged := (s.thr o.thread).charged + 1 + o.delay }
    refine ⟨(endProg_threads cu _ _ _ _).1, ?_⟩
    refine (endProg_nocompl_mem ?_ ?_).trans rfl <;> rw [thr_setThr_same hc]
    · exact he.2
    · exact hq
  case trap => exact fun hf hl => body (st := stTRAP) (code := fun a => bits a.w 7 0) hf rfl rfl hl (fun q => absurd q (by decide))
  case undefined =>
    intro op ho hf
    exact illegal hf rfl (by simpa using ho) rfl
  case add => exact fun hf hl => illegal hf rfl rfl hl
  case br => exact fun hf hl => illegal hf rfl rfl hl
  case haltBits => exact fun hf hl => illegal hf rfl rfl hl

end Sys2Proof.Machine


/-! Beside the end of a program: events that stay raised through it, and its end with a batch open (R52, R53). -/

namespace Sys2Proof.Machine

open Sys2Proof Sys2Proof.Laws

/-! ### Status bits that stay set -/

/-- Every event raised in s is raised in t. -/
def StatusKept (s t : State) : Prop := ∀ a, a < 1152 → s.evStatus a = true → t.evStatus a = true

theorem StatusKept.refl (s : State) : StatusKept s s := fun _ _ h => h

theorem StatusKept.trans {s t u : State} (h : StatusKept s t) (g : StatusKept t u) : StatusKept s u := fun a ha hs => g a ha (h a ha hs)

/-- The block of the register that holds a field. -/
theorem keyBlk_rowKey {r : Row} {i : Nat} {ix : List Nat} (h : i * 2 ^ 16 + rowAdr r ix < 2 ^ 33) : keyBlk (rowKey r i ix) = r.blk :=
  keyBlk_regKey h

theorem keyBlk_statusKey (w : Nat) : keyBlk (rowKey Reg.EVENT_STATUS 0 [w]) = 3 :=
  keyBlk_rowKey (by simp [rowAdr, Reg.EVENT_STATUS]; omega)

theorem statusKey_not_lost (w : Nat) : rowKey Reg.EVENT_STATUS 0 [w] ∉ lostVecKeys := by
  simp [lostVecKeys, rowKey, regKey, rowAdr, Reg.EVENT_STATUS, Reg.HOST_CNT]; omega

/-- What leaves the registers of block 3 leaves the status bits. -/
theorem StatusKept.of_cells {s t : State} (h : ∀ k, keyBlk k = 3 → k ∉ lostVecKeys → t.cell k = s.cell k) : StatusKept s t := by
  intro a _ hs
  rw [evStatus_quietish (h _ (keyBlk_statusKey _) (statusKey_not_lost _))]; exact hs

theorem StatusKept.of_regs {s t : State} (h : t.regs = s.regs) : StatusKept s t := .of_cells fun k _ _ => cell_of_regs h k

theorem raise_statusKept {s : State} (h : swf regReset s.regs = true) {src : Nat} (hs : src < 1152) : StatusKept s (s.raise src) :=
  fun _ ha hb => raise_keeps_status h hs ha hb

theorem raiseIf_statusKept {s : State} (h : swf regReset s.regs = true) (c : Bool) {src : Nat} (hs : src < 1152) :
    StatusKept s (s.raiseIf c src) := by
  simp only [State.raiseIf]
  split
  · exact raise_statusKept h hs
  · exact .refl s

/-- A field set in another block leaves the registers of a block. -/
theorem rput_cell_blk {s : State} (h : swf regReset s.regs = true) {r : Row} {v i k : Nat} {ix : List Nat} (hr : i * 2 ^ 16 + rowAdr r ix < 2 ^ 33)
    (hk : keyBlk k ≠ r.blk) : (s.rput r v i ix).cell k = s.cell k :=
  rput_cell h _ _ _ _ (ne_of_keyBlk (by rw [keyBlk_rowKey hr]; exact hk))

theorem rputBoth_cell {s : State} (h : swf regReset s.regs = true) (r : Row) (v i : Nat) (ix : List Nat) {k : Nat} (hk : k ≠ rowKey r i ix) :
    (s.rputBoth r v i ix).cell k = s.cell k := cell_setCell_ne h _ hk

theorem rputBoth_cell_blk {s : State} (h : swf regReset s.regs = true) {r : Row} {v i k : Nat} {ix : List Nat} (hr : i * 2 ^ 16 + rowAdr r ix < 2 ^ 33)
    (hk : keyBlk k ≠ r.blk) : (s.rputBoth r v i ix).cell k = s.cell k :=
  rputBoth_cell h _ _ _ _ (ne_of_keyBlk (by rw [keyBlk_rowKey hr]; exact hk))

/-- A pair set in another block leaves the registers of a block. -/
theorem pput_cell_blk {s : State} (h : swf regReset s.regs = true) {r : Row} {v i k : Nat} {ix : List Nat} (hr : i * 2 ^ 16 + (rowAdr r ix + 4) < 2 ^ 33)
    (hk : keyBlk k ≠ r.blk) : (s.pput r v i ix).cell k = s.cell k := by
  refine pput_cell h _ _ _ _ (ne_of_keyBlk ?_) (ne_of_keyBlk ?_)
  · rw [keyBlk_rowKey (by omega)]; exact hk
  · have e : rowKey r i ix + 4 = regKey r.blk i (rowAdr r ix + 4) := by simp only [rowKey, regKey]; omega
    rw [e, keyBlk_regKey hr]; exact hk

/-- The address of a command ring's register in block 4. -/
theorem rowAdr_ring_lt {r : Row} (h : r.dims = [(0x40, 64)]) (ho : r.off < 2 ^ 16) (n : Nat) : 0 * 2 ^ 16 + rowAdr r [n] < 2 ^ 33 := by
  simp only [rowAdr, h, List.zip_cons_cons, List.zip_nil_right, List.map_cons, List.map_nil, List.sum_cons, List.sum_nil]
  omega

/-- What a ring that stops by an error writes before it raises the event (R38). -/
def State.ringStopped (s : State) (n code : Nat) : State :=
  (((s.rput Reg.SEQ_ERR 1 0 [n]).rput Reg.SEQ_ERR_CODE code 0 [n]).rputBoth Reg.SEQ_EN 0 0 [n]).rput Reg.SEQ_ERR_RING n

theorem ringError_eq (s : State) (n code : Nat) : s.ringError n code = (s.ringStopped n code).raise 992 := rfl

theorem ringStopped_swf {s : State} (h : swf regReset s.regs = true) (n code : Nat) : swf regReset (s.ringStopped n code).regs = true :=
  rput_swf (rputBoth_swf (rput_swf (rput_swf h _ _ _ _) _ _ _ _) _ _ _ _) _ _ _ _

/-- A ring that stops writes registers of block 4 alone. -/
theorem ringStopped_cell {s : State} (h : swf regReset s.regs = true) (n code : Nat) {k : Nat} (hk : keyBlk k ≠ 4) :
    (s.ringStopped n code).cell k = s.cell k := by
  have h1 := rput_swf h Reg.SEQ_ERR 1 0 [n]
  have h2 := rput_swf h1 Reg.SEQ_ERR_CODE code 0 [n]
  simp only [State.ringStopped]
  rw [rput_cell_blk (rputBoth_swf h2 _ _ _ _) (by decide) hk, rputBoth_cell_blk h2 (rowAdr_ring_lt rfl (by decide) n) hk,
    rput_cell_blk h1 (rowAdr_ring_lt rfl (by decide) n) hk, rput_cell_blk h (rowAdr_ring_lt rfl (by decide) n) hk]

/-- A ring that stops raises RING_ERROR (R38). -/
theorem ringError_status {s : State} (h : swf regReset s.regs = true) (n code : Nat) : (s.ringError n code).evStatus 992 = true :=
  raise_status (ringStopped_swf h n code) (by decide)

theorem ringError_statusKept {s : State} (h : swf regReset s.regs = true) (n code : Nat) : StatusKept s (s.ringError n code) :=
  (StatusKept.of_cells fun _ hk _ => ringStopped_cell h n code (by rw [hk]; decide)).trans
    (raise_statusKept (ringStopped_swf h n code) (by decide))

theorem settleThread_statusKept {s : State} (h : swf regReset s.regs = true) (n : Nat) (ok : Bool) : StatusKept s (s.settleThread n ok) := by
  have a : ∀ j, 0 * 2 ^ 16 + (rowAdr Reg.TALLY_THREAD_WORD [n, j] + 4) < 2 ^ 33 := by
    intro j; simp [rowAdr, Reg.TALLY_THREAD_WORD]; omega
  refine .of_cells fun k hk _ => ?_
  simp only [State.settleThread, State.cadd]
  rw [pput_cell_blk (pput_swf h _ _ _ _) (a _) (by rw [hk]; decide), pput_cell_blk h (a _) (by rw [hk]; decide)]

theorem writeRecord_statusKept {s : State} (hc : s.Canonical) {n : Nat} (hn : n < 64) (tag st th trap fo cyc res : Nat) (irq : Bool) :
    StatusKept s (s.writeRecord n tag st th trap fo cyc res irq) := by
  cases hk : s.ringKey n (s.cqBase n) (32 * (s.rget Reg.DB_CQ_TAIL n % s.ringSize n)) with
  | none => rw [writeRecord_none hk]; exact ringError_statusKept hc.regs n 3
  | some key =>
    exact .of_cells fun k h3 hl => (writeRecord_some hc hn hk).2.2.2 k (by rw [h3]; decide) hl

/-- A status of 0x10 or above raises THREAD_FAULT (R56), and no event that was raised is lost. -/
theorem closeProg_status {s : State} (hc : s.Canonical) {n : Nat} (hn : n < 8) (st : Nat) :
    StatusKept s (s.closeProg n st) ∧ (0x10 ≤ (s.thr n).endStatus st → (s.closeProg n st).evStatus (984 + n) = true) := by
  obtain ⟨u, hu⟩ : ∃ u, u = (s.raiseIf ((s.thr n).batch.isSome && (st == stOK || st == stTRAP || st == stEND)) 997).abortDrafts n := ⟨_, rfl⟩
  have ku : Keeps 0x800080010 s u := by
    rw [hu]; exact State_abortDrafts_keeps (State_raiseIf_keeps (Keeps.refl _ s) rfl) rfl
  have su : StatusKept s u := by
    have a : Keeps 0x800000000 (s.raiseIf ((s.thr n).batch.isSome && (st == stOK || st == stTRAP || st == stEND)) 997) u := by
      rw [hu]; exact State_abortDrafts_keeps (Keeps.refl _ _) rfl
    exact (raiseIf_statusKept hc.regs _ (by decide)).trans (.of_regs (a.same .regs (by decide)))
  have cu := (ku.canon hc).regs
  have cr := ((State_raiseIf_keeps (a1 := decide (0x10 ≤ (s.thr n).endStatus st)) (a2 := 984 + n) (Keeps.refl 0x80010 u) rfl).canon (ku.canon hc)).regs
  have e : s.closeProg n st = (u.raiseIf (decide (0x10 ≤ (s.thr n).endStatus st)) (984 + n)).settleThread n ((s.thr n).endStatus st == stOK) := by
    rw [hu]; rfl
  rw [e]
  refine ⟨su.trans ((raiseIf_statusKept cu _ (by omega)).trans (settleThread_statusKept cr _ _)), fun h10 => ?_⟩
  refine settleThread_statusKept cr _ _ _ (by omega) ?_
  simp only [State.raiseIf, h10, decide_true, if_true]
  exact raise_status cu (by omega)

theorem recordEnd_statusKept {u : State} (hc : u.Canonical) {x : Thread} (hr : x.ring < 64) (n st fo trap : Nat) :
    StatusKept u (u.recordEnd x n st fo trap) := by
  have e : ∀ v : State, StatusKept v (v.noteCq x.ring) := fun v => .of_regs ((State_noteCq_keeps (Keeps.refl 0x400 v) rfl).same .regs (by decide))
  refine StatusKept.trans ?_ (e _)
  split
  · exact .refl u
  · exact writeRecord_statusKept hc hr _ _ _ _ _ _ _ _

/-- The end of a program loses no raised event, and a status of 0x10 or above raises THREAD_FAULT, in a batch or outside. -/
theorem endProg_status {s : State} (hc : s.Canonical) {n : Nat} (hn : n < 8) (hr : (s.thr n).ring < 64) (st fo trap : Nat) :
    StatusKept s (s.endProg n st fo trap) ∧ (0x10 ≤ (s.thr n).endStatus st → (s.endProg n st fo trap).evStatus (984 + n) = true) := by
  have c := closeProg_status hc hn st
  have hz : StatusKept (s.closeProg n st) ((s.closeProg n st).setThr n {}) := .of_regs (State.setThr_regs _ _ _)
  have k := hz.trans (recordEnd_statusKept (canonical_setThr ((closeProg_keeps s n st).canon hc) n {}) hr n ((s.thr n).endStatus st) fo trap)
  exact ⟨c.1.trans k, fun h => k _ (by omega) (c.2 h)⟩

/-! ### The end of a program with a batch open -/

section
variable {β : Type}

theorem sdel_of_below [DecidableEq β] {d : Nat → β} {a k : Nat} {m : Sparse β} (h : swfFrom d a m = true) (hk : k < a) : sdel m k = m := by
  cases m with
  | nil => rfl
  | cons e r =>
    obtain ⟨q, v⟩ := e
    simp only [swfFrom, Bool.and_eq_true, decide_eq_true_eq] at h
    simp only [sdel]
    rw [if_pos (by omega)]

theorem sdel_sins (m : Sparse β) (k : Nat) (x : β) : sdel (sins m k x) k = sdel m k := by
  induction m with
  | nil => simp [sins, sdel]
  | cons e r ih =>
    obtain ⟨q, v⟩ := e
    simp only [sins, sdel]
    split
    · simp [sdel]
    · split
      · simp [sdel]
      · next h1 h2 => simp only [sdel, h1, h2, if_false, ih, Bool.false_eq_true]

theorem sdel_sdel [DecidableEq β] {d : Nat → β} {a k : Nat} {m : Sparse β} (h : swfFrom d a m = true) : sdel (sdel m k) k = sdel m k := by
  induction m generalizing a with
  | nil => rfl
  | cons e r ih =>
    obtain ⟨q, v⟩ := e
    simp only [swfFrom, Bool.and_eq_true, decide_eq_true_eq] at h
    simp only [sdel]
    split
    · next h1 => simp only [sdel, h1, if_true]
    · split
      · next h1 h2 => simp only [beq_iff_eq] at h2; exact sdel_of_below h.2 (by omega)
      · next h1 h2 => simp only [sdel, h1, h2, if_false, ih h.2, Bool.false_eq_true]

/-- What was written at a key that returns to its default does not matter. -/
theorem sset_sset_dflt [DecidableEq β] {d : Nat → β} {m : Sparse β} (h : swf d m = true) (k : Nat) (x : β) : sset d (sset d m k x) k (d k) = sset d m k (d k) := by
  simp only [sset, if_true]
  split
  · exact sdel_sdel h
  · exact sdel_sins m k x

end

/-- What a thread held before it becomes idle does not matter. -/
theorem setThr_setThr_idle {s : State} (hc : s.Canonical) (n : Nat) (x : Thread) : (s.setThr n x).setThr n {} = s.setThr n {} := by
  have e := sset_sset_dflt (d := fun _ => ({} : Thread)) hc.threads n x
  simp only [State.setThr]
  rw [e]

theorem deliverVec_setThr (s : State) (n : Nat) (x : Thread) (v : Nat) : (s.setThr n x).deliverVec v = (s.deliverVec v).setThr n x := by
  simp only [State.deliverVec, apply_ite (fun u => State.setThr u n x)]; rfl

theorem signalVec_setThr (s : State) (n : Nat) (x : Thread) (v : Nat) : (s.setThr n x).signalVec v = (s.signalVec v).setThr n x := by
  have h1 : ∀ y, ((s.setThr n x).setVec v y).deliverVec v = ((s.setVec v y).deliverVec v).setThr n x := fun y => deliverVec_setThr (s.setVec v y) n x v
  have e : (s.setThr n x).rget Reg.EVENT_COAL_US 0 [v] = s.rget Reg.EVENT_COAL_US 0 [v] := rfl
  have e2 : (s.setThr n x).vec v = s.vec v := rfl
  simp only [State.signalVec, e, e2, State.setThr_now, h1, deliverVec_setThr s n x v]
  cases (s.vec v).quietEnd with
  | none => split <;> rfl
  | some q =>
    split
    · rfl
    · simp only [apply_ite (fun u => State.setThr u n x)]; rfl

theorem raise_setThr (s : State) (n : Nat) (x : Thread) (src : Nat) : (s.setThr n x).raise src = (s.raise src).setThr n x := by
  simp only [State.raise, apply_ite (fun u => State.setThr u n x), ← signalVec_setThr]; rfl

theorem raiseIf_setThr (s : State) (n : Nat) (x : Thread) (c : Bool) (src : Nat) : (s.setThr n x).raiseIf c src = (s.raiseIf c src).setThr n x := by
  cases c
  · rfl
  · exact raise_setThr s n x src

theorem abortDrafts_setThr (s : State) (n : Nat) (x : Thread) (k : Nat) : (s.setThr n x).abortDrafts k = (s.abortDrafts k).setThr n x :=
  List.foldl_hom (fun u => State.setThr u n x) (fun _ _ => rfl)

theorem pput_setThr (s : State) (n : Nat) (x : Thread) (r : Row) (v i : Nat) (ix : List Nat) :
    (s.setThr n x).pput r v i ix = (s.pput r v i ix).setThr n x := rfl

theorem pget_setThr (s : State) (n : Nat) (x : Thread) (r : Row) (i : Nat) (ix : List Nat) : (s.setThr n x).pget r i ix = s.pget r i ix := rfl

theorem settleThread_setThr (s : State) (n : Nat) (x : Thread) (k : Nat) (ok : Bool) :
    (s.setThr n x).settleThread k ok = (s.settleThread k ok).setThr n x := by
  simp only [State.settleThread, State.cadd, pput_setThr, pget_setThr]

theorem recordEnd_batch (u : State) (x : Thread) (b : Option (List HeldWrite)) (n st fo trap : Nat) :
    u.recordEnd { x with batch := b } n st fo trap = u.recordEnd x n st fo trap := rfl

/-- A status that leaves a batch open unnoticed (R53): not OK, TRAP or END. -/
abbrev Unbatched (st : Nat) : Prop := (st == stOK || st == stTRAP || st == stEND) = false

theorem endStatus_unbatched {x : Thread} {st : Nat} (h : Unbatched st) : x.endStatus st = st := by
  simp only [Unbatched] at h
  simp only [Thread.endStatus, h, Bool.and_false, Bool.false_eq_true, if_false]

/-- A program that ends with such a status ends as if no batch were open. -/
theorem endProg_forget_batch {s : State} (hc : s.Canonical) {n st : Nat} (h : Unbatched st) (fo trap : Nat) :
    (s.setThr n { s.thr n with batch := none }).endProg n st fo trap = s.endProg n st fo trap := by
  have hx := thr_setThr_same hc n { s.thr n with batch := none }
  have hcl : (s.setThr n { s.thr n with batch := none }).closeProg n st = (s.closeProg n st).setThr n { s.thr n with batch := none } := by
    have h' := h
    simp only [Unbatched] at h'
    simp only [State.closeProg, hx, endStatus_unbatched h, h', Bool.and_false, raiseIf_setThr, abortDrafts_setThr,
      settleThread_setThr]
  rw [endProg_parts, endProg_parts, hcl, setThr_setThr_idle ((closeProg_keeps s n st).canon hc), hx, endStatus_unbatched h, endStatus_unbatched h,
    recordEnd_batch]

/-- What is written, and where, when a program ends does not depend on the thread's charge, wait and batch. -/
theorem Ended.of_setThr {s t : State} (hc : s.Canonical) {n st fo trap cycles : Nat} {x : Thread} (h : Ended (s.setThr n x) t n st fo trap cycles)
    (hr : x.ring = (s.thr n).ring) (ht : x.tag = (s.thr n).tag) (hg : x.g = (s.thr n).g) : Ended s t n st fo trap cycles := by
  have ou := onlyThread_setThr hc n x
  have hx := thr_setThr_same hc n x
  have g15 : x.reg 15 = (s.thr n).reg 15 := by simp only [Thread.reg, hg]
  refine { idle := h.idle, others := fun k hk => (h.others k hk).trans (ou.2 k hk), record := ?_, unwritten := ?_, fault := h.fault,
           frame := fun f hf => ?_, regs := h.regs }
  · have r := h.record
    rw [hx, hr, ht, g15] at r
    exact r
  · have r := h.unwritten
    rw [hx, hr] at r
    exact r
  · refine same_trans (ou.1 f ?_) (h.frame f hf)
    intro q; apply hf; simp only [List.mem_singleton] at q; subst q; simp

/-- A program that ends with a status other than OK, TRAP and END has ended as R36 states, with a batch open or not. -/
theorem endProg_ended_unbatched {s : State} (hc : s.Canonical) {n st fo trap : Nat} (hn : n < 8) (hr : (s.thr n).ring < 64) (h : Unbatched st) :
    Ended s (s.endProg n st fo trap) n st fo 0 (s.thr n).charged := by
  have hx := thr_setThr_same hc n { s.thr n with batch := none }
  have hok : st ≠ stOK := by rintro rfl; exact absurd h (by decide)
  have htr : st ≠ stTRAP := by rintro rfl; exact absurd h (by decide)
  have e := endProg_ended (fo := fo) (trap := trap) (canonical_setThr hc n { s.thr n with batch := none }) hn (by rw [hx]; exact hr)
    (by rw [hx]) (fun q => absurd q hok)
  rw [hx, if_neg htr, endProg_forget_batch hc h] at e
  exact Ended.of_setThr hc e rfl rfl rfl

end Sys2Proof.Machine


/-! Batches (R51 to R53): what BATCH, ENDBATCH and the ends of its wait do, and O15. -/

namespace Sys2Proof.Machine

open Sys2Proof Sys2Proof.Laws

/-- Releasing a batch keeps the state canonical. -/
theorem releaseBatch_canonical {s : State} (hc : s.Canonical) (n : Nat) : (s.releaseBatch n).1.Canonical :=
  (State_releaseBatch_keeps (Keeps.refl 0x193cc14f96f0 s) rfl).canon hc

/-- An instruction that begins a wait that no time-out bounds (R53). -/
theorem axHold_holds {s : State} (hc : s.Canonical) (a : Ax) (k : WaitKind) (cost : Nat) :
    (s.axHold a k cost).thr a.t = { s.thr a.t with charged := (s.thr a.t).charged + (cost + a.delay), wait := some ⟨k, s.now, none, bit a.w 52, a.len⟩ } ∧
      OnlyThread a.t s (s.axHold a k cost) := ⟨thr_setThr_same hc _ _, onlyThread_setThr hc _ _⟩

/-- A legal BATCH is its body. -/
theorem execBatch_body {s : State} {o : AxOp} {w : Nat} (h : Fetches s o 0x63 w []) (hl : okBits w 0 = true) :
    exec (.batch o) s = .next (if (s.thr o.thread).batch.isSome then (s.raise 997).axEnd ⟨o.thread, w, [], o.delay, o.fault⟩ stBATCH 1 0
      else (s.setThr o.thread { s.thr o.thread with batch := some [] }).axDone ⟨o.thread, w, [], o.delay, o.fault⟩ stOK 1) :=
  congrArg Host.Outcome.next (axRun_body h rfl rfl hl)

/-- BATCH outside a batch opens an empty one. -/
theorem batch_opens {s : State} (hc : s.Canonical) {o : AxOp} {w : Nat} (h : Fetches s o 0x63 w []) (hl : okBits w 0 = true)
    (hb : (s.thr o.thread).batch = none) (hg : GoesOn s o.thread ((s.thr o.thread).pc + 1) (1 + o.delay)) :
    ∃ t, exec (.batch o) s = .next t ∧
      t.thr o.thread = { s.thr o.thread with batch := some [] }.goneTo ((s.thr o.thread).pc + 1) (1 + o.delay) ∧ OnlyThread o.thread s t := by
  rw [execBatch_body h hl, hb]
  exact ⟨_, rfl, setThr_axDone_ok (a := ⟨o.thread, w, [], o.delay, o.fault⟩) hc hg rfl rfl rfl rfl (canRun_wait h.run)⟩

/-- A nested BATCH ends the program with events 997 and THREAD_FAULT raised (R52). -/
theorem batch_nested {s : State} (hc : s.Canonical) {o : AxOp} {w : Nat} {l : List HeldWrite} (h : Fetches s o 0x63 w []) (hl : okBits w 0 = true)
    (hb : (s.thr o.thread).batch = some l) (hr : (s.thr o.thread).ring < 64) :
    ∃ t, exec (.batch o) s = .next t ∧ t.thr o.thread = {} ∧ t.evStatus 997 = true ∧ t.evStatus (984 + o.thread) = true ∧
      ∀ j, j ≠ o.thread → t.thr j = s.thr j := by
  rw [execBatch_body h hl, hb]
  have hth : ∀ j, (s.raise 997).thr j = s.thr j := fun j => by
    have e : (s.raise 997).threads = s.threads := raise_only s 997 .threads (by decide)
    simp only [State.thr, e]
  have cr := raise_canonical hc 997
  obtain ⟨x, hx⟩ : ∃ x : Thread, x = { (s.raise 997).thr o.thread with charged := ((s.raise 997).thr o.thread).charged + 1 + o.delay } := ⟨_, rfl⟩
  have cu := canonical_setThr cr o.thread x
  have ou := onlyThread_setThr cr o.thread x
  have hu : ((s.raise 997).setThr o.thread x).thr o.thread = x := thr_setThr_same cr o.thread x
  have hth' := endProg_threads cu o.thread stBATCH ((s.raise 997).thr o.thread).pc 0
  have hst := endProg_status cu (canRun_lt h.run) (by rw [hu, hx, hth]; exact hr) stBATCH ((s.raise 997).thr o.thread).pc 0
  have e : (s.raise 997).axEnd ⟨o.thread, w, [], o.delay, o.fault⟩ stBATCH 1 0 =
      ((s.raise 997).setThr o.thread x).endProg o.thread stBATCH ((s.raise 997).thr o.thread).pc 0 := by rw [hx]; rfl
  refine ⟨_, rfl, ?_⟩
  simp only [Option.isSome_some, if_true, e]
  refine ⟨hth'.1, hst.1 997 (by decide) ?_, hst.2 ?_, fun j hj => (hth'.2 j hj).trans ((ou.2 j hj).trans (hth j))⟩
  · have k : StatusKept (s.raise 997) ((s.raise 997).setThr o.thread x) := .of_regs (State.setThr_regs _ _ _)
    exact k 997 (by decide) (raise_status hc.regs (by decide))
  · rw [endStatus_unbatched (by decide)]; decide

/-- A legal ENDBATCH with a batch open is its body. -/
theorem execEndbatch_body {s : State} {o : AxOp} {w : Nat} {l : List HeldWrite} (h : Fetches s o 0x64 w [])
    (hl : okBits w (m53 + (if bit w 53 then mA else 0)) = true) (hb : (s.thr o.thread).batch = some l) :
    let a : Ax := ⟨o.thread, w, [], o.delay, o.fault⟩
    let time := s.rg a a.ra % 2 ^ 48
    let late := bit w 53 && s.reached time
    exec (.endbatch o) s = .next (
      if bit w 53 && !late then s.axHold a (.endbatch (some time) false false false) 2
      else if l.isEmpty then (s.setThr o.thread { s.thr o.thread with batch := none }).axDone a (if late then stLATE else stOK) 2
      else (s.releaseBatch o.thread).1.axHold a (.endbatch none true late (s.releaseBatch o.thread).2) 2) := by
  intro a time late
  refine congrArg Host.Outcome.next ((axRun_body h rfl rfl hl).trans ?_)
  simp only [hb]; rfl

/-- ENDBATCH closes an empty batch with OK. -/
theorem endbatch_empty {s : State} (hc : s.Canonical) {o : AxOp} {w : Nat} (h : Fetches s o 0x64 w []) (hl : okBits w m53 = true)
    (hb : (s.thr o.thread).batch = some []) (ht : bit w 53 = false) (hg : GoesOn s o.thread ((s.thr o.thread).pc + 1) (2 + o.delay)) :
    ∃ t, exec (.endbatch o) s = .next t ∧
      t.thr o.thread = { s.thr o.thread with batch := none }.goneTo ((s.thr o.thread).pc + 1) (2 + o.delay) ∧ OnlyThread o.thread s t := by
  have e := execEndbatch_body h (by simpa [ht] using hl) hb
  simp only [ht, Bool.false_and, Bool.false_eq_true, if_false, List.isEmpty_nil, if_true] at e
  rw [e]
  exact ⟨_, rfl, setThr_axDone_ok (a := ⟨o.thread, w, [], o.delay, o.fault⟩) hc hg rfl rfl rfl rfl (canRun_wait h.run)⟩

/-- Settles O15: each clause is the body of its command, and a release changes what its held writes change. -/
theorem batches : Obligations.Batches := by
  unfold Obligations.Batches
  intro s o w hc n x time r held
  refine ⟨?opens, ?nested, ?empty, ?releases, ?timed, ?release, ?done⟩
  case opens => exact fun h hl hb hg => batch_opens hc h hl hb hg
  case nested => exact fun l h hl hb hr => batch_nested hc h hl hb hr
  case empty => exact fun h hl hb ht hg => endbatch_empty hc h hl hb ht hg
  case releases =>
    intro hw l h hl hb ht
    have e := execEndbatch_body h (by simpa [ht] using hl) hb
    simp only [ht, Bool.false_and, Bool.false_eq_true, if_false, List.isEmpty_cons] at e
    rw [e]
    exact ⟨_, rfl, axHold_holds (releaseBatch_canonical hc o.thread) ⟨o.thread, w, [], o.delay, o.fault⟩ (.endbatch none true false r.2) 2⟩
  case timed =>
    intro l h hl hb ht hn
    have e := execEndbatch_body h (by simpa [ht] using hl) hb
    have hn' : s.reached (s.rg ⟨o.thread, w, [], o.delay, o.fault⟩ (Ax.ra ⟨o.thread, w, [], o.delay, o.fault⟩) % 2 ^ 48) = false := hn
    simp only [ht, hn', Bool.and_false, Bool.not_false, Bool.and_self, if_true] at e
    rw [e]
    exact ⟨_, rfl, axHold_holds hc ⟨o.thread, w, [], o.delay, o.fault⟩ (.endbatch (some time) false false false) 2⟩
  case release =>
    intro ti late refused since dl soft len hn hw hre
    have cr := releaseBatch_canonical hc n
    refine ⟨_, rfl, ?_⟩
    have hw' : (s.thr n).wait = some ⟨.endbatch (some ti) false late refused, since, dl, soft, len⟩ := hw
    simp only [hw', hn, hre, decide_true, Bool.and_self, if_true]
    exact ⟨thr_setThr_same cr _ _, onlyThread_setThr cr _ _⟩
  case done =>
    intro rel since dl soft len hn hw hg
    have hw' : (s.thr n).wait = some ⟨.endbatch rel true false false, since, dl, soft, len⟩ := hw
    refine ⟨_, rfl, ?_⟩
    simp only [hw', hn, if_true, Bool.false_eq_true, if_false]
    exact endWait_ok hc hw' hg

end Sys2Proof.Machine


/-! Command rings (R32, R33, R37, R38, R42, R44): doorbells, ring errors, the ring served, and O26. -/

namespace Sys2Proof.Machine

open Sys2Proof Sys2Proof.Laws

/-! ### Doorbells that are refused (R37, R42) -/

/-- A key outside block 5 is none of the counter of lost vectors. -/
theorem not_lost_of_blk {k : Nat} (h : keyBlk k ≠ 5) : k ∉ lostVecKeys := by
  have e : ∀ q, q ∈ lostVecKeys → keyBlk q = 5 := by decide
  exact fun hk => h (e k hk)

theorem raiseIf_cell {s : State} (h : swf regReset s.regs = true) (c : Bool) {src : Nat} (hs : src < 1152) {k : Nat} (hb : keyBlk k ≠ 3)
    (hk : k ∉ lostVecKeys) : (s.raiseIf c src).cell k = s.cell k := by
  simp only [State.raiseIf]
  split
  · exact raise_cell h hs hb hk
  · rfl

/-- A saturating counter of 32 bits counts up to its greatest value. -/
theorem rget_sinc_same {s : State} (h : swf regReset s.regs = true) {r : Row} {i : Nat} {ix : List Nat} (hh : r.hi = 31) (hl : r.lo = 0) :
    (s.sinc r i ix).rget r i ix = min (s.rget r i ix + 1) 0xFFFFFFFF := by
  simp only [State.sinc]
  rw [rget_rput_same h r _ _ _ (by omega) (by omega), hh, hl]
  omega

/-- A refused doorbell: its counter rises, its event is raised, and no index of a ring moves. -/
structure DoorRefused (s t : State) (cnt : Row) (src : Nat) : Prop where
  count : t.rget cnt = min (s.rget cnt + 1) 0xFFFFFFFF
  event : t.evStatus src = true
  indices : ∀ k, keyBlk k = 18 → t.cell k = s.cell k

/-- A counter of block 4 and an event. -/
theorem sinc_raise_refused {s : State} (hc : s.Canonical) {r : Row} (hb : r.blk = 4) (hd : r.dims = []) (ho : r.off < 2 ^ 16) (hh : r.hi = 31)
    (hl : r.lo = 0) {src : Nat} (hs : src < 1152) : DoorRefused s ((s.sinc r).raise src) r src := by
  have hw := sinc_swf hc.regs r 0 []
  have ha : 0 * 2 ^ 16 + rowAdr r [] < 2 ^ 33 := by simp [rowAdr, hd]; omega
  have hk : keyBlk (rowKey r) = 4 := (keyBlk_rowKey ha).trans hb
  refine ⟨?_, raise_status hw hs, fun k h18 => ?_⟩
  · rw [rget_of_cell (raise_cell hw hs (by rw [hk]; decide) (not_lost_of_blk (by rw [hk]; decide)))]
    exact rget_sinc_same hc.regs hh hl
  · rw [raise_cell hw hs (by rw [h18]; decide) (not_lost_of_blk (by rw [h18]; decide))]
    exact rput_cell_blk hc.regs ha (by rw [h18, hb]; decide)

/-- A further event leaves a refusal as it is. -/
theorem DoorRefused.raiseIf {s t : State} {r : Row} {src : Nat} (h : DoorRefused s t r src) (hw : swf regReset t.regs = true) (hb : r.blk = 4)
    (hd : r.dims = []) (ho : r.off < 2 ^ 16) (hs : src < 1152) (c : Bool) {e : Nat} (he : e < 1152) : DoorRefused s (t.raiseIf c e) r src := by
  have hk : keyBlk (rowKey r) = 4 := (keyBlk_rowKey (by simp [rowAdr, hd]; omega)).trans hb
  refine ⟨?_, raiseIf_statusKept hw c he src hs h.event, fun k h18 => ?_⟩
  · rw [rget_of_cell (raiseIf_cell hw c he (by rw [hk]; decide) (not_lost_of_blk (by rw [hk]; decide)))]
    exact h.count
  · rw [raiseIf_cell hw c he (by rw [h18]; decide) (not_lost_of_blk (by rw [h18]; decide))]
    exact h.indices k h18

/-- A writer that a ring admits: its binding admits it, and it is the higher-claim complex where the ring is privileged. -/
def State.ringAdmits (s : State) (n : Nat) (m : Master) : Prop :=
  s.admits (s.ringTarget n) m.id = true ∧ (s.privileged n = true → s.isHigher m.id = true)

/-- The sequencer can answer: the device is clocked and PD_SEQ is on. -/
def State.seqAnswers (s : State) : Prop := s.clockless = false ∧ s.domOn 43 = true

/-- A doorbell that the ring admits acts. -/
theorem ringDoor_admitted {s : State} (h : s.seqAnswers) {m : Master} {n : Nat} (ha : s.ringAdmits n m) (o : Nat) (act : State → State) :
    s.ringDoor m n o act = act s := by
  obtain ⟨hk, hd⟩ := h
  obtain ⟨hb, hp⟩ := ha
  have hp' : (s.privileged n && !s.isHigher m.id) = false := by
    cases e : s.privileged n
    · rfl
    · simp [hp e]
  simp only [State.ringDoor, hk, hd, hb, hp', Bool.not_true, Bool.or_self, Bool.false_eq_true, if_false]

/-- A doorbell that its ring refuses is discarded, counted and reported. -/
theorem ringDoor_refused {s : State} (hc : s.Canonical) (h : s.seqAnswers) {m : Master} {n : Nat} (ha : ¬ s.ringAdmits n m) (o : Nat)
    (act : State → State) :
    DoorRefused s (s.ringDoor m n o act) (if s.admits (s.ringTarget n) m.id = true then Reg.SEQ_PRIV_REFUSED else Reg.SEQ_DB_REFUSED)
      (if s.admits (s.ringTarget n) m.id = true then 994 else 993) ∧ OnlyChanges [.regs, .vecs] s (s.ringDoor m n o act) := by
  obtain ⟨hk, hd⟩ := h
  cases hb : s.admits (s.ringTarget n) m.id with
  | false =>
    simp only [State.ringDoor, hk, hd, hb, Bool.not_true, Bool.or_self, Bool.false_eq_true, if_false, Bool.not_false, if_true]
    exact ⟨sinc_raise_refused hc rfl rfl (by decide) rfl rfl (by decide),
      (State_raise_keeps (State_sinc_keeps (Keeps.refl 0x80010 s) rfl) rfl).only rfl⟩
  | true =>
    have hp : (s.privileged n && !s.isHigher m.id) = true := by
      rw [Bool.and_eq_true, Bool.not_eq_true']
      refine Decidable.byContradiction fun hn => ha ⟨hb, fun hq => ?_⟩
      cases e : s.isHigher m.id
      · exact absurd ⟨hq, e⟩ hn
      · rfl
    have hr := sinc_raise_refused hc (r := Reg.SEQ_PRIV_REFUSED) (src := 994) rfl rfl (by decide) rfl rfl (by decide)
    have k1 : Keeps 0x80010 s ((s.sinc Reg.SEQ_PRIV_REFUSED).raise 994) := State_raise_keeps (State_sinc_keeps (Keeps.refl _ s) rfl) rfl
    simp only [State.ringDoor, hk, hd, hb, hp, Bool.not_true, Bool.or_self, Bool.false_eq_true, if_false, if_true]
    refine ⟨?_, (State_raiseIf_keeps k1 rfl).only rfl⟩
    by_cases hm : m.id = 17 ∨ m.id = 18
    · exact hr.raiseIf (k1.canon hc).regs rfl rfl (by decide) (by decide) _ (by omega)
    · have hf : (m.id == 17 || m.id == 18) = false := by simpa using hm
      rw [hf]; exact hr

/-- What software stores before a doorbell leaves every field but memory. -/
theorem applyStores_only (s : State) (l : List HostStore) : Keeps 0x80 s (s.applyStores l) := State_applyStores_keeps (Keeps.refl _ s) rfl

/-- What a doorbell changes after the stores, and the stores. -/
theorem OnlyChanges.of_stores {s t u : State} (k : Keeps 0x80 s t) {fs gs : List StateField} (h : OnlyChanges fs t u) (hm : StateField.mem ∈ gs)
    (hs : ∀ f ∈ fs, f ∈ gs) : OnlyChanges gs s u := fun f hf =>
  same_trans (k.only (fs := [.mem]) rfl f (by simp only [List.mem_singleton]; rintro rfl; exact hf hm)) (h f fun q => hf (hs f q))

section
variable {s t : State} (h : t.regs = s.regs)
include h

theorem seqAnswers_of_regs (ha : s.seqAnswers) : t.seqAnswers := by
  simp only [State.seqAnswers, State.clockless, State.domOn, State.dom, rget_of_regs h] at ha ⊢; exact ha

theorem admits_of_regs (x i : Nat) : t.admits x i = s.admits x i := by simp only [State.admits, rget_of_regs h]

theorem ringTarget_of_regs (n : Nat) : t.ringTarget n = s.ringTarget n := rget_of_regs h _ _ _

theorem privileged_of_regs (n : Nat) : t.privileged n = s.privileged n := by
  simp only [State.privileged, ringTarget_of_regs h, rget_of_regs h]

theorem higher_of_regs : t.higher = s.higher := by
  have e : ∀ x, t.claim x = s.claim x := fun x => rget_of_regs h _ _ _
  unfold State.higher
  rw [e 0, e 1]

theorem isHigher_of_regs (i : Nat) : t.isHigher i = s.isHigher i := by simp only [State.isHigher, higher_of_regs h]

theorem ringAdmits_of_regs {n : Nat} {m : Master} : t.ringAdmits n m ↔ s.ringAdmits n m := by
  simp only [State.ringAdmits, admits_of_regs h, ringTarget_of_regs h, privileged_of_regs h, isHigher_of_regs h]

end

/-- TAIL_WRITE out of PORST_N by a master with BAR2 is the doorbell after the stores. -/
theorem execTailWrite_door {s : State} {m : Master} {n : Nat} (hn : n < 64) (hp : s.boot.porst = false) (hm : hasBar2 m = true) (v : Word)
    (l : List HostStore) : exec (.tailWrite m n v l) s = .next ((s.applyStores l).ringDoor m n 0 (fun t => t.ringTail n v.toNat)) := by
  show Host.Outcome.next _ = _
  simp [hp, hm]; omega

theorem execCqHeadWrite_door {s : State} {m : Master} {n : Nat} (hn : n < 64) (hp : s.boot.porst = false) (hm : hasBar2 m = true) (v : Word) :
    exec (.cqHeadWrite m n v) s = .next (s.ringDoor m n 4 (fun t => t.ringCqHead n v.toNat)) := by
  show Host.Outcome.next _ = _
  simp [hp, hm]; omega

/-! ### Indices that come into use (R32, R33) -/

theorem keyBlk_dbKey {r : Row} (hd : r.dims = []) (ho : r.off < 2 ^ 16) {n : Nat} (hn : n < 64) : n * 2 ^ 16 + rowAdr r [] < 2 ^ 33 := by
  simp [rowAdr, hd]; omega

/-- The error ring is recorded (R38). -/
theorem ringError_ring {s : State} (h : swf regReset s.regs = true) {n : Nat} (hn : n < 64) (code : Nat) :
    (s.ringError n code).rget Reg.SEQ_ERR_RING = n := by
  have hw := ringStopped_swf h n code
  have hk : keyBlk (rowKey Reg.SEQ_ERR_RING) = 4 := by decide
  rw [ringError_eq, rget_of_cell (raise_cell hw (by decide) (by rw [hk]; decide) (not_lost_of_blk (by rw [hk]; decide))), State.ringStopped,
    rget_rput_same (rputBoth_swf (rput_swf (rput_swf h _ _ _ _) _ _ _ _) _ _ _ _) _ _ _ _ (by decide) (by decide)]
  exact Nat.mod_eq_of_lt hn

/-- TAIL comes into use: where no more descriptors than the ring has are pending, only TAIL changes, else the ring stops with OVERFLOW (R32). -/
theorem ringTail_effect {s : State} (hc : s.Canonical) {n : Nat} (hn : n < 64) (v : Nat) :
    let t := s.ringTail n v
    let pending := (v % 65536 + 65536 - s.rget Reg.DB_HEAD n) % 65536
    t.rget Reg.DB_TAIL n = v % 65536 ∧ t.mem = s.mem ∧
    (pending ≤ s.ringSize n → OnlyRegs [rowKey Reg.DB_TAIL n] s t ∧ OnlyChanges [.regs] s t) ∧
    (s.ringSize n < pending → t.rget Reg.SEQ_ERR 0 [n] = 1 ∧ t.rget Reg.SEQ_ERR_CODE 0 [n] = 1 ∧ t.rget Reg.SEQ_EN 0 [n] = 0 ∧
      t.rget Reg.SEQ_ERR_RING = n ∧ t.evStatus 992 = true ∧ OnlyChanges [.regs, .vecs] s t) := by
  intro t pending
  obtain ⟨u, hu⟩ : ∃ u, u = s.rputBoth Reg.DB_TAIL (v % 65536) n := ⟨_, rfl⟩
  have ku : Keeps 0x10 s u := by rw [hu]; exact State_rputBoth_keeps (Keeps.refl _ s) rfl
  have hw := (ku.canon hc).regs
  have htail : u.rget Reg.DB_TAIL n = v % 65536 := by
    rw [hu, rget_rputBoth_same hc.regs _ _ _ _ (by decide) (by decide)]; exact Nat.mod_mod_of_dvd _ (Nat.dvd_refl _)
  have hcell : ∀ k, k ≠ rowKey Reg.DB_TAIL n → u.cell k = s.cell k := fun k hk => by rw [hu]; exact rputBoth_cell hc.regs _ _ _ _ hk
  have hhead : u.rget Reg.DB_HEAD n = s.rget Reg.DB_HEAD n :=
    rget_of_cell (hcell _ (by simp only [rowKey, regKey, rowAdr, Reg.DB_HEAD, Reg.DB_TAIL]; simp))
  have hsize : u.ringSize n = s.ringSize n := by
    have e : u.rget Reg.SEQ_SIZE_LOG2 0 [n] = s.rget Reg.SEQ_SIZE_LOG2 0 [n] :=
      rget_of_cell (hcell _ (ne_of_keyBlk (by
        rw [keyBlk_rowKey (rowAdr_ring_lt rfl (by decide) n), keyBlk_rowKey (keyBlk_dbKey rfl (by decide) hn)]; decide)))
    simp only [State.ringSize, e]
  have et : t = if s.ringSize n < pending then u.ringError n 1 else u := by
    show s.ringTail n v = _
    simp only [State.ringTail, ← hu, hhead, hsize]; rfl
  by_cases hp : s.ringSize n < pending
  · rw [if_pos hp] at et
    have k1 : Keeps 0x80010 u t := by rw [et]; exact State_ringError_keeps (Keeps.refl _ u) rfl
    have kt : Keeps 0x80010 s t := (ku.mono rfl).trans k1
    have h18 : keyBlk (rowKey Reg.DB_TAIL n) = 18 := keyBlk_rowKey (keyBlk_dbKey rfl (by decide) hn)
    obtain ⟨hen, herr, hcode, hrest⟩ := ringError_eff hw hn 1
    refine ⟨?_, kt.same .mem (by decide), fun hle => absurd hp (by omega), fun _ => ?_⟩
    · rw [et, rget_of_cell (hrest _ (by rw [h18]; decide) (by rw [h18]; decide) (not_lost_of_blk (by rw [h18]; decide)))]; exact htail
    · rw [et] at kt ⊢
      exact ⟨herr, hcode, hen, ringError_ring hw hn 1, ringError_status hw n 1, kt.only rfl⟩
  · rw [if_neg hp] at et
    rw [et]
    exact ⟨htail, ku.same .mem (by decide), fun _ => ⟨fun k hk => hcell k (by simpa using hk), ku.only rfl⟩, fun h => absurd h hp⟩

/-- Noting a full completion ring changes what that ring keeps, and no other ring. -/
theorem noteCq_ringx {s : State} (hc : s.Canonical) (n j : Nat) (hj : j ≠ n) : (s.noteCq n).ringx j = s.ringx j := by
  have e : ∀ x, (s.setRingx n x).ringx j = s.ringx j := fun x => sget_sset_ne hc.rings x hj
  simp only [State.noteCq]
  split
  · exact e _
  · split
    · rfl
    · exact e _

/-- CQ_HEAD comes into use (R33). -/
theorem ringCqHead_effect {s : State} (hc : s.Canonical) (n v : Nat) :
    let t := s.ringCqHead n v
    t.rget Reg.DB_CQ_HEAD n = v % 65536 ∧ OnlyRegs [rowKey Reg.DB_CQ_HEAD n] s t ∧ OnlyChanges [.regs, .rings] s t ∧
    ∀ j, j ≠ n → t.ringx j = s.ringx j := by
  intro t
  obtain ⟨u, hu⟩ : ∃ u, u = s.rputBoth Reg.DB_CQ_HEAD (v % 65536) n := ⟨_, rfl⟩
  have ku : Keeps 0x10 s u := by rw [hu]; exact State_rputBoth_keeps (Keeps.refl _ s) rfl
  have et : t = u.noteCq n := by rw [hu]; rfl
  have kn : Keeps 0x400 u t := by rw [et]; exact State_noteCq_keeps (Keeps.refl _ u) rfl
  have hregs : t.regs = u.regs := kn.same .regs (by decide)
  have kt : Keeps 0x410 s t := (ku.mono rfl).trans (kn.mono rfl)
  refine ⟨?_, fun k hk => ?_, kt.only rfl, fun j hj => ?_⟩
  · rw [rget_of_regs hregs, hu, rget_rputBoth_same hc.regs _ _ _ _ (by decide) (by decide)]; exact Nat.mod_mod_of_dvd _ (Nat.dvd_refl _)
  · rw [cell_of_regs hregs, hu]; exact rputBoth_cell hc.regs _ _ _ _ (by simpa using hk)
  · rw [et, noteCq_ringx (ku.canon hc) n j hj]
    have e : u.rings = s.rings := ku.same .rings (by decide)
    simp only [State.ringx, e]

/-! ### ERR (R38) -/

/-- The rows of a ring's ERR register: none holds a written value. -/
theorem regRows_ringErr : ∀ n, n < 64 →
    regRows 4 (0x1018 + 0x40 * n) = [Reg.SEQ_ERR, Reg.SEQ_RUNNING, Reg.SEQ_ERR_CODE, Reg.SEQ_STATE_1018] := by decide +kernel

/-- Clearing ERR clears it and its code, and touches no other register. -/
theorem ringErrClear_effect {s : State} (h : swf regReset s.regs = true) (n : Nat) :
    (s.ringErrClear n).rget Reg.SEQ_ERR 0 [n] = 0 ∧ (s.ringErrClear n).rget Reg.SEQ_ERR_CODE 0 [n] = 0 ∧
    ∀ k, k ≠ rowKey Reg.SEQ_ERR 0 [n] → (s.ringErrClear n).cell k = s.cell k := by
  have h1 := rput_swf h Reg.SEQ_ERR 0 0 [n]
  have hk : rowKey Reg.SEQ_ERR_CODE 0 [n] = rowKey Reg.SEQ_ERR 0 [n] := rfl
  simp only [State.ringErrClear]
  refine ⟨?_, ?_, fun k hq => ?_⟩
  · rw [rget_rput_field h1 Reg.SEQ_ERR_CODE Reg.SEQ_ERR _ _ _ _ _ rfl (by decide) (by decide) (by decide) (by decide),
      rget_rput_same h _ _ _ _ (by decide) (by decide)]; rfl
  · rw [rget_rput_same h1 _ _ _ _ (by decide) (by decide)]; rfl
  · rw [rput_cell h1 _ _ _ _ (by rw [hk]; exact hq), rput_cell h _ _ _ _ hq]

/-- A master that may write ERR of a ring: the higher-claim complex, and PF0 or the debug identity where the ring is not privileged. -/
def State.mayClear (s : State) (n : Nat) (m : Master) : Prop :=
  if s.privileged n = true then s.isHigher m.id = true else m.id = 1 ∨ m.id = 21 ∨ s.isHigher m.id = true

/-- The higher-claim complex is one of the two. -/
theorem isHigher_cases {s : State} {i : Nat} (h : s.isHigher i = true) : i = 17 ∨ i = 18 := by
  simp only [State.isHigher, State.higher] at h
  split at h
  · next x hx =>
    have hx' : x = 0 ∨ x = 1 := by
      split at hx
      · exact Or.inl (Option.some.inj hx).symm
      · split at hx
        · exact Or.inr (Option.some.inj hx).symm
        · cases hx
    rw [beq_iff_eq] at h
    omega
  · exact absurd h (by decide)

/-- The block accepts such a write of ERR. -/
theorem writeCause_ringErr {s : State} (ha : s.seqAnswers) {n : Nat} (hn : n < 64) {m : Master} (hm : s.mayClear n m) :
    s.writeCause m.id (bankOf m) ⟨4, 0x1018 + 0x40 * n, false⟩ 0 none 0x80000000 0xFFFFFFFF = 0 := by
  obtain ⟨hk, hd⟩ := ha
  have hd0 : (s.dom 43 == 0) = false := by
    have : s.dom 43 = 2 := by simpa [State.domOn] using hd
    rw [this]; rfl
  have hq : (0x1018 + 0x40 * n - 0x1000) / 0x40 = n := by omega
  have hr := regRows_ringErr n hn
  have hid : s.identityCause m.id 4 (0x1018 + 0x40 * n) = 0 := by
    simp only [State.mayClear] at hm
    have h1 : decide (0x1000 ≤ 0x1018 + 0x40 * n) = true := decide_eq_true (by omega)
    have h2 : decide (0x1018 + 0x40 * n < 0x2000) = true := decide_eq_true (by omega)
    simp only [State.identityCause, h1, h2, hq, Bool.true_and]
    cases hp : s.privileged n with
    | true =>
      rw [hp] at hm
      rcases isHigher_cases hm with e | e <;> simp [e] at hm ⊢ <;> simp [hm]
    | false =>
      rw [hp] at hm
      rcases hm with e | e | e
      · simp [e]
      · simp [e]
      · rcases isHigher_cases e with q | q <;> simp [q] at e ⊢ <;> simp [e]
  have hl : regListed 4 (0x1018 + 0x40 * n) = true := by simp [regListed, hr]
  have hsel : isSelect 4 (0x1018 + 0x40 * n) = false := by simp [isSelect]
  have hrange : ∀ x v, s.rangeOk (bankOf m) 4 0 (0x1018 + 0x40 * n)
      [Reg.SEQ_ERR, Reg.SEQ_RUNNING, Reg.SEQ_ERR_CODE, Reg.SEQ_STATE_1018] x v = true := fun _ _ => rfl
  have hgo : ∀ x, s.goCause m.id 4 (0x1018 + 0x40 * n) x = 0 := fun _ => rfl
  have hbusy : ∀ x y, s.busyCause 4 0 (0x1018 + 0x40 * n) x y = 0 := fun _ _ => by simp [State.busyCause]
  simp [State.writeCause, hk, hid, hsel, State.govern, hd0, hl, hr, hrange, hgo, hbusy]

/-! ### Writes that are accepted and change no written value (R93, R96, R99) -/

/-- A write that the block accepts, and whose domain is not in retention, is merged and acts. -/
theorem guardWrite_accepted {s : State} {m : Master} {blk off : Nat} {v : Word} {act : State → Nat → State} (hp : s.boot.porst = false)
    (hb : hasBar0 m = true)
    (hw : s.writeCause m.id (bankOf m) ⟨blk, off, false⟩ (s.instOf (bankOf m) blk off) none v.toNat 0xFFFFFFFF = 0)
    (hd : ∀ d, s.govern (bankOf m) blk off none = some d → s.dom d ≠ 1) :
    s.guardWrite m blk off v act =
      act (s.mergeWrite (bankOf m) ⟨blk, off, false⟩ (s.instOf (bankOf m) blk off) v.toNat 0xFFFFFFFF) (s.instOf (bankOf m) blk off) := by
  simp only [State.guardWrite, hp, hb, hw, Bool.not_true, Bool.or_self, Bool.false_eq_true, if_false, bne_self_eq_false]
  cases hg : s.govern (bankOf m) blk off none with
  | none => rfl
  | some d => simp [hd d hg]

/-- A register none of whose fields holds a written value. -/
def Unwritten (blk off : Nat) : Prop := (∀ r ∈ regRows blk off, r.acc ≠ .rw ∧ r.acc ≠ .rwm) ∧ isSelect blk off = false ∧ (blk = 14 → off ≠ 0x20FC)

theorem maskOf_none {p : Row → Bool} {rs : List Row} (h : ∀ r ∈ rs, p r = false) : maskOf p rs = 0 := by
  induction rs with
  | nil => rfl
  | cons r l ih =>
    have hr := h r (by simp)
    simp only [maskOf, List.foldl_cons, hr] at ih ⊢
    exact ih fun q hq => h q (by simp [hq])

theorem rwMask_unwritten {blk off : Nat} (h : Unwritten blk off) : rwMask (regRows blk off) = 0 :=
  maskOf_none fun r hr => by simp [h.1 r hr]

/-- Merging such a write leaves every register as it was. -/
theorem mergeWrite_unwritten {s : State} (hc : s.Canonical) {blk off : Nat} (h : Unwritten blk off) (b i v m : Nat) :
    Keeps 0x10 s (s.mergeWrite b ⟨blk, off, false⟩ i v m) ∧ ∀ k, (s.mergeWrite b ⟨blk, off, false⟩ i v m).cell k = s.cell k := by
  have hm := rwMask_unwritten h
  have h20 : (blk == 14 && off == 0x20FC) = false := by
    cases e : blk == 14
    · rfl
    · simpa using h.2.2 (by simpa using e)
  have hold : ∀ (w : Word) (x : Nat), BitVec.ofNat 32 (mergeBits w.toNat x 0) = w := by
    intro w x
    have e : (0xFFFFFFFF : Nat) = 2 ^ 32 - 1 := by decide
    simp only [mergeBits, Nat.and_zero, Nat.or_zero, Nat.sub_zero, e, Nat.and_two_pow_sub_one_eq_mod]
    rw [Nat.mod_eq_of_lt w.isLt, BitVec.ofNat_toNat, BitVec.setWidth_eq]
  have e : s.mergeWrite b ⟨blk, off, false⟩ i v m = s.setCell (regKey blk i off) (s.cell (regKey blk i off)) := by
    simp only [State.mergeWrite, h.2.1, h20, hm, Nat.and_zero, Nat.zero_and, beq_self_eq_true, if_true, Bool.false_eq_true, if_false, hold]
  rw [e]
  refine ⟨State_setCell_keeps (Keeps.refl _ s) rfl, fun k => ?_⟩
  by_cases hk : k = regKey blk i off
  · rw [hk, cell_setCell_same hc.regs]
  · exact cell_setCell_ne hc.regs _ hk

/-- Where the write is accepted, ERR and its code are cleared and nothing else changes. -/
theorem execRingErrClear_effect {s : State} (hc : s.Canonical) (hp : s.boot.porst = false) (ha : s.seqAnswers) {n : Nat} (hn : n < 64) {m : Master}
    (hb : hasBar0 m = true) (hm : s.mayClear n m) : ∃ t, exec (.ringErrClear m n) s = .next t ∧ t.rget Reg.SEQ_ERR 0 [n] = 0 ∧
      t.rget Reg.SEQ_ERR_CODE 0 [n] = 0 ∧ OnlyRegs [rowKey Reg.SEQ_ERR 0 [n]] s t ∧ OnlyChanges [.regs] s t := by
  have hu : Unwritten 4 (0x1018 + 0x40 * n) := by
    refine ⟨?_, by simp [isSelect], fun q => absurd q (by decide)⟩
    rw [regRows_ringErr n hn]; decide
  have hon : s.dom 43 = 2 := by simpa [State.domOn] using ha.2
  have hd : ∀ d, s.govern (bankOf m) 4 (0x1018 + 0x40 * n) none = some d → s.dom d ≠ 1 := by
    intro d e; cases e; rw [hon]; decide
  have e : exec (.ringErrClear m n) s = .next (if n < 64 then
    s.guardWrite m 4 (0x1018 + 0x40 * n) (0x80000000#32) (fun t _ => t.ringErrClear n) else s) := rfl
  have hi : s.instOf (bankOf m) 4 (0x1018 + 0x40 * n) = 0 := rfl
  have hv : (0x80000000#32).toNat = 0x80000000 := by decide
  have hw := writeCause_ringErr ha hn hm
  rw [← hi, ← hv] at hw
  rw [e, if_pos hn, guardWrite_accepted hp hb hw hd]
  obtain ⟨ku, hcell⟩ := mergeWrite_unwritten hc hu (bankOf m) (s.instOf (bankOf m) 4 (0x1018 + 0x40 * n)) (0x80000000#32).toNat 0xFFFFFFFF
  obtain ⟨h1, h2, h3⟩ := ringErrClear_effect (ku.canon hc).regs n
  exact ⟨_, rfl, h1, h2, fun k hk => (h3 k (by simpa using hk)).trans (hcell k), (State_ringErrClear_keeps ku rfl).only rfl⟩

/-! ### CQ_STALL (R33) -/

/-- A completion ring that stays full for longer than 1 ms raises CQ_STALL, once. -/
theorem execCqStall_effect {s : State} (hc : s.Canonical) {n : Nat} (hn : n < 64) {t0 : Nat} (hf : (s.ringx n).fullSince = some t0)
    (hq : s.cqFree n = false) :
    ((s.ringx n).stalled = false → t0 + 1600000 < s.now → ∃ t, exec (.cqStall n) s = .next t ∧ t.evStatus 1006 = true ∧
      t.ringx n = { s.ringx n with stalled := true } ∧ OnlyChanges [.rings, .regs, .vecs] s t) ∧
    ((s.ringx n).stalled = true ∨ s.now ≤ t0 + 1600000 → exec (.cqStall n) s = .next s) := by
  obtain ⟨y, hy⟩ : ∃ y, y = { s.ringx n with stalled := true } := ⟨_, rfl⟩
  have e : exec (.cqStall n) s = .next (if n < 64 && !(s.ringx n).stalled && decide (t0 + ms < s.now) && !s.cqFree n
      then (s.setRingx n y).raise 1006 else s) := by
    show execCqStall n s = _
    simp only [execCqStall, hf, hy]
  rw [e, ← hy]
  refine ⟨fun hs ht => ?_, fun h => ?_⟩
  · have hlt : decide (t0 + ms < s.now) = true := decide_eq_true ht
    simp only [hn, hs, hlt, hq, decide_true, Bool.not_false, Bool.and_self, if_true]
    have ku : Keeps 0x400 s (s.setRingx n y) := State_setRingx_keeps (Keeps.refl _ s) rfl
    have kr : Keeps 0x80010 (s.setRingx n y) ((s.setRingx n y).raise 1006) := State_raise_keeps (Keeps.refl _ _) rfl
    have hr : ((s.setRingx n y).raise 1006).rings = (s.setRingx n y).rings := kr.same .rings (by decide)
    have hx : (s.setRingx n y).ringx n = y := sget_sset_same hc.rings n y
    refine ⟨_, rfl, raise_status (ku.canon hc).regs (by decide), ?_, ((ku.mono rfl).trans (kr.mono rfl) : Keeps 0x80410 s _).only rfl⟩
    simp only [State.ringx, hr] at hx ⊢
    exact hx
  · have hno : (decide (n < 64) && !(s.ringx n).stalled && decide (t0 + ms < s.now) && !s.cqFree n) = false := by
      rcases h with h | h
      · simp [h]
      · have : ¬ t0 + ms < s.now := by simp only [ms]; omega
        simp [this]
    rw [hno]; rfl

/-! ### The ring served (R44) -/

/-- The ring picked at a priority is the first eligible one of that priority behind the one last started there. -/
theorem pickRing_some {s : State} {p n : Nat} (h : s.pickRing p = some n) :
    let last := sget (fun _ => 63) s.lastStarted p
    n < 64 ∧ s.rget Reg.SEQ_PRIO 0 [n] = p ∧ s.ringEligible n = true ∧
    ∃ i, i < 64 ∧ (last + 1 + i) % 64 = n ∧ ∀ k, k < i → s.rget Reg.SEQ_PRIO 0 [(last + 1 + k) % 64] = p → s.ringEligible ((last + 1 + k) % 64) = false := by
  intro last
  simp only [State.pickRing, List.find?_map, Option.map_eq_some_iff] at h
  obtain ⟨i, hi, rfl⟩ := h
  rw [List.find?_range_eq_some] at hi
  obtain ⟨hp, hm, hk⟩ := hi
  simp only [Function.comp_apply, Bool.and_eq_true, beq_iff_eq] at hp
  refine ⟨Nat.mod_lt _ (by decide), hp.1, hp.2, i, by simpa using hm, rfl, fun k hki hq => ?_⟩
  have := hk k hki
  simp only [Function.comp_apply, Bool.not_and, Bool.or_eq_true, Bool.not_eq_true', beq_eq_false_iff_ne] at this
  exact this.resolve_left fun h => h hq

/-- Where no ring is picked at a priority, none of that priority is eligible. -/
theorem pickRing_none {s : State} {p j : Nat} (h : s.pickRing p = none) (hj : j < 64) (hp : s.rget Reg.SEQ_PRIO 0 [j] = p) :
    s.ringEligible j = false := by
  simp only [State.pickRing, List.find?_eq_none, List.mem_map, List.mem_range] at h
  have := h j ⟨(j + 64 * (sget (fun _ => 63) s.lastStarted p + 1) - (sget (fun _ => 63) s.lastStarted p + 1)) % 64, Nat.mod_lt _ (by decide), by omega⟩
  simpa [hp] using this

theorem prio_le (s : State) (j : Nat) : s.rget Reg.SEQ_PRIO 0 [j] ≤ 3 := Nat.le_of_lt_succ (bits_lt _ 3 2)

/-- The ring served is picked at its priority, and none is picked at a higher one. -/
theorem nextRing_some {s : State} {p n : Nat} (h : s.nextRing = some (p, n)) :
    s.pickRing p = some n ∧ ∀ q, p < q → q ≤ 3 → s.pickRing q = none := by
  simp only [State.nextRing, List.findSome?_cons, List.findSome?_nil] at h
  cases h3 : s.pickRing 3 with
  | some a =>
    simp only [h3, Option.map_some, Option.some.injEq, Prod.mk.injEq] at h
    obtain ⟨rfl, rfl⟩ := h
    exact ⟨h3, fun q h1 h2 => by omega⟩
  | none =>
    cases h2 : s.pickRing 2 with
    | some a =>
      simp only [h3, h2, Option.map_some, Option.map_none, Option.some.injEq, Prod.mk.injEq] at h
      obtain ⟨rfl, rfl⟩ := h
      refine ⟨h2, fun q a b => ?_⟩
      obtain rfl : q = 3 := by omega
      exact h3
    | none =>
      cases h1 : s.pickRing 1 with
      | some a =>
        simp only [h3, h2, h1, Option.map_some, Option.map_none, Option.some.injEq, Prod.mk.injEq] at h
        obtain ⟨rfl, rfl⟩ := h
        refine ⟨h1, fun q a b => ?_⟩
        obtain rfl | rfl : q = 3 ∨ q = 2 := by omega
        · exact h3
        · exact h2
      | none =>
        cases h0 : s.pickRing 0 with
        | some a =>
          simp only [h3, h2, h1, h0, Option.map_some, Option.map_none, Option.some.injEq, Prod.mk.injEq] at h
          obtain ⟨rfl, rfl⟩ := h
          refine ⟨h0, fun q a b => ?_⟩
          obtain rfl | rfl | rfl : q = 3 ∨ q = 2 ∨ q = 1 := by omega
          · exact h3
          · exact h2
          · exact h1
        | none => simp [h3, h2, h1, h0] at h

/-- Where no ring is served, none is picked at any priority. -/
theorem nextRing_none {s : State} (h : s.nextRing = none) {p : Nat} (hp : p ≤ 3) : s.pickRing p = none := by
  simp only [State.nextRing, List.findSome?_eq_none_iff, Option.map_eq_none_iff] at h
  exact h p (by simp; omega)

/-- Settles O26: the doorbells are `ringDoor_admitted` and `ringDoor_refused`, the ring served is `nextRing_some`. -/
theorem ringRules : Obligations.RingRules := by
  unfold Obligations.RingRules
  refine ⟨?_, ?_⟩
  · intro s m n v l hc hn hp hk hd bound admits tail pending cnt turned
    have ha : s.seqAnswers := ⟨hk, hd⟩
    have ks := applyStores_only s l
    have cs := ks.canon hc
    have rs : (s.applyStores l).regs = s.regs := ks.same .regs (by decide)
    have hs := seqAnswers_of_regs rs ha
    refine ⟨fun hm hr => ?_, fun hm hr => ?_, fun hm hr => ⟨?_, ?_⟩, fun hm hr => execRingErrClear_effect hc hp ha hn hm hr,
      fun t0 hf hq => execCqStall_effect hc hn hf hq⟩
    · rw [execTailWrite_door hn hp hm, ringDoor_admitted hs ((ringAdmits_of_regs rs).mpr hr)]
      obtain ⟨htail, hmem, hfits, hover⟩ := ringTail_effect cs hn v.toNat
      rw [rget_of_regs rs, show (s.applyStores l).ringSize n = s.ringSize n by simp only [State.ringSize, rget_of_regs rs]] at hfits hover
      refine ⟨_, rfl, htail, hmem, fun h => ?_, fun h => ?_⟩
      · obtain ⟨h1, h2⟩ := hfits h
        exact ⟨fun k hk => (h1 k hk).trans (cell_of_regs rs k), OnlyChanges.of_stores ks h2 (by decide) (by decide)⟩
      · obtain ⟨h1, h2, h3, h4, h5, h6⟩ := hover h
        exact ⟨h1, h2, h3, h4, h5, OnlyChanges.of_stores ks h6 (by decide) (by decide)⟩
    · rw [execCqHeadWrite_door hn hp hm, ringDoor_admitted ha hr]
      exact ⟨_, rfl, ringCqHead_effect hc n v.toNat⟩
    · rw [execTailWrite_door hn hp hm]
      obtain ⟨hd, ho⟩ := ringDoor_refused cs hs (fun q => hr ((ringAdmits_of_regs rs).mp q)) 0 (fun t => t.ringTail n v.toNat)
      rw [admits_of_regs rs, ringTarget_of_regs rs] at hd
      exact ⟨_, rfl, ⟨hd.count.trans (by rw [rget_of_regs rs]), hd.event, fun k hk => (hd.indices k hk).trans (cell_of_regs rs k)⟩,
        ho .mem (by decide)⟩
    · rw [execCqHeadWrite_door hn hp hm]
      obtain ⟨hd, ho⟩ := ringDoor_refused hc ha hr 4 (fun t => t.ringCqHead n v.toNat)
      exact ⟨_, rfl, ⟨hd.count, hd.event, hd.indices⟩, ho .mem (by decide)⟩
  · intro s
    refine ⟨?_, fun j hj he hnone => ?_⟩
    · intro p n h last
      obtain ⟨hpick, habove⟩ := nextRing_some h
      obtain ⟨hn, hprio, hel, hturn⟩ := pickRing_some hpick
      exact ⟨hn, hprio, hel, fun j hj hlt => pickRing_none (habove _ hlt (prio_le s j)) hj rfl, hturn⟩
    · have := pickRing_none (nextRing_none hnone (prio_le s j)) hj rfl
      rw [he] at this
      exact absurd this (by decide)

end Sys2Proof.Machine


/-! Programs that start and stop (R35, R43 to R46, R48, R53, R61), and O27. -/

namespace Sys2Proof.Machine

open Sys2Proof Sys2Proof.Laws

/-! ### The stop of a program (R45, R53, R61) -/

/-- A program whose thread is charged and waits no more, and that ends with a status other than OK, TRAP and END. -/
theorem setThr_endProg_ended {s : State} (hc : s.Canonical) {n st fo : Nat} {x : Thread} (hn : n < 8) (hr : x.ring = (s.thr n).ring)
    (ht : x.tag = (s.thr n).tag) (hg : x.g = (s.thr n).g) (h64 : (s.thr n).ring < 64) (h : Unbatched st) :
    Ended s ((s.setThr n x).endProg n st fo 0) n st fo 0 x.charged := by
  have hx := thr_setThr_same hc n x
  have e := endProg_ended_unbatched (fo := fo) (trap := 0) (canonical_setThr hc n x) hn (by rw [hx, hr]; exact h64) h
  rw [hx] at e
  exact Ended.of_setThr hc e hr ht hg

/-- A program that is stopped is charged for its wait. -/
theorem stopProg_ended {s : State} (hc : s.Canonical) {n st : Nat} (hn : n < 8) (hr : (s.thr n).ring < 64) (h : Unbatched st) :
    Ended s (s.stopProg n st) n st (s.thr n).pc 0 ((s.thr n).charged + s.waited n) :=
  setThr_endProg_ended hc hn rfl rfl rfl hr h

/-- A wait that ends with a status below 0x10 other than OK, without SOFT, ends its program (R54). -/
theorem endWait_ended {s : State} (hc : s.Canonical) {n st : Nat} {k : Wait} (hn : n < 8) (hr : (s.thr n).ring < 64) (hk : (s.thr n).wait = some k)
    (hs : k.soft = false) (h : Unbatched st) :
    Ended s (s.endWait n st) n st (s.thr n).pc 0 ((s.thr n).charged + (s.now - k.since) / 2) := by
  have hok : (st == stOK) = false := by
    rw [beq_eq_false_iff_ne]; rintro rfl; exact absurd h (by decide)
  have e : s.endWait n st = (s.setThr n { s.thr n with charged := (s.thr n).charged + (s.now - k.since) / 2, wait := none }).endProg n st
      (s.thr n).pc 0 := by
    simp only [State.endWait, hk, State.result, hok, hs, Bool.and_false, Bool.false_eq_true, if_false]
  rw [e]
  exact setThr_endProg_ended hc hn rfl rfl rfl hr h

/-- A time-out under SOFT sets T and LSTAT, and the program goes on behind the instruction (R54, R61). -/
theorem endWait_softTimeout {s : State} (hc : s.Canonical) {n : Nat} {k : Wait} (hk : (s.thr n).wait = some k) (hs : k.soft = true)
    (hg : GoesOn s n ((s.thr n).pc + k.len) ((s.now - k.since) / 2)) :
    (s.endWait n stTIMEOUT).thr n =
      { ({ s.thr n with t := true, lstat := 2 } : Thread).goneTo ((s.thr n).pc + k.len) ((s.now - k.since) / 2) with wait := none } ∧
    OnlyThread n s (s.endWait n stTIMEOUT) := by
  obtain ⟨x, hx⟩ : ∃ x : Thread, x = { s.thr n with t := true, lstat := 2 } := ⟨_, rfl⟩
  have hu := thr_setThr_same hc n x
  have e : s.endWait n stTIMEOUT = (s.setThr n x).finishAt n ((s.thr n).pc + k.len) ((s.now - k.since) / 2) := by
    have e1 : s.result n stTIMEOUT k.len ((s.now - k.since) / 2) true = (s.setThr n x).finish n k.len ((s.now - k.since) / 2) := by rw [hx]; rfl
    have hpc : x.pc = (s.thr n).pc := by rw [hx]
    simp only [State.endWait, hk, hs, e1, State.finish, hu, hpc]
  have hg' : GoesOn (s.setThr n x) n ((s.thr n).pc + k.len) ((s.now - k.since) / 2) := hg.of_thr (by rw [hu, hx]) (by rw [hu, hx]) (by rw [hu, hx])
  have hc' := canonical_setThr hc n x
  rw [e, finishAt_goes hg', hu]
  refine ⟨?_, (onlyThread_setThr hc _ _).trans (onlyThread_setThr hc' _ _)⟩
  rw [thr_setThr_same hc', hx]; rfl

/-- A time-out of a wait with a deadline ends the wait when the deadline is reached, and not before. -/
theorem execWaitTimeout_eq {s : State} {n : Nat} (hn : n < 8) (hrun : (s.thr n).running = true) {k : Wait} {d : Nat} (hk : (s.thr n).wait = some k)
    (hd : k.deadline = some d) : exec (.waitTimeout n) s = .next (if d ≤ s.now then s.endWait n stTIMEOUT else s) := by
  show execWaitTimeout n s = _
  simp only [execWaitTimeout, hk, hd, hn, hrun, decide_true, Bool.and_self, Bool.true_and, decide_eq_true_eq]

theorem execThreadHalt_eq {s : State} {n : Nat} (hn : n < 8) (hrun : (s.thr n).running = true) :
    exec (.threadHalt n) s = .next (if bit (s.rget Reg.SEQ_THREAD_HALT) n = true then s.stopProg n stABORTED else s) := by
  show execThreadHalt n s = _
  simp only [execThreadHalt, hn, hrun, decide_true, Bool.true_and, Bool.and_true]

theorem execBudgetExpiry_eq {s : State} {n : Nat} (hn : n < 8) (hrun : (s.thr n).running = true) {k : Wait} (hk : (s.thr n).wait = some k)
    (hb : (s.thr n).budget ≠ 0) : exec (.budgetExpiry n) s =
      .next (if (s.thr n).budget ≤ (s.thr n).charged + (s.now - k.since) / 2 then s.stopProg n stBUDGET else s) := by
  show execBudgetExpiry n s = _
  have hb' : ((s.thr n).budget != 0) = true := by simpa using hb
  simp only [execBudgetExpiry, State.waited, hn, hrun, hk, hb', decide_true, Bool.true_and, Option.isSome_some, decide_eq_true_eq]

theorem waited_eq {s : State} {n : Nat} {k : Wait} (hk : (s.thr n).wait = some k) : s.waited n = (s.now - k.since) / 2 := by
  simp only [State.waited, hk]

/-! ### The start of a program (R35, R43, R44) -/

theorem fetchBoundary_keeps (s : State) : Keeps 0x1819cf7db050 s s.fetchBoundary := State_fetchBoundary_keeps (Keeps.refl _ s) rfl

/-- PROGRAM_START with the sequencer enabled, an idle thread and a ring to serve is the fetch of that ring. -/
theorem execProgramStart_fetch {s : State} (he : s.rget Reg.SEQ_SEQ_EN = 1) (hd : s.domOn 43 = true) (hi : ∃ j, j < 8 ∧ (s.thr j).running = false)
    {p n : Nat} (hn : s.fetchBoundary.nextRing = some (p, n)) : exec (.programStart .ok) s = .next (s.fetchBoundary.fetchStart p n .ok) := by
  obtain ⟨j, hj, hr⟩ := hi
  have hany : (List.range 8).any (fun t => !(s.thr t).running) = true := List.any_eq_true.mpr ⟨j, by simpa using hj, by simp [hr]⟩
  show execProgramStart .ok s = _
  simp only [execProgramStart, State.ron, he, hd, hany, hn, beq_self_eq_true, Bool.and_self, if_true]

/-- The head descriptor is taken: HEAD advances, and the ring keeps one doomed descriptor less. -/
def State.headTaken (u : State) (n : Nat) : State := (u.winc Reg.DB_HEAD n).setRingx n { u.ringx n with doomed := (u.ringx n).doomed - 1 }

theorem headTaken_keeps (u : State) (n : Nat) : Keeps 0x410 u (u.headTaken n) :=
  State_setRingx_keeps (State_winc_keeps (Keeps.refl _ u) rfl) rfl

theorem headTaken_head {u : State} (hc : u.Canonical) (n : Nat) : (u.headTaken n).rget Reg.DB_HEAD n = (u.rget Reg.DB_HEAD n + 1) % 65536 := by
  have e : (u.headTaken n).rget Reg.DB_HEAD n = (u.winc Reg.DB_HEAD n).rget Reg.DB_HEAD n := rfl
  rw [e, State.winc, rget_rput_same hc.regs _ _ _ _ (by decide) (by decide)]
  exact Nat.mod_mod_of_dvd _ (Nat.dvd_refl _)

theorem headTaken_cell {u : State} (hc : u.Canonical) {n : Nat} (hn : n < 64) {k : Nat} (hk : keyBlk k ≠ 18) : (u.headTaken n).cell k = u.cell k := by
  have e : (u.headTaken n).cell k = (u.winc Reg.DB_HEAD n).cell k := rfl
  rw [e]
  exact rput_cell_blk hc.regs (keyBlk_dbKey rfl (by decide) hn) hk

/-- The state in which the fetched program of ring n has started on thread t. -/
def State.started (u : State) (p n t : Nat) (x : Thread) : State :=
  (((({ u.headTaken n with lastStarted := sset (fun _ => 63) (u.headTaken n).lastStarted p n } : State).setThr t x).winc Reg.SEQ_STARTED 0 [n])).noteCq n

/-- The thread that starts the program of a descriptor (R35, R43). -/
def State.startedThread (u : State) (n k : Nat) : Thread :=
  let w1 := u.m64 (k + 8)
  { running := true, ring := n, tag := bits w1 63 48, len := bits w1 47 32, addr := u.m64 k, loc := bit w1 24, irq := bit w1 27, nocompl := bit w1 31,
    budget := (if bits w1 15 0 == 0 then u.rget Reg.SEQ_CR_BUDGET 0 [n] else bits w1 15 0) * 65536,
    g := sset (fun _ => 0) (sset (fun _ => 0) [] 14 (BitVec.ofNat 64 (u.m64 (k + 16)))) 15 (BitVec.ofNat 64 (u.m64 (k + 24))) }

theorem startedThread_reg (u : State) (n k i : Nat) : (u.startedThread n k).reg i =
    if i = 14 then BitVec.ofNat 64 (u.m64 (k + 16)) else if i = 15 then BitVec.ofNat 64 (u.m64 (k + 24)) else 0 := by
  have h0 : swf (fun _ => (0 : DWord)) [] = true := swf_nil
  have h1 := swf_sset (k := 14) (x := BitVec.ofNat 64 (u.m64 (k + 16))) h0
  simp only [State.startedThread, Thread.reg]
  by_cases h15 : i = 15
  · rw [h15, sget_sset_same h1, if_neg (by decide), if_pos rfl]
  · rw [sget_sset_ne h1 _ h15, if_neg h15]
    by_cases h14 : i = 14
    · rw [h14, sget_sset_same h0, if_pos rfl]
    · rw [sget_sset_ne h0 _ h14, if_neg h14]; rfl

/-- Of the fields of the state a start changes registers, the ring, the thread and the ring last started. -/
theorem started_keeps (u : State) (p n t : Nat) (x : Thread) : Keeps 0xe10 u (u.started p n t x) :=
  State_noteCq_keeps (State_winc_keeps (State_setThr_keeps (Keeps.lastStarted ((headTaken_keeps u n).mono rfl) rfl fun hc => swf_sset hc.lastStarted) rfl) rfl) rfl

theorem started_threads {u : State} (hc : u.Canonical) (p n t : Nat) (x : Thread) :
    (u.started p n t x).thr t = x ∧ ∀ j, j ≠ t → (u.started p n t x).thr j = u.thr j := by
  have e : (u.started p n t x).threads = sset (fun _ => {}) u.threads t x :=
    (State_noteCq_keeps (Keeps.refl 0x400 _) rfl).same .threads (by decide)
  simp only [State.thr, e]
  exact ⟨sget_sset_same hc.threads t x, fun j hj => sget_sset_ne hc.threads x hj⟩

theorem started_last {u : State} (hc : u.Canonical) (p n t : Nat) (x : Thread) :
    sget (fun _ => 63) (u.started p n t x).lastStarted p = n ∧
    ∀ q, q ≠ p → sget (fun _ => 63) (u.started p n t x).lastStarted q = sget (fun _ => 63) u.lastStarted q := by
  have e : (u.started p n t x).lastStarted = sset (fun _ => 63) u.lastStarted p n :=
    (State_noteCq_keeps (Keeps.refl 0x400 _) rfl).same .lastStarted (by decide)
  rw [e]
  exact ⟨sget_sset_same hc.lastStarted p n, fun q hq => sget_sset_ne hc.lastStarted n hq⟩

/-- A start leaves every register outside the blocks of the ring's indices and of the rings. -/
theorem started_cell {u : State} (hc : u.Canonical) {n : Nat} (p t : Nat) (x : Thread) {k : Nat} (h4 : keyBlk k ≠ 4) :
    (u.started p n t x).cell k = (u.headTaken n).cell k := by
  have e : (u.started p n t x).regs = ((u.headTaken n).winc Reg.SEQ_STARTED 0 [n]).regs :=
    (State_noteCq_keeps (Keeps.refl 0x400 _) rfl).same .regs (by decide)
  rw [cell_of_regs e]
  exact rput_cell_blk ((headTaken_keeps u n).canon hc).regs (rowAdr_ring_lt rfl (by decide) n) h4

/-- A legal descriptor that is not doomed starts its program on the lowest idle thread of its ring's mask (R44). -/
theorem fetchStart_starts {u : State} (hc : u.Canonical) {p n k t : Nat} {more : List Nat} (hn : n < 64) (hk : u.headKey n = some k)
    (hd : u.headDoomed n = false) (hi : u.idleFor n = t :: more) (ho : descOk (u.m64 (k + 8)) = true)
    (hf : bit (u.m64 (k + 8)) 24 = true ∨ u.ringFunc n ≠ none) (ha : u.m64 k % 8 = 0) :
    u.fetchStart p n .ok = u.started p n t (u.startedThread n k) := by
  have hbud : ∀ l, ({ u.headTaken n with lastStarted := l } : State).rget Reg.SEQ_CR_BUDGET 0 [n] = u.rget Reg.SEQ_CR_BUDGET 0 [n] := fun l =>
    rget_of_cell (headTaken_cell hc hn (by rw [keyBlk_rowKey (rowAdr_ring_lt rfl (by decide) n)]; decide))
  have hfunc : (u.started p n t (u.startedThread n k)).ringFunc n = u.ringFunc n := by
    have hb : keyBlk (rowKey Reg.BIND_TARGET 0 [n]) = 14 := keyBlk_rowKey (by simp [rowAdr, Reg.BIND_TARGET]; omega)
    have e : (u.started p n t (u.startedThread n k)).ringTarget n = u.ringTarget n :=
      rget_of_cell ((started_cell hc p t _ (by rw [hb]; decide)).trans (headTaken_cell hc hn (by rw [hb]; decide)))
    simp only [State.ringFunc, e]
  have hloc : (!(u.startedThread n k).loc && ((u.started p n t (u.startedThread n k)).ringFunc n).isNone) = false := by
    rw [hfunc]
    rcases hf with h | h
    · simp [State.startedThread, h]
    · cases hu : u.ringFunc n with
      | none => exact absurd hu h
      | some f => simp
  have ha' : (u.m64 k % 8 != 0) = false := by simp [ha]
  have e1 : (AxFault.ok == AxFault.fetchEcc) = false := rfl
  have e2 : (AxFault.ok == AxFault.fetchBus) = false := rfl
  have hs : ({ u.headTaken n with lastStarted := sset (fun _ => 63) (u.headTaken n).lastStarted p n } : State).startProgram n t (u.m64 k) (u.m64 (k + 8))
      (u.m64 (k + 16)) (u.m64 (k + 24)) = u.started p n t (u.startedThread n k) := by
    simp only [State.startProgram, hbud]
    have hloc' := hloc
    simp only [State.started, State.startedThread] at hloc'
    simp only [hloc', ha', Bool.false_eq_true, if_false]
    rfl
  simp only [State.fetchStart, hk, e1, e2, Bool.false_and, Bool.false_eq_true, if_false, ho, Bool.not_true, hd, hi]
  exact hs

/-- What the start of a legal descriptor that is not doomed leaves behind (R35, R43, R44). -/
theorem fetchStart_legal {u : State} (hc : u.Canonical) {p n k t : Nat} {more : List Nat} (hn : n < 64) (hk : u.headKey n = some k)
    (hd : u.headDoomed n = false) (hi : u.idleFor n = t :: more) (ho : descOk (u.m64 (k + 8)) = true)
    (hf : bit (u.m64 (k + 8)) 24 = true ∨ u.ringFunc n ≠ none) (ha : u.m64 k % 8 = 0) :
    let v := u.fetchStart p n .ok
    v.thr t = u.startedThread n k ∧ (∀ j, j ≠ t → v.thr j = u.thr j) ∧ v.rget Reg.DB_HEAD n = (u.rget Reg.DB_HEAD n + 1) % 65536 ∧
    sget (fun _ => 63) v.lastStarted p = n ∧ (∀ q, q ≠ p → sget (fun _ => 63) v.lastStarted q = sget (fun _ => 63) u.lastStarted q) ∧ v.mem = u.mem := by
  intro v
  have e : v = u.started p n t (u.startedThread n k) := fetchStart_starts hc hn hk hd hi ho hf ha
  have hth := started_threads hc p n t (u.startedThread n k)
  have hlast := started_last hc p n t (u.startedThread n k)
  have hmem : (u.started p n t (u.startedThread n k)).mem = u.mem := (started_keeps u p n t _).same .mem (by decide)
  rw [e]
  refine ⟨hth.1, hth.2, ?_, hlast.1, hlast.2, hmem⟩
  have h18 : keyBlk (rowKey Reg.DB_HEAD n) = 18 := keyBlk_rowKey (keyBlk_dbKey rfl (by decide) hn)
  rw [rget_of_cell (started_cell hc p t _ (by rw [h18]; decide))]
  exact headTaken_head hc n

/-- What a ring that stops leaves behind: its threads, its indices and memory, and the error (R38). -/
theorem ringError_stops {u : State} (hc : u.Canonical) {n : Nat} (hn : n < 64) (code : Nat) :
    let v := u.ringError n code
    v.threads = u.threads ∧ v.rget Reg.DB_HEAD n = u.rget Reg.DB_HEAD n ∧ v.rget Reg.SEQ_ERR 0 [n] = 1 ∧ v.rget Reg.SEQ_ERR_CODE 0 [n] = code % 16 ∧
    v.rget Reg.SEQ_EN 0 [n] = 0 ∧ v.evStatus 992 = true ∧ v.mem = u.mem := by
  intro v
  have k : Keeps 0x80010 u v := State_ringError_keeps (Keeps.refl _ u) rfl
  obtain ⟨hen, herr, hcode, hrest⟩ := ringError_eff hc.regs hn code
  have h18 : keyBlk (rowKey Reg.DB_HEAD n) = 18 := keyBlk_rowKey (keyBlk_dbKey rfl (by decide) hn)
  exact ⟨k.same .threads (by decide),
    rget_of_cell (hrest _ (by rw [h18]; decide) (by rw [h18]; decide) (not_lost_of_blk (by rw [h18]; decide))), herr, hcode, hen,
    ringError_status hc.regs n code, k.same .mem (by decide)⟩

/-- A descriptor with a reserved bit stops its ring with DESC after HEAD has advanced (R35). -/
theorem fetchStart_illegal {u : State} {p n k : Nat} (hk : u.headKey n = some k) (ho : descOk (u.m64 (k + 8)) = false) :
    u.fetchStart p n .ok = (u.headTaken n).ringError n 2 := by
  have e1 : (AxFault.ok == AxFault.fetchEcc) = false := rfl
  have e2 : (AxFault.ok == AxFault.fetchBus) = false := rfl
  simp only [State.fetchStart, hk, e1, e2, Bool.false_and, Bool.false_eq_true, if_false, ho, Bool.not_false, if_true]
  rfl

/-- A descriptor that cannot be fetched stops its ring with BUS (R48). -/
theorem fetchStart_unreachable {u : State} {p n : Nat} (hk : u.headKey n = none) : u.fetchStart p n .ok = u.ringError n 3 := by
  simp only [State.fetchStart, hk]

/-- Settles O27: a start is `fetchStart_legal`, a stop of the ring `ringError_stops`, the stop of a program `stopProg_ended`. -/
theorem programStartsAndStops : Obligations.ProgramStartsAndStops := by
  unfold Obligations.ProgramStartsAndStops
  refine ⟨?_, ?_⟩
  · intro s hc u
    have ku := fetchBoundary_keeps s
    have cu : u.Canonical := ku.canon hc
    have hmem : u.mem = s.mem := ku.same .mem (by decide)
    refine ⟨fun h0 => ?_, fun p n he hd hi hnext => ?_⟩
    · show execProgramStart .ok s = _
      simp [execProgramStart, State.ron, h0]
    · have hn : n < 64 := (pickRing_some (nextRing_some hnext).1).1
      rw [execProgramStart_fetch he hd hi hnext]
      refine ⟨?_, fun hk => ?_⟩
      · intro k t0 more hk hdoom hidle w0 w1
        refine ⟨fun ho hf ha => ?_, fun ho => ?_⟩
        · obtain ⟨h1, h2, h3, h4, h5, h6⟩ := fetchStart_legal (p := p) cu hn hk hdoom hidle ho hf ha
          refine ⟨_, rfl, ?_, fun i => ?_, h2, h3, h4, h5, h6.trans hmem⟩
          · rw [h1]
            simp only [State.startedThread, beq_iff_eq, w0, w1]
          · rw [h1]; exact startedThread_reg u n k i
        · rw [show s.fetchBoundary.fetchStart p n .ok = (u.headTaken n).ringError n 2 from fetchStart_illegal hk ho]
          have kh := headTaken_keeps u n
          have ht : (u.headTaken n).threads = u.threads := kh.same .threads (by decide)
          have hm : (u.headTaken n).mem = u.mem := kh.same .mem (by decide)
          obtain ⟨h1, h2, h3, h4, h5, h6, h7⟩ := ringError_stops (kh.canon cu) hn 2
          exact ⟨_, rfl, h1.trans ht, h2.trans (headTaken_head cu n), h3, h4, h5, h6, h7.trans (hm.trans hmem)⟩
      · rw [show s.fetchBoundary.fetchStart p n .ok = u.ringError n 3 from fetchStart_unreachable hk]
        obtain ⟨h1, h2, h3, h4, h5, h6, h7⟩ := ringError_stops cu hn 3
        exact ⟨_, rfl, h1, h2, h3, h4, h5, h6, h7.trans hmem⟩
  · intro s n hc hn hrun x
    refine ⟨fun hb hr => ?_, fun hb => ?_, fun k hk hbud => ⟨fun hle hr => ?_, fun hlt => ?_⟩, fun k d hk hd => ⟨fun hle hs hr => ?_, fun hle hs hg => ?_, fun hlt => ?_⟩⟩
    · rw [execThreadHalt_eq hn hrun, if_pos hb]
      exact ⟨_, rfl, stopProg_ended hc hn hr (by decide)⟩
    · rw [execThreadHalt_eq hn hrun, if_neg (by rw [hb]; decide)]
    · rw [execBudgetExpiry_eq hn hrun hk hbud, if_pos hle, ← waited_eq hk]
      exact ⟨_, rfl, stopProg_ended hc hn hr (by decide)⟩
    · rw [execBudgetExpiry_eq hn hrun hk hbud, if_neg (Nat.not_le_of_lt hlt)]
    · rw [execWaitTimeout_eq hn hrun hk hd, if_pos hle]
      exact ⟨_, rfl, endWait_ended hc hn hr hk hs (by decide)⟩
    · rw [execWaitTimeout_eq hn hrun hk hd, if_pos hle]
      exact ⟨_, rfl, endWait_softTimeout hc hk hs hg⟩
    · rw [execWaitTimeout_eq hn hrun hk hd, if_neg (Nat.not_le_of_lt hlt)]

end Sys2Proof.Machine


/-! Functions, vectors and event status (R45, R363, R364, R374, R413, R415), and O46. -/

namespace Sys2Proof.Machine

open Sys2Proof Sys2Proof.Laws

/-! ### Clearing status bits (R413, R415) -/

theorem bit_eq_testBit (x i : Nat) : bit x i = x.testBit i := by
  rw [Nat.testBit_eq_decide_div_mod_eq, bit]
  rfl

/-- Taking the bits of a mask away leaves exactly the other bits. -/
theorem testBit_sub_and (x m i : Nat) : (x - (x &&& m)).testBit i = (x.testBit i && !m.testBit i) := by
  induction i generalizing x m with
  | zero =>
    have hle := Nat.and_le_left (n := x) (m := m)
    have h := Nat.and_mod_two_eq_one (a := x) (b := m)
    simp only [Nat.testBit_zero]
    by_cases hx : x % 2 = 1 <;> by_cases hm : m % 2 = 1 <;> simp only [hx, hm, and_self, and_true, and_false, iff_true, iff_false] at h <;>
      simp [hx, hm] <;> omega
  | succ i ih =>
    have hle := Nat.and_le_left (n := x) (m := m)
    have h := Nat.and_mod_two_eq_one (a := x) (b := m)
    have hd := Nat.and_div_two (a := x) (b := m)
    have e : (x - (x &&& m)) / 2 = x / 2 - (x / 2 &&& m / 2) := by rw [← hd]; omega
    rw [Nat.testBit_succ, Nat.testBit_succ, Nat.testBit_succ, e, ih]

/-- Signalling vectors leaves every register but the counter of vectors that no function holds. -/
theorem foldl_signalVec_cell {l : List Nat} {c : Nat → Bool} {s : State} (hc : s.Canonical) {k : Nat} (hk : k ∉ lostVecKeys) :
    (l.foldl (fun t v => if c v then t.signalVec v else t) s).cell k = s.cell k := by
  induction l generalizing s with
  | nil => rfl
  | cons v r ih =>
    have ks : Keeps 0x80010 s (if c v then s.signalVec v else s) := Keeps.ite (State_signalVec_keeps (Keeps.refl _ s) rfl) (Keeps.refl _ s)
    rw [List.foldl_cons, ih (ks.canon hc)]
    split
    · exact signalVec_cell hc.regs v hk
    · rfl

/-- Clearing status bits writes their word. -/
theorem clearStatus_cell {s : State} (hc : s.Canonical) (w mask : Nat) {k : Nat} (hk : k ∉ lostVecKeys) :
    (s.clearStatus w mask).cell k = (s.rput Reg.EVENT_STATUS
      (s.rget Reg.EVENT_STATUS 0 [w] - (s.rget Reg.EVENT_STATUS 0 [w] &&& mask)) 0 [w]).cell k :=
  foldl_signalVec_cell ((State_rput_keeps (Keeps.refl 0x10 s) rfl).canon hc) hk

theorem statusKey_inj {u w : Nat} (hu : u < 36) (hw : w < 36) (h : rowKey Reg.EVENT_STATUS 0 [u] = rowKey Reg.EVENT_STATUS 0 [w]) : u = w := by
  simp [rowKey, regKey, rowAdr, Reg.EVENT_STATUS] at h; omega

theorem evStatus_word (s : State) {w i : Nat} (hi : i < 32) : s.evStatus (32 * w + i) = bit (s.rget Reg.EVENT_STATUS 0 [w]) i := by
  rw [State.evStatus, show (32 * w + i) / 32 = w by omega, show (32 * w + i) % 32 = i by omega]

/-- Clearing clears exactly the bits of the mask, in the word alone. -/
theorem clearStatus_status {s : State} (hc : s.Canonical) {w : Nat} (hw : w < 36) (mask : Nat) {u i : Nat} (hu : u < 36) (hi : i < 32) :
    (s.clearStatus w mask).evStatus (32 * u + i) = (s.evStatus (32 * u + i) && !(decide (u = w) && bit mask i)) := by
  rw [evStatus_word _ hi, evStatus_word _ hi, rget_of_cell (clearStatus_cell hc w mask (statusKey_not_lost u))]
  by_cases h : u = w
  · subst h
    rw [rget_rput_same hc.regs _ _ _ _ (by decide) (by decide), Nat.mod_eq_of_lt, bit_eq_testBit, testBit_sub_and, bit_eq_testBit, bit_eq_testBit]
    · simp
    · exact Nat.lt_of_le_of_lt (Nat.sub_le _ _) (bits_lt _ 31 0)
  · rw [rget_rput_ne hc.regs]
    · simp [h]
    · exact fun e => h (statusKey_inj hu hw e)

/-- The rows of a status register. -/
theorem regRows_status : ∀ w, w < 36 → regRows 3 (0x100 + 4 * w) = [Reg.EVENT_STATUS] := by decide +kernel

/-- An accepted write of STATUS_w clears exactly the bits written 1. -/
theorem execStatusClear_effect {s : State} (hc : s.Canonical) {m : Master} {w : Nat} {v : Word} (hw : w < 36) (hb : hasBar0 m = true)
    (hp : s.boot.porst = false) (ha : s.writeCause m.id (bankOf m) ⟨3, 0x100 + 4 * w, false⟩ 0 none v.toNat 0xFFFFFFFF = 0) :
    ∃ t, exec (.statusClear m w v) s = .next t ∧
    (∀ i, i < 32 → t.evStatus (32 * w + i) = (s.evStatus (32 * w + i) && !bit v.toNat i)) ∧
    (∀ u i, u < 36 → u ≠ w → i < 32 → t.evStatus (32 * u + i) = s.evStatus (32 * u + i)) ∧ OnlyChanges [.regs, .vecs] s t := by
  have hu : Unwritten 3 (0x100 + 4 * w) := by
    refine ⟨?_, by simp [isSelect], fun q => absurd q (by decide)⟩
    rw [regRows_status w hw]; decide
  have e : exec (.statusClear m w v) s = .next (if w < 36 then
    s.guardWrite m 3 (0x100 + 4 * w) v (fun t _ => t.clearStatus w v.toNat) else s) := rfl
  have hi : s.instOf (bankOf m) 3 (0x100 + 4 * w) = 0 := rfl
  rw [← hi] at ha
  have hd : ∀ d, s.govern (bankOf m) 3 (0x100 + 4 * w) none = some d → s.dom d ≠ 1 := fun d h => by cases h
  rw [e, if_pos hw, guardWrite_accepted hp hb ha hd]
  obtain ⟨ku, hcell⟩ := mergeWrite_unwritten hc hu (bankOf m) (s.instOf (bankOf m) 3 (0x100 + 4 * w)) v.toNat 0xFFFFFFFF
  obtain ⟨u, eu⟩ : ∃ u, u = s.mergeWrite (bankOf m) ⟨3, 0x100 + 4 * w, false⟩ (s.instOf (bankOf m) 3 (0x100 + 4 * w)) v.toNat 0xFFFFFFFF := ⟨_, rfl⟩
  rw [← eu] at ku hcell ⊢
  have hst : ∀ a, u.evStatus a = s.evStatus a := fun a => evStatus_quietish (hcell _)
  refine ⟨_, rfl, fun i hi => ?_, fun x i hx hne hi => ?_, (State_clearStatus_keeps (ku.mono rfl) rfl : Keeps 0x80010 s _).only rfl⟩
  · rw [clearStatus_status (ku.canon hc) hw _ hw hi, hst]; simp
  · rw [clearStatus_status (ku.canon hc) hw _ hx hi, hst]; simp [hne]

/-! ### Vectors (R364, R415) -/

/-- A vector that a function holds becomes pending. -/
theorem deliverVec_held {s : State} {v : Nat} (h : s.vecFunc v ≠ 0) : s.deliverVec v = s.setVec v { s.vec v with pend := true } := by
  have e : (s.vecFunc v == 0) = false := by simpa using h
  simp only [State.deliverVec, e, Bool.false_eq_true, if_false]

/-- A signal outside a quiet period makes a vector that a function holds pending, and changes that vector alone. -/
theorem signalVec_pends {s : State} (hc : s.Canonical) {v : Nat} (hf : s.vecFunc v ≠ 0) (hq : (s.vec v).quietEnd = none) (hm : (s.vec v).merged = false) :
    let t := s.signalVec v
    (t.vec v).pend = true ∧ (t.vec v).merged = false ∧ (∀ u, u ≠ v → t.vec u = s.vec u) ∧ OnlyChanges [.vecs] s t := by
  have one : ∀ y : VecX, Keeps 0x80000 s (s.setVec v y) := fun y => State_setVec_keeps (Keeps.refl _ s) rfl
  have pend : ∀ u : State, Keeps 0x80000 s u → (u.vec v).merged = false → (∀ w, w ≠ v → u.vec w = s.vec w) →
      ((u.deliverVec v).vec v).pend = true ∧ ((u.deliverVec v).vec v).merged = false ∧ (∀ w, w ≠ v → (u.deliverVec v).vec w = s.vec w) ∧
      OnlyChanges [.vecs] s (u.deliverVec v) := by
    intro u ku hmu ho
    have cu := ku.canon hc
    have hfu : u.vecFunc v ≠ 0 := by
      have e : u.vecFunc v = s.vecFunc v := rget_of_regs (ku.same .regs (by decide)) _ _ _
      rw [e]; exact hf
    rw [deliverVec_held hfu]
    refine ⟨?_, ?_, fun w hw => (vec_setVec_ne cu _ hw).trans (ho w hw), (State_setVec_keeps ku rfl).only rfl⟩
    · rw [vec_setVec_same cu]
    · rw [vec_setVec_same cu]; exact hmu
  simp only [State.signalVec, hq]
  split
  · exact pend s (Keeps.refl _ s) hm fun _ _ => rfl
  · refine pend _ (one _) ?_ fun w hw => vec_setVec_ne hc _ hw
    rw [vec_setVec_same hc]

/-- The end of a quiet period (R415). -/
theorem execCoalesceEnd_eq {s : State} {v q : Nat} (hq : (s.vec v).quietEnd = some q) : exec (.coalesceEnd v) s = .next (if q ≤ s.now then
    (if (s.vec v).merged then (s.setVec v { s.vec v with quietEnd := none, merged := false }).signalVec v
      else s.setVec v { s.vec v with quietEnd := none, merged := false }) else s) := by
  show execCoalesceEnd v s = _
  simp only [execCoalesceEnd, hq]

/-- A vector's message can go: pending, held by a function that may issue requests, unmasked, and 1 µs after the last (R363, R364). -/
def State.messageGoes (s : State) (v : Nat) : Prop :=
  (s.vec v).pend = true ∧ s.vecFunc v ≠ 0 ∧ s.mayIssue (s.vecFunc v - 1) = true ∧ bits (s.msixEntry (s.vecFunc v - 1) v) 96 96 = 0 ∧
    ∀ t0, (s.vec v).lastSent = some t0 → t0 + 1600 ≤ s.now

/-- What the message writes. -/
def State.messageSent (s : State) (v : Nat) : State :=
  let e := s.msixEntry (s.vecFunc v - 1) v
  (s.mwrite (hostKey (s.vecFunc v - 1) (bits e 63 0)) (leBytes 4 (bits e 95 64))).setVec v { s.vec v with pend := false, lastSent := some s.now }

theorem execMsixMessage_go {s : State} {v : Nat} (h : s.messageGoes v) : exec (.msixMessage v) s = .next (s.messageSent v) := by
  obtain ⟨hp, hf, hi, hm, hs⟩ := h
  have hf' : (s.vecFunc v != 0) = true := by simpa using hf
  show execMsixMessage v s = _
  cases hl : (s.vec v).lastSent with
  | none => simp only [execMsixMessage, hp, hf', hi, hm, hl, beq_self_eq_true, Bool.and_self, if_true]; rfl
  | some t0 =>
    have hle : decide (t0 + us ≤ s.now) = true := decide_eq_true (hs t0 hl)
    simp only [execMsixMessage, hp, hf', hi, hm, hl, hle, beq_self_eq_true, Bool.and_self, if_true]; rfl

theorem execMsixMessage_stay {s : State} {v : Nat} (h : ¬ s.messageGoes v) : exec (.msixMessage v) s = .next s := by
  have no : ∀ ok : Bool, (ok = true → ∀ t0, (s.vec v).lastSent = some t0 → t0 + 1600 ≤ s.now) → ((s.vec v).pend && s.vecFunc v != 0 &&
      s.mayIssue (s.vecFunc v - 1) && bits (s.msixEntry (s.vecFunc v - 1) v) 96 96 == 0 && ok) = false := by
    refine fun ok hok => Bool.eq_false_iff.2 fun hc => h ?_
    simp only [Bool.and_eq_true, bne_iff_ne, beq_iff_eq] at hc
    obtain ⟨⟨⟨⟨hp, hf⟩, hi⟩, hm⟩, ho⟩ := hc
    exact ⟨hp, hf, hi, hm, hok ho⟩
  show execMsixMessage v s = _
  cases hl : (s.vec v).lastSent with
  | none =>
    simp only [execMsixMessage, hl, no true fun _ t0 ht => by simp [hl] at ht]; rfl
  | some t0 =>
    have hok : decide (t0 + us ≤ s.now) = true → ∀ t1, (s.vec v).lastSent = some t1 → t1 + 1600 ≤ s.now := fun ho t1 ht => by
      rw [hl] at ht; cases ht; exact of_decide_eq_true ho
    simp only [execMsixMessage, hl, no _ hok]; rfl

theorem messageSent_effect {s : State} (hc : s.Canonical) (v : Nat) :
    let e := s.msixEntry (s.vecFunc v - 1) v
    let t := s.messageSent v
    t.vec v = { s.vec v with pend := false, lastSent := some s.now } ∧
    t.mread (hostKey (s.vecFunc v - 1) (bits e 63 0)) 4 = leBytes 4 (bits e 95 64) ∧ OnlyBytes (hostKey (s.vecFunc v - 1) (bits e 63 0)) 4 s t ∧
    (∀ u, u ≠ v → t.vec u = s.vec u) ∧ OnlyChanges [.mem, .vecs] s t := by
  intro e t
  obtain ⟨k, hk⟩ : ∃ k, k = hostKey (s.vecFunc v - 1) (bits e 63 0) := ⟨_, rfl⟩
  obtain ⟨d, hd⟩ : ∃ d, d = leBytes 4 (bits e 95 64) := ⟨_, rfl⟩
  have hlen : d.length = 4 := by rw [hd]; exact leBytes_length 4 _
  have kw : Keeps 0x80 s (s.mwrite k d) := State_mwrite_keeps (Keeps.refl _ s) rfl
  have cw := kw.canon hc
  have hv : (s.mwrite k d).vecs = s.vecs := kw.same .vecs (by decide)
  have hm : t.mem = (s.mwrite k d).mem := by rw [hk, hd]; rfl
  have et : t = (s.mwrite k d).setVec v { s.vec v with pend := false, lastSent := some s.now } := by rw [hk, hd]; rfl
  rw [← hk, ← hd]
  refine ⟨?_, ?_, fun q hq => ?_, fun u hu => ?_, ?_⟩
  · rw [et]; exact vec_setVec_same cw v _
  · have h := mread_mwrite_same hc.mem k d
    rw [hlen] at h
    rw [← h]
    exact mread_congr fun q _ _ => by simp only [State.mget, hm]
  · have h := mget_mwrite_ne hc.mem k d (q := q) (by rw [hlen]; exact hq)
    simp only [State.mget, hm] at h ⊢
    exact h
  · rw [et, vec_setVec_ne cw _ hu]; simp only [State.vec, hv]
  · rw [et]; exact (State_setVec_keeps (kw.mono rfl) rfl : Keeps 0x80080 s _).only rfl

/-- The end of a quiet period frees the vector. -/
theorem execCoalesceEnd_frees {s : State} (hc : s.Canonical) {v q : Nat} (hq : (s.vec v).quietEnd = some q) (hle : q ≤ s.now) (hm : (s.vec v).merged = false) :
    ∃ t, exec (.coalesceEnd v) s = .next t ∧ t.vec v = { s.vec v with quietEnd := none, merged := false } ∧ (∀ u, u ≠ v → t.vec u = s.vec u) ∧
      OnlyChanges [.vecs] s t := by
  refine ⟨_, execCoalesceEnd_eq hq, ?_⟩
  rw [if_pos hle, hm, if_neg (by decide)]
  exact ⟨vec_setVec_same hc v _, fun u hu => vec_setVec_ne hc _ hu, (State_setVec_keeps (Keeps.refl _ s) rfl : Keeps 0x80000 s _).only rfl⟩

/-- Signals merged into a quiet period make the vector pending at its end. -/
theorem execCoalesceEnd_pends {s : State} (hc : s.Canonical) {v q : Nat} (hq : (s.vec v).quietEnd = some q) (hle : q ≤ s.now) (hm : (s.vec v).merged = true)
    (hf : s.vecFunc v ≠ 0) : ∃ t, exec (.coalesceEnd v) s = .next t ∧ (t.vec v).pend = true ∧ (t.vec v).merged = false ∧
      (∀ u, u ≠ v → t.vec u = s.vec u) ∧ OnlyChanges [.vecs] s t := by
  refine ⟨_, execCoalesceEnd_eq hq, ?_⟩
  rw [if_pos hle, hm, if_pos rfl]
  have kv : Keeps 0x80000 s (s.setVec v { s.vec v with quietEnd := none, merged := false }) := State_setVec_keeps (Keeps.refl _ s) rfl
  have same := vec_setVec_same hc v { s.vec v with quietEnd := none, merged := false }
  obtain ⟨hp, hg, ho, only⟩ := signalVec_pends (kv.canon hc) (v := v) hf (by rw [same]) (by rw [same])
  exact ⟨hp, hg, fun u hu => (ho u hu).trans (vec_setVec_ne hc _ hu), fun f hf => same_trans (kv.only rfl f hf) (only f hf)⟩

/-! ### Bus Master Enable (R363) -/

theorem execBusMasterEnable_effect (s : State) {f : Nat} (hf : f < 16) (b v : Bool) : ∃ t, exec (.busMasterEnable f b v) s = .next t ∧
    t.boot = { s.boot with bme := sset (fun _ => false) s.boot.bme f b, vfe := s.boot.vfe || v } ∧ OnlyChanges [.regs, .boot, .vecs] s t := by
  obtain ⟨u, hu⟩ : ∃ u : State, u = { s with boot := { s.boot with bme := sset (fun _ => false) s.boot.bme f b, vfe := s.boot.vfe || v } } := ⟨_, rfl⟩
  have e : exec (.busMasterEnable f b v) s = .next u.dropUnready := by
    show execBusMasterEnable f b v s = _
    rw [execBusMasterEnable, if_pos hf, hu]
  have kd : Keeps 0x80010 u u.dropUnready := State_dropUnready_keeps (Keeps.refl _ u) rfl
  have hb : u.dropUnready.boot = u.boot := kd.same .boot (by decide)
  exact ⟨_, e, by rw [hb, hu], (execBusMasterEnable_keeps (Keeps.refl 0x88010 s) rfl _ e).only rfl⟩

/-! ### Register rows of the slow path (R374) -/

/-- READY_MAP's bits leave the registers outside its blocks and the events' block. -/
theorem setReady_cell {s : State} (h : swf regReset s.regs = true) (i : Nat) (v : Bool) {k : Nat} (hb : keyBlk k ∉ [0, 1, 3]) (hk : k ∉ lostVecKeys) :
    (s.setReady i v).cell k = s.cell k := by
  simp only [List.mem_cons, List.not_mem_nil, or_false, not_or] at hb
  obtain ⟨h0, h1, h3⟩ := hb
  have map : ∀ r x, r.blk = 0 → 0 * 2 ^ 16 + rowAdr r [] < 2 ^ 33 → (((s.rput r x).pput Reg.CLOCKS_READY_DELTA
      (setBit ((s.rput r x).pget Reg.CLOCKS_READY_DELTA) i true)).raise 1145).cell k = s.cell k := by
    intro r x hr ha
    have w := rput_swf h r x 0 []
    rw [raise_cell (pput_swf w _ _ _ _) (by decide) h3 hk, pput_cell_blk w (by decide) h1, rput_cell_blk h ha (by rw [hr]; exact h0)]
  simp only [State.setReady]
  split
  · rfl
  · split
    · exact map _ _ rfl (by decide)
    · exact map _ _ rfl (by decide)

/-- What drops READY_MAP bits leaves the registers outside its blocks and the events' block. -/
theorem dropUnready_cell {s : State} (hc : s.Canonical) {k : Nat} (hb : keyBlk k ∉ [0, 1, 3]) (hk : k ∉ lostVecKeys) :
    s.dropUnready.cell k = s.cell k := by
  have fold : ∀ (l : List Nat) (t : State), t.Canonical →
      (l.foldl (fun t i => if t.ready i && !t.readyCond i then t.setReady i false else t) t).cell k = t.cell k := by
    intro l
    induction l with
    | nil => exact fun _ _ => rfl
    | cons i r ih =>
      intro t ht
      have kt : Keeps 0x80010 t (if t.ready i && !t.readyCond i then t.setReady i false else t) :=
        Keeps.ite (State_setReady_keeps (Keeps.refl _ t) rfl) (Keeps.refl _ t)
      rw [List.foldl_cons, ih _ (kt.canon ht)]
      split
      · exact setReady_cell ht.regs i false hb hk
      · rfl
  exact fold _ s hc

/-- The enables and indices of a slow-path ring. -/
def spFields : List Row := [Reg.HOST_EN, Reg.HOST_BUF_TAIL, Reg.HOST_HEAD, Reg.HOST_TX_EN, Reg.HOST_TX_TAIL, Reg.HOST_TX_HEAD]

theorem spFields_shape : ∀ a ∈ spFields, a.blk = 5 ∧ a.dims = [(0x1000, 4), (0x20, 64)] ∧ a.lo = 0 ∧ a.hi < 32 := by decide

theorem spFields_off : ∀ a ∈ spFields, ∃ e < 2, ∃ j < 3, a.off = 0x1010 + 0x4000 * e + 4 * j := by decide

theorem spFields_eq_of_off : ∀ a ∈ spFields, ∀ b ∈ spFields, a.off = b.off → a = b := by decide

theorem spKey {a : Row} (ha : a ∈ spFields) (r : Nat) :
    rowKey a 0 (spIx r) = 5 * 2 ^ 33 + (a.off + (0x1000 * (r / 64 % 4) + 0x20 * (r % 64))) := by
  obtain ⟨hb, hd, -, -⟩ := spFields_shape a ha
  simp [rowKey, regKey, rowAdr, hb, hd, spIx]

/-- Each field of each slow-path ring has its own register. -/
theorem spKey_inj {a b : Row} (ha : a ∈ spFields) (hb : b ∈ spFields) {r q : Nat} (hr : r < 256) (hq : q < 256)
    (h : rowKey a 0 (spIx r) = rowKey b 0 (spIx q)) : a = b ∧ r = q := by
  obtain ⟨e, he, j, hj, ea⟩ := spFields_off a ha
  obtain ⟨e', he', j', hj', eb⟩ := spFields_off b hb
  rw [spKey ha, spKey hb] at h
  exact ⟨spFields_eq_of_off a ha b hb (by omega), by omega⟩

theorem spKey_free {a : Row} (ha : a ∈ spFields) (r : Nat) :
    keyBlk (rowKey a 0 (spIx r)) ∉ [0, 1, 3] ∧ rowKey a 0 (spIx r) ∉ lostVecKeys := by
  obtain ⟨e, he, j, hj, ea⟩ := spFields_off a ha
  rw [spKey ha, ea]
  constructor
  · rw [keyBlk, show (5 * 2 ^ 33 + (0x1010 + 0x4000 * e + 4 * j + (0x1000 * (r / 64 % 4) + 0x20 * (r % 64)))) / 2 ^ 33 = 5 by omega]; decide
  · simp [lostVecKeys, rowKey, regKey, rowAdr, Reg.HOST_CNT]; omega

/-- The fields that are 0 in s are 0 in t. -/
def SpZeroKept (s t : State) : Prop := ∀ a ∈ spFields, ∀ r < 256, s.rget a 0 (spIx r) = 0 → t.rget a 0 (spIx r) = 0

theorem SpZeroKept.trans {s t u : State} (h : SpZeroKept s t) (g : SpZeroKept t u) : SpZeroKept s u := fun a ha r hr hz => g a ha r hr (h a ha r hr hz)

/-- A field set to 0, its buffered value too or not, is 0, and no other field leaves 0. -/
theorem rput_spZero {s : State} (h : swf regReset s.regs = true) {b : Row} (hb : b ∈ spFields) {q : Nat} (hq : q < 256) :
    SpZeroKept s (s.rput b 0 0 (spIx q)) ∧ (s.rput b 0 0 (spIx q)).rget b 0 (spIx q) = 0 := by
  obtain ⟨-, -, hl, hh⟩ := spFields_shape b hb
  have z : (s.rput b 0 0 (spIx q)).rget b 0 (spIx q) = 0 := by rw [rget_rput_same h _ _ _ _ hh (by omega), Nat.zero_mod]
  refine ⟨fun a ha r hr hz => ?_, z⟩
  by_cases e : rowKey a 0 (spIx r) = rowKey b 0 (spIx q)
  · obtain ⟨rfl, rfl⟩ := spKey_inj ha hb hr hq e; exact z
  · rw [rget_of_cell (rput_cell h _ _ _ _ e)]; exact hz

theorem rputBoth_spZero {s : State} (h : swf regReset s.regs = true) {b : Row} (hb : b ∈ spFields) {q : Nat} (hq : q < 256) :
    SpZeroKept s (s.rputBoth b 0 0 (spIx q)) ∧ (s.rputBoth b 0 0 (spIx q)).rget b 0 (spIx q) = 0 := by
  obtain ⟨-, -, hl, hh⟩ := spFields_shape b hb
  have z : (s.rputBoth b 0 0 (spIx q)).rget b 0 (spIx q) = 0 := by rw [rget_rputBoth_same h _ _ _ _ hh (by omega), Nat.zero_mod]
  refine ⟨fun a ha r hr hz => ?_, z⟩
  by_cases e : rowKey a 0 (spIx r) = rowKey b 0 (spIx q)
  · obtain ⟨rfl, rfl⟩ := spKey_inj ha hb hr hq e; exact z
  · rw [rget_of_cell (rputBoth_cell h _ _ _ _ e)]; exact hz

/-- One slow-path ring is disabled and its indices are 0. -/
def State.slowRingOff (t : State) (r : Nat) : State :=
  ((((t.rputBoth Reg.HOST_EN 0 0 (spIx r)).rputBoth Reg.HOST_BUF_TAIL 0 0 (spIx r)).rput Reg.HOST_HEAD 0 0 (spIx r)).rputBoth
    Reg.HOST_TX_EN 0 0 (spIx r)).rputBoth Reg.HOST_TX_TAIL 0 0 (spIx r) |>.rput Reg.HOST_TX_HEAD 0 0 (spIx r)

theorem slowRingsOff_eq (s : State) : s.slowRingsOff = (List.range 256).foldl State.slowRingOff s := rfl

theorem slowRingOff_zero {s : State} (h : swf regReset s.regs = true) {q : Nat} (hq : q < 256) :
    swf regReset (s.slowRingOff q).regs = true ∧ SpZeroKept s (s.slowRingOff q) ∧ ∀ a ∈ spFields, (s.slowRingOff q).rget a 0 (spIx q) = 0 := by
  have w1 := rputBoth_swf h Reg.HOST_EN 0 0 (spIx q)
  have w2 := rputBoth_swf w1 Reg.HOST_BUF_TAIL 0 0 (spIx q)
  have w3 := rput_swf w2 Reg.HOST_HEAD 0 0 (spIx q)
  have w4 := rputBoth_swf w3 Reg.HOST_TX_EN 0 0 (spIx q)
  have w5 := rputBoth_swf w4 Reg.HOST_TX_TAIL 0 0 (spIx q)
  have m1 : Reg.HOST_EN ∈ spFields := by decide
  have m2 : Reg.HOST_BUF_TAIL ∈ spFields := by decide
  have m3 : Reg.HOST_HEAD ∈ spFields := by decide
  have m4 : Reg.HOST_TX_EN ∈ spFields := by decide
  have m5 : Reg.HOST_TX_TAIL ∈ spFields := by decide
  have m6 : Reg.HOST_TX_HEAD ∈ spFields := by decide
  obtain ⟨k1, z1⟩ := rputBoth_spZero h m1 hq
  obtain ⟨k2, z2⟩ := rputBoth_spZero w1 m2 hq
  obtain ⟨k3, z3⟩ := rput_spZero w2 m3 hq
  obtain ⟨k4, z4⟩ := rputBoth_spZero w3 m4 hq
  obtain ⟨k5, z5⟩ := rputBoth_spZero w4 m5 hq
  obtain ⟨k6, z6⟩ := rput_spZero w5 m6 hq
  have k56 := k5.trans k6
  have k46 := k4.trans k56
  have k36 := k3.trans k46
  have k26 := k2.trans k36
  refine ⟨rput_swf w5 _ _ _ _, k1.trans k26, fun a ha => ?_⟩
  simp only [spFields, List.mem_cons, List.not_mem_nil, or_false] at ha
  obtain rfl | rfl | rfl | rfl | rfl | rfl := ha
  · exact k26 _ m1 q hq z1
  · exact k36 _ m2 q hq z2
  · exact k46 _ m3 q hq z3
  · exact k56 _ m4 q hq z4
  · exact k6 _ m5 q hq z5
  · exact z6

/-- Every slow-path ring is disabled, with indices 0 (R374). -/
theorem slowRingsOff_zero {s : State} (h : swf regReset s.regs = true) : ∀ r < 256, ∀ a ∈ spFields, s.slowRingsOff.rget a 0 (spIx r) = 0 := by
  have fold : ∀ (l : List Nat), (∀ r ∈ l, r < 256) → ∀ t : State, swf regReset t.regs = true →
      SpZeroKept t (l.foldl State.slowRingOff t) ∧ ∀ r ∈ l, ∀ a ∈ spFields, (l.foldl State.slowRingOff t).rget a 0 (spIx r) = 0 := by
    intro l
    induction l with
    | nil => exact fun _ t _ => ⟨fun _ _ _ _ hz => hz, fun _ hr => absurd hr List.not_mem_nil⟩
    | cons q l ih =>
      intro hl t ht
      have hq := hl q List.mem_cons_self
      obtain ⟨w, k, z⟩ := slowRingOff_zero ht hq
      obtain ⟨k', z'⟩ := ih (fun r hr => hl r (List.mem_cons_of_mem _ hr)) _ w
      rw [List.foldl_cons]
      refine ⟨k.trans k', fun r hr a ha => ?_⟩
      obtain rfl | hr := List.mem_cons.1 hr
      · exact k' a ha r hq (z a ha)
      · exact z' r hr a ha
  rw [slowRingsOff_eq]
  exact fun r hr => (fold _ (fun r hr => List.mem_range.1 hr) s h).2 r (List.mem_range.2 hr)

/-! ### Function resets (R45, R374) -/

theorem sfind_sfilter {β : Type} [DecidableEq β] {d : Nat → β} {p : Nat → Bool} {m : Sparse β} {a : Nat} (h : swfFrom d a m = true) (k : Nat) :
    sfind (sfilter p m) k = if p k then sfind m k else none := by
  induction m generalizing a with
  | nil => simp [sfilter, sfind]
  | cons e r ih =>
    obtain ⟨q, v⟩ := e
    simp only [swfFrom, Bool.and_eq_true, decide_eq_true_eq] at h
    have hr : k ≤ q → sfind r k = none := fun hk => sfind_below h.2 (by omega)
    by_cases hpq : p q = true
    · simp only [sfilter, hpq, if_true, sfind, ih h.2]
      by_cases hqk : q = k
      · subst hqk; simp [hpq]
      · simp only [beq_iff_eq, hqk, if_false]
        split <;> simp
    · simp only [sfilter, hpq, sfind]
      by_cases hqk : q = k
      · subst hqk; simp [hpq, ih h.2]
      · simp only [beq_iff_eq, hqk, Bool.false_eq_true, if_false, ih h.2]
        by_cases hlt : k < q
        · simp [hlt, hr (by omega)]
        · simp [hlt]

/-- A map restricted to the keys that pass a test. -/
theorem sget_sfilter {β : Type} [DecidableEq β] {d : Nat → β} {p : Nat → Bool} {m : Sparse β} (h : swf d m = true) (k : Nat) :
    sget d (sfilter p m) k = if p k then sget d m k else d k := by
  simp only [sget, sfind_sfilter h]
  split <;> rfl

/-- Bus Master Enable of a list of functions cleared. -/
def BootX.busOff (b : BootX) (l : List Nat) : BootX := { b with bme := l.foldl (fun m f => sset (fun _ => false) m f false) b.bme }

/-- A function's reset clears its Bus Master Enable and its vector table. -/
theorem resetFunc_effect {s : State} (hc : s.Canonical) (f : Nat) : (s.resetFunc f).boot = s.boot.busOff [f] ∧
    ∀ g v, v < 64 → (s.resetFunc f).msixEntry g v = if g = f then 2 ^ 96 else s.msixEntry g v := by
  obtain ⟨u, hu⟩ : ∃ u : State, u = { s with
    boot := { s.boot with bme := sset (fun _ => false) s.boot.bme f false }
    msix := sfilter (fun k => k / 64 != f) s.msix
    vecs := smap (fun _ => {}) (fun v x => if s.vecFunc v == f + 1 then { x with pend := false } else x) s.vecs } := ⟨_, rfl⟩
  have e : s.resetFunc f = (u.resetRingsOf (f + 1)).resetIdentity (f + 1) := by rw [hu]; rfl
  have k : Keeps 0x10800080630 u (s.resetFunc f) := by
    rw [e]; exact State_resetIdentity_keeps (State_resetRingsOf_keeps (Keeps.refl _ u) rfl) rfl
  have hb : (s.resetFunc f).boot = u.boot := k.same .boot (by decide)
  have hm : (s.resetFunc f).msix = u.msix := k.same .msix (by decide)
  refine ⟨by rw [hb, hu]; rfl, fun g v hv => ?_⟩
  simp only [State.msixEntry, hm]
  rw [hu]
  show sget _ (sfilter _ s.msix) _ = _
  rw [sget_sfilter hc.msix, show (g * 64 + v) / 64 = g by omega]
  by_cases hg : g = f <;> simp [hg]

theorem resetFuncs_fold {fs : List Nat} {s : State} (hc : s.Canonical) : (fs.foldl State.resetFunc s).Canonical ∧
    (fs.foldl State.resetFunc s).boot = s.boot.busOff fs ∧
    ∀ g v, v < 64 → (fs.foldl State.resetFunc s).msixEntry g v = if g ∈ fs then 2 ^ 96 else s.msixEntry g v := by
  induction fs generalizing s with
  | nil => exact ⟨hc, rfl, fun g v _ => by simp⟩
  | cons f fs ih =>
    have k : Keeps 0x50800088630 s (s.resetFunc f) := State_resetFunc_keeps (Keeps.refl _ s) rfl
    obtain ⟨hb, hm⟩ := resetFunc_effect hc f
    obtain ⟨hc', hb', hm'⟩ := ih (k.canon hc)
    refine ⟨hc', by rw [List.foldl_cons, hb', hb]; rfl, fun g v hv => ?_⟩
    rw [List.foldl_cons, hm' g v hv, hm g v hv]
    by_cases hg : g = f <;> by_cases hr : g ∈ fs <;> simp [hg, hr]

/-- Functions other than PF0 are reset. -/
theorem resetFuncs_effect {fs : List Nat} {s : State} (hc : s.Canonical) (h0 : fs.contains 0 = false) : (s.resetFuncs fs).boot = s.boot.busOff fs ∧
    ∀ g v, v < 64 → (s.resetFuncs fs).msixEntry g v = if g ∈ fs then 2 ^ 96 else s.msixEntry g v := by
  have e : s.resetFuncs fs = (fs.foldl State.resetFunc s).dropUnready := by
    simp only [State.resetFuncs, h0]; rfl
  obtain ⟨-, hb, hm⟩ := resetFuncs_fold (fs := fs) hc
  have k : Keeps 0x80010 (fs.foldl State.resetFunc s) (s.resetFuncs fs) := by rw [e]; exact State_dropUnready_keeps (Keeps.refl _ _) rfl
  have kb : (s.resetFuncs fs).boot = (fs.foldl State.resetFunc s).boot := k.same .boot (by decide)
  have km : (s.resetFuncs fs).msix = (fs.foldl State.resetFunc s).msix := k.same .msix (by decide)
  refine ⟨kb.trans hb, fun g v hv => ?_⟩
  rw [← hm g v hv]
  simp only [State.msixEntry, km]

/-- A reset that includes PF0 also clears VF Enable and disables every slow-path ring. -/
theorem resetFuncs_pf0 {fs : List Nat} {s : State} (hc : s.Canonical) (h0 : fs.contains 0 = true) :
    (s.resetFuncs fs).boot = { s.boot.busOff fs with vfe := false } ∧
    (∀ g v, v < 64 → (s.resetFuncs fs).msixEntry g v = if g ∈ fs then 2 ^ 96 else s.msixEntry g v) ∧
    ∀ r < 256, ∀ a ∈ spFields, (s.resetFuncs fs).rget a 0 (spIx r) = 0 := by
  obtain ⟨cx, hb, hm⟩ := resetFuncs_fold (fs := fs) hc
  obtain ⟨x, hx⟩ : ∃ x, x = fs.foldl State.resetFunc s := ⟨_, rfl⟩
  rw [← hx] at cx hb hm
  have zero := slowRingsOff_zero cx.regs
  have ks : Keeps 0x10 x x.slowRingsOff := State_slowRingsOff_keeps (Keeps.refl _ x) rfl
  obtain ⟨y, hy⟩ : ∃ y, y = x.slowRingsOff := ⟨_, rfl⟩
  rw [← hy] at ks zero
  have yb : y.boot = x.boot := ks.same .boot (by decide)
  have ym : y.msix = x.msix := ks.same .msix (by decide)
  have kw : Keeps 0x8000 y { y with boot := { y.boot with vfe := false } } := Keeps.boot (Keeps.refl _ y) rfl
  obtain ⟨w, hw⟩ : ∃ w : State, w = { y with boot := { y.boot with vfe := false } } := ⟨_, rfl⟩
  have wb : w.boot = { y.boot with vfe := false } := by rw [hw]
  rw [← hw] at kw
  have wr : w.regs = y.regs := kw.same .regs (by decide)
  have wm : w.msix = y.msix := kw.same .msix (by decide)
  have e : s.resetFuncs fs = w.dropUnready := by
    simp only [State.resetFuncs, h0, if_true, hw, hy, hx]
  have k : Keeps 0x80010 w (s.resetFuncs fs) := by rw [e]; exact State_dropUnready_keeps (Keeps.refl _ _) rfl
  have kb : (s.resetFuncs fs).boot = w.boot := k.same .boot (by decide)
  have km : (s.resetFuncs fs).msix = w.msix := k.same .msix (by decide)
  refine ⟨by rw [kb, wb, yb, hb], fun g v hv => ?_, fun r hr a ha => ?_⟩
  · rw [← hm g v hv]
    simp only [State.msixEntry, km, wm, ym]
  · obtain ⟨hk, hl⟩ := spKey_free ha r
    rw [e, rget_of_cell (dropUnready_cell (kw.canon (ks.canon cx)) hk hl), rget_of_regs wr]
    exact zero r hr a ha

theorem execFunctionLevelReset_function {s : State} {f : Nat} (hp : s.boot.porst = false) (hf : f ≠ 0) :
    exec (.functionLevelReset f 0) s = .next (s.resetFuncs [f]) := by
  have e : (f == 0) = false := by simpa using hf
  show execFunctionLevelReset f 0 s = _
  simp only [execFunctionLevelReset, hp, e, Bool.false_eq_true, if_false]

theorem execFunctionLevelReset_pf0 {s : State} (hp : s.boot.porst = false) :
    exec (.functionLevelReset 0 0) s = .next (s.resetFuncs (List.range 16)) := by
  show execFunctionLevelReset 0 0 s = _
  simp only [execFunctionLevelReset, hp, beq_self_eq_true, Bool.false_eq_true, if_false, if_true]

theorem execFunctionLevelReset_vfs {s : State} (f : Nat) (hp : s.boot.porst = false) : exec (.functionLevelReset f 1) s =
    .next { s.resetFuncs ((List.range 15).map (· + 1)) with boot := { (s.resetFuncs ((List.range 15).map (· + 1))).boot with vfe := false } } := by
  show execFunctionLevelReset f 1 s = _
  simp only [execFunctionLevelReset, hp, Bool.false_eq_true, if_false]

theorem execFunctionLevelReset_reload {s : State} {f kind : Nat} (hp : s.boot.porst = false) (hk : 2 ≤ kind) :
    exec (.functionLevelReset f kind) s = .next (s.resetRingsOf (f + 1)) := by
  obtain ⟨k, rfl⟩ : ∃ k, kind = k + 2 := ⟨kind - 2, by omega⟩
  show execFunctionLevelReset f (k + 2) s = _
  simp only [execFunctionLevelReset, hp, Bool.false_eq_true, if_false]

/-- What the resets of functions do, by their kind. -/
theorem functionResets {s : State} (hc : s.Canonical) {f : Nat} (kind : Nat) (hp : s.boot.porst = false) (hf : f < 16) :
    (f ≠ 0 → ∃ t, exec (.functionLevelReset f 0) s = .next t ∧ t.boot = s.boot.busOff [f] ∧ (∀ v, v < 64 → t.msixEntry f v = 2 ^ 96) ∧
      (∀ g v, g ≠ f → v < 64 → t.msixEntry g v = s.msixEntry g v)) ∧
    (∃ t, exec (.functionLevelReset 0 0) s = .next t ∧ t.boot = { s.boot.busOff (List.range 16) with vfe := false } ∧
      (∀ v, v < 64 → t.msixEntry f v = 2 ^ 96) ∧ ∀ r < 256, ∀ a ∈ spFields, t.rget a 0 (spIx r) = 0) ∧
    (∃ t, exec (.functionLevelReset f 1) s = .next t ∧ t.boot = { s.boot.busOff ((List.range 15).map (· + 1)) with vfe := false }) ∧
    (2 ≤ kind → ∃ t, exec (.functionLevelReset f kind) s = .next t ∧ t.boot = s.boot ∧ t.msix = s.msix) := by
  refine ⟨fun h0 => ?_, ?_, ?_, fun hk => ?_⟩
  · obtain ⟨hb, hm⟩ := resetFuncs_effect hc (fs := [f]) (by simpa using Ne.symm h0)
    refine ⟨_, execFunctionLevelReset_function hp h0, hb, fun v hv => ?_, fun g v hg hv => ?_⟩
    · rw [hm f v hv, if_pos (List.mem_singleton.2 rfl)]
    · rw [hm g v hv, if_neg (fun h => hg (List.mem_singleton.1 h))]
  · obtain ⟨hb, hm, hz⟩ := resetFuncs_pf0 hc (fs := List.range 16) (by decide)
    refine ⟨_, execFunctionLevelReset_pf0 hp, hb, fun v hv => ?_, hz⟩
    rw [hm f v hv, if_pos (List.mem_range.2 hf)]
  · obtain ⟨hb, -⟩ := resetFuncs_effect hc (fs := (List.range 15).map (· + 1)) (by decide)
    exact ⟨_, execFunctionLevelReset_vfs f hp, congrArg (fun b : BootX => { b with vfe := false }) hb⟩
  · have k : Keeps 0x800080610 s (s.resetRingsOf (f + 1)) := State_resetRingsOf_keeps (Keeps.refl _ s) rfl
    exact ⟨_, execFunctionLevelReset_reload hp hk, k.same .boot (by decide), k.same .msix (by decide)⟩

/-- Settles O46: the resets by induction on the functions reset, the vectors by the cases of their pending message, and the status
write bit by bit. -/
theorem functionsAndVectors : Obligations.FunctionsAndVectors := by
  unfold Obligations.FunctionsAndVectors
  intro s hc off
  refine ⟨fun f kind hp hf => ?_, fun f b v hf => execBusMasterEnable_effect s hf b v, ?_, ?_, fun m w v hw hb hp ha => execStatusClear_effect hc hw hb hp ha⟩
  · obtain ⟨one, ⟨t, et, hb, hm, hz⟩, vfs, reload⟩ := functionResets hc kind hp hf
    refine ⟨one, ⟨t, et, hb, hm, fun r hr => ?_⟩, vfs, reload⟩
    have z := hz r hr
    simp only [spFields, List.forall_mem_cons] at z
    obtain ⟨en, tail, head, txEn, txTail, txHead, -⟩ := z
    exact ⟨en, txEn, head, tail, txHead, txTail⟩
  · intro v x fn e go
    exact ⟨fun h => execMsixMessage_stay h, fun h => ⟨_, execMsixMessage_go h, messageSent_effect hc v⟩⟩
  · intro v q hq y
    refine ⟨fun hlt => ?_, execCoalesceEnd_frees hc hq, execCoalesceEnd_pends hc hq⟩
    rw [execCoalesceEnd_eq hq, if_neg (by omega)]

end Sys2Proof.Machine

/-! Scheduling (R281 to R292, R301): the selection of a frame, the Graticule, the deadline of a ready slot, and O38. -/

namespace Sys2Proof.Machine

open Sys2Proof Sys2Proof.Laws

/-! ### Registers of a block that a release leaves (R249) -/

/-- t is canonical where s is, and has the registers of block b that s has. -/
def RegsKept (b : Nat) (s t : State) : Prop := s.Canonical → t.Canonical ∧ ∀ k, keyBlk k = b → t.cell k = s.cell k

theorem RegsKept.refl (b : Nat) (s : State) : RegsKept b s s := fun hc => ⟨hc, fun _ _ => rfl⟩

theorem RegsKept.trans {b : Nat} {s t u : State} (h : RegsKept b s t) (g : RegsKept b t u) : RegsKept b s u := fun hc =>
  have ⟨ct, ht⟩ := h hc
  have ⟨cu, hu⟩ := g ct
  ⟨cu, fun k hk => (hu k hk).trans (ht k hk)⟩

/-- A change of fields other than the registers. -/
theorem RegsKept.of_keeps {b m : Nat} {s t : State} (h : Keeps m s t) (hm : m.testBit 4 = false) : RegsKept b s t := fun hc =>
  ⟨h.canon hc, fun k _ => cell_of_regs (h.same .regs hm) k⟩

/-- The block of a register's key needs only the offset to be one. -/
theorem keyBlk_regKey_of_off {b i o : Nat} (h : o < 2 ^ 16) : keyBlk (regKey b i o) = b := by
  simp only [keyBlk, regKey]; omega

/-- The key of the high half of a pair (R92). -/
theorem rowKey_high (r : Row) (i : Nat) (ix : List Nat) : rowKey r i ix + 4 = regKey r.blk i (rowAdr r ix + 4) := by
  simp only [rowKey, regKey]; omega

theorem rput_regsKept {b : Nat} (s : State) {r : Row} (v i : Nat) {ix : List Nat} (ho : rowAdr r ix < 2 ^ 16) (hb : b ≠ r.blk) :
    RegsKept b s (s.rput r v i ix) := fun hc =>
  ⟨(State_rput_keeps (Keeps.refl 0x10 s) rfl).canon hc, fun k hk =>
    rput_cell hc.regs _ _ _ _ (ne_of_keyBlk (by rw [rowKey, keyBlk_regKey_of_off ho, hk]; exact hb))⟩

theorem pput_regsKept {b : Nat} (s : State) {r : Row} (v i : Nat) {ix : List Nat} (ho : rowAdr r ix + 4 < 2 ^ 16) (hb : b ≠ r.blk) :
    RegsKept b s (s.pput r v i ix) := fun hc => by
  refine ⟨(State_pput_keeps (Keeps.refl 0x10 s) rfl).canon hc, fun k hk => pput_cell hc.regs _ _ _ _ (ne_of_keyBlk ?_) (ne_of_keyBlk ?_)⟩
  · rw [rowKey, keyBlk_regKey_of_off (by omega), hk]; exact hb
  · rw [rowKey_high, keyBlk_regKey_of_off ho, hk]; exact hb

theorem raise_regsKept {b : Nat} (s : State) {src : Nat} (hs : src < 1152) (h3 : b ≠ 3) (h5 : b ≠ 5) : RegsKept b s (s.raise src) := fun hc =>
  ⟨raise_canonical hc src, fun _ hk => raise_cell hc.regs hs (hk ▸ h3) (not_lost_of_blk (hk ▸ h5))⟩

theorem setFr_regsKept (b : Nat) (s : State) (f : Nat) (x : Frame) : RegsKept b s (s.setFr f x) :=
  .of_keeps (State_setFr_keeps (Keeps.refl 0x400000 s) rfl) rfl

/-- A block with no register of the events, the lost vectors, Slath, Tally or the tap. -/
structure OffRelease (b : Nat) : Prop where
  events : b ≠ 3
  vectors : b ≠ 5
  slath : b ≠ 9
  tally : b ≠ 15

section
variable {b : Nat} (hb : OffRelease b) (s : State)
include hb

theorem setTap_cadd_regsKept {r : Row} (n : Nat) (x : TapX) (c : Nat) (h15 : r.blk = 15) (ho : rowAdr r [] + 4 < 2 ^ 16) :
    RegsKept b s ((s.setTap n x).cadd r c) :=
  (RegsKept.of_keeps (State_setTap_keeps (Keeps.refl 0x80000000000 s) rfl) rfl).trans (pput_regsKept _ _ _ ho (h15 ▸ hb.tally))

theorem token_regsKept (n : Nat) (key : TokKey) (len : Nat) : RegsKept b s (s.token n key len) := by
  have tap (u : State) (x : TapX) : RegsKept b u (u.setTap n x) := .of_keeps (State_setTap_keeps (Keeps.refl 0x80000000000 u) rfl) rfl
  simp only [State.token]
  split
  · exact (pput_regsKept s _ _ (by decide) hb.tally).trans (raise_regsKept _ (by decide) hb.events hb.vectors)
  · split
    · exact tap s _
    · split
      · exact tap s _
      · split
        · exact (setTap_cadd_regsKept hb s _ _ _ rfl (by decide)).trans (raise_regsKept _ (by decide) hb.events hb.vectors)
        · split
          · exact RegsKept.refl b s
          · have sent (c : CartX) : RegsKept b s { s with cart := c } := .of_keeps (Keeps.cart (Keeps.refl 0x100000000000 s) rfl) rfl
            exact ((sent _).trans (setTap_cadd_regsKept hb _ _ _ _ rfl (by decide))).trans (tap _ _)

theorem rxToken_regsKept (f : Nat) : RegsKept b s (s.rxToken f) := by
  simp only [State.rxToken]
  split
  · split
    · exact (setFr_regsKept b s f _).trans (token_regsKept hb _ _ _ _)
    · exact RegsKept.refl b s
  · exact RegsKept.refl b s

theorem setFate_regsKept (f : Nat) (carried : Bool) : RegsKept b s (s.setFate f carried) := by
  have ho : ∀ n j, rowAdr Reg.TALLY_PIPE_WORD [n, j] + 4 < 2 ^ 16 := by
    intro n j; simp [rowAdr, Reg.TALLY_PIPE_WORD]; omega
  simp only [State.setFate]
  split
  · exact RegsKept.refl b s
  · have known : RegsKept b s (s.setFr f { s.fr f with fate := some carried }) := setFr_regsKept b s f _
    refine RegsKept.trans (known.trans ?_) (rxToken_regsKept hb _ f)
    split
    · exact .of_keeps (State_setPipe_keeps (Keeps.refl 0x1000000000 _) rfl) rfl
    · exact (pput_regsKept _ _ _ (ho _ _) hb.tally).trans (pput_regsKept _ _ _ (ho _ _) hb.tally)

theorem reap_regsKept (f : Nat) : RegsKept b s (s.reap f) := by
  simp only [State.reap]
  split
  · exact RegsKept.refl b s
  · have gone : Keeps 0x800400000 (s.setFate f false) { (s.setFate f false).uncount f with frames := sdel ((s.setFate f false).uncount f).frames f } :=
      Keeps.frames (State_uncount_keeps (Keeps.refl _ _) rfl) rfl fun hc => srise_sdel hc.frames
    exact (setFate_regsKept hb s f false).trans (.of_keeps gone rfl)

theorem spillGive_regsKept (i n : Nat) : RegsKept b s (s.spillGive i n) :=
  ((rput_regsKept s _ i (by decide) hb.slath).trans (rput_regsKept _ _ i (by decide) hb.slath)).trans
    (.of_keeps (State_setCrl_keeps (Keeps.refl 0x80000000 _) rfl) rfl)

theorem chargeUnit_regsKept (u : Option (Nat × Nat)) (add : Bool) (n : Nat) : RegsKept b s (s.chargeUnit u add n) := by
  have ho : ∀ p c, rowAdr Reg.SLATH_CHARGE (unitIx p c) < 2 ^ 16 := by
    intro p c; simp [rowAdr, Reg.SLATH_CHARGE, unitIx]; omega
  simp only [State.chargeUnit]
  split
  · split
    · exact rput_regsKept s _ _ (ho _ _) hb.slath
    · exact rput_regsKept s _ _ (ho _ _) hb.slath
  · exact RegsKept.refl b s

theorem copyFree_regsKept (f i : Nat) : RegsKept b s (s.copyFree f i) := by
  have gone : RegsKept b s { s.slathDrop f i with copies := sdel (s.slathDrop f i).copies (8 * f + i) } :=
    .of_keeps (Keeps.copies (m := 0x41000000) (State_slathDrop_keeps (Keeps.refl 0x41000000 s) rfl) rfl fun hc => swf_sdel hc.copies) rfl
  refine (gone.trans ?_).trans (reap_regsKept hb _ f)
  split
  · exact ((rput_regsKept _ _ _ (by decide) hb.slath).trans (rput_regsKept _ _ _ (by decide) hb.slath)).trans (chargeUnit_regsKept hb _ _ _ _)
  · split
    · exact spillGive_regsKept hb _ _ _
    · exact RegsKept.refl b _

/-- A reference that ends leaves the registers of every other block. -/
theorem release_regsKept (it : Item) : RegsKept b s (s.release it) := by
  have uncharged : RegsKept b s (s.unchargeItem it) := by
    rw [State.unchargeItem]
    split
    · exact rput_regsKept s _ _ (by simp [rowAdr, Reg.SLATH_PC_BLOCKS]; omega) hb.slath
    · exact rput_regsKept s _ _ (by simp [rowAdr, Reg.SLATH_PC_CELLS]; omega) hb.slath
  have pointer : RegsKept b s ((s.unchargeItem it).radd Reg.SLATH_PTR_FREE 1 it.b) := uncharged.trans (rput_regsKept _ _ _ (by decide) hb.slath)
  refine pointer.trans ?_
  show RegsKept b _ (if _ then _ else _)
  split
  · exact copyFree_regsKept hb _ _ _
  · exact .of_keeps (State_setCopy_keeps (Keeps.refl 0x1000000 _) rfl) rfl

end

/-! ### The scheduler's counters (R289, R301, R306) -/

/-- A pair whose two registers read as before. -/
theorem pget_of_cells {s t : State} {r : Row} {i : Nat} {ix : List Nat} (hl : t.cell (rowKey r i ix) = s.cell (rowKey r i ix))
    (hh : t.cell (rowKey r i ix + 4) = s.cell (rowKey r i ix + 4)) : t.pget r i ix = s.pget r i ix := by
  rw [rowKey_high] at hh
  rw [rowKey] at hl
  simp only [State.pget, hl, hh]

theorem pget_lt (s : State) (r : Row) (i : Nat) (ix : List Nat) : s.pget r i ix < 2 ^ 64 := by
  have hl := (s.cell (regKey r.blk i (rowAdr r ix))).e.isLt
  have hh := (s.cell (regKey r.blk i (rowAdr r ix + 4))).e.isLt
  simp only [State.pget]
  omega

/-- A counter pair counts one, modulo 2^64 (R92). -/
theorem pget_cinc_same {s : State} (hc : s.Canonical) (r : Row) (i : Nat) (ix : List Nat) :
    (s.cinc r i ix).pget r i ix = (s.pget r i ix + 1) % 2 ^ 64 := by
  rw [State.cinc, State.cadd, pget_pput_same hc.regs, Nat.mod_mod]

theorem schedCnt_key (n j : Nat) : rowKey Reg.SCHED_CNT 0 [n, j] = regKey 10 0 (0x5000 + 0x100 * (n % 8) + 8 * (j % 11)) := by
  simp [rowKey, rowAdr, Reg.SCHED_CNT, Nat.add_assoc]

/-- The registers of the scheduler's counters. -/
theorem keyBlk_schedCnt (n j : Nat) : keyBlk (rowKey Reg.SCHED_CNT 0 [n, j]) = 10 ∧ keyBlk (rowKey Reg.SCHED_CNT 0 [n, j] + 4) = 10 := by
  rw [schedCnt_key]; simp only [keyBlk, regKey]; omega

theorem RegsKept.schedCnt {s t : State} (h : RegsKept 10 s t) (hc : s.Canonical) (n j : Nat) : t.pget Reg.SCHED_CNT 0 [n, j] = s.pget Reg.SCHED_CNT 0 [n, j] :=
  pget_of_cells ((h hc).2 _ (keyBlk_schedCnt n j).1) ((h hc).2 _ (keyBlk_schedCnt n j).2)

/-- A cause bit of the scheduler's error register. -/
def isCause (r : Row) : Prop := r.blk = 10 ∧ r.off = 0x50F0 ∧ r.dims = [(0x100, 8)]

/-- A cause that is reported leaves the counters. -/
theorem pget_schedCause {s : State} (hc : s.Canonical) {n : Nat} (hn : n < 8) {r : Row} (hr : isCause r) (m j : Nat) :
    (s.schedCause n r).pget Reg.SCHED_CNT 0 [m, j] = s.pget Reg.SCHED_CNT 0 [m, j] := by
  have cu : (s.rput r 1 0 [n]).Canonical := (State_rput_keeps (Keeps.refl 0x10 s) rfl).canon hc
  obtain ⟨hb, ho, hd⟩ := hr
  have hk : rowKey r 0 [n] = regKey 10 0 (0x50F0 + 0x100 * (n % 8)) := by simp [rowKey, rowAdr, hb, ho, hd]
  have cause : (s.rput r 1 0 [n]).pget Reg.SCHED_CNT 0 [m, j] = s.pget Reg.SCHED_CNT 0 [m, j] := by
    refine pget_of_cells (rput_cell hc.regs _ _ _ _ ?_) (rput_cell hc.regs _ _ _ _ ?_) <;>
      · rw [hk, schedCnt_key]; simp only [regKey]; omega
  rw [State.schedCause, (raise_regsKept _ (by omega) (by decide) (by decide)).schedCnt cu, cause]

/-- A counter that counts one, its cause reported. -/
theorem pget_cinc_schedCause {s : State} (hc : s.Canonical) {n : Nat} (hn : n < 8) (j : Nat) {r : Row} (hr : isCause r) :
    ((s.cinc Reg.SCHED_CNT 0 [n, j]).schedCause n r).pget Reg.SCHED_CNT 0 [n, j] = (s.pget Reg.SCHED_CNT 0 [n, j] + 1) % 2 ^ 64 := by
  rw [pget_schedCause ((State_cinc_keeps (Keeps.refl 0x10 s) rfl).canon hc) hn hr, pget_cinc_same hc]

/-! ### The deadline of a ready slot (R301) -/

theorem pipeOfPort_lt {p : Nat} (hp : p < 152) : pipeOfPort p < 8 := by
  simp only [pipeOfPort]
  split
  · omega
  · split
    · decide
    · decide

theorem px_of_ports {s t : State} (h : t.ports = s.ports) (k : Nat) : t.px k = s.px k := by simp only [State.px, h]

/-- The slot is emptied. -/
def State.slotCleared (s : State) (p c : Nat) : State := s.setPx p { s.px p with ready := sdel (s.px p).ready c }

/-- The frame of an emptied slot is released and counted as late. -/
def State.slotExpired (s : State) (p c : Nat) (it : Item) : State :=
  (((s.slotCleared p c).release it).cinc Reg.SCHED_CNT 0 [pipeOfPort p, 2]).schedCause (pipeOfPort p) Reg.SCHED_DEADLINE

theorem execDeadlineSlot_eq {s : State} {p c t0 : Nat} {it : Item} (hr : sfind (s.px p).ready c = some it) (hl : it.launch = some t0) :
    exec (.deadlineSlot p c) s = .next (if 0 ≤ diff8 s.t8 (s.deadline p t0) then s.slotExpired p c it else s) := by
  show execDeadlineSlot p c s = _
  simp only [execDeadlineSlot, hr, hl, decide_eq_true_eq]
  rfl

theorem slotExpired_effect {s : State} (hc : s.Canonical) {p : Nat} (hp : p < 152) (c : Nat) (it : Item) :
    ((s.slotExpired p c it).px p).ready = sdel (s.px p).ready c ∧
    (s.slotExpired p c it).pget Reg.SCHED_CNT 0 [pipeOfPort p, 2] = (s.pget Reg.SCHED_CNT 0 [pipeOfPort p, 2] + 1) % 2 ^ 64 := by
  have cleared : Keeps 0x100000000 s (s.slotCleared p c) := State_setPx_keeps (Keeps.refl _ s) rfl
  have released : Keeps 0x1818c1480010 (s.slotCleared p c) ((s.slotCleared p c).release it) := State_release_keeps (Keeps.refl _ _) rfl
  have counted : Keeps 0x1818c1480010 (s.slotCleared p c) (s.slotExpired p c it) := State_schedCause_keeps (State_cinc_keeps released rfl) rfl
  have cnt : RegsKept 10 s ((s.slotCleared p c).release it) :=
    (RegsKept.of_keeps cleared rfl).trans (release_regsKept ⟨by decide, by decide, by decide, by decide⟩ _ it)
  constructor
  · rw [px_of_ports (counted.same .ports (by decide)), State.slotCleared, px_setPx_same hc]
  · rw [State.slotExpired, pget_cinc_schedCause (released.canon (cleared.canon hc)) (pipeOfPort_lt hp) 2 ⟨rfl, rfl, rfl⟩, cnt.schedCnt hc]

/-! ### Shaped objects (R282, R288) -/

/-- The object that was set. -/
theorem obj_setObj_same {s : State} (h : s.Canonical) (k : Nat) (x : Obj) : (s.setObj k x).obj k = x := sget_sset_same h.objs k x

/-- The other objects. -/
theorem obj_setObj_ne {s : State} (h : s.Canonical) {k l : Nat} (x : Obj) (hl : l ≠ k) : (s.setObj k x).obj l = s.obj l :=
  sget_sset_ne h.objs x hl

theorem obj_of_objs {s t : State} (h : t.objs = s.objs) (k : Nat) : t.obj k = s.obj k := by simp only [State.obj, h]

theorem pget_setObj (s : State) (k : Nat) (x : Obj) (r : Row) (i : Nat) (ix : List Nat) : (s.setObj k x).pget r i ix = s.pget r i ix := rfl

theorem enter_parent (x : Obj) (now : Nat) : (x.enter now).parent = x.parent := by
  simp only [Obj.enter]
  split
  · split <;> rfl
  · rfl

theorem debit_parent (x : Obj) (committed : Bool) (n : Nat) : (x.debit committed n).parent = x.parent := by
  simp only [Obj.debit]; split <;> rfl

theorem short_of_mer {s t : State} (h : t.mer = s.mer) : t.short = s.short := by simp only [State.short, State.ns, h]

/-! ### A visit of the Graticule (R289, R291) -/

theorem onlyObj_setObj {s u : State} (hu : u.Canonical) (ho : u.objs = s.objs) (h : OnlyChanges [.regs, .vecs, .objs] s u) (k : Nat) (x : Obj) :
    (u.setObj k x).obj k = x ∧ (∀ l, l ≠ k → (u.setObj k x).obj l = s.obj l) ∧ OnlyChanges [.regs, .vecs, .objs] s (u.setObj k x) := by
  have k1 : Keeps 0x8000000 u (u.setObj k x) := State_setObj_keeps (Keeps.refl _ u) rfl
  exact ⟨obj_setObj_same hu k x, fun l hl => (obj_setObj_ne hu x hl).trans (obj_of_objs ho l),
    fun f hf => same_trans (h f hf) (k1.only (fs := [.regs, .vecs, .objs]) rfl f hf)⟩

/-- Nothing to install and no entry: the visit does nothing. -/
theorem execGraticuleVisit_idle {s : State} {k : Nat} (hs : (s.obj k).set = none) (hw : (s.obj k).wheel = none) :
    exec (.graticuleVisit k) s = .next s := by
  show execGraticuleVisit k s = _
  simp only [execGraticuleVisit, hs, hw]

/-- An object whose slot can be served: it is one, it is not frozen, and its pipe is on (R292). -/
structure Visited (s : State) (k : Nat) : Prop where
  key : k < 2 ^ 20
  thawed : s.frozen k = false
  on : s.domOn (8 + s.pipeOfObj k) = true

theorem Visited.goes {s : State} {k : Nat} (h : Visited s k) : (decide (2 ^ 20 ≤ k) || s.frozen k || !s.domOn (8 + s.pipeOfObj k)) = false := by
  simp only [h.thawed, h.on, decide_eq_false (Nat.not_le.2 h.key), Bool.or_false, Bool.not_true]

/-- The values of an SHSET are installed. -/
theorem execGraticuleVisit_install {s : State} {k : Nat} (h : Visited s k) {v : ShSet} (hs : (s.obj k).set = some v) :
    exec (.graticuleVisit k) s = .next (s.setObj k ((((s.obj k).refresh s.short).install v k).enter s.short)) := by
  show execGraticuleVisit k s = _
  simp only [execGraticuleVisit, hs, h.goes, Bool.false_eq_true, if_false]

/-- The first instant of the slot that holds an entry (R289). -/
def slotStart (t0 : Nat) (coarse : Bool) : Nat :=
  let w := if coarse then 20480 else 5
  if coarse then t0 / w * w else ceilDiv t0 w * w

/-- The slot of an entry has passed (R289). -/
def State.visitLate (s : State) (t0 : Nat) (coarse : Bool) : Bool := s.reached ((slotStart t0 coarse + if coarse then 20480 else 5) % 2 ^ 48)

/-- A visit is counted where it is late. -/
def State.visitCounted (s : State) (n t0 : Nat) (coarse : Bool) : State :=
  if s.visitLate t0 coarse then (s.cinc Reg.SCHED_CNT 0 [n, 4]).schedCause n Reg.SCHED_GRAT_LATE else s

/-- The slot of the entry has not come. -/
theorem execGraticuleVisit_early {s : State} {k t0 : Nat} {coarse : Bool} (hs : (s.obj k).set = none)
    (hw : (s.obj k).wheel = some (t0, coarse)) (hr : s.reached (slotStart t0 coarse % 2 ^ 48) = false) :
    exec (.graticuleVisit k) s = .next s := by
  show execGraticuleVisit k s = _
  simp only [slotStart] at hr
  simp only [execGraticuleVisit, hs, hw, hr, Bool.not_false, Bool.or_true, if_true]

/-- The slot of the entry has come: a coarse entry moves to the fine ring, the object of a fine one is refreshed. -/
theorem execGraticuleVisit_due {s : State} {k t0 : Nat} {coarse : Bool} (h : Visited s k) (hs : (s.obj k).set = none)
    (hw : (s.obj k).wheel = some (t0, coarse)) (hr : s.reached (slotStart t0 coarse % 2 ^ 48) = true) :
    exec (.graticuleVisit k) s = .next ((s.visitCounted (s.pipeOfObj k) t0 coarse).setObj k
      (if coarse then { s.obj k with wheel := some (t0, false) } else ((s.obj k).refresh s.short).enter s.short)) := by
  show execGraticuleVisit k s = _
  simp only [slotStart] at hr
  simp only [execGraticuleVisit, hs, hw, h.goes, hr, Bool.not_true, Bool.false_or, Bool.false_eq_true, if_false, State.visitCounted, State.visitLate, slotStart]
  cases coarse <;> simp only [Bool.false_eq_true, if_true, if_false]

theorem visitCounted_effect {s : State} (hc : s.Canonical) {n : Nat} (hn : n < 8) (t0 : Nat) (coarse : Bool) :
    Keeps 0x80010 s (s.visitCounted n t0 coarse) ∧ (s.visitCounted n t0 coarse).pget Reg.SCHED_CNT 0 [n, 4] =
      (s.pget Reg.SCHED_CNT 0 [n, 4] + if s.visitLate t0 coarse then 1 else 0) % 2 ^ 64 := by
  simp only [State.visitCounted]
  cases s.visitLate t0 coarse with
  | false => exact ⟨Keeps.refl _ s, (Nat.mod_eq_of_lt (pget_lt s _ _ _)).symm⟩
  | true => exact ⟨State_schedCause_keeps (State_cinc_keeps (Keeps.refl _ s) rfl) rfl, pget_cinc_schedCause hc hn 4 ⟨rfl, rfl, rfl⟩⟩


/-! ### One object of the hierarchy changes (R282) -/

/-- Between s and t only the object k changed among the objects, and it kept its parent. -/
structure OnObj (k : Nat) (s t : State) : Prop where
  keeps : Keeps 0x18000000 s t
  others : ∀ l, l ≠ k → t.obj l = s.obj l
  parent : (t.obj k).parent = (s.obj k).parent

theorem OnObj.refl (k : Nat) (s : State) : OnObj k s s := ⟨Keeps.refl _ s, fun _ _ => rfl, rfl⟩

theorem setObj_onObj {s : State} (hc : s.Canonical) {k : Nat} {x : Obj} (hx : x.parent = (s.obj k).parent) : OnObj k s (s.setObj k x) :=
  ⟨State_setObj_keeps (Keeps.refl _ s) rfl, fun _ hl => obj_setObj_ne hc x hl, by rw [obj_setObj_same hc, hx]⟩

theorem OnObj.parents {k : Nat} {s t : State} (h : OnObj k s t) (l : Nat) : (t.obj l).parent = (s.obj l).parent := by
  by_cases e : l = k
  · rw [e]; exact h.parent
  · rw [h.others l e]

/-- Between s and t the ports' objects stayed, and no object was moved. -/
structure BelowPorts (s t : State) : Prop where
  keeps : Keeps 0x18000000 s t
  ports : ∀ k, 2 ^ 19 ≤ k → t.obj k = s.obj k
  parents : ∀ k, (t.obj k).parent = (s.obj k).parent

theorem BelowPorts.refl (s : State) : BelowPorts s s := ⟨Keeps.refl _ s, fun _ _ => rfl, fun _ => rfl⟩

theorem BelowPorts.trans {s t u : State} (h : BelowPorts s t) (g : BelowPorts t u) : BelowPorts s u :=
  ⟨h.keeps.trans g.keeps, fun k hk => (g.ports k hk).trans (h.ports k hk), fun k => (g.parents k).trans (h.parents k)⟩

theorem OnObj.below {k : Nat} {s t : State} (h : OnObj k s t) (hk : k < 2 ^ 19) : BelowPorts s t :=
  ⟨h.keeps, fun l hl => h.others l (by omega), h.parents⟩

theorem l2Key_lt {j : Nat} (h : j < 8192) : l2Key j < 2 ^ 19 := by simp only [l2Key]; omega
theorem l1Key_lt {i : Nat} (h : i < 1024) : l1Key i < 2 ^ 19 := by simp only [l1Key]; omega

/-! ### The choice of a lone child (R285, R286) -/

theorem fromKey_single (k p : Nat) : fromKey [k] p = [k] := by
  by_cases h : p ≤ k
  · simp [fromKey, h]
  · simp [fromKey, h, Nat.lt_of_not_le h]

theorem mem_fromKey {l : List Nat} {k : Nat} (h : k ∈ l) (p : Nat) : k ∈ fromKey l p := by
  rcases Nat.lt_or_ge k p with g | g <;> simp [fromKey, h, g]

theorem mem_of_fromKey {l : List Nat} {k p : Nat} (h : k ∈ fromKey l p) : k ∈ l := by
  simp only [fromKey, List.mem_append, List.mem_filter] at h
  exact h.elim And.left And.left

/-- The quanta that a debt needs lift it above 0. -/
theorem quanta_pay (d : Int) {q : Nat} (hq : 0 < q) : 0 < d + (((-d).toNat / q + 1) * q : Nat) := by
  have := Nat.lt_mul_div_succ (-d).toNat hq
  rw [Nat.mul_comm] at this
  omega

/-- A lone child is chosen, whatever its deficit. -/
theorem dwrr_single {s : State} (hc : s.Canonical) (x band k : Nat) : ∃ t, s.dwrr x band [k] = (t, some k) ∧ OnObj k s t := by
  by_cases h : 0 < (s.obj k).deficit
  · exact ⟨s, by simp [State.dwrr, h, fromKey_single], OnObj.refl k s⟩
  · have pay := quanta_pay (s.obj k).deficit (q := 64 * max 1 (s.obj k).weight) (by omega)
    refine ⟨_, ?_, setObj_onObj hc (k := k) (x := { s.obj k with deficit := (s.obj k).deficit +
      (((-(s.obj k).deficit).toNat / (64 * max 1 (s.obj k).weight) + 1) * (64 * max 1 (s.obj k).weight) : Nat) }) rfl⟩
    simp [State.dwrr, h, fromKey_single, obj_setObj_same hc]
    simpa using pay

/-- A lone child that some rate permits is chosen (R285). -/
theorem pick_single {s : State} (hc : s.Canonical) (x : Nat) {k : Nat} (hok : (s.obj k).okAny = true) (hb : (s.obj k).band < 8) :
    ∃ t r, s.pick x [k] = (t, some (k, r)) ∧ OnObj k s t := by
  obtain ⟨r, hr, hk⟩ : ∃ r, [true, false].find? (fun r => [k].any (fun k => (s.obj k).okRate r)) = some r ∧ (s.obj k).okRate r = true := by
    simp only [Obj.okAny, Bool.or_eq_true] at hok
    cases ht : (s.obj k).okRate true with
    | true => exact ⟨true, by simp [ht], ht⟩
    | false => exact ⟨false, by simpa [ht] using hok, by simpa [ht] using hok⟩
  have band : ∀ b, b < 8 → [7, 6, 5, 4, 3, 2, 1, 0].find? (fun a => b == a) = some b := by decide
  obtain ⟨t, ht, ho⟩ := dwrr_single hc x (s.obj k).band k
  refine ⟨t, r, ?_, ho⟩
  simp only [State.pick, hr]
  simp [hk, band _ hb, ht]

/-- A queue that is the lone candidate of its port and class, below the nodes j and i: every object may be chosen. -/
structure LonePath (s : State) (p c q j i : Nat) : Prop where
  lone : s.candidates p c = [q]
  node2 : j = l2Key (s.obj q).parent
  node1 : i = l1Key (s.obj j).parent
  queueLt : q < 65536
  lt2 : (s.obj q).parent < 8192
  lt1 : (s.obj j).parent < 1024
  queueBand : (s.obj q).band < 8
  band2 : (s.obj j).band < 8
  band1 : (s.obj i).band < 8
  queueOk : (s.obj q).okAny = true
  ok2 : (s.obj j).okAny = true
  ok1 : (s.obj i).okAny = true

theorem LonePath.keys {s : State} {p c q j i : Nat} (h : LonePath s p c q j i) : q < 2 ^ 17 ∧ 2 ^ 17 ≤ j ∧ j < 2 ^ 18 ∧ 2 ^ 18 ≤ i ∧ i < 2 ^ 19 := by
  have hq := h.queueLt; have h2 := h.lt2; have h1 := h.lt1; have e2 := h.node2; have e1 := h.node1
  simp only [l1Key, l2Key] at e1 e2
  omega

/-- The path of a lone candidate is chosen. -/
theorem choosePath_lone {s : State} (hc : s.Canonical) {p c q j i : Nat} (h : LonePath s p c q j i) : ∃ t ri rj rq,
    s.choosePath p c = (t, some [(portKey p, i, ri), (i, j, rj), (j, q, rq)]) ∧ BelowPorts s t := by
  obtain ⟨hq, hj, hj', hi, hi'⟩ := h.keys
  obtain ⟨a, ri, ea, oa⟩ := pick_single hc (portKey p) h.ok1 h.band1
  have aj := oa.others j (by omega)
  obtain ⟨b, rj, eb, ob⟩ := pick_single (oa.keeps.canon hc) i (k := j) (aj ▸ h.ok2) (aj ▸ h.band2)
  have bq := (ob.others q (by omega)).trans (oa.others q (by omega))
  obtain ⟨d, rq, ed, od⟩ := pick_single (ob.keeps.canon (oa.keeps.canon hc)) j (k := q) (bq ▸ h.queueOk) (bq ▸ h.queueBand)
  refine ⟨d, ri, rj, rq, ?_, ((oa.below hi').trans (ob.below (by omega))).trans (od.below (by omega))⟩
  simp [State.choosePath, h.lone, h.queueOk, ← h.node2, h.ok2, ← h.node1, risingSet, sins, ea, eb, ed]

/-- Without a candidate no path is chosen. -/
theorem choosePath_none {s : State} {p c : Nat} (h : s.candidates p c = []) : s.choosePath p c = (s, none) := by
  simp [State.choosePath, h, risingSet, State.pick]

/-! ### Charging (R287) -/

theorem chargeStep_onObj {s : State} (hc : s.Canonical) (n : Nat) (e : Nat × Nat × Bool) : OnObj e.2.1 s (s.chargeStep n e) :=
  ⟨State_chargeStep_keeps (Keeps.refl _ s) rfl, fun _ hl => obj_setObj_ne hc _ hl, by
    show ((s.setObj e.2.1 _).obj e.2.1).parent = _
    rw [obj_setObj_same hc, enter_parent]; exact debit_parent _ _ _⟩

theorem foldl_chargeStep_below {s : State} (hc : s.Canonical) (n : Nat) {path : List (Nat × Nat × Bool)} (h : ∀ e ∈ path, e.2.1 < 2 ^ 19) :
    BelowPorts s (path.foldl (fun t e => t.chargeStep n e) s) := by
  induction path generalizing s with
  | nil => exact BelowPorts.refl s
  | cons e r ih =>
    have one := (chargeStep_onObj hc n e).below (h e List.mem_cons_self)
    exact one.trans (ih (one.keeps.canon hc) fun x hx => h x (List.mem_cons_of_mem _ hx))

/-- A port's object after a frame of n bytes: committed credit pays where there is some. -/
def Obj.portCharged (x : Obj) (now n : Nat) : Obj :=
  (((x.refresh now).debit (decide (0 ≤ (x.refresh now).cirC) && decide (0 < (x.refresh now).cir)) n)).enter now

/-- A path is charged: the port pays at its top, and no object is moved. -/
theorem chargePath_effect {s : State} (hc : s.Canonical) (p n : Nat) {path : List (Nat × Nat × Bool)} (h : ∀ e ∈ path, e.2.1 < 2 ^ 19) :
    Keeps 0x18000000 s (s.chargePath p n path) ∧ (s.chargePath p n path).obj (portKey p) = (s.obj (portKey p)).portCharged s.short n ∧
    ∀ k, ((s.chargePath p n path).obj k).parent = (s.obj k).parent := by
  have below := foldl_chargeStep_below hc n h
  have hk : 2 ^ 19 ≤ portKey p := by simp only [portKey]; omega
  have keeps : Keeps 0x18000000 s (s.chargePath p n path) := State_chargePath_keeps (Keeps.refl _ s) rfl
  simp only [State.chargePath] at keeps ⊢
  generalize path.foldl (fun t e => t.chargeStep n e) s = u at below keeps ⊢
  have top : u.obj (portKey p) = s.obj (portKey p) := below.ports _ hk
  have now : u.short = s.short := short_of_mer (below.keeps.same .mer (by decide))
  have cu := below.keeps.canon hc
  have charged : OnObj (portKey p) u (u.setObj (portKey p) ((u.obj (portKey p)).portCharged u.short n)) :=
    setObj_onObj cu (by rw [Obj.portCharged, enter_parent, debit_parent]; rfl)
  refine ⟨keeps, ?_, fun k => ?_⟩
  · rw [obj_setObj_same cu, top, now]; rfl
  · exact (charged.parents k).trans (below.parents k)

/-! ### The head leaves its queue (R285, R286, R290) -/

/-- An idle object leaves the Graticule, and its deficit is 0. -/
def State.objIdle (s : State) (k : Nat) : State := s.setObj k { s.obj k with deficit := 0, wheel := none }

theorem objIdle_onObj {s : State} (hc : s.Canonical) (k : Nat) : OnObj k s (s.objIdle k) := setObj_onObj hc rfl

theorem objIdle_unless_below {s : State} (hc : s.Canonical) (busy : Bool) {k : Nat} (hk : k < 2 ^ 19) :
    BelowPorts s (if busy then s else s.objIdle k) := by
  split
  · exact BelowPorts.refl s
  · exact (objIdle_onObj hc k).below hk

/-- The two nodes above a queue go idle, each unless another queue below it is busy (R281). -/
theorem nodesIdle_eq (s : State) (q : Nat) : s.nodesIdle q = if isFixed q then s else
    let u := if s.busyL2.contains (s.obj q).parent then s else s.objIdle (l2Key (s.obj q).parent)
    if s.busyL2.any (fun b => (s.obj (l2Key b)).parent == (s.obj (l2Key (s.obj q).parent)).parent) then u
    else u.objIdle (l1Key (s.obj (l2Key (s.obj q).parent)).parent) := rfl

theorem nodesIdle_below {s : State} (hc : s.Canonical) {q : Nat} (h2 : (s.obj q).parent < 8192) (h1 : (s.obj (l2Key (s.obj q).parent)).parent < 1024) :
    BelowPorts s (s.nodesIdle q) := by
  rw [nodesIdle_eq]
  split
  · exact BelowPorts.refl s
  · have lower := objIdle_unless_below hc (s.busyL2.contains (s.obj q).parent) (l2Key_lt h2)
    exact lower.trans (objIdle_unless_below (lower.keeps.canon hc) _ (l1Key_lt h1))

theorem noteEmpty_below {s : State} (hc : s.Canonical) {q : Nat} (hq : q < 2 ^ 19) (h2 : (s.obj q).parent < 8192)
    (h1 : (s.obj (l2Key (s.obj q).parent)).parent < 1024) : BelowPorts s (s.noteEmpty q) := by
  simp only [State.noteEmpty]
  split
  · have own := (objIdle_onObj hc q).below hq
    exact own.trans (nodesIdle_below (own.keeps.canon hc) (by rw [own.parents]; exact h2) (by rw [own.parents, own.parents]; exact h1))
  · exact BelowPorts.refl s

theorem q_of_queues {s t : State} (h : t.queues = s.queues) (k : Nat) : t.q k = s.q k := by simp only [State.q, h]

/-- The head leaves its queue: the other queues and the ports' objects stay. -/
theorem takeHead_effect {s : State} (hc : s.Canonical) {q : Nat} (hq : q < 2 ^ 19) (h2 : (s.obj q).parent < 8192)
    (h1 : (s.obj (l2Key (s.obj q).parent)).parent < 1024) :
    ((s.takeHead q).q q).oc = (s.q q).oc.tail ∧ (∀ u, u ≠ q → (s.takeHead q).q u = s.q u) ∧ ∀ k, 2 ^ 19 ≤ k → (s.takeHead q).obj k = s.obj k := by
  have taken (x : Queue) : (s.setQ q x).Canonical := (State_setQ_keeps (Keeps.refl 0x2000000 s) rfl).canon hc
  have below (x : Queue) : BelowPorts (s.setQ q x) ((s.setQ q x).noteEmpty q) := noteEmpty_below (taken x) hq h2 h1
  have queues (x : Queue) (u : Nat) : ((s.setQ q x).noteEmpty q).q u = (s.setQ q x).q u := q_of_queues ((below x).keeps.same .queues (by decide)) u
  refine ⟨?_, fun u hu => ?_, fun k hk => (below _).ports k hk⟩
  · rw [State.takeHead, queues, q_setQ_same hc]
  · rw [State.takeHead, queues, q_setQ_ne hc _ hu]

/-! ### A selection (R285) -/

/-- A frame is selected by a path chosen in u: the path is charged, the head leaves its queue for the ready slot, and is counted. -/
def State.selected (u : State) (p c q len : Nat) (it : Item) (path : List (Nat × Nat × Bool)) : State :=
  let v := (u.chargePath p (len + u.rget Reg.SCHED_SHAPER_OVH p) path).takeHead q
  (v.setPx p { v.px p with ready := sins (v.px p).ready c it }).cinc Reg.SCHED_CNT 0 [pipeOfPort p, 0]

/-- The head of a queue can go at once: no launch time, neither too long for its gate nor bad, and it fits. -/
structure GoodHead (s : State) (p c q : Nat) (it : Item) (r : List Item) : Prop where
  head : (s.q q).oc = it :: r
  unscheduled : it.launch = none
  short : s.gateOversize p c (s.schedLen it.f) = false
  good : (s.copy it.f it.b).bad = false
  fits : s.fits p c s.projected (s.schedLen it.f) = true

theorem selectAt_lone {s : State} {p c q j i : Nat} {it : Item} {r : List Item} (h : GoodHead s p c q it r) {u : State} {ri rj rq : Bool}
    (hp : s.choosePath p c = (u, some [(portKey p, i, ri), (i, j, rj), (j, q, rq)])) :
    s.selectAt p c = some (u.selected p c q (s.schedLen it.f) it [(portKey p, i, ri), (i, j, rj), (j, q, rq)]) := by
  simp only [State.selectAt, hp, h.head, h.unscheduled, h.short, h.good, h.fits, Bool.not_true, Bool.false_eq_true, if_false, State.selected]

theorem selectAt_none {s : State} {p c : Nat} (h : s.candidates p c = []) : s.selectAt p c = none := by
  simp only [State.selectAt, choosePath_none h]

/-- What a selection does to the state s, its path chosen in u. -/
theorem selected_effect {s u : State} (hc : s.Canonical) (h : BelowPorts s u) {p c q j i len : Nat} {it : Item} (lp : LonePath s p c q j i) {ri rj rq : Bool} :
    let t := u.selected p c q len it [(portKey p, i, ri), (i, j, rj), (j, q, rq)]
    Keeps 0x11a000010 s t ∧ (t.q q).oc = (s.q q).oc.tail ∧ (∀ k, k ≠ q → t.q k = s.q k) ∧
    (t.px p).ready = sins (s.px p).ready c it ∧ (∀ k, k ≠ p → t.px k = s.px k) ∧
    t.pget Reg.SCHED_CNT 0 [pipeOfPort p, 0] = (s.pget Reg.SCHED_CNT 0 [pipeOfPort p, 0] + 1) % 2 ^ 64 ∧
    t.obj (portKey p) = (s.obj (portKey p)).portCharged s.short (len + s.rget Reg.SCHED_SHAPER_OVH p) := by
  obtain ⟨hq, hj, hj', hi, hi'⟩ := lp.keys
  have cu := h.keeps.canon hc
  have ur : u.rget Reg.SCHED_SHAPER_OVH p = s.rget Reg.SCHED_SHAPER_OVH p := rget_of_regs (h.keeps.same .regs (by decide)) _ _ _
  simp only [State.selected, ur]
  obtain ⟨kc, top, parents⟩ := chargePath_effect cu p (len + s.rget Reg.SCHED_SHAPER_OVH p) (path := [(portKey p, i, ri), (i, j, rj), (j, q, rq)])
    (by simp; omega)
  generalize u.chargePath p _ _ = v at kc top parents ⊢
  have kv : Keeps 0x18000000 s v := h.keeps.trans kc
  have pv (k : Nat) : (v.obj k).parent = (s.obj k).parent := (parents k).trans (h.parents k)
  obtain ⟨oc, others, objs⟩ := takeHead_effect (kv.canon hc) (q := q) (by omega) (by rw [pv]; exact lp.lt2)
    (by rw [pv, pv, ← lp.node2]; exact lp.lt1)
  have kw : Keeps 0x1a000000 s (v.takeHead q) := State_takeHead_keeps (kv.mono rfl) rfl
  generalize v.takeHead q = w at oc others objs kw ⊢
  have cw := kw.canon hc
  have vq (k : Nat) : v.q k = s.q k := q_of_queues (kv.same .queues (by decide)) k
  have wp (k : Nat) : w.px k = s.px k := px_of_ports (kw.same .ports (by decide)) k
  have slot : Keeps 0x11a000000 s (w.setPx p { w.px p with ready := sins (w.px p).ready c it }) := State_setPx_keeps (kw.mono rfl) rfl
  refine ⟨State_cinc_keeps (slot.mono rfl) rfl, ?_, fun k hk => ?_, ?_, fun k hk => ?_, ?_, ?_⟩
  · exact oc.trans (by rw [vq])
  · exact (others k hk).trans (vq k)
  · show ((w.setPx p _).px p).ready = _
    rw [px_setPx_same cw, wp]
  · show (w.setPx p _).px k = _
    rw [px_setPx_ne cw _ hk, wp]
  · rw [pget_cinc_same (slot.canon hc), (RegsKept.of_keeps slot rfl).schedCnt hc]
  · have up : u.obj (portKey p) = s.obj (portKey p) := h.ports _ (by simp only [portKey]; omega)
    have us : u.short = s.short := short_of_mer (h.keeps.same .mer (by decide))
    exact (objs (portKey p) (by simp only [portKey]; omega)).trans (by rw [top, up, us])

/-! ### A round of the scheduler (R285) -/

/-- The one element that yields something is what a search yields. -/
theorem findSome_unique {α β : Type} {l : List α} {f : α → Option β} {a : α} {b : β} (ha : a ∈ l) (hb : f a = some b)
    (h : ∀ x ∈ l, x ≠ a → f x = none) : l.findSome? f = some b := by
  cases e : l.findSome? f with
  | none => rw [List.findSome?_eq_none_iff.1 e a ha] at hb; cases hb
  | some y =>
    obtain ⟨x, hx, hy⟩ := List.exists_of_findSome?_eq_some e
    by_cases g : x = a
    · rw [← hy, g, hb]
    · rw [h x hx g] at hy; cases hy

theorem mem_classes {c : Nat} : c ∈ [7, 6, 5, 4, 3, 2, 1, 0] ↔ c < 8 := by simp; omega

/-- A port without a candidate selects nothing. -/
theorem selectPort_none {s : State} {p : Nat} (h : ∀ c, c < 8 → s.candidates p c = []) : s.selectPort p = none := by
  have each : [7, 6, 5, 4, 3, 2, 1, 0].findSome? (fun c => if (sfind (s.px p).ready c).isSome then none else s.selectAt p c) = none :=
    List.findSome?_eq_none_iff.2 fun c hc => by
      split
      · rfl
      · exact selectAt_none (h c (mem_classes.1 hc))
  simp only [State.selectPort, each, ite_self]

/-- A port that is open and may send, with candidates of one class, selects there. -/
theorem selectPort_one {s t : State} {p c : Nat} (hc : c < 8) (hopen : p < 128 → s.rget Reg.QUEUE_HOLD_STATE 0 [p] = 2)
    (hok : (s.obj (portKey p)).okAny = true) (hr : sfind (s.px p).ready c = none) (ht : s.selectAt p c = some t)
    (h : ∀ c', c' < 8 → c' ≠ c → s.candidates p c' = []) : s.selectPort p = some t := by
  have isOpen : (if p < 128 then s.rget Reg.QUEUE_HOLD_STATE 0 [p] == 2 else true) = true := by
    split
    · next hp => rw [hopen hp]; rfl
    · rfl
  simp only [State.selectPort, isOpen, hok, Bool.and_self, if_true]
  refine findSome_unique (mem_classes.2 hc) (by rw [hr]; exact ht) fun x hx hne => ?_
  split
  · rfl
  · exact selectAt_none (h x (mem_classes.1 hx) hne)

/-- A pipe without a candidate stays as it is. -/
theorem execSchedSelect_none {s : State} {n : Nat} (h : ∀ p ∈ portsOfPipe n, s.selectPort p = none) : exec (.schedSelect n) s = .next s := by
  show execSchedSelect n s = _
  have each : (fromKey (portsOfPipe n) (s.pipe n).rr).findSome? (fun p => (s.selectPort p).map (fun t => (t, p))) = none :=
    List.findSome?_eq_none_iff.2 fun p hp => by rw [h p (mem_of_fromKey hp)]; rfl
  simp only [execSchedSelect, each, ite_self]

/-- The one port of a pipe that can select does, and the next round begins behind it. -/
theorem execSchedSelect_one {s t : State} {n p : Nat} (hn : n < 8) (hd : s.domOn (8 + n) = true) (hd' : s.domOn (16 + n) = true)
    (hp : p ∈ portsOfPipe n) (ht : s.selectPort p = some t) (h : ∀ p' ∈ portsOfPipe n, p' ≠ p → s.selectPort p' = none) :
    exec (.schedSelect n) s = .next (t.setPipe n { t.pipe n with rr := p + 1 }) := by
  show execSchedSelect n s = _
  have one : (fromKey (portsOfPipe n) (s.pipe n).rr).findSome? (fun p => (s.selectPort p).map (fun t => (t, p))) = some (t, p) :=
    findSome_unique (mem_fromKey hp _) (by rw [ht]; rfl) fun x hx hne => by rw [h x (mem_of_fromKey hx) hne]; rfl
  simp only [execSchedSelect, one, hd, hd', decide_eq_false (Nat.not_le.2 hn), Bool.not_true, Bool.or_false, Bool.false_eq_true, if_false]

/-- The pipe of a port that it serves. -/
theorem pipeOfPort_of_mem {n p : Nat} (hn : n < 8) (hp : p ∈ portsOfPipe n) : pipeOfPort p = n := by
  have all : ∀ m, m < 8 → ∀ x ∈ portsOfPipe m, pipeOfPort x = m := by decide
  exact all n hn p hp

/-- Settles O38: a lone candidate is chosen at each level (`choosePath_lone`), so its port alone selects, and `selected_effect` says what that
does; the visits of the Graticule and the deadline are the branches of their commands. -/
theorem scheduling : Obligations.Scheduling := by
  unfold Obligations.Scheduling
  intro s hc
  refine ⟨fun n _ h => execSchedSelect_none fun p hp => selectPort_none (h p hp), ?_, ?_, ?_⟩
  case refine_1 =>
    intro n p c q it r hn hd hd' hp hcl lone others hq j i len top h2 h1 bq bj bi oq oj oi op hold slot head launch notLong good fits
    have path : LonePath s p c q j i := ⟨lone, rfl, rfl, hq, h2, h1, bq, bj, bi, oq, oj, oi⟩
    obtain ⟨u, ri, rj, rq, chosen, below⟩ := choosePath_lone hc path
    have sel := selectPort_one hcl hold op slot (selectAt_lone ⟨head, launch, notLong, good, fits⟩ chosen)
      fun c' hc' hne => others p hp c' hc' (.inr hne)
    obtain ⟨keeps, oc, queues, ready, ports, cnt, debit⟩ := selected_effect hc below (len := len) (it := it) path (ri := ri) (rj := rj) (rq := rq)
    generalize State.selected u p c q _ it _ = t at *
    have kt : Keeps 0x111a000010 s (t.setPipe n { t.pipe n with rr := p + 1 }) := State_setPipe_keeps (keeps.mono rfl) rfl
    rw [pipeOfPort_of_mem hn hp] at cnt
    exact ⟨_, execSchedSelect_one hn hd hd' hp sel fun p' hp' hne => selectPort_none fun c' hc' => others p' hp' c' hc' (.inl hne),
      by rw [head] at oc; exact oc, ready, cnt, debit, queues, ports, kt.only rfl⟩
  case refine_2 =>
    intro k x n only
    refine ⟨execGraticuleVisit_idle, fun hk hn thawed on => ?_⟩
    have visited : Visited s k := ⟨hk, thawed, on⟩
    constructor
    · intro v hv
      obtain ⟨own, rest, frame⟩ := onlyObj_setObj hc rfl (Keeps.refl 0x80010 s |>.only rfl) k (((x.refresh s.short).install v k).enter s.short)
      exact ⟨_, execGraticuleVisit_install visited hv, own, rfl, rest, frame⟩
    · intro t0 coarse hs hw w start late
      refine ⟨fun hr => execGraticuleVisit_early hs hw hr, fun hr => ?_⟩
      obtain ⟨keeps, cnt⟩ := visitCounted_effect hc hn t0 coarse
      obtain ⟨own, rest, frame⟩ := onlyObj_setObj (keeps.canon hc) (keeps.same .objs (by decide)) (keeps.only rfl) k
        (if coarse then { x with wheel := some (t0, false) } else (x.refresh s.short).enter s.short)
      exact ⟨_, execGraticuleVisit_due visited hs hw hr, ⟨rest, frame⟩, own, (pget_setObj _ _ _ _ _ _).trans cnt⟩
  case refine_3 =>
    intro p c it t0 hp hr hl
    refine ⟨fun h => ⟨_, (execDeadlineSlot_eq hr hl).trans (by rw [if_pos h]), slotExpired_effect hc hp c it⟩, fun h => ?_⟩
    rw [execDeadlineSlot_eq hr hl, if_neg (Int.not_le.2 h)]

end Sys2Proof.Machine

/-! Combining (R321), and O25.

The 24 values of a PRB stand at consecutive keys, so adding them is a run of single additions, each at a key of its own: what a run makes of a key
is read off by recursion on the values. A run that clips nothing adds to every key a share that does not depend on the accumulators, so that
sections that clip nothing commute as sums do. -/

namespace Sys2Proof.Machine

open Sys2Proof Sys2Proof.Laws

/-! ### A value: weighted, rounded, clamped -/

/-- A value times the gain, rounded to units (R321). -/
def weighted (g v : Int) : Int := (v * g + 0x4000) / 32768

/-- The clamp of an accumulator to 24 bits (R321). -/
def clamp24 (v : Int) : Int := max (-8388608) (min v 8388607)

theorem weighted_zero (g : Int) : weighted g 0 = 0 := by rw [weighted, Int.zero_mul]; rfl

theorem clampInt_eq_clamp24 (v : Int) : clampInt (-(8388608 : Int)) 8388607 v = clamp24 v := by
  simp only [clampInt, clamp24]
  split
  · omega
  · split <;> omega

/-- What accumulator k becomes when `v` is added at it. -/
def clampedSum (g : Int) (acc : Sparse Int) (k : Nat) (v : Int) : Int := clamp24 (sget (fun _ => 0) acc k + weighted g v)

/-- The value leaves accumulator k within 24 bits. -/
def SumFits (g : Int) (acc : Sparse Int) (k : Nat) (v : Int) : Prop :=
  clampedSum g acc k v = sget (fun _ => 0) acc k + weighted g v

/-! ### A run of values at consecutive accumulators -/

/-- Adds one value at accumulator k. -/
def addValue (g : Int) (k : Nat) (v : Int) (a : Sparse Int × Nat) : Sparse Int × Nat :=
  (sset (fun _ => 0) a.1 k (clampedSum g a.1 k v),
    if clampedSum g a.1 k v == sget (fun _ => 0) a.1 k + weighted g v then a.2 else a.2 + 1)

/-- Adds the values at the accumulators from b on. -/
def addRun (g : Int) : Nat → List Int → Sparse Int × Nat → Sparse Int × Nat
  | _, [], a => a
  | b, v :: vs, a => addRun g (b + 1) vs (addValue g b v a)

theorem addRun_eq_foldl (g : Int) (p : Nat) (vs : List Int) (i : Nat) (a : Sparse Int × Nat) :
    addRun g (p + i) vs a = (vs.zip (List.range' i vs.length)).foldl (fun a v => addValue g (p + v.2) v.1 a) a := by
  induction vs generalizing i a with
  | nil => rfl
  | cons v vs ih => exact ih (i + 1) (addValue g (p + i) v a)

/-- A PRB's values are a run from the first accumulator of the PRB on. -/
theorem addPrb_eq_addRun (g : Int) (prb : Nat) {vs : List Int} (acc : Sparse Int) (hl : vs.length = 24) :
    addPrb g prb vs acc = addRun g (24 * prb) vs (acc, 0) := by
  have run := addRun_eq_foldl g (24 * prb) vs 0 (acc, 0)
  rw [hl, ← List.range_eq_range'] at run
  simp only [addPrb, clampInt_eq_clamp24]
  exact run.symm

theorem addValue_swf {g : Int} {k : Nat} {v : Int} {a : Sparse Int × Nat} (h : swf (fun _ => 0) a.1 = true) :
    swf (fun _ => 0) (addValue g k v a).1 = true := swf_sset h

theorem sget_addValue_same {g : Int} {k : Nat} {v : Int} {a : Sparse Int × Nat} (h : swf (fun _ => 0) a.1 = true) :
    sget (fun _ => 0) (addValue g k v a).1 k = clampedSum g a.1 k v := sget_sset_same h k _

theorem sget_addValue_ne {g : Int} {k q : Nat} {v : Int} {a : Sparse Int × Nat} (h : swf (fun _ => 0) a.1 = true) (hq : q ≠ k) :
    sget (fun _ => 0) (addValue g k v a).1 q = sget (fun _ => 0) a.1 q := sget_sset_ne h _ hq

/-- A value is counted as clipped where it does not fit. -/
theorem addValue_clips (g : Int) (k : Nat) (v : Int) (a : Sparse Int × Nat) :
    (SumFits g a.1 k v ∧ (addValue g k v a).2 = a.2) ∨ (¬ SumFits g a.1 k v ∧ (addValue g k v a).2 = a.2 + 1) := by
  simp only [addValue, SumFits, beq_iff_eq]
  split
  · next fit => exact .inl ⟨fit, rfl⟩
  · next clip => exact .inr ⟨clip, rfl⟩

theorem addRun_swf {g : Int} {b : Nat} {vs : List Int} {a : Sparse Int × Nat} (h : swf (fun _ => 0) a.1 = true) :
    swf (fun _ => 0) (addRun g b vs a).1 = true := by
  induction vs generalizing b a with
  | nil => exact h
  | cons v vs ih => exact ih (addValue_swf h)

/-- A run leaves the accumulators outside it. -/
theorem sget_addRun_outside {g : Int} {b k : Nat} {vs : List Int} {a : Sparse Int × Nat} (h : swf (fun _ => 0) a.1 = true)
    (hk : k < b ∨ b + vs.length ≤ k) : sget (fun _ => 0) (addRun g b vs a).1 k = sget (fun _ => 0) a.1 k := by
  induction vs generalizing b a with
  | nil => rfl
  | cons v vs ih =>
    rw [List.length_cons] at hk
    exact (ih (addValue_swf h) (by omega)).trans (sget_addValue_ne h (by omega))

/-- Each accumulator of a run becomes the clamp of its sum. -/
theorem sget_addRun_inside {g : Int} {b j : Nat} {vs : List Int} {a : Sparse Int × Nat} (h : swf (fun _ => 0) a.1 = true)
    (hj : j < vs.length) : sget (fun _ => 0) (addRun g b vs a).1 (b + j) = clampedSum g a.1 (b + j) (vs.getD j 0) := by
  induction vs generalizing b j a with
  | nil => exact absurd hj (Nat.not_lt_zero j)
  | cons v vs ih =>
    cases j with
    | zero => exact (sget_addRun_outside (addValue_swf h) (.inl (Nat.lt_succ_self b))).trans (sget_addValue_same h)
    | succ j =>
      have tail := ih (b := b + 1) (addValue_swf (g := g) (k := b) (v := v) h) (Nat.lt_of_succ_lt_succ hj)
      rw [Nat.add_right_comm, Nat.add_assoc, clampedSum, sget_addValue_ne h (by omega)] at tail
      exact tail

/-- A run counts a clip exactly where some value of it does not fit. -/
theorem addRun_clips {g : Int} {b : Nat} {vs : List Int} {a : Sparse Int × Nat} (h : swf (fun _ => 0) a.1 = true) :
    a.2 ≤ (addRun g b vs a).2 ∧ ((addRun g b vs a).2 = a.2 ↔ ∀ j, j < vs.length → SumFits g a.1 (b + j) (vs.getD j 0)) := by
  induction vs generalizing b a with
  | nil => exact ⟨Nat.le_refl _, fun _ j hj => absurd hj (Nat.not_lt_zero j), fun _ => rfl⟩
  | cons v vs ih =>
    obtain ⟨grows, fits⟩ := ih (b := b + 1) (addValue_swf (g := g) (k := b) (v := v) h)
    have tail (j : Nat) : SumFits g (addValue g b v a).1 (b + 1 + j) (vs.getD j 0) ↔ SumFits g a.1 (b + (j + 1)) ((v :: vs).getD (j + 1) 0) := by
      simp only [SumFits, clampedSum]
      rw [sget_addValue_ne h (by omega), Nat.add_right_comm, Nat.add_assoc, List.getD_cons_succ]
    simp only [tail] at fits
    have firstAndRest : (∀ j, j < (v :: vs).length → SumFits g a.1 (b + j) ((v :: vs).getD j 0)) ↔
        SumFits g a.1 b v ∧ ∀ j, j < vs.length → SumFits g a.1 (b + (j + 1)) ((v :: vs).getD (j + 1) 0) :=
      Nat.forall_lt_succ_left
    rw [firstAndRest, ← fits, addRun]
    obtain ⟨fit, same⟩ | ⟨clip, more⟩ := addValue_clips g b v a
    · rw [same] at grows ⊢
      exact ⟨grows, fun e => ⟨fit, e⟩, fun e => e.2⟩
    · rw [more] at grows
      exact ⟨by omega, fun e => absurd e (by omega), fun e => absurd e.1 clip⟩

/-! ### What an addition that clips nothing adds to each accumulator -/

/-- The share of accumulator k in a run of values from accumulator b on. -/
def runShare (g : Int) (b : Nat) (vs : List Int) (k : Nat) : Int := if b ≤ k then weighted g (vs.getD (k - b) 0) else 0

theorem runShare_nil (g : Int) (b k : Nat) : runShare g b [] k = 0 := by
  simp only [runShare, List.getD_nil, weighted_zero, ite_self]

/-- A run that clips nothing adds its shares. -/
theorem sget_addRun_unclipped {g : Int} {b : Nat} {vs : List Int} {a : Sparse Int × Nat} (h : swf (fun _ => 0) a.1 = true)
    (clips : (addRun g b vs a).2 = a.2) (k : Nat) :
    sget (fun _ => 0) (addRun g b vs a).1 k = sget (fun _ => 0) a.1 k + runShare g b vs k := by
  have fits := (addRun_clips h).2.1 clips
  by_cases inside : b ≤ k ∧ k < b + vs.length
  · obtain ⟨j, rfl⟩ := Nat.exists_eq_add_of_le inside.1
    have hj : j < vs.length := by omega
    rw [sget_addRun_inside h hj, fits j hj, runShare, if_pos inside.1, Nat.add_sub_cancel_left]
  · have zero : runShare g b vs k = 0 := by
      rw [runShare]
      split
      · next below => rw [List.getD_eq_getElem?_getD, List.getElem?_eq_none (by omega), Option.getD_none, weighted_zero]
      · rfl
    rw [sget_addRun_outside h (by omega), zero, Int.add_zero]

/-! ### Sections -/

/-- A PRB holds 24 values. -/
theorem prbValues_length {e : PlSect} {d : List Byte} {p : Nat} {vs : List Int} (h : prbValues e d p = some vs) : vs.length = 24 := by
  simp only [prbValues] at h
  split at h
  · split at h
    · cases h
    · cases h; simp only [List.length_map, List.length_range]
  · cases h; simp only [List.length_map, List.length_range]

/-- Adds PRB i of a section to the accumulators and the counts of `addSection`. -/
def addNth (g : Int) (e : PlSect) (d : List Byte) (a : Sparse Int × Nat × Nat × Nat) (i : Nat) : Sparse Int × Nat × Nat × Nat :=
  match prbValues e d (e.data + i * e.prbBytes) with
  | none => (a.1, a.2.1, a.2.2.1 + 1, a.2.2.2)
  | some vs => let r := addPrb g (e.first + i) vs a.1; (r.1, a.2.1 + 1, a.2.2.1, a.2.2.2 + r.2)

theorem addSection_eq_foldl (g : Int) (e : PlSect) (d : List Byte) (acc : Sparse Int) :
    addSection g e d acc = (List.range e.num).foldl (addNth g e d) (acc, 0, 0, 0) := rfl

/-- The share of accumulator k in PRB i of a section: nothing where the PRB is illegal (R317). -/
def nthShare (g : Int) (e : PlSect) (d : List Byte) (k i : Nat) : Int :=
  runShare g (24 * (e.first + i)) ((prbValues e d (e.data + i * e.prbBytes)).getD []) k

/-- The share of accumulator k in a section. -/
def sectionShare (g : Int) (e : PlSect) (d : List Byte) (k : Nat) : Int := ((List.range e.num).map (nthShare g e d k)).sum

theorem addNth_swf {g : Int} {e : PlSect} {d : List Byte} {a : Sparse Int × Nat × Nat × Nat} {i : Nat} (h : swf (fun _ => 0) a.1 = true) :
    swf (fun _ => 0) (addNth g e d a i).1 = true := by
  simp only [addNth]
  split
  · exact h
  · next vs hv =>
    rw [addPrb_eq_addRun g _ _ (prbValues_length hv)]
    exact addRun_swf h

/-- A PRB that clips nothing adds its shares, and nothing was clipped before it. -/
theorem addNth_unclipped {g : Int} {e : PlSect} {d : List Byte} {a : Sparse Int × Nat × Nat × Nat} {i : Nat} (h : swf (fun _ => 0) a.1 = true)
    (clips : (addNth g e d a i).2.2.2 = 0) :
    a.2.2.2 = 0 ∧ ∀ k, sget (fun _ => 0) (addNth g e d a i).1 k = sget (fun _ => 0) a.1 k + nthShare g e d k i := by
  simp only [addNth] at clips ⊢
  split at clips
  · next illegal =>
    refine ⟨clips, fun k => ?_⟩
    rw [nthShare, illegal, Option.getD_none, runShare_nil, Int.add_zero]
  · next vs legal =>
    rw [addPrb_eq_addRun g _ _ (prbValues_length legal)] at clips ⊢
    refine ⟨Nat.eq_zero_of_add_eq_zero_right clips, fun k => ?_⟩
    rw [sget_addRun_unclipped h (Nat.eq_zero_of_add_eq_zero_left clips), nthShare, legal, Option.getD_some]

/-- PRBs that clip nothing add their shares, and nothing was clipped before them. -/
theorem foldl_addNth_unclipped {g : Int} {e : PlSect} {d : List Byte} {l : List Nat} {a : Sparse Int × Nat × Nat × Nat}
    (h : swf (fun _ => 0) a.1 = true) (clips : (l.foldl (addNth g e d) a).2.2.2 = 0) :
    a.2.2.2 = 0 ∧ ∀ k, sget (fun _ => 0) (l.foldl (addNth g e d) a).1 k = sget (fun _ => 0) a.1 k + (l.map (nthShare g e d k)).sum := by
  induction l generalizing a with
  | nil => exact ⟨clips, fun k => (Int.add_zero _).symm⟩
  | cons i l ih =>
    obtain ⟨first, rest⟩ := ih (addNth_swf h) clips
    obtain ⟨before, one⟩ := addNth_unclipped h first
    refine ⟨before, fun k => ?_⟩
    rw [List.foldl_cons, rest, one, List.map_cons, List.sum_cons, Int.add_assoc]

theorem addSection_swf {g : Int} {e : PlSect} {d : List Byte} {acc : Sparse Int} (h : swf (fun _ => 0) acc = true) :
    swf (fun _ => 0) (addSection g e d acc).1 = true := by
  rw [addSection_eq_foldl]
  exact List.foldlRecOn (motive := fun a => swf (fun _ => 0) a.1 = true) (b := (acc, 0, 0, 0)) _ _ h fun _ ha _ _ => addNth_swf ha

/-- A section that clips nothing adds its shares, whatever the accumulators hold. -/
theorem sget_addSection_unclipped {g : Int} {e : PlSect} {d : List Byte} {acc : Sparse Int} (h : swf (fun _ => 0) acc = true)
    (clips : (addSection g e d acc).2.2.2 = 0) (k : Nat) :
    sget (fun _ => 0) (addSection g e d acc).1 k = sget (fun _ => 0) acc k + sectionShare g e d k :=
  (foldl_addNth_unclipped h clips).2 k

/-- Settles O25: a PRB is a run of 24 values, which `sget_addRun_inside`, `sget_addRun_outside` and `addRun_clips` describe; of two sections that
clip nothing, each adds its share (`sget_addSection_unclipped`), in either order. -/
theorem combining : Obligations.Combining := by
  unfold Obligations.Combining
  constructor
  · intro g prb vs acc h hl
    simp only [addPrb_eq_addRun g prb acc hl]
    refine ⟨fun k hk => sget_addRun_inside h (hl ▸ hk), fun k hk => sget_addRun_outside h (hl ▸ hk), ?_⟩
    rw [← hl]
    exact (addRun_clips h).2
  · intro g h e f d q acc hw a ab b ba ha hab hb hba k
    calc sget (fun _ => 0) ab.1 k
        = sget (fun _ => 0) acc k + sectionShare g e d k + sectionShare h f q k := by
          rw [sget_addSection_unclipped (addSection_swf hw) hab, sget_addSection_unclipped hw ha]
      _ = sget (fun _ => 0) acc k + sectionShare h f q k + sectionShare g e d k := Int.add_right_comm _ _ _
      _ = sget (fun _ => 0) ba.1 k := by
          rw [sget_addSection_unclipped (addSection_swf hw) hba, sget_addSection_unclipped hw hb]

end Sys2Proof.Machine
